-- ==== Sys2Proof/Word.lean ====
section
/-! DEFINITION. The word types of the 9152: registers are 32 bits, pointers 64, instruction words 96 (R57, R53, R106). -/
namespace Sys2Proof

/-- A byte of storage. -/
abbrev Byte := BitVec 8
/-- A register word (R57). -/
abbrev W32 := BitVec 32
/-- A pointer or a register pair (R53, R58). -/
abbrev W64 := BitVec 64
/-- An instruction word of three parcels (R106). -/
abbrev W96 := BitVec 96

end Sys2Proof
end

