-- ==== Sys2Proof/Syntax.lean ====
section
/-! DEFINITION. The instructions: one constructor per row of spec/opcode_table.json. Rows 0 to 132 are instruction
words of 96 bits (R106, R109): each constructor carries the decoded fields of its form (R118 to R124). Rows 133 to 282
are the part's other steps, each an operation of its own: each constructor carries what names the step's objects and
every choice that the spec leaves open (log entry 8). -/
namespace Sys2Proof

/-- The register files that a TIER field selects (R114). -/
inductive Tier where
  | v | o | h | s
deriving DecidableEq, Repr

/-- An operand field (R114): a register with its source modifiers, or a channel. -/
inductive Opnd where
  | reg (tier : Tier) (smod : BitVec 3) (idx : BitVec 8)
  | chan (peek : Bool) (ch : BitVec 4)
deriving DecidableEq, Repr

/-- The operand field of all zeros, which an unused field holds (R7, R117). -/
def Opnd.zero : Opnd := .reg .v 0 0

/-- The fields that all forms share but for OP and the operands (R109). -/
structure Common where
  mod : BitVec 4
  j : Bool
  u : Bool
  pneg : Bool
  prd : BitVec 3
deriving DecidableEq, Repr

/-- Form L (R118). -/
structure FormL where
  com : Common
  d : Opnd
  a : Opnd
  b : Opnd
  c : Opnd
  fn : BitVec 12
  ty2 : BitVec 4
  ty : BitVec 4
deriving DecidableEq, Repr

/-- Form I (R120): B holds the type, and IMM merges C and X. -/
structure FormI where
  com : Common
  d : Opnd
  a : Opnd
  ty : BitVec 4
  imm : BitVec 34
deriving DecidableEq, Repr

/-- Form M (R121, R122). -/
structure FormM where
  com : Common
  d : Opnd
  a : Opnd
  b : Opnd
  nt : Bool
  io : Bool
  scope : BitVec 3
  ord : BitVec 2
  sph : BitVec 2
  sgn : Bool
  sz : BitVec 3
  off : BitVec 20
deriving DecidableEq, Repr

/-- Form K (R123). -/
structure FormK where
  com : Common
  d : Opnd
  a : Opnd
  b : Opnd
  kind : BitVec 2
  off : BitVec 32
deriving DecidableEq, Repr

/-- Form E (R124). -/
structure FormE where
  com : Common
  d : Opnd
  a : Opnd
  b : Opnd
  c : Opnd
  eimm : BitVec 15
  rel : Bool
  acq : Bool
  scope : BitVec 3
deriving DecidableEq, Repr

/-- An update directed to a pre-empted workgroup (R51). -/
inductive ImageUpd where
  /-- An arrival of n at a barrier, from an IAT entry or a cluster member. -/
  | arrive (bid n : Nat)
  /-- A byte count tagged with a generation; out selects OUTB. -/
  | bytes (bid tag : Nat) (out : Bool) (amount : Nat)
  /-- Bytes written at a scratchpad offset of a window, by a copy or a cluster member. -/
  | store (win off : Nat) (bs : List Byte)
  /-- A completion counter in the scratchpad. -/
  | count (win off : Nat) (v : W64)
deriving DecidableEq, Repr

/-- A message of an endpoint's upstream write or read (R382, R328). -/
structure DmaReq where
  rid : Nat
  port : Nat
  pasid : Option Nat
  translated : Bool
  addr : Nat
  bytes : List Byte
  poisoned : Bool
  selIde : Bool
deriving DecidableEq, Repr

/-- What a peer device asks of this device's window (R418, R446). -/
inductive PeerOp where
  | load (n : Nat)
  | store (bs : List Byte)
  | atom (ret : Bool) (mod : BitVec 3) (sgn : Bool) (sz : BitVec 3) (b cmp : W64)
  | reds (mod : BitVec 3) (sgn : Bool) (sz : BitVec 3) (idx : W32) (b : W64)
  | count (v : W64)
deriving DecidableEq, Repr

/-- How a peer device answers a space-6 access of this device (R332, R446). -/
inductive PeerAns where
  | ok (data : List Byte) (flags : BitVec 5)
  | noWindow
  | noPerm
  | invalid (leaf : Bool)
  | poison
  /-- A contribution that the cell's home rejects: its core holds it and sends it again (R201). -/
  | retry
deriving DecidableEq, Repr

/-- What a write to the arrival window carries (R392). -/
structure Msi where
  rid : Nat
  port : Nat
  off : Nat
  len : Nat
  data : W32
deriving DecidableEq, Repr

/-- How the kernel controls a hardware queue (R335, R346). -/
inductive QueueCtl where
  | create (base : Nat) (log2depth prio ten pasid qsb : Nat)
  | destroy
  | disable
  | stop
  | restart
deriving DecidableEq, Repr

/-- An access of a system-core hart (R326): a load, a store, an atomic, a load-reserved, a store-conditional or a fence. -/
inductive HartOp where
  | load (n : Nat)
  | store (bs : List Byte)
  | amo (mod : BitVec 3) (sgn : Bool) (sz : BitVec 3) (b cmp : W64)
  | lr (n : Nat)
  | sc (bs : List Byte)
  | fence
deriving DecidableEq, Repr

/-- The access with its hart, the VMID of the guest that the hart runs, none for the kernel, and the physical address (R405,
R406). -/
structure HartAcc where
  hart : Nat
  guest : Option Nat
  pa : Nat
  op : HartOp
deriving DecidableEq, Repr

/-- Who asks a home for a line: a die or the hub's cache complex, or a hart for an access of its own (R318, R326). -/
inductive Asker where
  | agent (n : Nat)
  | hart (acc : HartAcc)
deriving DecidableEq, Repr

/-- An offset in a window of the external host, with the number of its BAR (R380, R416). -/
structure BarAt where
  bar : Nat
  off : Nat
deriving DecidableEq, Repr

/-- The first command of a key in the dispatch slots of a QFE core (R343, R466). -/
structure SlotAt where
  core : Nat
  key : Nat
deriving DecidableEq, Repr

/-- What the device at the other end of a link offers as it trains, with what the kernel programs for it (R381, R386): the bridge
window of a PCI Express device or of one with CXL.cache; for a Type 3 memory device, the CXL range with the links that it is
interleaved over and this link's place among them. -/
inductive LinkOffer where
  | pcie (base size : Nat)
  | cache (base size : Nat)
  | mem (base size ways pos : Nat)
deriving DecidableEq, Repr

/-- The way a root port fails (R469). -/
inductive PortErr where
  | correctable
  | loadFails (pend : Nat)
  | poisonedWrite (req : DmaReq)
  | fatal
deriving DecidableEq, Repr

/-- A structure that an ECC error strikes (R459), with its place. -/
inductive EccAt where
  | register (wg grp tier idx lane : Nat)
  | control (core : Nat) (wg : Nat) (id : Nat)
  | scratch (core off : Nat)
  | barrier (wg bid : Nat)
  | accRow (core row : Nat)
  | plane (core arr : Nat) (live : Bool)
  | l1 (core line : Nat)
  | icache (core block : Nat)
  | l2data (agent pa : Nat)
  | l2tag (agent line : Nat)
  | hbm (pa : Nat)
  | master (die pa : Nat)
deriving DecidableEq, Repr

/-- The kinds of structure that a spare replaces (R484). -/
inductive SpareKind where
  | core | hart | l2way | row | channel | lane
deriving DecidableEq, Repr

/-- One constructor per row of spec/opcode_table.json: the table's order, with the rows that only the outside
world causes put last (Lean compiles code that builds one of the first 245 constructors only). -/
inductive Instr where
  /-- MOV (R140). Copies the source register or pair to the destination in each active lane, or once for the group under U = 1. -/
  | mov (w : FormL)
  /-- MOVI (R140). Writes the form-I immediate, as the bit pattern of its type, to the destination. -/
  | movi (w : FormI)
  /-- MOVS (R141). Reads a special register into the destination. -/
  | movs (w : FormL)
  /-- SSET (R141). Writes a writable special register (fstat or a trap register) in each executing lane. -/
  | sset (w : FormL)
  /-- MOVG (R142). Moves the value of the first active lane, or of a named lane, into an s register. -/
  | movg (w : FormL)
  /-- IADD (R143). Integer add in form L, wrapping or saturating. -/
  | iadd (w : FormL)
  /-- IADD_IMM (R143). Integer add with an immediate in form I. -/
  | iaddImm (w : FormI)
  /-- ISUB (R143). Integer subtract in form L. -/
  | isub (w : FormL)
  /-- ISUB_IMM (R143). Integer subtract with an immediate in form I. -/
  | isubImm (w : FormI)
  /-- IMUL (R143). Integer multiply keeping the low w bits, in form L. -/
  | imul (w : FormL)
  /-- IMUL_IMM (R143). Integer multiply by an immediate in form I. -/
  | imulImm (w : FormI)
  /-- IMULH (R143). Writes the high half of the exact integer product. -/
  | imulh (w : FormL)
  /-- IMAD (R143). Integer multiply-add keeping the low w bits. -/
  | imad (w : FormL)
  /-- IDIV (R144). Integer division truncating towards zero, with defined results for a zero divisor and for overflow. -/
  | idiv (w : FormL)
  /-- IREM (R144). Integer remainder with the sign of the dividend, with defined results for the special cases. -/
  | irem (w : FormL)
  /-- IMIN (R143). Integer minimum, signed or unsigned by type. -/
  | imin (w : FormL)
  /-- IMAX (R143). Integer maximum, signed or unsigned by type. -/
  | imax (w : FormL)
  /-- IABS (R143). Integer absolute value, wrapping or saturating. -/
  | iabs (w : FormL)
  /-- INEG (R143). Integer negation, wrapping or saturating. -/
  | ineg (w : FormL)
  /-- AND (R145). Bitwise AND in form L. -/
  | and (w : FormL)
  /-- AND_IMM (R145). Bitwise AND with an immediate in form I. -/
  | andImm (w : FormI)
  /-- OR (R145). Bitwise OR in form L. -/
  | or (w : FormL)
  /-- OR_IMM (R145). Bitwise OR with an immediate in form I. -/
  | orImm (w : FormI)
  /-- XOR (R145). Bitwise XOR in form L. -/
  | xor (w : FormL)
  /-- XOR_IMM (R145). Bitwise XOR with an immediate in form I. -/
  | xorImm (w : FormI)
  /-- ANDN (R145). Bitwise a AND NOT b. -/
  | andn (w : FormL)
  /-- NOT (R145). Bitwise complement. -/
  | not (w : FormL)
  /-- SHL (R146). Logical left shift by a register amount. -/
  | shl (w : FormL)
  /-- SHL_IMM (R146). Logical left shift by an immediate amount. -/
  | shlImm (w : FormI)
  /-- SHR (R146). Logical right shift by a register amount. -/
  | shr (w : FormL)
  /-- SHR_IMM (R146). Logical right shift by an immediate amount. -/
  | shrImm (w : FormI)
  /-- SAR (R146). Arithmetic right shift by a register amount. -/
  | sar (w : FormL)
  /-- SAR_IMM (R146). Arithmetic right shift by an immediate amount. -/
  | sarImm (w : FormI)
  /-- ROTL (R146). Left rotate by a register amount modulo w. -/
  | rotl (w : FormL)
  /-- ROTL_IMM (R146). Left rotate by an immediate amount modulo w. -/
  | rotlImm (w : FormI)
  /-- POPC (R147). Counts the one bits of the source. -/
  | popc (w : FormL)
  /-- CLZ (R147). Counts the leading zeros, giving w for zero. -/
  | clz (w : FormL)
  /-- CTZ (R147). Counts the trailing zeros, giving w for zero. -/
  | ctz (w : FormL)
  /-- BREV (R147). Reverses the bit order at width w. -/
  | brev (w : FormL)
  /-- BFX (R148). Extracts a bit field by position and length, with sign extension for signed types. -/
  | bfx (w : FormL)
  /-- BFI (R148). Inserts a bit field into the source. -/
  | bfi (w : FormL)
  /-- SEL (R149). Selects a or b by a predicate, or by a condition under U = 1. -/
  | sel (w : FormL)
  /-- ICMP (R150). Integer compare in form L that writes a predicate or a condition. -/
  | icmp (w : FormL)
  /-- ICMP_IMM (R150). Integer compare against an immediate in form I. -/
  | icmpImm (w : FormI)
  /-- PLOG (R151). Computes any function of three predicates from an 8-entry table. -/
  | plog (w : FormL)
  /-- LEA (R152). Forms a 64-bit address without checking it, keeping the space tag under KT. -/
  | lea (w : FormL)
  /-- PTAG (R153). Converts a private or own-scratchpad pointer into a pointer that other lanes and engines can use. -/
  | ptag (w : FormL)
  /-- QXCH (R154). Exchanges values between the lanes of each quad by a fixed pattern. -/
  | qxch (w : FormL)
  /-- SHFL (R155). Reads a value from a lane chosen by each lane's index. -/
  | shfl (w : FormL)
  /-- VOTE (R156). Combines a predicate over the split's active non-helper lanes as any, all or ballot. -/
  | vote (w : FormL)
  /-- SCAN (R158). Forms an inclusive or exclusive prefix over the split's active non-helper lanes. -/
  | scan (w : FormL)
  /-- GRED (R159). Reduces a value over the split's active non-helper lanes. -/
  | gred (w : FormL)
  /-- FADD (R168). Floating-point add, rounded once, in form L. -/
  | fadd (w : FormL)
  /-- FADD_IMM (R168). Floating-point add of an immediate in form I. -/
  | faddImm (w : FormI)
  /-- FSUB (R168). Floating-point subtract. -/
  | fsub (w : FormL)
  /-- FMUL (R168). Floating-point multiply in form L. -/
  | fmul (w : FormL)
  /-- FMUL_IMM (R168). Floating-point multiply by an immediate in form I. -/
  | fmulImm (w : FormI)
  /-- FFMA (R168). Fused multiply-add, rounded once. -/
  | ffma (w : FormL)
  /-- FMIN (R169). IEEE minimumNumber. -/
  | fmin (w : FormL)
  /-- FMAX (R169). IEEE maximumNumber. -/
  | fmax (w : FormL)
  /-- FCMP (R170). Floating-point compare that writes a predicate or a condition. -/
  | fcmp (w : FormL)
  /-- FCLASS (R171). Writes a one-hot mask of the source's class. -/
  | fclass (w : FormL)
  /-- FDIV (R172). Correctly rounded division with the IEEE special cases. -/
  | fdiv (w : FormL)
  /-- FSQRT (R172). Correctly rounded square root. -/
  | fsqrt (w : FormL)
  /-- FRCP (R176). Reciprocal within 1 ULP, exact for powers of two. -/
  | frcp (w : FormL)
  /-- FRSQ (R176). Reciprocal square root within 1 ULP. -/
  | frsq (w : FormL)
  /-- FRND (R173). Rounds to an integral value in the source's own format. -/
  | frnd (w : FormL)
  /-- FLDX (R174). Multiplies by 2 to the power of an integer, rounded. -/
  | fldx (w : FormL)
  /-- CVT (R179). Converts between integer and binary floating-point types. -/
  | cvt (w : FormL)
  /-- CVTM (R180). Converts one element per lane into one M8 or M4 scale block, writes the scale to an s register and counts statistics. -/
  | cvtm (w : FormL)
  /-- CVTX (R181). Decodes an M8 or M4 element with its scale byte into a binary format. -/
  | cvtx (w : FormL)
  /-- FPACK (R182). Packs narrow elements from neighbouring lanes into words. -/
  | fpack (w : FormL)
  /-- FUNPK (R182). Unpacks one narrow element per lane from a packed word. -/
  | funpk (w : FormL)
  /-- FEXP2 (R176). Base-2 exponential within 2 ULP. -/
  | fexp2 (w : FormL)
  /-- FLOG2 (R176). Base-2 logarithm within 2 ULP. -/
  | flog2 (w : FormL)
  /-- FTANH (R176). Hyperbolic tangent within 2 ULP. -/
  | ftanh (w : FormL)
  /-- FRRED (R177). Reduces an angle in radians to turns, exactly to 40 fraction bits. -/
  | frred (w : FormL)
  /-- FSIN (R178). Sine of an angle in turns within 1 ULP. -/
  | fsin (w : FormL)
  /-- FCOS (R178). Cosine of an angle in turns within 1 ULP. -/
  | fcos (w : FormL)
  /-- LD (R188). Loads 1 to 16 bytes per lane, with an optional acquire. -/
  | ld (w : FormM)
  /-- ST (R189). Stores 1 to 16 bytes per active non-helper lane, with an optional release. -/
  | st (w : FormM)
  /-- PFCH (R191). Prefetches a line into L1 or L2, with no architectural effect. -/
  | pfch (w : FormM)
  /-- CFLS (R192). Writes a dirty line back to its memory device with a visibility time. -/
  | cfls (w : FormM)
  /-- CINV (R192). Discards the issuing core's L1 copy of a line and its lease. -/
  | cinv (w : FormM)
  /-- ICINV (R193). Marks a code block stale in every instruction cache and loop buffer of the package. -/
  | icinv (w : FormM)
  /-- CSYNC (R194). Discards fetched words and waits until the split's icinv visibility times have passed. -/
  | csync (w : FormL)
  /-- FENCE (R195). Release and/or acquire fence of the split at a scope. -/
  | fence (w : FormL)
  /-- ATOM (R198). Indivisible read-modify-write that returns the old value, in ascending lane order. -/
  | atom (w : FormM)
  /-- RED (R199). Indivisible read-modify-write without a returned value. -/
  | red (w : FormM)
  /-- REDS (R201). Sends one sequenced contribution per lane to a sequenced cell. -/
  | reds (w : FormM)
  /-- BINIT (R206). Initialises a barrier object with an expected count. -/
  | binit (w : FormE)
  /-- BARR (R207). Arrives at a barrier and writes a token without waiting. -/
  | barr (w : FormE)
  /-- BARW (R207). Arrives at a barrier, writes a token and parks until the phase completes. -/
  | barw (w : FormE)
  /-- BWAIT (R210). Parks until the barrier's generation differs from the token. -/
  | bwait (w : FormE)
  /-- BEXP (R208). Posts an expected inbound or outbound byte count, with an optional arrival. -/
  | bexp (w : FormE)
  /-- BQRY (R210). Reads a whole barrier object into four registers. -/
  | bqry (w : FormE)
  /-- CNTADD (R213). Adds to a completion counter indivisibly at its home, with an optional release. -/
  | cntadd (w : FormE)
  /-- CNTWAIT (R214). Parks until a completion counter reaches a target, then acquires. -/
  | cntwait (w : FormE)
  /-- CHBIND (R216). Binds or unbinds a channel-table entry as a ring, window or mailbox. -/
  | chbind (w : FormE)
  /-- CHSTAT (R219). Writes a snapshot of a channel's status. -/
  | chstat (w : FormL)
  /-- MLDS (R245). Loads an array's shadow plane from scratchpad, after checking it. -/
  | mlds (w : FormE)
  /-- MSWP (R246). Exchanges the live and shadow planes of an array in its command order. -/
  | mswp (w : FormE)
  /-- MMA (R250). Votes a format word and queues quarter operations that multiply A rows by the live plane into accumulator rows. -/
  | mma (w : FormE)
  /-- ACCZ (R253). Zeroes a run of accumulator rows. -/
  | accz (w : FormE)
  /-- MWIN (R256). The leader group sets a group's accumulator window. -/
  | mwin (w : FormL)
  /-- LDACC (R254). Loads accumulator rows from scratchpad. -/
  | ldacc (w : FormE)
  /-- STACC (R254). Stores accumulator rows to scratchpad. -/
  | stacc (w : FormE)
  /-- ACCQ (R255). Quantises accumulator rows into a narrow format in scratchpad. -/
  | accq (w : FormE)
  /-- VSYNC (R294). Synchronises the split with a view range under its policy, then acquires. -/
  | vsync (w : FormE)
  /-- VCHK (R295). Tests view-block freshness per lane into a predicate, then acquires. -/
  | vchk (w : FormE)
  /-- VREQ (R296). Queues a refresh of every master block of a view range. -/
  | vreq (w : FormE)
  /-- BRA (R223). Unconditional branch of the whole split. -/
  | bra (w : FormK)
  /-- BRP (R223). Per-lane predicated branch that may divide the split. -/
  | brp (w : FormK)
  /-- BRC (R223). Branch of the whole split on a condition. -/
  | brc (w : FormK)
  /-- JMP (R223). Per-lane jump to a register target plus an offset. -/
  | jmp (w : FormK)
  /-- CALL (R225). Direct call that writes the return address and raises DEPTH. -/
  | call (w : FormK)
  /-- CALLI (R225). Indirect per-lane call that may divide the split. -/
  | calli (w : FormL)
  /-- RET (R225). Per-lane return that lowers DEPTH. -/
  | ret (w : FormL)
  /-- LOOP (R226). Decrements a per-lane counter and branches back while it is nonzero. -/
  | loop (w : FormK)
  /-- EXIT (R42). Removes the executing lanes from the split and frees an empty split. -/
  | exit (w : FormL)
  /-- NOP (R229). Advances the word index, merging splits when J is set. -/
  | nop (w : FormL)
  /-- SSYNC (R41). Puts the split into waiting until the whole group reaches the same ssync. -/
  | ssync (w : FormL)
  /-- YIELD (R229). Moves the split to the youngest age-matrix position. -/
  | yield (w : FormL)
  /-- SLEEP (R229). Puts the split into waiting for a number of cycles. -/
  | sleep (w : FormL)
  /-- TRAP (R230). Raises the software-trap cause 0x10. -/
  | trap (w : FormL)
  /-- BRK (R230). Raises the breakpoint cause 0x11. -/
  | brk (w : FormL)
  /-- SYSCALL (R232). Releases at .sys and posts a request block to the tenancy's service queue. -/
  | syscall (w : FormL)
  /-- GETLT (R233). Reads the lease clock, or the largest pending visibility time, into a pair. -/
  | getlt (w : FormL)
  /-- SPAWN (R234). Adds a child node to the ready pool with a share of the termination weight. -/
  | spawn (w : FormE)
  /-- DBELL (R235). Reads a window's POS and hands a doorbell entry to the Mirror proxy. -/
  | dbell (w : FormE)
  /-- CPY (R267). Checks a copy descriptor and starts a streamer copy. -/
  | cpy (w : FormE)
  /-- CPYR (R269). Starts a streamer copy that reduces the source into the destination through a staging area. -/
  | cpyr (w : FormE)
  /-- CPYG (R266). Starts a streamer gather copy whose rows come from an index list. -/
  | cpyg (w : FormE)
  /-- ROTATION (R44). The rotation counter reaches 16,384 and swaps the oldest split of the table with the front of the spill area. -/
  | rotation (wg grp : Nat)
  /-- IMMEDIATE_SWAP (R44). While every split of the table is parked or waiting and spilled splits exist, one swap is made per cycle. -/
  | immediateSwap (wg grp : Nat)
  /-- SLEEP_EXPIRES (R229). A sleeping split's count reaches zero, and the split becomes ready. -/
  | sleepExpires (wg grp : Nat) (spilled : Bool) (pos : Nat)
  /-- LEASE_CLOCK_TICK (R311). A die's lease clock advances by one tick every 32 cycles. -/
  | leaseClockTick (die : Nat)
  /-- RELEASE_WAIT_ENDS (R314). Every visibility time and space-6 acknowledgement that a release awaits has arrived, and the split proceeds. -/
  | releaseWaitEnds (wg grp pos : Nat)
  /-- GROUP_RETIRE (R228). A group with no splits left retires once its stores are visible, and frees its resources when the workgroup has retired. -/
  | groupRetire (wg grp : Nat)
  /-- TRAP_ENTRY (R424). After 12 cycles the trapping split becomes ready at the handler's word index. -/
  | trapEntry (wg grp pos : Nat)
  /-- ABORT_REPORT (R431). The QFE receives an abort report, stops the grid, discards images and completes the node with status 0x7. -/
  | abortReport (wg cause sub : Nat)
  /-- STALL_DETECTED (R47). A grid's park limit expires while every resident split is parked and work is undispatched. -/
  | stallDetected (grid : Nat)
  /-- PREEMPT_REQUEST (R49). A steward requests pre-emption, and the workgroup's cores stop issuing its groups. -/
  | preemptRequest (wg : Nat)
  /-- PREEMPT_HALT (R49). Every split reaches an instruction boundary, and copies are drained or marked for replay. -/
  | preemptHalt (wg : Nat)
  /-- MEMORY_OP_ABANDON (R439). Twelve thousand cycles after the request, unperformed loads, atomics and fetches are abandoned. -/
  | memoryOpAbandon (wg grp pos : Nat)
  /-- CONTEXT_SAVE (R49). Once visibility times and acknowledgements have passed, the steward writes the context image. -/
  | contextSave (wg : Nat)
  /-- IMAGE_UPDATE (R51). An update directed to a pre-empted workgroup is applied atomically to its image at the L2 home. -/
  | imageUpdate (wg : Nat) (upd : ImageUpd)
  /-- RESTORE (R52). A region restores a pre-empted workgroup or cluster from its image. -/
  | restore (region wg : Nat)
  /-- PLACER_ACTS (R359). A region placer restores, places the head, or back-fills clusters. -/
  | placerActs (region : Nat) (ctxs : List Nat)
  /-- HEAD_AGE_RESERVE (R360). The head's age reaches 2^20 cycles, and the region with the most idle cores becomes reserved. -/
  | headAgeReserve (ten : Nat)
  /-- GROUP_CREATE (R361). A placed member's groups are created and loaded with their initial registers. -/
  | groupCreate (wg grp : Nat)
  /-- QUEUE_DOORBELL (R337). A write to a hardware queue's doorbell register makes packets up to the rung value available. -/
  | queueDoorbell (q : Nat) (v : W64)
  /-- SIGNAL (R340). A SIGNAL packet adds to, or stores, a counter as a release at .sys. -/
  | signal (q : Nat)
  /-- WAIT (R340). A WAIT packet stops the queue's parsing until a counter reaches its target. -/
  | wait (q : Nat)
  /-- WAIT_MET (R340). A round's test finds the WAIT's counter met; the QFE acquires and the queue goes on. -/
  | waitMet (q : Nat)
  /-- NOP_PACKET (R340). A NOP packet is taken with no effect. -/
  | nopPacket (q : Nat)
  /-- COPY (R341). A COPY packet makes a node of one copy-program sub-launch. -/
  | copy (q num : Nat)
  /-- VIEW (R341). A VIEW packet makes a node of one view-refresh sub-launch. -/
  | view (q num : Nat)
  /-- SPAWN_ROOT (R355). A SPAWN-ROOT packet makes a node that starts a root holding weight 2^32. -/
  | spawnRoot (q num : Nat)
  /-- LAUNCH (R341). A LAUNCH packet makes a node from a bundle of up to four sub-launches. -/
  | launch (q num : Nat)
  /-- PREDECESSORS_RETIRED (R352). A PENDING node's last predecessor retires, and the node moves on. -/
  | predecessorsRetired (node : Nat)
  /-- TILE_OPERANDS_MET (R351). A HELD node's tile operands are all met, and the node becomes READY. -/
  | tileOperandsMet (node : Nat)
  /-- DISPATCH (R353). Every 16 cycles the pool dispatches the highest-priority READY node to its engines. -/
  | dispatch
  /-- NODE_COMPLETE (R354). A node's last sub-launch completes; the node releases, writes its result, signals and retires. -/
  | nodeComplete (node : Nat)
  /-- SEGMENT_COUNT (R267). A copy segment is written or read, and its length is delivered to the barrier as a release. -/
  | segmentCount (id : Nat)
  /-- COPY_COMPLETE (R267). A copy's last element is done; it releases and adds to its counter. -/
  | copyComplete (id : Nat)
  /-- CPYR_CHUNK_APPLY (R269). A staged chunk of a cpyr is applied to the destination, and DONE advances. -/
  | cpyrChunkApply (id : Nat)
  /-- COPY_FAIL (R454). A failing copy stops, writes its fault record, updates its completion target and logs. -/
  | copyFail (id code fspc : Nat) (addr : W64)
  /-- L2_LOAD_REQUEST (R313). The die L2 serves a load request with data and a lease grant. -/
  | l2LoadRequest (die core line : Nat)
  /-- L2_WRITE (R313). The die L2 applies a write and assigns it a visibility time. -/
  | l2Write (id : Nat)
  /-- PRISM_REFRESH_START (R282). A Prism engine takes a queued master block, holds writes and waits for the clock to reach WT. -/
  | prismRefreshStart (die eng : Nat)
  /-- PRISM_SNAPSHOT (R282). The engine snapshots the block, converts and writes each dependent view, and writes the tags. -/
  | prismSnapshot (die eng : Nat)
  /-- VIEW_REGISTER (R277). The view-registration service checks and writes a view descriptor. -/
  | viewRegister (call : Nat)
  /-- VIEW_DEREGISTER (R297). Deregistration ends refreshes, and parked vsync splits trap with code 0x1. -/
  | viewDeregister (call : Nat)
  /-- IAT_ALLOCATE (R411). The service allocates an IAT entry to the tenancy. -/
  | iatAllocate (call entry : Nat)
  /-- IAT_FREE (R411). The service frees an IAT entry. -/
  | iatFree (call : Nat)
  /-- LENS_EVICT (R411). The service requests eviction of a Lens slot. -/
  | lensEvict (call : Nat)
  /-- JOURNAL_QUERY (R412). The service writes a call's journal state, status and result to a reply address. -/
  | journalQuery (call : Nat)
  /-- ATTEST (R413). The service has the Trust Anchor write a signed attestation report for the caller's nonce. -/
  | attest (call : Nat)
  /-- SERVICE_REPLY (R474). A reply command writes RESULT and STATUS, adds to CNTR and marks the record REPLIED. -/
  | serviceReply (call : Nat)
  /-- SYSCALL_RESEND (R232). A request held at the core because the service queue was full is sent again. -/
  | syscallResend (id : Nat)
  /-- COMMIT (R410). The Trust Anchor applies the staged entries, pre-empting, clearing and switching in order. -/
  | commit
  /-- ENDPOINT_DMA_READ (R382). An endpoint's upstream read request is checked for tenancy and PASID and served at the current home, or refused with Unsupported Request, or completed with EP on poison. -/
  | endpointDmaRead (req : DmaReq)
  /-- BAR2_WINDOW_ACCESS (R416). An external host, in endpoint mode, reads or writes the BAR2 window, which returns all ones while closed and reaches HBM once EPWIN is enabled. -/
  | bar2WindowAccess (off : BarAt) (write : Bool) (bs : List Byte)
  /-- SYSTEM_LINE_UNCORRECTABLE (R475). A dirty system-core line fails SECDED, and the monitor terminates a tenancy or restarts the kernel. -/
  | systemLineUncorrectable (pa : Nat) (hashOk : Bool)
  /-- ENDPOINT_DMA_WRITE (R328). An endpoint's posted DMA write, after the tenancy and PASID checks, is performed at its home in receive order. -/
  | endpointDmaWrite (req : DmaReq)
  /-- IAT_BARRIER_ARRIVAL (R395). An accepted MSI-X write to a KIND-0 entry reads the target word and makes a barrier arrival. -/
  | iatBarrierArrival (msi : Msi)
  /-- IAT_COUNTER_ADD (R395). An accepted MSI-X write to a KIND-1 entry adds to a counter as a release at .sys. -/
  | iatCounterAdd (msi : Msi)
  /-- IAT_KERNEL_INTERRUPT (R395). An accepted MSI-X write to a KIND-2 entry raises a kernel interrupt vector. -/
  | iatKernelInterrupt (msi : Msi)
  /-- CORE_PAGE_REQUEST (R445). A core sends a page request for a missing leaf or permission and holds the instruction. -/
  | corePageRequest (core pasid va kind : Nat)
  /-- PAGE_REQUEST_RESEND (R445). After 256 cycles a core resends a page request that found the queue full. -/
  | pageRequestResend (core pasid va kind : Nat)
  /-- PAGE_REQUEST_ANSWER (R445). The kernel answers Success or Invalid, and the held instruction re-runs its checks. -/
  | pageRequestAnswer (endpoint : Bool) (idx : Nat) (ok : Bool)
  /-- ATS_TIMEOUT (R449). A function has not answered within 2^24 cycles; ATSTO is set and logged. -/
  | atsTimeout (rid : Nat)
  /-- COPY_ABANDON (R449). A copy still pinning the range 4,096 cycles into a shootdown is stopped and marked for replay. -/
  | copyAbandon (id : Nat)
  /-- SHOOTDOWN_COMPLETE (R449). The shootdown's steps have ended and BUSY clears. -/
  | shootdownComplete
  /-- MIGRATION_COMPLETE (R451). The data has moved, forwarding is installed, queued accesses are replayed and BUSY clears. -/
  | migrationComplete
  /-- FORWARDING_REMOVED (R452). The forwarding entry is removed once the MIG shootdown is done and no pin remains. -/
  | forwardingRemoved (idx : Nat)
  /-- GETS (R319). The home processes a request for a shared copy. -/
  | gets (agent : Asker) (line : Nat)
  /-- GETM (R319). The home processes a read-exclusive request. -/
  | getm (agent : Asker) (line : Nat)
  /-- UPG (R322). The home processes an upgrade, treating it as GetM when the requester's sharer bit is clear. -/
  | upg (agent line : Nat)
  /-- PUTM (R323). The home processes an M write-back, accepting or discarding it. -/
  | putm (agent line : Nat)
  /-- PUTO (R323). The home processes an O write-back. -/
  | puto (agent line : Nat)
  /-- PUTE (R318). The home processes an E give-up. -/
  | pute (agent line : Nat)
  /-- INV (R321). A sharer invalidates once its leases and writes have passed, and answers InvAck. -/
  | inv (agent line : Nat)
  /-- INVACK (R319). The home collects an invalidation acknowledgement. -/
  | invack (agent line : Nat)
  /-- FWDS (R320). An owner sends data to a requester and keeps an O copy. -/
  | fwds (agent line : Nat)
  /-- FWDM (R320). An owner sends data to a requester and gives up the line. -/
  | fwdm (agent line : Nat)
  /-- DATA (R320). A requester receives line data with a grant and applies its pending writes. -/
  | data (agent line : Nat)
  /-- GRANT (R320). A requester receives write permission for its upgrade. -/
  | grant (agent line : Nat)
  /-- DONE (R319). The home closes a forwarded request on the requester's Done. -/
  | done (agent line : Nat)
  /-- PUTACK (R320). An evicting agent's write-back is accepted, and it goes to I. -/
  | putack (agent line : Nat)
  /-- PUTSTALE (R320). An evicting agent's write-back is superseded, and it goes to I. -/
  | putstale (agent line : Nat)
  /-- HOME_REQUEST_TIMEOUT (R458). A home request open for 2^20 cycles is forced to complete, poisoning lost data and logging. -/
  | homeRequestTimeout (line : Nat)
  /-- OWNERSHIP_TRANSFER (R324). An access from the non-owner's side starts a region transfer and queues arriving accesses. -/
  | ownershipTransfer (region : Nat)
  /-- TRANSFER_COMPLETE (R324). The former side has given up every line; the hub records the new home and replays the queued accesses. -/
  | transferComplete (region : Nat)
  /-- OWNERSHIP_HOLD_EXPIRES (R78). After 4,096 cycles a waiting access from the other side may start the transfer back. -/
  | ownershipHoldExpires (region : Nat)
  /-- SPACE6_ACCESS_ARRIVAL (R446). A space-6 access arrives at the target, which checks its window and performs it at its home. -/
  | space6AccessArrival (src lane off : Nat) (op : PeerOp)
  /-- SPACE6_ACK (R332). The acknowledgement of a space-6 write or atomic reaches the issuing core. -/
  | space6Ack (id : Nat) (ans : PeerAns)
  /-- SPACE6_STORE_LOST (R480). An unacknowledged store to an unreachable device is counted as lost after 2^24 cycles. -/
  | space6StoreLost (id : Nat)
  /-- LENS_PROMOTION (R397). A reference is taken on a Lens slot, starting a fill when the slot is empty. -/
  | lensPromotion (ten slot node : Nat)
  /-- LENS_REFERENCE_DROP (R397). A reference on a slot is dropped, which may evict it. -/
  | lensReferenceDrop (ten slot node : Nat)
  /-- LENS_FILL_COMPLETE (R397). A fill succeeds, and the slot becomes ready. -/
  | lensFillComplete (ten slot : Nat)
  /-- LENS_FILL_FAIL (R472). A fill fails: the replica fill is tried, or holders retire with status 0x6 and the slot is empty. -/
  | lensFillFail (ten slot : Nat)
  /-- LENS_DRAIN_COMPLETE (R397). A drain ends, and the slot becomes empty, or ready when a promotion came meanwhile. -/
  | lensDrainComplete (ten slot : Nat)
  /-- LENS_EVICTION (R397). An eviction request moves a ready slot with no references to draining, or is refused. -/
  | lensEviction (ten slot : Nat)
  /-- DOORBELL_WRITE_OUT (R390). The Mirror proxy writes a doorbell value once its visibility, port and acknowledgement conditions hold. -/
  | doorbellWriteOut (idx : Nat)
  /-- ICINV_ACK (R193). An instruction cache or loop buffer acknowledges the marking of a stale block. -/
  | icinvAck (id cache : Nat)
  /-- REDS_CONTRIBUTION_ARRIVAL (R201). A contribution reaches its cell's home and is applied, held, or dropped as stale. -/
  | redsContributionArrival (id : Nat)
  /-- REDS_RESEND (R201). The core resends a held or rejected contribution when it comes within the window. -/
  | redsResend (id : Nat)
  /-- COMPLETION_WINDOW_RETEST (R388). A parked completion-window pop is tested again on an arrival or every 4,096 cycles. -/
  | completionWindowRetest (wg ch : Nat)
  /-- SUBMISSION_FULL_RETEST (R389). A push parked on a full submission window is tested again on an SQHD store or every 4,096 cycles. -/
  | submissionFullRetest (wg ch : Nat)
  /-- PASS_START (R251). An array forms a pass of fusable quarter operations and starts it. -/
  | passStart (core arr : Nat)
  /-- MMA_RETIRE (R257). An mma's last row is written; its rows free and waiting operations proceed. -/
  | mmaRetire (core op : Nat)
  /-- PLANE_LOAD_COMPLETE (R245). An mlds finishes writing the shadow plane in the array's command order. -/
  | planeLoadComplete (core arr : Nat)
  /-- WATCHDOG_EXPIRY (R465). No kick has come by WMAX, and the watched firmware is restarted. -/
  | watchdogExpiry (w : Nat) (fwError : Bool)
  /-- DISPATCH_SLOT_COMMAND (R466). A dispatch slot completes an accepted command's effects, with its QSB or journal write last. -/
  | dispatchSlotCommand (qc : SlotAt)
  /-- NONDETERMINISTIC_EVENT (R482). The arbiter numbers an event, and in capture writes its record or in replay holds it until its record. -/
  | nondeterministicEvent (die kind src tgt : Nat) (ev : Instr)
  /-- REPLAY_DIVERGENCE (R483). A record unmatched for 2^24 cycles, or an unnamed event, ends replay with DIV. -/
  | replayDivergence (die : Nat)
  /-- SPARE_SUBSTITUTION (R484). A spare takes the place of a worn structure at the time its kind allows. -/
  | spareSubstitution (kind : SpareKind) (unit idx : Nat)
  /-- UNASSIGNED_OPCODE (R125). A split issues a word whose OP is absent from the opcode map and raises cause 0x01 SUB 0x1 with no effect. -/
  | unassignedOpcode (w : W96)
  /-- ACCUMULATOR_OPERATION_RETIRE (R241). An accz, ldacc, stacc or accq writes or reads its last row and retires, freeing its rows and waking instructions waiting with WHY 0xA. -/
  | accumulatorOperationRetire (core op : Nat)
  /-- INELIGIBLE_SPLIT_REQUEUE (R362). A presented split that has been ineligible for 16 consecutive cycles leaves the age matrix for the back of its group's queue, and the next ready split is presented. -/
  | ineligibleSplitRequeue (wg grp pos : Nat)
  /-- LOG_COUNTER_READ_CLEAR (R442). A read of LOST or CECNT returns the counter and clears it. -/
  | logCounterReadClear (unit off : Nat)
  /-- CREATE (R409). The Trust Anchor takes a free tenancy entry and generates its key. -/
  | create (entry key : Nat)
  /-- STAGE (R409). The Trust Anchor records a proposed tenancy entry. -/
  | stage (ten : Nat)
  /-- DESTROY (R409). The Trust Anchor pre-empts, clears and releases a tenancy and erases its key. -/
  | destroy (ten : Nat)
  /-- REPORT (R413). The Trust Anchor writes an attestation report. -/
  | report (ten : Nat)
  /-- FWUPD (R415). The Trust Anchor checks a firmware image and writes it into its slot. -/
  | fwupd (slot : Nat) (image : List Byte) (ver svn : Nat) (sigOk : Bool)
  /-- IDEKEY (R385). The Trust Anchor sets IDE keys and binds a TDISP interface to a tenancy. -/
  | idekey (rid : Option Nat) (port ten : Nat) (run : Bool)
  /-- READ_TELEMETRY (R419). The management port returns temperatures, power and the limit state. -/
  | readTelemetry (temp watts : Nat)
  /-- SET_POWER_LIMIT (R419). The management port sets a power limit from 600 W to 2,800 W. -/
  | setPowerLimit (watts : Nat)
  /-- RECOVERY_LOAD (R419). A recovery load of one slot image arrives over the management port or the endpoint mailbox. -/
  | recoveryLoad (slot : Nat) (image : List Byte) (ver svn : Nat) (sigOk : Bool)
  /-- SET_DEVNUM (R417). The Trust Anchor sets the Effeop device number once per cold reset. -/
  | setDevnum (n : Nat)
  /-- EPWIN_WRITE (R416). A write to EPWIN sets the base of the endpoint BAR2 window and enables it. -/
  | epwinWrite (v : W64)
  /-- PCFG_WRITE (R379). A write to a root port's PCFG sets bifurcation and LOCK unless locked. -/
  | pcfgWrite (port : Nat) (v : W32)
  /-- LINK_TRAINING (R379). A port's links train under the current bifurcation, or as an endpoint when strapped. -/
  | linkTraining (port link : Nat) (badLane : Option Nat) (offer : LinkOffer) (ok : Bool)
  /-- ATS_TRANSLATION_REQUEST (R383). The translation agent answers an ATS Translation Request from the table tree. -/
  | atsTranslationRequest (rid : Nat) (pasid : Option Nat) (va : Nat)
  /-- PAGE_REQUEST_MESSAGE (R384). An endpoint's Page Request Message enters the page-request queue, or is refused beyond its allocation. -/
  | pageRequestMessage (rid pasid va : Nat) (write : Bool)
  /-- SHOOTDOWN_START (R449). A write to the shootdown register drops cached translations and sends ATS invalidations. -/
  | shootdownStart (v : W64)
  /-- ATS_INVALIDATE_COMPLETION (R449). A function answers an ATS Invalidate Request. -/
  | atsInvalidateCompletion (rid : Nat)
  /-- MIGRATION_GO (R451). A write of GO starts a migration, or refuses it with an MSTAT. -/
  | migrationGo (v : W32)
  /-- LINK_RETRY_EXHAUSTED (R458). A package message fails after 64 retries, and its link is marked failed. -/
  | linkRetryExhausted (agent : Nat)
  /-- FLIT_REJECT_REPLAY (R331). A hop rejects a flit, and the sender replays in lane order. -/
  | flitRejectReplay (id : Nat)
  /-- MAILBOX_WORD_ARRIVAL (R218). A word pushed to a peer mailbox arrives at the peer ring's tail. -/
  | mailboxWordArrival (src wg loff : Nat) (word : W32)
  /-- LINK_AUTHENTICATION (R417). The Trust Anchors at both ends of an Effeop link authenticate and agree a key, or the link stays down. -/
  | linkAuthentication (port : Nat) (ok : Bool)
  /-- LANE_RETRAIN (R478). A port retrains with its spare lane in place of a failed one. -/
  | laneRetrain (port lane : Nat)
  /-- PORT_DOWN_REROUTE (R479). A port goes down, and its lanes move to the route's remaining ports after replay. -/
  | portDownReroute (port : Nat)
  /-- ROUTE_LOST (R480). No route to a device remains, and accesses to it fail. -/
  | routeLost (dev : Nat)
  /-- WATCHDOG_KICK (R465). A kick to a watchdog restarts its window, or restarts the firmware when it comes too early. -/
  | watchdogKick (w : Nat)
  /-- ROOT_PORT_ERROR (R469). A root port reports an error, which is counted, poisoned or contained. -/
  | rootPortError (port link rid : Nat) (status : W32) (err : PortErr)
  /-- COMPLETION_TIMEOUT (R469). A lane's MT 1 or 2 load has had no completion for 2^26 cycles and returns poison. -/
  | completionTimeout (port link rid : Nat) (status : W32) (pend : Nat)
  /-- SERVICE_RESTART (R473). A kernel service restarts and completes its in-progress journal records. -/
  | serviceRestart (svc : Nat)
  /-- ARBITER_MODE_WRITE (R481). A write to an event arbiter's MODE enters free, capture or replay mode. -/
  | arbiterModeWrite (die mode : Nat)
  /-- WEAR_THRESHOLD (R484). A structure meets its wear threshold, and a spare is scheduled or the lack of one is logged. -/
  | wearThreshold (kind : SpareKind) (unit idx : Nat)
  /-- ECC_ERROR (R459). A storage structure corrects an error, or poisons or aborts on an uncorrectable one. -/
  | eccError (unit : Nat) (corrected : Bool) (place : EccAt)
  /-- PIPELINE_PARITY (R460). A result failing parity is reissued, and traps on its third failure. -/
  | pipelineParity (wg grp pos pipe times : Nat)
  /-- REGISTER_WRITE (R5). A write to an on-package register that has no row of its own sets its fields under their access codes. -/
  | registerWrite (addr len : Nat) (v : Option W64)
  /-- HOST_FUNCTION_REPORT (R405). The kernel reports the end of a host-function sub-launch with status 0x0 or 0x9, which completes that sub-launch or a Lens fill. -/
  | hostFunctionReport (node sub : Nat) (ok : Bool)
  /-- KERNEL_QUEUE_CONTROL (R346). The kernel creates, stops, restarts or destroys a hardware queue, moving its STATE between disabled, running, error and stopped. -/
  | kernelQueueControl (q : Nat) (ctl : QueueCtl)
  /-- CONTAINMENT_RELEASE (R470). The kernel releases a contained PCI Express link and re-enumerates the functions beneath it. -/
  | containmentRelease (port link : Nat)
  /-- READ_BOOT_STATUS (R419). The management port returns the boot status and the failing slot. -/
  | readBootStatus
  /-- READ_CERT_CHAIN (R419). The management port returns the attestation certificate chain. -/
  | readCertChain
  /-- COLD_RESET (R66). A cold reset clears core storage and resets registers. -/
  | coldReset
deriving DecidableEq, Repr

end Sys2Proof
end

