-- ==== Sys2Proof/WellFormed.lean ====
section
/-! DEFINITION. Which instruction words are legal: the field limits of every entry, as a list of the SUB codes of
cause 0x01 that a word breaks (R421). A word is well formed when it breaks none at the largest register allocation.
Which SUB a breach takes is read from the names in R421 (log entry 9). -/
namespace Sys2Proof

/-- Type codes of R119. -/
def tyI8 : BitVec 4 := 0x0
def tyI16 : BitVec 4 := 0x1
def tyI32 : BitVec 4 := 0x2
def tyI64 : BitVec 4 := 0x3
def tyN8 : BitVec 4 := 0x4
def tyN16 : BitVec 4 := 0x5
def tyN32 : BitVec 4 := 0x6
def tyN64 : BitVec 4 := 0x7
def tyB32 : BitVec 4 := 0x8
def tyB64 : BitVec 4 := 0x9
def tyF16 : BitVec 4 := 0xA
def tyBF16 : BitVec 4 := 0xB
def tyF32 : BitVec 4 := 0xC
def tyF64 : BitVec 4 := 0xD
def tyM8 : BitVec 4 := 0xE
def tyM4 : BitVec 4 := 0xF

/-- The width in bits of a type (R79, R81, R88). -/
def tyBits (t : BitVec 4) : Nat :=
  match t.toNat with
  | 0 => 8 | 1 => 16 | 2 => 32 | 3 => 64 | 4 => 8 | 5 => 16 | 6 => 32 | 7 => 64
  | 8 => 32 | 9 => 64 | 10 => 16 | 11 => 16 | 12 => 32 | 13 => 64 | 14 => 8 | _ => 4

/-- How many registers an operand names, and whether it must name an even or a fourth one (R58, R187). -/
inductive Width where
  | one | pair | quad
deriving DecidableEq, Repr

/-- The registers of an operand of a type (R58). -/
def Width.ofTy (t : BitVec 4) : Width := if tyBits t = 64 then .pair else .one

/-- The registers of an access size code (R122, R187). -/
def Width.ofSz (sz : BitVec 3) : Width := if sz.toNat = 4 then .quad else if sz.toNat = 3 then .pair else .one

/-- How many registers a width covers. -/
def Width.count : Width → Nat
  | .one => 1 | .pair => 2 | .quad => 4

/-- What an entry makes of an operand field (R114, R117). -/
inductive Role where
  /-- The field must be zero. -/
  | unused
  /-- A destination: the tiers that the lane form accepts. -/
  | dst (lane : List Tier) (w : Width)
  /-- A source: the tiers, the width and the type whose SMOD row of R115 applies (none: SMOD must be zero). -/
  | src (lane : List Tier) (w : Width) (sm : Option (BitVec 4))
  /-- A number under R117 with its limit. -/
  | num (lim : Nat)
deriving DecidableEq, Repr

/-- The limits of an entry's operand fields, type, MOD, FN and channel use. -/
structure Desc where
  u : Bool := false
  modMask : Nat := 0
  d : Role := .unused
  a : Role := .unused
  b : Role := .unused
  c : Role := .unused
  tys : List (BitVec 4) := []
  ty2s : List (BitVec 4) := []
  fnMask : Nat := 0
  chan : Bool := false
  chanD : Bool := false

/-- The register allocation of a kernel (R57, R58). -/
structure Alloc where
  v : Nat
  s : Nat
deriving DecidableEq, Repr

def Alloc.max : Alloc := { v := 256, s := 256 }

def tiersAll : List Tier := [.v, .o, .h, .s]
def tiersVOH : List Tier := [.v, .o, .h]
def tiersVOS : List Tier := [.v, .o, .s]

def tysInt : List (BitVec 4) := [tyI8, tyI16, tyI32, tyI64, tyN8, tyN16, tyN32, tyN64]
def tysW : List (BitVec 4) := [tyI32, tyN32, tyI64, tyN64]
def tysB : List (BitVec 4) := [tyB32, tyB64]
def tysIS : List (BitVec 4) := [tyI8, tyI16, tyI32, tyI64]
def tysF : List (BitVec 4) := [tyF16, tyBF16, tyF32, tyF64]
def tysF3 : List (BitVec 4) := [tyF16, tyBF16, tyF32]
def tysCvt : List (BitVec 4) := tysInt ++ tysF
def tysPk : List (BitVec 4) := [tyF16, tyBF16, tyM8, tyM4]
def tysMk : List (BitVec 4) := [tyM8, tyM4]
def tysMovi : List (BitVec 4) := tysInt ++ tysB ++ tysF

/-- The registers a file holds for a group (R57). -/
def tierLimit (al : Alloc) : Tier → Nat
  | .v => al.v | .o => 8 | .h => 2 | .s => al.s

/-- R115: the source modifiers that a type's row admits. -/
def smodOk (t : Option (BitVec 4)) (m : BitVec 3) : Bool :=
  match t with
  | none => m.toNat == 0
  | some t =>
    match t.toNat with
    | 0 => true
    | 1 => true
    | 10 => true
    | 11 => true
    | 2 => m.toNat < 4
    | 3 => m.toNat < 4
    | 12 => m.toNat < 4
    | 13 => m.toNat < 4
    | 4 => m.toNat < 4
    | 5 => m.toNat == 0 || m.toNat == 4
    | _ => m.toNat == 0

/-- R58, R187: an index within its file, aligned to its width; a single h register or the pair h0. -/
def idxOk (al : Alloc) (t : Tier) (w : Width) (idx : BitVec 8) : Bool :=
  idx.toNat + w.count ≤ tierLimit al t && idx.toNat % w.count == 0

/-- The SUB codes that an operand field breaks (R111, R114, R115, R117). `chOk`: the entry admits a channel here. -/
def Role.subs (r : Role) (al : Alloc) (u chOk : Bool) (x : Opnd) : List Nat :=
  match r with
  | .unused => if x = Opnd.zero then [] else [2]
  | .num lim =>
    match x with
    | .reg .v 0 idx => if idx.toNat ≤ lim then [] else [3]
    | _ => [3]
  | .dst lane w =>
    match x with
    | .chan pk _ => (if pk then [2] else []) ++ (if chOk && !u then [] else [3])
    | .reg t m idx =>
      (if m = 0 then [] else [2]) ++
      (if (if u then t == .s else lane.contains t) && idxOk al t w idx then [] else [3])
  | .src lane w sm =>
    match x with
    | .chan _ _ => if chOk && !u then [] else [3]
    | .reg t m idx =>
      (if (if u then t == .s else lane.contains t) && idxOk al t w idx then [] else [3]) ++
      (if smodOk sm m then [] else [5])

/-- R110, R111, R113: the checks of the common fields. -/
def Common.subs (c : Common) (d : Desc) : List Nat :=
  (if c.prd = 0 ∧ c.pneg then [5] else []) ++
  (if c.u && !d.u then [5] else []) ++
  (if c.mod.toNat &&& d.modMask = c.mod.toNat then [] else [5])

/-- R119, R132, R160: the type fields of form L. -/
def tySubs (tys : List (BitVec 4)) (t : BitVec 4) : List Nat :=
  if tys = [] then (if t = 0 then [] else [4]) else if tys.contains t then [] else [4]

def FormL.subs (w : FormL) (al : Alloc) (d : Desc) : List Nat :=
  let ch := d.chan && tyBits w.ty ≤ 32 && (d.ty2s = [] || tyBits w.ty2 ≤ 32)
  w.com.subs d ++ tySubs d.tys w.ty ++ tySubs d.ty2s w.ty2 ++
  (if w.fn.toNat &&& d.fnMask = w.fn.toNat then [] else [2]) ++
  d.d.subs al w.com.u (ch && d.chanD) w.d ++ d.a.subs al w.com.u ch w.a ++
  d.b.subs al w.com.u ch w.b ++ d.c.subs al w.com.u ch w.c

/-- R120: the constraint on IMM[33:32] by type. -/
def immOk (t : BitVec 4) (imm : BitVec 34) : Bool :=
  match t.toNat with
  | 10 => imm.toNat < 2 ^ 16
  | 11 => imm.toNat < 2 ^ 16
  | 12 => imm.toNat < 2 ^ 32
  | 13 => imm.toNat < 2 ^ 32
  | 3 => true
  | 7 => true
  | 9 => true
  | _ => imm.toNat < 2 ^ 32 || imm.toNat ≥ 3 * 2 ^ 32 + 2 ^ 31

def FormI.subs (w : FormI) (al : Alloc) (d : Desc) : List Nat :=
  let ch := d.chan && tyBits w.ty ≤ 32
  w.com.subs d ++ tySubs d.tys w.ty ++ (if immOk w.ty w.imm then [] else [5]) ++
  d.d.subs al w.com.u (ch && d.chanD) w.d ++ d.a.subs al w.com.u ch w.a

/-- R122, R187: what a form-M entry accepts in its C field, as lists of SZ and ORD codes. -/
structure MemDesc where
  szs : List Nat
  ords : List Nat
  io : Bool := false
  nt : Bool := false
  sgnAny : Bool := false
  sgnLoad : Bool := false

def FormM.subs (w : FormM) (al : Alloc) (d : Desc) (m : MemDesc) : List Nat :=
  w.com.subs d ++
  (if m.szs.contains w.sz.toNat && m.ords.contains w.ord.toNat && (m.io || !w.io) && (m.nt || !w.nt) &&
      (m.sgnAny || !w.sgn || (m.sgnLoad && w.sz.toNat ≤ 1)) &&
      w.scope.toNat ≤ 5 && (w.scope.toNat = 0 || w.ord.toNat ≠ 0) then [] else [5]) ++
  d.d.subs al w.com.u false w.d ++ d.a.subs al w.com.u false w.a ++ d.b.subs al w.com.u false w.b

def FormK.subs (w : FormK) (al : Alloc) (d : Desc) (kinds : List Nat) (offOk : Bool) : List Nat :=
  w.com.subs d ++ (if kinds.contains w.kind.toNat && offOk then [] else [5]) ++
  d.d.subs al w.com.u false w.d ++ d.a.subs al w.com.u false w.a ++ d.b.subs al w.com.u false w.b

/-- R124: acquire, release, scope and the immediate of form E. -/
def FormE.subs (w : FormE) (al : Alloc) (d : Desc) (acq rel : Bool) (maxScope eimmMask : Nat) : List Nat :=
  w.com.subs d ++
  (if (acq || !w.acq) && (rel || !w.rel) && w.scope.toNat ≤ maxScope &&
      (w.scope.toNat = 0 || w.acq || w.rel) then [] else [5]) ++
  (if w.eimm.toNat &&& eimmMask = w.eimm.toNat then [] else [2]) ++
  d.d.subs al w.com.u false w.d ++ d.a.subs al w.com.u false w.a ++
  d.b.subs al w.com.u false w.b ++ d.c.subs al w.com.u false w.c

/-- R126: which special registers a lane or group-wide movs reads, and which sset writes. -/
def movsOk (u : Bool) (n : Nat) : Bool :=
  n ≤ 0x14 && (!u || (2 ≤ n && n ≤ 0xD) || n ≥ 0x12)
def ssetOk (n : Nat) : Bool := 0xE ≤ n && n ≤ 0x11
/-- R126: lclock and trapval are 64 bits wide. -/
def specialWidth (n : Nat) : Width := if n = 0xD ∨ n = 0x11 then .pair else .one

def Opnd.index : Opnd → Nat
  | .reg _ _ i => i.toNat
  | .chan _ c => c.toNat

/-- R157: the operation of scan and gred fits the type. -/
def reduceTyOk (op : Nat) (t : BitVec 4) : Bool :=
  if op ≤ 2 then tysW.contains t else if op ≤ 5 then tysB.contains t else false

/-- R197: the operation that MOD[2:0] and C[3] select, and where it is accepted (0 atom, 1 red, 2 reds). -/
def atomOpOk (kind : Nat) (mod : BitVec 4) (sgn : Bool) : Bool :=
  match mod.toNat % 8, sgn with
  | 0, false => true
  | 4, false => kind ≤ 1
  | 0, true => true
  | 4, true => true
  | 1, _ => kind ≤ 1
  | 2, _ => kind ≤ 1
  | 3, _ => kind = 0
  | 7, _ => kind ≤ 1
  | _, _ => false

/-- R197: `.cas` reads a second data operand beside B. -/
def isCas (mod : BitVec 4) (sgn : Bool) : Bool := mod.toNat % 8 == 3 && sgn

/-- R187: an h register holds a load or store of SZ 2 or 3 only. -/
def hSzSubs (x : Opnd) (sz : BitVec 3) : List Nat :=
  match x with
  | .reg .h _ _ => if sz.toNat = 2 ∨ sz.toNat = 3 then [] else [3]
  | _ => []

/-- A lane source of an arithmetic instruction. -/
def srcTy (t : BitVec 4) : Role := .src tiersAll (Width.ofTy t) (some t)
/-- A 32-bit source read without modifiers. -/
def src32 : Role := .src tiersAll .one none
/-- A lane destination of an arithmetic instruction: v, o or h, and s under U = 1 (R133, R111). -/
def dstTy (t : BitVec 4) : Role := .dst tiersVOH (Width.ofTy t)
/-- A destination whose rules do not refuse tier s in the lane form (log entry 19). -/
def dstAnyTy (t : BitVec 4) : Role := .dst tiersAll (Width.ofTy t)

/-- Class-0 entries of two sources in one type (R139). -/
def descInt2 (tys : List (BitVec 4)) (sat : Nat) (w : FormL) : Desc :=
  { u := true, modMask := sat, d := dstTy w.ty, a := srcTy w.ty, b := srcTy w.ty, tys := tys, chan := true, chanD := true }
def descInt3 (tys : List (BitVec 4)) (w : FormL) : Desc :=
  { descInt2 tys 0 w with c := srcTy w.ty }
def descInt1 (tys : List (BitVec 4)) (sat : Nat) (w : FormL) : Desc :=
  { u := true, modMask := sat, d := dstTy w.ty, a := srcTy w.ty, tys := tys, chan := true, chanD := true }
/-- shl, shr, sar and rotl: B is a 32-bit amount (R135). -/
def descShift (w : FormL) : Desc := { descInt2 tysB 0 w with b := src32 }
/-- popc, clz and ctz: D is one register (R147). -/
def descCount (w : FormL) : Desc := { descInt1 tysB 0 w with d := .dst tiersVOH .one }
def descImm (tys : List (BitVec 4)) (sat : Nat) (w : FormI) : Desc :=
  { u := true, modMask := sat, d := dstTy w.ty, a := srcTy w.ty, tys := tys, chan := true, chanD := true }
/-- Class-1 arithmetic of one to three sources (R161). -/
def descF (n : Nat) (mask : Nat) (u : Bool) (tys : List (BitVec 4)) (w : FormL) : Desc :=
  { u := u, modMask := mask, d := dstAnyTy w.ty, a := srcTy w.ty, tys := tys, chan := true, chanD := true,
    b := (if n ≥ 2 then srcTy w.ty else .unused), c := if n ≥ 3 then srcTy w.ty else .unused }
/-- The same limits with no channel field (R134, R164). -/
def noChan (d : Desc) : Desc := { d with chan := false, chanD := false }

/-- Form M, classes 3 and 4: base and index (R121). -/
def descMem (u : Bool) (d : Role) (w : FormM) : Desc :=
  { u := u, modMask := 15, d := d, a := .src [.v, .s] .pair none,
    b := if w.com.mod.toNat ≥ 8 then .unused else src32 }
/-- Class 4 in form M: NOIX is 1 and B is data (R196). -/
def descAtom (u : Bool) (d b : Role) : Desc :=
  { u := u, modMask := 15, d := d, a := .src [.v, .s] .pair none, b := b }
def noixSubs (m : BitVec 4) : List Nat := if m.toNat ≥ 8 then [] else [5]
def atomBWidth (w : FormM) : Width :=
  if isCas w.com.mod w.sgn then (if w.sz.toNat = 3 then .quad else .pair) else Width.ofSz w.sz

/-- The barrier instructions: A is a pointer under PTR (R205). -/
def descBar (d b : Role) (mask : Nat) (w : FormE) : Desc :=
  { modMask := mask, d := d, b := b, a := if w.com.mod.toNat ≥ 8 then .src tiersAll .pair none else .unused }
def barEimm (n : Bool) (w : FormE) : Nat := (if w.com.mod.toNat ≥ 8 then 0 else 0x3F) + (if n then 0x3FC0 else 0)

/-- Every SUB code of cause 0x01 that an instruction word breaks (R421); 1 marks an unassigned OP. An event row is
no instruction word and breaks none. -/
def Instr.subs (al : Alloc) : Instr → List Nat
  | .mov w => w.subs al (descInt1 tysB 0 w)
  | .movi w => w.subs al { descImm tysMovi 0 w with a := .unused }
  | .movs w => w.subs al { u := true, d := .dst tiersVOH (specialWidth w.a.index), a := .num 0xFF } ++
      (if movsOk w.com.u w.a.index then [] else [5])
  | .sset w => w.subs al { d := .num 0xFF, a := .src tiersAll (specialWidth w.d.index) none } ++
      (if ssetOk w.d.index then [] else [5])
  | .movg w => w.subs al { modMask := 1, d := .dst [.s] (Width.ofTy w.ty), a := .src tiersAll (Width.ofTy w.ty) none, b := (if w.com.mod = 1 then .src [.s] .one none else .unused), tys := tysB }
  | .iadd w => w.subs al (descInt2 tysInt 8 w)
  | .iaddImm w => w.subs al (descImm tysInt 8 w)
  | .isub w => w.subs al (descInt2 tysInt 8 w)
  | .isubImm w => w.subs al (descImm tysInt 8 w)
  | .imul w => w.subs al (descInt2 tysInt 0 w)
  | .imulImm w => w.subs al (descImm tysInt 0 w)
  | .imulh w => w.subs al (descInt2 tysW 0 w)
  | .imad w => w.subs al (descInt3 tysInt w)
  | .idiv w => w.subs al (descInt2 tysW 0 w)
  | .irem w => w.subs al (descInt2 tysW 0 w)
  | .imin w => w.subs al (descInt2 tysInt 0 w)
  | .imax w => w.subs al (descInt2 tysInt 0 w)
  | .iabs w => w.subs al (descInt1 tysIS 8 w)
  | .ineg w => w.subs al (descInt1 tysIS 8 w)
  | .and w => w.subs al (descInt2 tysB 0 w)
  | .andImm w => w.subs al (descImm tysB 0 w)
  | .or w => w.subs al (descInt2 tysB 0 w)
  | .orImm w => w.subs al (descImm tysB 0 w)
  | .xor w => w.subs al (descInt2 tysB 0 w)
  | .xorImm w => w.subs al (descImm tysB 0 w)
  | .andn w => w.subs al (descInt2 tysB 0 w)
  | .not w => w.subs al (descInt1 tysB 0 w)
  | .shl w => w.subs al (descShift w)
  | .shlImm w => w.subs al (descImm tysB 0 w)
  | .shr w => w.subs al (descShift w)
  | .shrImm w => w.subs al (descImm tysB 0 w)
  | .sar w => w.subs al (descShift w)
  | .sarImm w => w.subs al (descImm tysB 0 w)
  | .rotl w => w.subs al (descShift w)
  | .rotlImm w => w.subs al (descImm tysB 0 w)
  | .popc w => w.subs al (descCount w)
  | .clz w => w.subs al (descCount w)
  | .ctz w => w.subs al (descCount w)
  | .brev w => w.subs al (descInt1 tysB 0 w)
  | .bfx w => w.subs al { descInt2 tysW 0 w with b := src32 }
  | .bfi w => w.subs al { descInt2 tysB 0 w with c := src32 }
  | .sel w => w.subs al { descInt2 tysB 0 w with c := .num 7, chanD := false }
  | .icmp w => w.subs al { noChan (descInt2 tysInt 15 w) with d := .num 7 } ++
      (if w.com.mod.toNat ≤ 5 then [] else [5])
  | .icmpImm w => w.subs al { noChan (descImm tysInt 15 w) with d := .num 7 } ++
      (if w.com.mod.toNat ≤ 5 then [] else [5])
  | .plog w => w.subs al { u := true, d := .num 7, a := .num 7, b := .num 7, c := .num 7, fnMask := 0xFF }
  | .lea w => w.subs al { u := true, modMask := 15, d := .dst tiersVOH .pair, a := .src tiersAll .pair none, b := (if w.fn.toNat ≥ 0x800 then .unused else src32), fnMask := 0xFFF }
  | .ptag w => w.subs al { d := .dst tiersVOH .pair, a := .src tiersAll .pair none }
  | .qxch w => w.subs al { modMask := 7, d := dstTy w.ty, a := .src tiersAll (Width.ofTy w.ty) none, tys := tysB }
  | .shfl w => w.subs al { modMask := 3, d := dstTy w.ty, a := .src tiersAll (Width.ofTy w.ty) none, b := src32, tys := tysB }
  | .vote w => w.subs al { modMask := 7, d := (if w.com.mod.toNat % 4 = 2 then .dst tiersAll .one else .num 7), a := .num 7 } ++ (if w.com.mod.toNat % 4 = 3 ∨ w.com.mod.toNat = 6 then [5] else [])
  | .scan w => w.subs al { modMask := 15, d := dstTy w.ty, a := srcTy w.ty, tys := tysW ++ tysB } ++
      (if w.com.mod.toNat % 8 ≤ 5 then (if reduceTyOk (w.com.mod.toNat % 8) w.ty then [] else [4]) else [5])
  | .gred w => w.subs al { modMask := 7, d := dstAnyTy w.ty, a := srcTy w.ty, tys := tysW ++ tysB } ++
      (if w.com.mod.toNat % 8 ≤ 5 then (if reduceTyOk (w.com.mod.toNat % 8) w.ty then [] else [4]) else [5])
  | .fadd w => w.subs al (descF 2 15 true tysF w)
  | .faddImm w => w.subs al { descImm tysF 15 w with d := dstAnyTy w.ty, chan := true }
  | .fsub w => w.subs al (descF 2 15 true tysF w)
  | .fmul w => w.subs al (descF 2 15 true tysF w)
  | .fmulImm w => w.subs al { descImm tysF 15 w with d := dstAnyTy w.ty, chan := true }
  | .ffma w => w.subs al (descF 3 15 true tysF w)
  | .fmin w => w.subs al (descF 2 4 true tysF w)
  | .fmax w => w.subs al (descF 2 4 true tysF w)
  | .fcmp w => w.subs al { noChan (descF 2 4 true tysF w) with d := .num 7, fnMask := 0xF } ++
      (if w.fn.toNat % 16 ≤ 7 then [] else [5])
  | .fclass w => w.subs al { noChan (descF 1 0 true tysF w) with d := .dst tiersAll .one }
  | .fdiv w => w.subs al (descF 2 15 true tysF w)
  | .fsqrt w => w.subs al (descF 1 7 true tysF w)
  | .frcp w => w.subs al (descF 1 4 false [tyF32, tyF64] w)
  | .frsq w => w.subs al (descF 1 4 false [tyF32, tyF64] w)
  | .frnd w => w.subs al (noChan (descF 1 7 true tysF w))
  | .fldx w => w.subs al { noChan (descF 1 15 true tysF w) with b := .src tiersAll .one (some tyI32) }
  | .cvt w => w.subs al { descF 1 15 true tysCvt w with a := srcTy w.ty2, ty2s := tysCvt }
  | .cvtm w => w.subs al { modMask := 7, d := .dst tiersVOH .one, a := srcTy w.ty2, c := .dst [.s] .one, tys := tysMk, ty2s := tysF, fnMask := 0xFF }
  | .cvtx w => w.subs al { modMask := 7, d := dstAnyTy w.ty, a := src32, b := src32, tys := tysF, ty2s := tysMk }
  | .fpack w => w.subs al { d := .dst tiersAll .one, a := srcTy w.ty, tys := tysPk }
  | .funpk w => w.subs al { d := .dst tiersAll .one, a := src32, tys := tysPk }
  | .fexp2 w => w.subs al (descF 1 4 false tysF3 w)
  | .flog2 w => w.subs al (descF 1 4 false tysF3 w)
  | .ftanh w => w.subs al (descF 1 4 false tysF3 w)
  | .frred w => w.subs al { modMask := 4, d := dstAnyTy w.ty, a := srcTy w.ty2, tys := [tyF32], ty2s := [tyF32, tyF64] }
  | .fsin w => w.subs al (descF 1 4 false tysF3 w)
  | .fcos w => w.subs al (descF 1 4 false tysF3 w)
  | .ld w => w.subs al (descMem true (.dst tiersAll (Width.ofSz w.sz)) w)
      { szs := [0, 1, 2, 3, 4], ords := [0, 1], nt := true, sgnLoad := true } ++ hSzSubs w.d w.sz
  | .st w => w.subs al (descMem true (.src tiersAll (Width.ofSz w.sz) none) w)
      { szs := [0, 1, 2, 3, 4], ords := [0, 2], io := true, nt := true } ++ hSzSubs w.d w.sz
  | .pfch w => w.subs al (descMem true .unused w) { szs := [0], ords := [0], nt := true }
  | .cfls w => w.subs al (descMem false .unused w) { szs := [0], ords := [0] }
  | .cinv w => w.subs al (descMem false .unused w) { szs := [0], ords := [0] }
  | .icinv w => w.subs al (descMem false .unused w) { szs := [0], ords := [0] }
  | .csync w => w.subs al {}
  | .fence w => w.subs al { fnMask := 0x1F } ++
      (if w.fn.toNat / 8 % 4 = 0 ∨ w.fn.toNat % 8 > 5 then [5] else [])
  | .atom w => w.subs al (descAtom true (.dst tiersAll (Width.ofSz w.sz)) (.src tiersAll (atomBWidth w) none))
      { szs := [2, 3], ords := [0, 1, 2, 3], sgnAny := true } ++ noixSubs w.com.mod ++
      (if atomOpOk 0 w.com.mod w.sgn then [] else [5])
  | .red w => w.subs al (descAtom true .unused (.src tiersAll (atomBWidth w) none))
      { szs := [2, 3], ords := [0, 2], sgnAny := true } ++ noixSubs w.com.mod ++
      (if atomOpOk 1 w.com.mod w.sgn then [] else [5])
  | .reds w => w.subs al (descAtom false src32 (.src tiersAll (atomBWidth w) none))
      { szs := [2, 3], ords := [0, 2], sgnAny := true } ++ noixSubs w.com.mod ++
      (if atomOpOk 2 w.com.mod w.sgn then [] else [5])
  | .binit w => w.subs al (descBar .unused src32 8 w) false false 5 (barEimm false w)
  | .barr w => w.subs al (descBar (.dst tiersAll .one) .unused 8 w) false true 5 (barEimm true w)
  | .barw w => w.subs al (descBar (.dst tiersAll .one) .unused 8 w) true true 5 (barEimm true w)
  | .bwait w => w.subs al (descBar .unused src32 8 w) true false 5 (barEimm false w)
  | .bexp w => w.subs al (descBar .unused src32 11 w) false (w.com.mod.toNat / 2 % 2 = 1) 5 (barEimm false w)
  | .bqry w => w.subs al (descBar (.dst tiersVOS .quad) .unused 8 w) false false 5 (barEimm false w)
  | .cntadd w => w.subs al { a := .src tiersAll .pair none, b := .src tiersAll .pair none } false true 5 0
  | .cntwait w => w.subs al { a := .src tiersAll .pair none, b := .src tiersAll .pair none } true false 5 0
  | .chbind w => w.subs al { modMask := 7, a := if w.com.mod.toNat / 4 % 2 = 1 then .unused else .src tiersAll .pair none }
      false false 5 (if w.com.mod.toNat = 0 then 0x1FF else 0xF) ++
      (if w.com.mod.toNat = 0 ∧ (w.eimm.toNat / 16 % 32 < 4 ∨ w.eimm.toNat / 16 % 32 > 16) then [5] else []) ++
      (if w.com.mod.toNat / 4 % 2 = 1 ∧ w.com.mod.toNat % 4 ≠ 0 then [5] else [])
  | .chstat w => w.subs al { u := true, d := .dst tiersAll .one, a := .num 15 }
  | .mlds w => w.subs al { a := .src tiersVOS .one none, b := .src tiersVOS .one none } true false 2 0x1F ++
      (if w.eimm.toNat / 2 % 16 ≤ 8 then [] else [5])
  | .mswp w => w.subs al {} false false 2 1
  | .mma w => w.subs al { modMask := 3, d := .src [.s] .one none, a := .src [.v] .one none, b := .src [.v] .one none }
      true false 2 1
  | .accz w => w.subs al { a := .src [.s] .one none, b := .src [.s] .one none } false false 2 0
  | .mwin w => w.subs al { a := .src tiersVOS .one none, b := .src tiersVOS .one none, c := .src tiersVOS .one none }
  | .ldacc w => w.subs al { modMask := 1, d := .src [.s] .one none, a := .src [.v] .one none } true false 2 0
  | .stacc w => w.subs al { modMask := 1, d := .src [.s] .one none, a := .src [.v] .one none } false true 2 0
  | .accq w => w.subs al { modMask := 3, d := .src [.s] .one none, a := .src [.v] .one none, b := .src [.v] .one none }
      false true 2 0xF
  | .vsync w => w.subs al { a := .src tiersVOS .one none, b := .src tiersVOS .one none } false false 0 0xF
  | .vchk w => w.subs al { d := .num 7, a := .src tiersVOS .one none, b := .src tiersVOS .one none } false false 0 0xF
  | .vreq w => w.subs al { a := .src tiersVOS .one none, b := .src tiersVOS .one none } false false 0 0xF
  | .bra w => w.subs al {} [0, 1, 2, 3] true ++ (if w.com.prd = 0 ∧ !w.com.pneg then [] else [5])
  | .brp w => w.subs al {} [0, 1, 2, 3] true
  | .brc w => w.subs al { u := true } [0, 1, 2, 3] true ++ (if w.com.u then [] else [5])
  | .jmp w => w.subs al { a := .src tiersVOS .one none } [0, 2, 3] true
  | .call w => w.subs al { d := .dst [.v] .one } [0, 1, 2, 3] true
  | .calli w => w.subs al { d := .dst [.v] .one, a := .src tiersVOS .one none }
  | .ret w => w.subs al { a := .src tiersVOS .one none }
  | .loop w => w.subs al { a := .src [.v] .one none } [0] (w.off.toNat ≥ 2 ^ 31)
  | .exit w => w.subs al {}
  | .nop w => w.subs al {}
  | .ssync w => w.subs al {} ++ (if w.com.prd = 0 ∧ !w.com.pneg then [] else [5])
  | .yield w => w.subs al {}
  | .sleep w => w.subs al { a := .src tiersVOS .one none }
  | .trap w => w.subs al { fnMask := 0xFFF }
  | .brk w => w.subs al { fnMask := 0xFFF }
  | .syscall w => w.subs al { a := .src [.v, .s] .pair none }
  | .getlt w => w.subs al { u := true, modMask := 1, d := .dst tiersVOS .pair }
  | .spawn w => w.subs al { d := .dst tiersVOS .one, a := .src [.v, .s] .pair none, b := .src tiersVOS .one none }
      false true 5 0
  | .dbell w => w.subs al {} false false 0 0xF
  | .cpy w => w.subs al { a := .src tiersVOS .pair none } true true 5 0
  | .cpyr w => w.subs al { a := .src tiersVOS .pair none } true true 5 0
  | .cpyg w => w.subs al { a := .src tiersVOS .pair none } true true 5 0
  | .unassignedOpcode _ => [1]
  | _ => []

/-- The lowest of a list of SUB codes, if any (R421). -/
def lowestSub : List Nat → Option Nat
  | [] => none
  | x :: xs => match lowestSub xs with
    | none => some x
    | some y => some (min x y)

/-- The SUB of cause 0x01 that the word raises under an allocation, if any (R421). -/
def Instr.illegal (i : Instr) (al : Alloc) : Option Nat := lowestSub (i.subs al)

/-- An instruction that breaks no rule of its form and entry. -/
def Instr.wellFormed (i : Instr) : Bool := (i.illegal Alloc.max).isNone

end Sys2Proof
end

