-- ==== Sys2Proof/Decode.lean ====
section
/-! DEFINITION. The decoder, total on any 96 bits and any bytes and rejecting by name, and after it the encoder, both
written from the layouts of R106, R109, R114, R118 to R124 and the opcode map R125. -/
namespace Sys2Proof

/-- Why bits are no instruction: too few bytes, a bit that a form reserves, or a breach of the entry's limits with the
SUB of cause 0x01 that the part raises for it (R125, R421). -/
inductive DecodeError where
  | tooShort
  | reserved
  | illegal (sub : Nat)
deriving DecidableEq, Repr

/-- Word bits lo+len-1:lo (R106). -/
def fieldOf (w : W96) (lo len : Nat) : BitVec len := w.extractLsb' lo len

/-- The operand field layout of R114; none where a bit that it marks zero is set. -/
def unpackOpnd (x : BitVec 14) : Option Opnd :=
  if x.getLsbD 13 then
    if x.extractLsb' 4 8 = 0#8 then some (.chan (x.getLsbD 12) (x.extractLsb' 0 4)) else none
  else
    some (.reg (match (x.extractLsb' 11 2).toNat with | 0 => .v | 1 => .o | 2 => .h | _ => .s)
      (x.extractLsb' 8 3) (x.extractLsb' 0 8))

def packTier : Tier → BitVec 2
  | .v => 0 | .o => 1 | .h => 2 | .s => 3

def boolBit (b : Bool) : BitVec 1 := if b then 1#1 else 0#1

/-- The bits of an operand field (R114). -/
def packOpnd : Opnd → BitVec 14
  | .reg t m i => 0#1 ++ packTier t ++ m ++ i
  | .chan p c => 1#1 ++ boolBit p ++ 0#8 ++ c

/-- The 96 bits cut as R109 cuts them. -/
structure Raw where
  x : BitVec 20
  c : BitVec 14
  b : BitVec 14
  a : BitVec 14
  d : BitVec 14
  com : Common
  op : BitVec 10
deriving DecidableEq, Repr

def unpackRaw (w : W96) : Raw :=
  { x := fieldOf w 76 20, c := fieldOf w 62 14, b := fieldOf w 48 14, a := fieldOf w 34 14, d := fieldOf w 20 14,
    com := { mod := fieldOf w 16 4, j := w.getLsbD 15, u := w.getLsbD 14, pneg := w.getLsbD 13, prd := fieldOf w 10 3 },
    op := fieldOf w 0 10 }

def packRaw (r : Raw) : W96 :=
  r.x ++ r.c ++ r.b ++ r.a ++ r.d ++ r.com.mod ++ boolBit r.com.j ++ boolBit r.com.u ++ boolBit r.com.pneg ++
    r.com.prd ++ r.op

/-- Form L (R118). -/
def Raw.formL (r : Raw) : Option FormL :=
  match unpackOpnd r.d, unpackOpnd r.a, unpackOpnd r.b, unpackOpnd r.c with
  | some d, some a, some b, some c =>
    some { com := r.com, d := d, a := a, b := b, c := c, fn := r.x.extractLsb' 8 12, ty2 := r.x.extractLsb' 4 4, ty := r.x.extractLsb' 0 4 }
  | _, _, _, _ => none

/-- Form I (R120): B[13:4] is zero, B[3:0] the type, IMM is X over C. -/
def Raw.formI (r : Raw) : Option FormI :=
  match unpackOpnd r.d, unpackOpnd r.a with
  | some d, some a =>
    if r.b.extractLsb' 4 10 = 0#10 then
      some { com := r.com, d := d, a := a, ty := r.b.extractLsb' 0 4, imm := r.x ++ r.c }
    else none
  | _, _ => none

/-- Form M (R121, R122): C[13] is zero. -/
def Raw.formM (r : Raw) : Option FormM :=
  match unpackOpnd r.d, unpackOpnd r.a, unpackOpnd r.b with
  | some d, some a, some b =>
    if r.c.getLsbD 13 then none
    else some { com := r.com, d := d, a := a, b := b, nt := r.c.getLsbD 12, io := r.c.getLsbD 11, scope := r.c.extractLsb' 8 3, ord := r.c.extractLsb' 6 2, sph := r.c.extractLsb' 4 2, sgn := r.c.getLsbD 3, sz := r.c.extractLsb' 0 3, off := r.x }
  | _, _, _ => none

/-- Form K (R123): word bits 95:94 KIND, 93:62 OFF. -/
def Raw.formK (r : Raw) : Option FormK :=
  match unpackOpnd r.d, unpackOpnd r.a, unpackOpnd r.b with
  | some d, some a, some b =>
    some { com := r.com, d := d, a := a, b := b, kind := (r.x ++ r.c).extractLsb' 32 2, off := (r.x ++ r.c).extractLsb' 0 32 }
  | _, _, _ => none

/-- Form E (R124). -/
def Raw.formE (r : Raw) : Option FormE :=
  match unpackOpnd r.d, unpackOpnd r.a, unpackOpnd r.b, unpackOpnd r.c with
  | some d, some a, some b, some c =>
    some { com := r.com, d := d, a := a, b := b, c := c, eimm := r.x.extractLsb' 5 15, rel := r.x.getLsbD 4, acq := r.x.getLsbD 3, scope := r.x.extractLsb' 0 3 }
  | _, _, _, _ => none

def FormL.raw (op : BitVec 10) (w : FormL) : Raw :=
  { x := w.fn ++ w.ty2 ++ w.ty, c := packOpnd w.c, b := packOpnd w.b, a := packOpnd w.a, d := packOpnd w.d, com := w.com, op := op }
def FormI.raw (op : BitVec 10) (w : FormI) : Raw :=
  { x := w.imm.extractLsb' 14 20, c := w.imm.extractLsb' 0 14, b := 0#10 ++ w.ty, a := packOpnd w.a, d := packOpnd w.d, com := w.com, op := op }
def FormM.raw (op : BitVec 10) (w : FormM) : Raw :=
  { x := w.off, c := 0#1 ++ boolBit w.nt ++ boolBit w.io ++ w.scope ++ w.ord ++ w.sph ++ boolBit w.sgn ++ w.sz, b := packOpnd w.b, a := packOpnd w.a, d := packOpnd w.d, com := w.com, op := op }
def FormK.raw (op : BitVec 10) (w : FormK) : Raw :=
  { x := (w.kind ++ w.off).extractLsb' 14 20, c := (w.kind ++ w.off).extractLsb' 0 14, b := packOpnd w.b, a := packOpnd w.a, d := packOpnd w.d, com := w.com, op := op }
def FormE.raw (op : BitVec 10) (w : FormE) : Raw :=
  { x := w.eimm ++ boolBit w.rel ++ boolBit w.acq ++ w.scope, c := packOpnd w.c, b := packOpnd w.b, a := packOpnd w.a, d := packOpnd w.d, com := w.com, op := op }

/-- How an opcode's word is read: its form and the instruction that carries the form. -/
inductive OpKind where
  | l (mk : FormL → Instr)
  | i (mk : FormI → Instr)
  | m (mk : FormM → Instr)
  | k (mk : FormK → Instr)
  | e (mk : FormE → Instr)

/-- R125: the opcode map; none where OP is unassigned. -/
def opMap (op : Nat) : Option OpKind :=
  match op with
  | 0x000 => some (.l .mov)
  | 0x001 => some (.i .movi)
  | 0x002 => some (.l .movs)
  | 0x003 => some (.l .sset)
  | 0x004 => some (.l .movg)
  | 0x008 => some (.l .iadd)
  | 0x009 => some (.i .iaddImm)
  | 0x00A => some (.l .isub)
  | 0x00B => some (.i .isubImm)
  | 0x00C => some (.l .imul)
  | 0x00D => some (.i .imulImm)
  | 0x00E => some (.l .imulh)
  | 0x00F => some (.l .imad)
  | 0x010 => some (.l .idiv)
  | 0x011 => some (.l .irem)
  | 0x012 => some (.l .imin)
  | 0x013 => some (.l .imax)
  | 0x014 => some (.l .iabs)
  | 0x015 => some (.l .ineg)
  | 0x018 => some (.l .and)
  | 0x019 => some (.i .andImm)
  | 0x01A => some (.l .or)
  | 0x01B => some (.i .orImm)
  | 0x01C => some (.l .xor)
  | 0x01D => some (.i .xorImm)
  | 0x01E => some (.l .andn)
  | 0x01F => some (.l .not)
  | 0x020 => some (.l .shl)
  | 0x021 => some (.i .shlImm)
  | 0x022 => some (.l .shr)
  | 0x023 => some (.i .shrImm)
  | 0x024 => some (.l .sar)
  | 0x025 => some (.i .sarImm)
  | 0x026 => some (.l .rotl)
  | 0x027 => some (.i .rotlImm)
  | 0x028 => some (.l .popc)
  | 0x029 => some (.l .clz)
  | 0x02A => some (.l .ctz)
  | 0x02B => some (.l .brev)
  | 0x02C => some (.l .bfx)
  | 0x02D => some (.l .bfi)
  | 0x030 => some (.l .sel)
  | 0x031 => some (.l .icmp)
  | 0x032 => some (.i .icmpImm)
  | 0x033 => some (.l .plog)
  | 0x034 => some (.l .lea)
  | 0x035 => some (.l .ptag)
  | 0x038 => some (.l .qxch)
  | 0x039 => some (.l .shfl)
  | 0x03A => some (.l .vote)
  | 0x03B => some (.l .scan)
  | 0x03C => some (.l .gred)
  | 0x080 => some (.l .fadd)
  | 0x090 => some (.i .faddImm)
  | 0x081 => some (.l .fsub)
  | 0x082 => some (.l .fmul)
  | 0x092 => some (.i .fmulImm)
  | 0x083 => some (.l .ffma)
  | 0x084 => some (.l .fmin)
  | 0x085 => some (.l .fmax)
  | 0x086 => some (.l .fcmp)
  | 0x087 => some (.l .fclass)
  | 0x088 => some (.l .fdiv)
  | 0x089 => some (.l .fsqrt)
  | 0x08A => some (.l .frcp)
  | 0x08B => some (.l .frsq)
  | 0x08C => some (.l .frnd)
  | 0x08D => some (.l .fldx)
  | 0x100 => some (.l .cvt)
  | 0x101 => some (.l .cvtm)
  | 0x102 => some (.l .cvtx)
  | 0x103 => some (.l .fpack)
  | 0x104 => some (.l .funpk)
  | 0x108 => some (.l .fexp2)
  | 0x109 => some (.l .flog2)
  | 0x10A => some (.l .ftanh)
  | 0x10B => some (.l .frred)
  | 0x10C => some (.l .fsin)
  | 0x10D => some (.l .fcos)
  | 0x180 => some (.m .ld)
  | 0x181 => some (.m .st)
  | 0x182 => some (.m .pfch)
  | 0x183 => some (.m .cfls)
  | 0x184 => some (.m .cinv)
  | 0x188 => some (.m .icinv)
  | 0x189 => some (.l .csync)
  | 0x18A => some (.l .fence)
  | 0x200 => some (.m .atom)
  | 0x201 => some (.m .red)
  | 0x202 => some (.m .reds)
  | 0x208 => some (.e .binit)
  | 0x209 => some (.e .barr)
  | 0x20A => some (.e .barw)
  | 0x20B => some (.e .bwait)
  | 0x20C => some (.e .bexp)
  | 0x20D => some (.e .bqry)
  | 0x210 => some (.e .cntadd)
  | 0x211 => some (.e .cntwait)
  | 0x218 => some (.e .chbind)
  | 0x219 => some (.l .chstat)
  | 0x280 => some (.e .mlds)
  | 0x281 => some (.e .mswp)
  | 0x282 => some (.e .mma)
  | 0x283 => some (.e .accz)
  | 0x284 => some (.l .mwin)
  | 0x285 => some (.e .ldacc)
  | 0x286 => some (.e .stacc)
  | 0x287 => some (.e .accq)
  | 0x290 => some (.e .vsync)
  | 0x291 => some (.e .vchk)
  | 0x292 => some (.e .vreq)
  | 0x300 => some (.k .bra)
  | 0x301 => some (.k .brp)
  | 0x302 => some (.k .brc)
  | 0x303 => some (.k .jmp)
  | 0x304 => some (.k .call)
  | 0x305 => some (.l .calli)
  | 0x306 => some (.l .ret)
  | 0x307 => some (.k .loop)
  | 0x308 => some (.l .exit)
  | 0x309 => some (.l .nop)
  | 0x30A => some (.l .ssync)
  | 0x30B => some (.l .yield)
  | 0x30C => some (.l .sleep)
  | 0x380 => some (.l .trap)
  | 0x381 => some (.l .brk)
  | 0x382 => some (.l .syscall)
  | 0x383 => some (.l .getlt)
  | 0x384 => some (.e .spawn)
  | 0x385 => some (.e .dbell)
  | 0x388 => some (.e .cpy)
  | 0x389 => some (.e .cpyr)
  | 0x38A => some (.e .cpyg)
  | _ => none

/-- The instruction of a word whose bits lie in its form; an unassigned OP is the row UNASSIGNED_OPCODE (R125). -/
def parse (w : W96) : Except DecodeError Instr :=
  let r := unpackRaw w
  match opMap r.op.toNat with
  | none => .ok (.unassignedOpcode w)
  | some (.l mk) => match r.formL with | some f => .ok (mk f) | none => .error .reserved
  | some (.i mk) => match r.formI with | some f => .ok (mk f) | none => .error .reserved
  | some (.m mk) => match r.formM with | some f => .ok (mk f) | none => .error .reserved
  | some (.k mk) => match r.formK with | some f => .ok (mk f) | none => .error .reserved
  | some (.e mk) => match r.formE with | some f => .ok (mk f) | none => .error .reserved

/-- The decoder of one word: a well-formed instruction, the row of an unassigned OP, or a rejection by name. -/
def decode (w : W96) : Except DecodeError Instr :=
  match parse w with
  | .error e => .error e
  | .ok (.unassignedOpcode w) => .ok (.unassignedOpcode w)
  | .ok i => match i.illegal Alloc.max with
    | none => .ok i
    | some sub => .error (.illegal sub)

/-- The little-endian number of a list of bytes (R1). -/
def leNat : List Byte → Nat
  | [] => 0
  | b :: bs => b.toNat + 256 * leNat bs

/-- The low n bytes of a number, lowest first (R1). -/
def leBytes : Nat → Nat → List Byte
  | 0, _ => []
  | n + 1, x => BitVec.ofNat 8 x :: leBytes n (x / 256)

/-- Decoding bytes: the first 12, lowest address first, are three little-endian parcels (R106). -/
def decodeBytes (bs : List Byte) : Except DecodeError (Instr × List Byte) :=
  if bs.length < 12 then .error .tooShort
  else match decode (BitVec.ofNat 96 (leNat (bs.take 12))) with
    | .ok i => .ok (i, bs.drop 12)
    | .error e => .error e

/-- OP of an instruction word's constructor and the word cut as R109; none for an event row, which has no word. -/
def Instr.raw : Instr → Option Raw
  | .mov w => some (w.raw 0x000)
  | .movi w => some (w.raw 0x001)
  | .movs w => some (w.raw 0x002)
  | .sset w => some (w.raw 0x003)
  | .movg w => some (w.raw 0x004)
  | .iadd w => some (w.raw 0x008)
  | .iaddImm w => some (w.raw 0x009)
  | .isub w => some (w.raw 0x00A)
  | .isubImm w => some (w.raw 0x00B)
  | .imul w => some (w.raw 0x00C)
  | .imulImm w => some (w.raw 0x00D)
  | .imulh w => some (w.raw 0x00E)
  | .imad w => some (w.raw 0x00F)
  | .idiv w => some (w.raw 0x010)
  | .irem w => some (w.raw 0x011)
  | .imin w => some (w.raw 0x012)
  | .imax w => some (w.raw 0x013)
  | .iabs w => some (w.raw 0x014)
  | .ineg w => some (w.raw 0x015)
  | .and w => some (w.raw 0x018)
  | .andImm w => some (w.raw 0x019)
  | .or w => some (w.raw 0x01A)
  | .orImm w => some (w.raw 0x01B)
  | .xor w => some (w.raw 0x01C)
  | .xorImm w => some (w.raw 0x01D)
  | .andn w => some (w.raw 0x01E)
  | .not w => some (w.raw 0x01F)
  | .shl w => some (w.raw 0x020)
  | .shlImm w => some (w.raw 0x021)
  | .shr w => some (w.raw 0x022)
  | .shrImm w => some (w.raw 0x023)
  | .sar w => some (w.raw 0x024)
  | .sarImm w => some (w.raw 0x025)
  | .rotl w => some (w.raw 0x026)
  | .rotlImm w => some (w.raw 0x027)
  | .popc w => some (w.raw 0x028)
  | .clz w => some (w.raw 0x029)
  | .ctz w => some (w.raw 0x02A)
  | .brev w => some (w.raw 0x02B)
  | .bfx w => some (w.raw 0x02C)
  | .bfi w => some (w.raw 0x02D)
  | .sel w => some (w.raw 0x030)
  | .icmp w => some (w.raw 0x031)
  | .icmpImm w => some (w.raw 0x032)
  | .plog w => some (w.raw 0x033)
  | .lea w => some (w.raw 0x034)
  | .ptag w => some (w.raw 0x035)
  | .qxch w => some (w.raw 0x038)
  | .shfl w => some (w.raw 0x039)
  | .vote w => some (w.raw 0x03A)
  | .scan w => some (w.raw 0x03B)
  | .gred w => some (w.raw 0x03C)
  | .fadd w => some (w.raw 0x080)
  | .faddImm w => some (w.raw 0x090)
  | .fsub w => some (w.raw 0x081)
  | .fmul w => some (w.raw 0x082)
  | .fmulImm w => some (w.raw 0x092)
  | .ffma w => some (w.raw 0x083)
  | .fmin w => some (w.raw 0x084)
  | .fmax w => some (w.raw 0x085)
  | .fcmp w => some (w.raw 0x086)
  | .fclass w => some (w.raw 0x087)
  | .fdiv w => some (w.raw 0x088)
  | .fsqrt w => some (w.raw 0x089)
  | .frcp w => some (w.raw 0x08A)
  | .frsq w => some (w.raw 0x08B)
  | .frnd w => some (w.raw 0x08C)
  | .fldx w => some (w.raw 0x08D)
  | .cvt w => some (w.raw 0x100)
  | .cvtm w => some (w.raw 0x101)
  | .cvtx w => some (w.raw 0x102)
  | .fpack w => some (w.raw 0x103)
  | .funpk w => some (w.raw 0x104)
  | .fexp2 w => some (w.raw 0x108)
  | .flog2 w => some (w.raw 0x109)
  | .ftanh w => some (w.raw 0x10A)
  | .frred w => some (w.raw 0x10B)
  | .fsin w => some (w.raw 0x10C)
  | .fcos w => some (w.raw 0x10D)
  | .ld w => some (w.raw 0x180)
  | .st w => some (w.raw 0x181)
  | .pfch w => some (w.raw 0x182)
  | .cfls w => some (w.raw 0x183)
  | .cinv w => some (w.raw 0x184)
  | .icinv w => some (w.raw 0x188)
  | .csync w => some (w.raw 0x189)
  | .fence w => some (w.raw 0x18A)
  | .atom w => some (w.raw 0x200)
  | .red w => some (w.raw 0x201)
  | .reds w => some (w.raw 0x202)
  | .binit w => some (w.raw 0x208)
  | .barr w => some (w.raw 0x209)
  | .barw w => some (w.raw 0x20A)
  | .bwait w => some (w.raw 0x20B)
  | .bexp w => some (w.raw 0x20C)
  | .bqry w => some (w.raw 0x20D)
  | .cntadd w => some (w.raw 0x210)
  | .cntwait w => some (w.raw 0x211)
  | .chbind w => some (w.raw 0x218)
  | .chstat w => some (w.raw 0x219)
  | .mlds w => some (w.raw 0x280)
  | .mswp w => some (w.raw 0x281)
  | .mma w => some (w.raw 0x282)
  | .accz w => some (w.raw 0x283)
  | .mwin w => some (w.raw 0x284)
  | .ldacc w => some (w.raw 0x285)
  | .stacc w => some (w.raw 0x286)
  | .accq w => some (w.raw 0x287)
  | .vsync w => some (w.raw 0x290)
  | .vchk w => some (w.raw 0x291)
  | .vreq w => some (w.raw 0x292)
  | .bra w => some (w.raw 0x300)
  | .brp w => some (w.raw 0x301)
  | .brc w => some (w.raw 0x302)
  | .jmp w => some (w.raw 0x303)
  | .call w => some (w.raw 0x304)
  | .calli w => some (w.raw 0x305)
  | .ret w => some (w.raw 0x306)
  | .loop w => some (w.raw 0x307)
  | .exit w => some (w.raw 0x308)
  | .nop w => some (w.raw 0x309)
  | .ssync w => some (w.raw 0x30A)
  | .yield w => some (w.raw 0x30B)
  | .sleep w => some (w.raw 0x30C)
  | .trap w => some (w.raw 0x380)
  | .brk w => some (w.raw 0x381)
  | .syscall w => some (w.raw 0x382)
  | .getlt w => some (w.raw 0x383)
  | .spawn w => some (w.raw 0x384)
  | .dbell w => some (w.raw 0x385)
  | .cpy w => some (w.raw 0x388)
  | .cpyr w => some (w.raw 0x389)
  | .cpyg w => some (w.raw 0x38A)
  | _ => none

/-- The encoder: the word of an instruction (R106 to R125); an event row has none. -/
def encode (i : Instr) : Option W96 :=
  match i with
  | .unassignedOpcode w => some w
  | i => i.raw.map packRaw

/-- The 12 bytes of an instruction, lowest address first. -/
def encodeBytes (i : Instr) : List Byte :=
  match encode i with
  | some w => leBytes 12 w.toNat
  | none => []

/-- What the decoder reads from an instruction whose bits are numbered as spec/opcode_table.json numbers them: bit 0
is the least significant bit of the first parcel, and the bits above nbits are zero. -/
def decodeTableWord (nbits w : Nat) : Option Instr :=
  match decodeBytes (leBytes 12 (w % 2 ^ nbits)) with
  | .ok (i, _) => some i
  | .error _ => none

end Sys2Proof
end

