-- ==== Sys2Proof/Config.lean ====
section
/-! DEFINITION. What the spec leaves open as a value: free values without a body (log entries 6 and 7), and the
figures that one implementation fixes. -/
namespace Sys2Proof.Config

/-- The n-th free value of the machine: nothing constrains it (log entry 6). -/
opaque freeValue : Nat → BitVec 64

/-- The lane whose result a lane instruction of class 1, 2 or 3 leaves in an s destination (log entry 19): free. -/
opaque freeLane : Nat → Nat

/-- The result bits that the part gives for a transcendental function, by function number, format width and input
bits, with FTZ: a fixed function of them that the spec bounds but does not state (R175, log entry 7). -/
opaque functionBits : (function width input : Nat) → (ftz : Bool) → BitVec 64

/-- A signature of 64 bytes by the device attestation key over a byte string (R413). -/
opaque signature : List Byte → List Byte

/-- The attestation certificate chain that the management port reads out (R413, R419). -/
opaque certChain : List Byte

/-- Repair rows of each HBM bank, a number of the implementation (R484). -/
opaque repairRows : Nat

/-- Requests beyond one that a tenancy's service queue holds, a number of the implementation (R232, log entry 28). -/
opaque serviceExtra : Nat

/-- The set of a slice in which a line lies, modulo 2,048: the spec gives no index (R71, log entry 67). -/
opaque l2Set : Nat → Nat

end Sys2Proof.Config
end

