-- ==== Sys2Proof/Machine/State.lean ====
section
/-! DEFINITION. The state of the 9152 as plain data, the reasons a step can stop, and the state after cold reset.
INVENTORY.md lists every field with the rule that names it and its reset value. A Map is a list of (key, value) pairs with
rising keys and no entry equal to what an unlisted key reads as. -/
namespace Sys2Proof.Machine

/-- Sparse data by key, in rising key order. -/
abbrev Map (α : Type) := List (Nat × α)

/-- The states of a split that holds a table entry, and of a spilled split through RET (R36, R37). -/
inductive Phase where
  | ready | parked | waiting
deriving DecidableEq, Repr

/-- The WHY reasons (R38). -/
inductive Why where
  | none | barrier | counter | popEmpty | pushFull | vsync | member | ssync | sleep | release | accRow | trapEntry
deriving DecidableEq, Repr

/-- Where a completion counter lies. -/
inductive CRef where
  | pa (a : Nat)
  | sp (wg win off : Nat)
  | peer (ptr : Nat)
deriving DecidableEq, Repr

/-- What a parked split waits on. -/
inductive Blk where
  | none
  | barrier (wg bid : Nat)
  /-- A completion counter and the target of the wait. -/
  | counter (ref : CRef) (target : Nat)
  | chan (ch : Nat)
  | view (id : Nat)
  | member (wg : Nat)
  /-- A release that waits for edge views (R299). -/
  | halo
  /-- A trap that enters no handler: the kernel aborts (R431). -/
  | abort
deriving DecidableEq, Repr

/-- A split (R35, R37) with the record of its earlier stores (R186) and its place in the age matrix (R362). -/
structure Split where
  wi : BitVec 32
  mask : BitVec 32
  depth : BitVec 16 := 0
  phase : Phase := .ready
  why : Why := .none
  blk : Blk := .none
  /-- Cycles of residency in the split table; the AGE field counts them in units of 256. -/
  age : Nat := 0
  /-- Remaining cycles of a sleep (R229) or of a trap entry (R424). -/
  timer : Nat := 0
  /-- The arrival of the barw at wi has been made and its token written (R207). -/
  arrived : Bool := false
  /-- Its event has arrived: the blocking instruction completes at its next issue (R36). -/
  woken : Bool := false
  /-- What it was parked on when its event arrived (R48). -/
  wokeFrom : Why := .none
  /-- The cycle in which the current park began (R48). -/
  parkAt : Nat := 0
  /-- The largest visibility time of the split's stores, and the ids of those that have none yet (R186). -/
  vis : Nat := 0
  pend : List Nat := []
  /-- The same for the split's pushes and IO stores (R189, R390). -/
  ioVis : Nat := 0
  ioPend : List Nat := []
  /-- The same for the split's icinv instructions alone (R194). -/
  icVis : Nat := 0
  icPend : List Nat := []
  /-- The master blocks under edge views of the split's workgroup that its stores have written (R299). -/
  halo : List Nat := []
  /-- The stamp of the split's latest completed acquire (R314). -/
  acqAt : Nat := 0
  /-- When the split joined the back of its group's queue, when it entered the matrix, and how many consecutive
  cycles it has been ineligible there (R362). -/
  qAt : Nat := 0
  mAt : Option Nat := none
  inel : Nat := 0
  /-- The cycle in which the split's instruction was last held back, and whether it was picked in this cycle. -/
  held : Option Nat := none
  iss : Bool := false
  /-- The cycle in which its instruction was last found unable to pair with the first pick (R364). -/
  unpaired : Option Nat := none
  /-- The instruction at wi has issued, and its answers are still to come (R137). -/
  inFlight : Bool := false
  /-- The cycles of its latest csync and of its latest backward branch (R193), and where and when it last issued. -/
  syncAt : Nat := 0
  backAt : Nat := 0
  lastWi : BitVec 32 := 0
  lastAt : Nat := 0
deriving DecidableEq, Repr

/-- A group of 32 lanes (R27) with its registers (R57). Lane registers are keyed by 512 * lane + register code, where v
is 0 to 255, o 256 to 263 and h 264 and 265. -/
structure Group where
  grpid : Nat
  core : Nat
  sub : Nat
  slot : Nat
  created : BitVec 32
  helper : BitVec 32
  regs : Map W32 := []
  sregs : Map W32 := []
  preds : Map W32 := []
  conds : BitVec 8 := 0
  fstat : Map W32 := []
  tcause : Map W32 := []
  twi : Map W32 := []
  tval : Map W64 := []
  abase : Nat := 0
  alimit : Nat := 0
  /-- The window that an mwin of this cycle has set (R256). -/
  nextWin : Option (Nat × Nat) := none
  rot : Nat := 0
  /-- The immediate swaps left in the current sequence (R44): none before one begins, some 0 after it ended. -/
  swaps : Option Nat := none
  /-- The cycle of the latest immediate swap. -/
  swapAt : Option Nat := none
  table : List (Option Split) := [none, none, none, none, none, none, none, none]
  spill : List Split := []
  /-- The bytes of the spill area as private memory holds them, none listed while it has held no entry (R37). -/
  spillMem : List Byte := []
  /-- A merge or a divergence has changed the split table in this cycle (R44). -/
  changed : Bool := false
  /-- Poisoned register words: lane registers by their key, s registers from 0x10000, predicates from 0x20000. -/
  rpoison : List Nat := []
  /-- The record of stores (R186) of splits that are gone, whose lanes have exited (R228). -/
  goneVis : Nat := 0
  gonePend : List Nat := []
  started : Bool := false
  retired : Bool := false
deriving DecidableEq, Repr

/-- A channel-table entry with the position and phase that the channel engine owns while it is bound (R215, R217). -/
structure Chan where
  v : Bool := false
  kind : Nat := 0
  ptr : Nat := 0
  wpos : Nat := 0
  pos : Nat := 0
  ph : Nat := 0
  /-- Mailbox: the words sent towards the peer's TAIL, the peer's room as last learned, and whether it has been asked since
  the channel was last tested. -/
  sent : Nat := 0
  room : Nat := 0
  known : Bool := false
  /-- The physical address of the binding record, for the stores to its SQHD (R389). -/
  pa : Nat := 0
  /-- Windows: the doorbell address of the record that was bound. -/
  dbell : Nat := 0
deriving DecidableEq, Repr

/-- A contribution of reds (R201, R202). -/
structure Contrib where
  id : Nat
  wg : Nat
  grp : Nat
  lane : Nat
  /-- The cell pointer, and the physical address that it had at issue. -/
  cell : Nat
  pa : Nat
  idx : W32
  val : W64
  mod : BitVec 3
  sgn : Bool
  sz : BitVec 3
  /-- Held in the home's reorder buffer rather than at the core. -/
  atHome : Bool := false
  /-- The cell lies on another device, which has rejected the contribution. -/
  away : Bool := false
  /-- The peer device whose reds it is, with the device's own number for it. -/
  peer : Option Nat := none
deriving DecidableEq, Repr

inductive WgPhase where
  | starting | resident | halting | halted | saved
deriving DecidableEq, Repr

/-- A workgroup between placement and retirement (R27, R33, R46). -/
structure Workgroup where
  key : Nat
  ten : Nat
  ctx : Nat
  grid : Nat
  x : Nat
  y : Nat
  z : Nat
  rank : Nat
  clsize : Nat
  cluster : Nat
  cores : List Nat
  spBase : List Nat
  accBase : List Nat
  groups : List Group
  chans : List Chan
  stats : Map Nat := []
  rflags : BitVec 5 := 0
  phase : WgPhase := .starting
  alone : Bool := false
  wdone : Bool := false
  /-- The cycle of the pre-emption request (R49), and of the placement decision (R361). -/
  since : Nat := 0
deriving DecidableEq, Repr

/-- A stationary plane (R237): 128 columns of 192 data bytes and of six stored scale bytes; a plane never loaded lists
none. -/
structure Plane where
  cols : List (List Byte) := []
  scales : List (List Byte) := []
  fmt : Nat := 0
  valid : Bool := false
  poison : Bool := false
deriving DecidableEq, Repr

/-- An array command (R247) with its M-pipe cycle and its sub-core: a plane load with the plane that it has read, a role
exchange, or a quarter operation of an mma. -/
inductive ArrCmd where
  | load (p : Plane) (cyc sub : Nat)
  | swap (cyc sub : Nat)
  | quarter (op : Nat) (cyc sub : Nat)
deriving DecidableEq, Repr

structure Arr where
  owner : Option Nat := none
  live : Plane := {}
  shadow : Plane := {}
  queue : List ArrCmd := []
  /-- The array is busy with a pass until this cycle. -/
  busyUntil : Nat := 0
deriving DecidableEq, Repr

/-- One A row of an mma: the lane, its first accumulator row and the bytes read at issue. -/
structure RowJob where
  lane : Nat
  row : Nat
  bytes : List Byte
  poison : Bool := false
deriving DecidableEq, Repr

/-- An accumulator operation in flight (R241): the rows of its core that it owns, and when its last row is written. -/
structure Mop where
  id : Nat
  wg : Nat
  rows : List Nat
  /-- mma: the voted word, whether it starts from zero, FTZ. Others: none. -/
  mma : Option (W32 × Bool × Bool) := none
  /-- mma: the quarter operations that no pass has taken, in order. -/
  quarters : List (List RowJob) := []
  doneAt : Nat
deriving DecidableEq, Repr

/-- What one core holds for all its sub-cores (R17). -/
structure Core where
  scr : Map Byte := []
  scrPoison : List Nat := []
  acc : Map W32 := []
  accPoison : List Nat := []
  arrays : List Arr := [{}, {}]
  mops : List Mop := []
  /-- The core's site is a spare (R13), and the core is available to placement (R484). -/
  spare : Bool := false
  avail : Bool := true
  /-- The tenancy that last used the core (R66). -/
  lastTen : Option Nat := none
deriving DecidableEq, Repr

/-- Kernel parameters after overrides (R131, R348). -/
structure Kernel where
  codeBase : Nat
  entry : BitVec 32
  trap : BitVec 32
  vregs : Nat
  sregs : Nat
  wgsize : Nat
  scratch : Nat
  acc : Nat
  cluster : Nat
  park : Nat
  producer : Nat
  chmask : Nat
  priv : Nat
  stack : Nat
  x : Nat
  gy : Nat
  gz : Nat
  stats : Nat
  zfill : Bool
  swap : Bool
deriving DecidableEq, Repr

/-- A dispatched grid (R353, R356). -/
structure Grid where
  id : Nat
  node : Nat
  sub : Nat
  ten : Nat
  pasid : Nat
  q : Nat
  k : Kernel
  views : List Nat
  argsPtr : Nat := 0
  args : List W32
  pb : Nat
  save : Nat
  /-- Workgroups along x, the span of an unfitting workgroup (1 when it fits), the next cluster to place. -/
  nx : Nat
  span : Nat
  next : Nat := 0
  retired : Nat := 0
  /-- Order of joining the tenancy's placement list; the cycle since which its next cluster is the head. -/
  joined : Nat
  headSince : Option Nat := none
  stallSince : Option Nat := none
  detections : Nat := 0
  /-- A stall is being resolved by swapping (R48). -/
  swapping : Bool := false
  /-- The remote-flag words of workgroups that have retired, by their number in the grid (R102, R105). -/
  rflags : Map Nat := []
  /-- Set by an abort (R431) or a region failure (R468): status, cause and context number kept. -/
  ended : Option (Nat × Nat × Nat) := none
  /-- The visibility times of its record's writes, by die; all workgroups are gone and STATUS is still to come (R105). -/
  vis : Map Nat := []
  closing : Bool := false
deriving DecidableEq, Repr

inductive NodeSt where
  | pending | held | ready | running
deriving DecidableEq, Repr

/-- A sub-launch of a node as the QFE read it (R348, R349). -/
structure SubRun where
  bytes : List Byte
  started : Bool := false
  done : Bool := false
  /-- Copy program: the descriptor in progress. View refresh: the stamp of its request. -/
  pos : Nat := 0
  /-- Grid: the kernel descriptor as read. -/
  kd : List Byte := []
deriving DecidableEq, Repr

/-- A tile operand: its bytes, the stamp of its request, and whether it has been met (R350, R351). -/
structure TileOp where
  /-- Its place in the bundle record (R354). -/
  idx : Nat := 0
  bytes : List Byte
  since : Nat := 0
  met : Bool := false
deriving DecidableEq, Repr

/-- A node of the ready pool (R352). -/
structure Node where
  num : Nat
  st : NodeSt
  ten : Nat
  pasid : Nat
  prio : Nat
  q : Option (Nat × Nat)
  root : Nat
  weight : Nat
  preds : List Nat
  tag : Nat
  sigaddr : Nat
  sigval : Nat
  resaddr : Nat
  vtab : Nat := 0
  subs : List SubRun := []
  tiles : List TileOp := []
  lens : List Nat := []
  readyAt : Nat := 0
  /-- How far its completion has come: 0 running, 1 result record written, 2 signal added (R354). -/
  phase : Nat := 0
  /-- The visibility times of what its sub-launches and its completion have written, by die. -/
  vis : Map Nat := []
  status : Nat := 0
  statSub : Nat := 0xFF
  cause : Nat := 0
  detail : Nat := 0
deriving DecidableEq, Repr

/-- A root of spawned nodes (R355). -/
structure Root where
  id : Nat
  q : Nat
  ten : Nat
  pasid : Nat
  prio : Nat
  count : Nat := 0
  tag : Nat
  sigaddr : Nat
  sigval : Nat
  resaddr : Nat
  /-- What the result record of the root will hold: the status of its first node. -/
  status : Nat := 0
  statSub : Nat := 0xFF
  cause : Nat := 0
  detail : Nat := 0
deriving DecidableEq, Repr

/-- A hardware queue: its QSB fields (R336) and the rung value (R337). -/
structure Queue where
  qsb : Nat := 0
  base : Nat := 0
  log2depth : Nat := 0
  prio : Nat := 0
  ten : Nat := 0
  st : Nat := 0
  pasid : Nat := 0
  rdidx : Nat := 0
  nout : Nat := 0
  err : Nat := 0
  erridx : Nat := 0
  waddr : Nat := 0
  wtgt : Nat := 0
  back : Map Nat := []
  rung : Nat := 0
deriving DecidableEq, Repr

inductive CopyOwner where
  | wg (key grp : Nat)
  | prog (node sub : Nat)
  | lens (ten slot : Nat)
  /-- A Prism engine (4 * die + engine) with the workgroup that owns the edge view (R298). -/
  | prism (unit key : Nat)
deriving DecidableEq, Repr

/-- A copy in flight (R259, R260, R271). -/
structure Copy where
  id : Nat
  owner : CopyOwner
  core : Nat
  pasid : Nat
  desc : Nat
  opf : Nat
  acq : Bool
  rel : Bool
  scope : Nat
  src : Nat
  dst : Nat
  n0 : Nat
  n1 : Nat
  n2 : Nat
  ctl : Nat
  ss1 : Int
  ss2 : Int
  ds1 : Int
  ds2 : Int
  cptr : Nat
  cval : Nat
  idx : Nat
  stg : Nat
  stgsz : Nat
  gtag : Nat := 0
  /-- Bytes counted (R271), bytes moved, bytes applied (cpyr). -/
  rep : Nat := 0
  moved : Nat := 0
  applied : Nat := 0
  /-- The visibility times of the bytes moved, by die, and space-6 writes not yet acknowledged. -/
  vis : Map Nat := []
  pend : List Nat := []
  /-- Stopped and marked for replay; its abandonments, and REP at the last. -/
  replay : Bool := false
  abandons : Nat := 0
  /-- Abandonments in a row without progress of REP (R449). -/
  inRow : Nat := 0
  repAt : Nat := 0
  /-- Failed: the fault code, FSPC and failing address; the fault record has been written (R454). -/
  failed : Option (Nat × Nat × Nat) := none
deriving DecidableEq, Repr

/-- The MOESI states and the transient states of an agent (R317, R320). -/
inductive LineSt where
  | m | o | e | s | isD | imAD | smA | omA | miA | iiA
deriving DecidableEq, Repr

/-- A write recorded at the L2 with its visibility time (R313), made by a lane or by none. -/
structure TimedWrite where
  vis : Nat
  off : Nat
  bytes : List Byte
  lane : Option Nat := none
deriving DecidableEq, Repr

/-- A line at a package agent: dies 0 to 3, system-core caches 4 (R313, R316, R320). -/
structure Line where
  agent : Nat
  addr : Nat
  st : LineSt
  data : List Byte
  writes : List TimedWrite := []
  wts : Nat := 0
  rts : Nat := 0
  ten : Nat := 0
  /-- A forward or an invalidation has arrived: loads wait until the line is back in S or better (R321). -/
  leaving : Bool := false
  /-- A write has been applied to the line since it arrived or was granted. -/
  used : Bool := false
  /-- The requesters whose loads wait for the line, with their lease lengths: a core's L1 by the core's number, others by
  numbers of their own (R313). -/
  asks : List (Nat × Nat) := []
deriving DecidableEq, Repr

inductive HomeSt where
  | i | s | e | o | m
deriving DecidableEq, Repr

/-- The transient states that last beyond a step (R319): B_INV, B_FS and B_FM; B_MEM and B_WB are left within the step that
enters them. -/
inductive HomeBusy where
  | inv | fs | fm
deriving DecidableEq, Repr

inductive MsgKind where
  | gets | getm | upg | putm | puto | pute | inv | invack | fwds | fwdm | data | grant | done | putack | putstale
deriving DecidableEq, Repr

/-- A coherence message (R318). `agent` is the package agent that sent it to the home or receives it. -/
structure Msg where
  kind : MsgKind
  agent : Nat
  addr : Nat
  /-- FwdS and FwdM: the requester. Data: the state granted. -/
  other : Nat := 0
  bytes : List Byte := []
  give : LineSt := .s
  /-- It has arrived, and R321 holds its answer back, or the agent has yet to take it. -/
  here : Bool := false
deriving DecidableEq, Repr

/-- The home's record of a line (R317, R319). -/
structure Home where
  addr : Nat
  st : HomeSt := .i
  owner : Option Nat := none
  sharers : List Nat := []
  busy : Option HomeBusy := none
  /-- The request in progress: its kind and requester, the InvAcks awaited, the cycle it started. -/
  req : MsgKind := .gets
  who : Nat := 0
  acks : List Nat := []
  since : Nat := 0
  queue : List Msg := []
deriving DecidableEq, Repr

/-- What waits at a die's L2 (R313): a write; the read-modify-write of a lane or of a peer; a cfls; an addition, a
saturating addition or a setting of the bits of a mask by an engine or a hub agent; a load, or an atomic's demand for the line, that has
met a region on the other side and that asks for the line in its turn (R78). -/
inductive StoreOp where
  | write
  | atomic (mod : BitVec 3) (sgn : Bool) (sz : BitVec 3) (b cmp : W64)
  | flush
  | add (v : Nat)
  | addSat (v : Nat)
  | setIn (mask v : Nat)
  | load (who lease : Nat)
  | demand
deriving DecidableEq, Repr

/-- An access that its die has not yet applied (R313). An engine's and a hub agent's have no workgroup. -/
structure Store where
  id : Nat
  die : Nat
  wg : Nat
  grp : Nat
  lane : Nat
  pa : Nat
  bytes : List Byte
  op : StoreOp
  io : Bool
  /-- Lower lanes of the same instruction that wrote the same bytes, with what they wrote (R189). -/
  under : List (Nat × List Byte) := []
  /-- An engine's or a hub agent's write that has been applied: the visibility time that it waits for (R311, R325). -/
  vis : Option Nat := none
deriving DecidableEq, Repr

/-- A space-6 access of this device on its way (R56, R330, R332). -/
structure Flit where
  id : Nat
  wg : Nat
  grp : Nat
  lane : Nat
  wi : BitVec 32
  ptr : Nat
  op : PeerOp
  ans : Option PeerAns := none
  since : Nat := 0
  /-- A posted write: the split does not wait for it (R332). -/
  posted : Bool
  /-- A contribution whose peer has rejected it before its instruction was done (R201). -/
  rejected : Bool := false
  /-- A write to this device's own window: the visibility times, by die, after which it is acknowledged. -/
  vis : Option (Map Nat) := none
  /-- Mailbox: the channel whose word the flit carries. -/
  chan : Option Nat := none
  copy : Option Nat := none
deriving DecidableEq, Repr

/-- What the root complex gives an endpoint or a host (R382 to R384, R416): data, a completion with EP, Unsupported Request, a
translation with its page size and its read and write permissions, or the response to a page request. -/
inductive HostAns where
  | data (bs : List Byte)
  | poisoned (n : Nat)
  | unsupported (rid : Nat)
  | translation (rid pa size : Nat) (rd w : Bool)
  | pageResponse (rid page : Nat) (ok : Bool)
  /-- Response Failure for a page request beyond the function's allocation. -/
  | pageFailure (rid page : Nat)
deriving DecidableEq, Repr

/-- A peer device's access that has been performed in this device's window (R418, R446): the visibility times that its
acknowledgement awaits, and its answer (R332). -/
structure Inbound where
  src : Nat
  vis : Map Nat
  ans : PeerAns
deriving DecidableEq, Repr

/-- A lane's write posted to a root port and not yet accepted (R327). -/
structure Posted where
  id : Nat
  wg : Nat
  grp : Nat
  lane : Nat
  port : Nat
  pa : Nat
  bytes : List Byte
deriving DecidableEq, Repr

/-- A lane's load of a device page that waits for its completion (R327, R469). -/
structure DevLoad where
  id : Nat
  wg : Nat
  grp : Nat
  lane : Nat
  wi : BitVec 32
  port : Nat
  pa : Nat
  n : Nat
  since : Nat := 0
  ans : Option (Option (List Byte)) := none
deriving DecidableEq, Repr

/-- An L1 copy of a line with its grant and the stamp of its fill (R314). -/
structure L1Line where
  core : Nat
  addr : Nat
  data : List Byte
  grant : Nat
  at_ : Nat
deriving DecidableEq, Repr

/-- A code block in a core's instruction cache (R107, R193). -/
structure IBlock where
  core : Nat
  addr : Nat
  bytes : List Byte
  /-- The cycle in which the core has marked it stale, and that in which the last cache of the package has. -/
  stale : Option Nat := none
  known : Option Nat := none
deriving DecidableEq, Repr

/-- An icinv in progress: the block and the caches still to acknowledge (R193). -/
structure IcReq where
  id : Nat
  die : Nat
  addr : Nat
  left : List Nat
deriving DecidableEq, Repr

/-- Ownership of a 2 MiB region of HBM (R77, R78). -/
structure Region where
  compute : Bool := false
  /-- A transfer is in progress, and the cycle it began. -/
  moving : Bool := false
  began : Nat := 0
  /-- The cycle before which the region keeps its owner; 0 when it is not held. -/
  holdUntil : Nat := 0
  /-- A request from the other side is waiting. -/
  wanted : Bool := false
deriving DecidableEq, Repr

/-- A region's steward registers (R407, R312). -/
structure Steward where
  lease : Nat := 8
  ten : Nat := 0xFF
  sites : Nat := 0
  sstat : Nat := 0
  reserved : Bool := false
  restarts : List Nat := []
  downUntil : Option Nat := none
  /-- The cycle in which the region's placer last acted (R359). -/
  actedAt : Option Nat := none
  /-- What the placer found of its region's resources and of its tenancy's list when it last acted; empty: it has not (R359). -/
  seen : List Nat := []
deriving DecidableEq, Repr

/-- A tracked master block (R281). -/
structure Master where
  die : Nat
  pa : Nat
  wt : Nat
  snap : Nat := 0
  queued : Bool := false
  /-- The views that depend on the block: view id and view block m. -/
  deps : List (Nat × Nat)
deriving DecidableEq, Repr

/-- A refresh in progress at a Prism engine (R282): the snapshot once it is taken, with its time and its poison; the views
still to be written, and how far the first of them has come. -/
structure Refresh where
  id : Nat
  die : Nat
  eng : Nat
  pa : Nat
  since : Nat
  snap : Option (Nat × List Byte × Bool) := none
  left : List (Nat × Nat) := []
  run : Nat := 0
  vis : Map Nat := []
deriving DecidableEq, Repr

/-- A registered view with its descriptor (R275, R276). -/
structure View where
  id : Nat
  ptr : Nat
  /-- The address space in which the descriptor lies at ptr. -/
  space : Nat
  ten : Nat
  mbase : Nat
  mstride : Nat
  rows : Nat
  cols : Nat
  row0 : Nat
  vrows : Nat
  col0 : Nat
  vcols : Nat
  vbase : Nat
  vstride : Nat
  sbase : Nat
  tags : Nat
  stats : Nat
  ctl : Nat
  mdev : Nat
  vidx : Nat
  pasid : Nat
  owner : Nat
  /-- Edge view: the grid and the cluster of its owner. -/
  home : Option (Nat × Nat) := none
  /-- Stamps of refreshes ended: view block m to the stamp of its latest, and of its latest found faulted. -/
  ends : Map Nat := []
  faults : Map Nat := []
deriving DecidableEq, Repr

/-- An event arbiter's block (R481) with the events that replay holds (R483). -/
structure Arbiter where
  mode : Nat := 0
  base : Nat := 0
  size : Nat := 0
  seq : Nat := 0
  ovf : Bool := false
  div : Bool := false
  divseq : Nat := 0
  held : List (Nat × Nat × Nat × Instr) := []
  waitSince : Option Nat := none
  /-- In replay: the next journal record. -/
  recNo : Nat := 0
deriving DecidableEq, Repr

/-- A reply command (R474): the block, what is written there, the request whose journal record it marks, and how far it
has come with the visibility times of what it has written. -/
structure Reply where
  pasid : Nat
  ptr : Nat
  status : Nat
  result : Nat
  req : Option Nat := none
  phase : Nat := 0
  vis : Map Nat := []
deriving DecidableEq, Repr

/-- A command accepted by a dispatch slot (R466): what remains of its effects. -/
inductive SlotCmd where
  /-- With the visibility times of what the QFE wrote before it (R25). -/
  | signal (q addr : Nat) (v : W64) (store : Bool) (vis : Map Nat)
  | waitEnd (q : Nat)
  | node (q : Nat) (n : Node)
  | reply (r : Reply)
deriving DecidableEq, Repr

structure Watchdog where
  wmax : Nat := 0x0400
  wmin : Nat := 0x0010
  nextMax : Nat := 0x0400
  nextMin : Nat := 0x0010
  kicked : Nat := 0
  cause : Nat := 0
  restarts : Nat := 0
deriving DecidableEq, Repr

/-- A QFE core: stopped for good, or restarting until a cycle, with the cycles of its restarts (R467). -/
structure QfeCore where
  stopped : Bool := false
  restart : Option Nat := none
  times : List Nat := []
  slots : List SlotCmd := []
  /-- The present round: the lanes that have taken a packet, and the priority of the step in progress (R344). -/
  took : List Nat := []
  step : Nat := 0
  /-- The cycle in which the step ends (R344). -/
  ends : Nat := 0
deriving DecidableEq, Repr

/-- A Mirror-proxy entry (R390). -/
structure Proxy where
  addr : Nat
  value : Nat
  die : Nat
  vis : Nat
  pend : List Nat
deriving DecidableEq, Repr

/-- The arbiter's work on a Lens slot (R397): the sub-launch record that runs, and how far it has come. -/
structure LensRun where
  ten : Nat
  slot : Nat
  repl : Bool := false
  /-- Draining: a promotion came. -/
  back : Bool := false
  draining : Bool := false
  bytes : List Byte := []
  pos : Nat := 0
  /-- It has failed (R471), or its host function has ended. -/
  failed : Bool := false
  hostDone : Bool := false
  vis : Map Nat := []
deriving DecidableEq, Repr

/-- A PCI Express link p.k (R379, R386, R470) with the window that the kernel gives it (R381): its bridge window, or the CXL range that
it shares with `ways` links, of which it is number `pos`; and the lanes of its port that it uses. -/
structure Link where
  port : Nat
  link : Nat
  up : Bool
  cxl : Bool
  contained : Bool := false
  base : Nat := 0
  size : Nat := 0
  ways : Nat := 1
  pos : Nat := 0
  first : Nat := 0
  width : Nat := 0
deriving DecidableEq, Repr

/-- A PCI Express function (R382 to R385). TDISP state: 0 unlocked, 1 locked, 2 run, 3 error, 4 none. -/
structure Fn where
  rid : Nat
  ten : Option Nat
  port : Nat
  link : Nat
  defPasid : Option Nat := none
  ats : Bool := false
  refused : Bool := false
  atsWait : Bool := false
  alloc : Nat := 0
  tdisp : Nat := 4
  grants : List (Nat × Nat) := []
deriving DecidableEq, Repr

/-- A page request (R384, R445): core or routing id, page, kind 0 read, 1 write, 2 atomic, 3 fetch. -/
structure PageReq where
  src : Nat
  pasid : Nat
  page : Nat
  kind : Nat
  ans : Option Bool := none
deriving DecidableEq, Repr

/-- The shootdown registers (R448). -/
structure Shoot where
  pasid : Nat := 0
  va : Nat := 0
  sz : Nat := 0
  all : Bool := false
  mig : Bool := false
  abandon : Nat := 0
  atsto : Bool := false
  busy : Bool := false
  since : Nat := 0
  /-- Accesses with a lower id had passed translation when it started. -/
  mark : Nat := 0
deriving DecidableEq, Repr

/-- The migration registers (R450). -/
structure Migr where
  src : Nat := 0
  dst : Nat := 0
  busy : Bool := false
  mstat : Nat := 0
  msz : Nat := 0
deriving DecidableEq, Repr

structure Forward where
  src : Nat
  dst : Nat
  size : Nat
  /-- Its MIG shootdown has completed; copies with a lower id may hold a pin on the old range (R452). -/
  shot : Bool := false
  mark : Nat := 0
deriving DecidableEq, Repr

/-- A memory error log's control block (R442). -/
structure Log where
  base : Nat := 0
  log2n : Nat := 0
  vec : Nat := 0
  lost : Nat := 0
  head : Nat := 0
  tail : Nat := 0
  cecnt : Nat := 0
deriving DecidableEq, Repr

/-- A partition-map entry (R408) with the tenancy's key. -/
structure Tenancy where
  st : Nat := 0
  regions : Nat := 0
  slices : Nat := 0
  vmid : Nat := 0
  lens : Nat := 0
  lensPasid : Nat := 0
  nlens : Nat := 0
  queues : Nat := 0
  carve : List (Nat × Nat) := []
  dbgt : Nat := 0
  ndbgt : Nat := 0
  funcs : List Nat := []
  key : Option Nat := none
  /-- Held contributions of the tenancy's workgroups are in contribs; its frozen images' digests here (R477). -/
  hashes : List (List Byte) := []
deriving DecidableEq, Repr

structure Mbox where
  cmd : Nat := 0
  status : Nat := 1
  arg : Nat := 0
deriving DecidableEq, Repr

/-- A firmware slot (R413, R414): version, security version, image, whether its checks pass. -/
structure FwSlot where
  ver : Nat := 0
  svn : Nat := 0
  minSvn : Nat := 0
  image : List Byte := []
  sigOk : Bool := true
  loaded : Option (Nat × List Byte) := none
deriving DecidableEq, Repr

/-- An inbound window entry (R418). -/
structure Window where
  peer : Nat := 0
  ten : Nat := 0
  v : Bool := false
  rd : Bool := false
  w : Bool := false
  pasid : Nat := 0
  base : Nat := 0
  size : Nat := 0
  va : Nat := 0
deriving DecidableEq, Repr

/-- A system-service request on its way, queued, or held at its core (R232). -/
structure SvcReq where
  id : Nat
  ten : Nat
  pasid : Nat
  ptr : Nat
  /-- The caller's root, as in JRec, and the context number of its workgroup. -/
  root : Nat
  ctx : Nat
  grid : Nat
  wg : Nat
  grp : Nat
  queued : Bool
deriving DecidableEq, Repr

/-- A call-journal record (R412, R474) with the request that it keeps. -/
structure JRec where
  ten : Nat
  callid : Nat
  /-- The request that it records. -/
  req : Nat
  /-- 1 in-progress, 2 done. -/
  st : Nat := 1
  status : Nat := 0
  result : Nat := 0
  /-- The caller's root: twice the node number of a node that is its own root, or twice the root plus one. -/
  root : Nat
  svc : Nat
  pasid : Nat
  args : List Nat
  ctx : Nat
  /-- The request blocks that await the reply, by PASID and address; with none left, a done record is REPLIED. -/
  blocks : List (Nat × Nat) := []
  /-- Its root has completed before every block had its reply. -/
  freed : Bool := false
deriving DecidableEq, Repr

/-- Wear and spares (R484): a kind, the unit and the index of a structure. -/
structure Subst where
  kind : SpareKind
  unit : Nat
  idx : Nat
deriving DecidableEq, Repr

/-- A split chosen to issue: workgroup key, group and split-table entry. -/
structure Focus where
  wg : Nat
  grp : Nat
  pos : Nat
deriving DecidableEq, Repr

/-- The pipes of a sub-core (R18). -/
inductive Pipe where
  | x | y | t | l | m | s
deriving DecidableEq, Repr

/-- One pick of a sub-core in a cycle (R363, R364): its split, its instruction's place, whether J is set there, whether it is
group-wide or writes an s register, whether it may go to X or Y, its pipe with its occupancy, and the v registers it reads. -/
structure Pick where
  sub : Nat
  foc : Focus
  wi : BitVec 32 := 0
  depth : BitVec 16 := 0
  join : Bool := false
  sole : Bool := false
  either : Bool := false
  pipe : Pipe := .s
  occ : Nat := 1
  regs : List (Nat × Nat) := []
  /-- The lane registers of its group before it (R137). -/
  before : Map W32 := []
deriving DecidableEq, Repr

/-- A system-core hart (R405): the VMID of the guest that it runs, its load reservation, by line, and whether it runs on a spare
hart (R484). -/
structure Hart where
  guest : Option Nat := none
  resv : Option Nat := none
  spare : Bool := false
deriving DecidableEq, Repr

/-- The whole machine. -/
structure State where
  agenda : List Instr := []
  focus : Option Focus := none
  /-- Events that wait for a page, a visibility time or room: they come again at each tick of the hub's lease clock. -/
  waiting : List Instr := []
  /-- Arrivals that the event arbiter of their die has passed and that have yet to act (R26). -/
  ordered : List Instr := []
  free : Nat := 0
  nextId : Nat := 1
  seq : Nat := 1
  cycle : Nat := 0
  /-- The picks of this cycle (R363). -/
  picked : List Pick := []
  /-- Pipes in use: sub-core, pipe, and the first cycle in which it accepts an instruction (R167). -/
  pipes : List (Nat × Pipe × Nat) := []
  clocks : List Nat := [0, 0, 0, 0, 0]
  wgs : List Workgroup := []
  cores : Map Core := []
  mem : List Host.Cell := []
  poison : List Nat := []
  lines : List Line := []
  homes : List Home := []
  msgs : List Msg := []
  /-- Package agents whose link has been marked failed (R458). -/
  deadLinks : List Nat := []
  storeQ : List Store := []
  contribs : List Contrib := []
  fabric : List Flit := []
  inbound : List Inbound := []
  /-- Answers to peer devices: the device and the answer, latest first. -/
  peerAnswers : List (Nat × PeerAns) := []
  posted : List Posted := []
  /-- Writes that root ports have accepted for their devices, latest first. -/
  devWrites : List (Nat × List Byte) := []
  devLoads : List DevLoad := []
  l1 : List L1Line := []
  icache : List IBlock := []
  icreqs : List IcReq := []
  regions : Map Region := []
  stewards : Map Steward := []
  masters : List Master := []
  prismQ : Map (List Nat) := []
  refreshes : List Refresh := []
  views : List View := []
  arbiters : Map Arbiter := []
  ptRoots : Map Nat := []
  /-- The tenancy of a PASID plus one, as the kernel assigns it; 0 for the kernel's own (R382). -/
  pasidTen : Map Nat := []
  /-- By root port, the visibility times of the DMA writes that it has received (R328). -/
  portVis : Map (Map Nat) := []
  grids : List Grid := []
  nodes : List Node := []
  roots : List Root := []
  queues : Map Queue := []
  /-- The cycle from which the pool may dispatch again (R353). -/
  dispatchAt : Nat := 0
  copies : List Copy := []
  qfe : Map QfeCore := []
  /-- The visibility times of the QFE's writes, by die (R25). -/
  qfeVis : Map Nat := []
  watchdogs : Map Watchdog := []
  iat : Map (BitVec 128) := []
  proxy : List Proxy := []
  /-- Doorbell values written out to devices, latest first. -/
  doorbells : List (Nat × Nat) := []
  lensRuns : List LensRun := []
  /-- Evictions that have reached a slot, by tenancy, slot and cycle; promotions of the cycle come first (R397). -/
  evictions : List (Nat × Nat × Nat) := []
  pcfg : Map W32 := []
  links : List Link := []
  /-- The bifurcation in force at each port (R379). -/
  bifurc : Map Nat := []
  functions : List Fn := []
  /-- The IDE streams with keys, by port: its link stream, or the selective stream of a function (R385). -/
  ide : List (Nat × Option Nat) := []
  coreReqs : List PageReq := []
  epReqs : List PageReq := []
  shoot : Shoot := {}
  mig : Migr := {}
  forwards : List Forward := []
  logs : Map Log := []
  irqs : List Nat := []
  tens : Map Tenancy := []
  staged : Map Tenancy := []
  /-- Tenancies whose placement a COMMIT has stopped (R410). -/
  held : List Nat := []
  /-- A kernel restart is in progress (R477). -/
  restarting : Bool := false
  l2mode : Nat := 0
  stagedMode : Option Nat := none
  mbox : Mbox := {}
  restarts : Nat := 0
  devnum : Nat := 0
  devnumSet : Bool := false
  fw : Map FwSlot := []
  /-- Boot: none while it has not stopped, or the slot that stopped it (R414). -/
  bootFail : Option Nat := none
  booted : Bool := false
  fuse : Nat := 0
  epwin : Nat := 0
  /-- The recovery mailbox of the endpoint's BAR0: CMD, STATUS and LEN, and the image data (R416). -/
  recMbox : List Nat := [0, 0, 0]
  recImage : List Byte := []
  windows : Map Window := []
  effAuth : List Nat := []
  effUp : List Nat := []
  /-- Ports whose spare lane is in use: 0 to 7 PCI Express, 0x10 to 0x21 Effeop (R378, R464, R478). -/
  laneSpare : List Nat := []
  routes : Map (List Nat) := []
  services : List SvcReq := []
  journal : List JRec := []
  power : Nat := 2800
  /-- What the management port last read out (R419). -/
  telemetry : List Nat := []
  ceTimes : Map (List Nat) := []
  /-- Spares in use; structures scheduled for a spare; structures for which none remained (R484). -/
  substs : List Subst := []
  worn : List Subst := []
  wornOut : List Subst := []
  /-- Answers to endpoints and to an external host, latest first. -/
  answers : List HostAns := []
  /-- The 32 enabled harts, and what their accesses have given them, latest first (R405, R326). -/
  harts : Map Hart := []
  hartAnswers : List (Nat × HostAns) := []
deriving DecidableEq, Repr

/-- Why a step stops with a fault. No meaning of this model ends in a fault: every condition that the spec describes
has its own effect. The one constructor is there for a state that no rule describes. -/
inductive Fault where
  /-- Raised by none of the meanings; safe. -/
  | noRule
deriving DecidableEq, Repr

/-- Why a step is refused. -/
inductive Refusal where
  /-- Raised by an arm of exec whose instruction has no meaning yet; safe: nothing is claimed of it. -/
  | notModelled (mnemonic : String)
deriving DecidableEq, Repr

/-- The machine right after cold reset (R66, R14, R77, R312, R379, R393, R407, R442, R448, R450, R465, R481). Fields for
which the spec states no reset value are zero or empty (log entry 3); memory lists nothing (log entry 4). -/
def State.reset : State := {}

end Sys2Proof.Machine
end

