-- ==== Sys2Proof/Machine/Bits.lean ====
section
/-! DEFINITION. Bit fields of numbers, sign extension, lane masks and sparse maps. -/
namespace Sys2Proof.Machine

/-- Bits lo+len-1:lo of a number (R1). -/
def bitsOf (n lo len : Nat) : Nat := n / 2 ^ lo % 2 ^ len

/-- Bit i of a number. -/
def bitOf (n i : Nat) : Bool := n / 2 ^ i % 2 == 1

/-- The value of the low w bits of a number in two's complement (R79). -/
def sextInt (w n : Nat) : Int :=
  let m := n % 2 ^ w
  if 2 * m ≥ 2 ^ w then (m : Int) - (2 ^ w : Nat) else (m : Int)

/-- An integer modulo 2^w (R9). -/
def wrapNat (w : Nat) (x : Int) : Nat := (x % ((2 ^ w : Nat) : Int)).toNat

/-- The lanes of a mask in ascending order. -/
def lanesOf (m : BitVec 32) : List Nat := (List.range 32).filter (fun l => m.getLsbD l)

/-- The mask of one lane. -/
def laneBit (l : Nat) : BitVec 32 := 1#32 <<< l

/-- The mask of a list of lanes. -/
def maskOf (ls : List Nat) : BitVec 32 := ls.foldl (fun m l => m ||| laneBit l) 0#32

/-- The lowest lane of a mask, 0 when it has none. -/
def lowestLane (m : BitVec 32) : Nat := (lanesOf m).headD 0

/-- The value at a key; an unlisted key reads as d. -/
def mget {α : Type} (d : α) : Map α → Nat → α
  | [], _ => d
  | (k, v) :: m, i => if i = k then v else mget d m i

/-- The map without a key. -/
def mdel {α : Type} : Map α → Nat → Map α
  | [], _ => []
  | (k, v) :: m, i => if i = k then mdel m i else (k, v) :: mdel m i

/-- The map with a value at a key. -/
def mput {α : Type} : Map α → Nat → α → Map α
  | [], i, v => [(i, v)]
  | (k, w) :: m, i, v => if i = k then (i, v) :: m else if i < k then (i, v) :: (k, w) :: m else (k, w) :: mput m i v

/-- Writing a value in canonical form: the value that an unlisted key reads as removes the entry. -/
def mset {α : Type} [DecidableEq α] (d : α) (m : Map α) (i : Nat) (v : α) : Map α :=
  if v = d then mdel m i else mput m i v

/-- Writing values at successive keys. -/
def msetAll {α : Type} [DecidableEq α] (d : α) : Map α → Nat → List α → Map α
  | m, _, [] => m
  | m, i, v :: vs => msetAll d (mset d m i v) (i + 1) vs

/-- Reading n successive keys. -/
def mgetAll {α : Type} (d : α) (m : Map α) (i n : Nat) : List α := (List.range n).map (fun j => mget d m (i + j))

/-- Keys rise and no entry equals what an unlisted key reads as. -/
def mwf {α : Type} [DecidableEq α] (d : α) : Map α → Bool
  | [] => true
  | (k, v) :: m => (v != d) && (match m with | [] => true | (k', _) :: _ => k < k') && mwf d m

/-- The map without the keys from lo up to lo + n. -/
def mclear {α : Type} (m : Map α) (lo n : Nat) : Map α := m.filter (fun e => e.1 < lo || e.1 ≥ lo + n)

/-- A set of numbers as a rising list. -/
def insertNat (x : Nat) : List Nat → List Nat
  | [] => [x]
  | y :: ys => if x = y then y :: ys else if x < y then x :: y :: ys else y :: insertNat x ys

/-- The largest of a list, 0 when it is empty. -/
def maxNat (l : List Nat) : Nat := l.foldl Nat.max 0

/-- The smallest of a list, if any. -/
def minNat? : List Nat → Option Nat
  | [] => none
  | x :: xs => some (xs.foldl Nat.min x)

/-- Bits set in a number of w bits. -/
def popcount : Nat → Nat → Nat
  | 0, _ => 0
  | w + 1, n => n % 2 + popcount w (n / 2)

/-- The position of the most significant one of a nonzero number, by w steps. -/
def topBit : Nat → Nat → Nat
  | 0, _ => 0
  | w + 1, n => if n < 2 then 0 else topBit w (n / 2) + 1

/-- Zeros below the least significant one within w bits, w for zero. -/
def trailingZeros : Nat → Nat → Nat
  | 0, _ => 0
  | w + 1, n => if n % 2 = 1 then 0 else trailingZeros w (n / 2) + 1

/-- The low w bits in reverse order. -/
def bitReverse : Nat → Nat → Nat
  | 0, _ => 0
  | w + 1, n => n % 2 * 2 ^ w + bitReverse w (n / 2)

/-- Bytes of a little-endian field of a record. -/
def fieldAt (bs : List Byte) (off n : Nat) : Nat := leNat ((bs.drop off).take n)

/-- A record with a little-endian field replaced. -/
def putField (bs : List Byte) (off n v : Nat) : List Byte := bs.take off ++ leBytes n v ++ bs.drop (off + n)

/-- All bytes of a range of a record are zero (R7). -/
def zeroBytes (bs : List Byte) (off n : Nat) : Bool := ((bs.drop off).take n).all (· == 0#8)

/-- A list in the order of le; elements that le does not tell apart stay as they were. -/
def insertBy {α : Type} (le : α → α → Bool) (x : α) : List α → List α
  | [] => [x]
  | y :: ys => if le x y then x :: y :: ys else y :: insertBy le x ys
def sortBy {α : Type} (le : α → α → Bool) (l : List α) : List α := l.foldr (insertBy le) []

end Sys2Proof.Machine
end

