-- ==== Sys2Proof/Machine/Ops.lean ====
section
/-! DEFINITION. Named operations over the state: splits and their table (R35 to R44), lane registers (R57 to R60), the
error log (R442), taking a trap (R422 to R426) and what a split waits for (R186, R195). -/
namespace Sys2Proof.Machine

/-! ### Finding and replacing parts of the state -/

def State.wg? (s : State) (key : Nat) : Option Workgroup := s.wgs.find? (fun w => w.key == key)
def State.grid? (s : State) (id : Nat) : Option Grid := s.grids.find? (fun g => g.id == id)
def State.node? (s : State) (n : Nat) : Option Node := s.nodes.find? (fun x => x.num == n)
def State.copy? (s : State) (id : Nat) : Option Copy := s.copies.find? (fun x => x.id == id)

def State.modWg (s : State) (key : Nat) (f : Workgroup → Workgroup) : State :=
  { s with wgs := s.wgs.map (fun w => if w.key = key then f w else w) }
def State.modGrp (s : State) (key g : Nat) (f : Group → Group) : State :=
  s.modWg key (fun w => { w with groups := w.groups.modify g f })
def State.modGrid (s : State) (id : Nat) (f : Grid → Grid) : State :=
  { s with grids := s.grids.map (fun g => if g.id = id then f g else g) }
def State.modNode (s : State) (n : Nat) (f : Node → Node) : State :=
  { s with nodes := s.nodes.map (fun x => if x.num = n then f x else x) }
def State.modCopy (s : State) (id : Nat) (f : Copy → Copy) : State :=
  { s with copies := s.copies.map (fun x => if x.id = id then f x else x) }

def State.core (s : State) (c : Nat) : Core := mget {} s.cores c
def State.modCore (s : State) (c : Nat) (f : Core → Core) : State :=
  { s with cores := mset {} s.cores c (f (s.core c)) }
def State.steward (s : State) (n : Nat) : Steward := mget {} s.stewards n
def State.modSteward (s : State) (n : Nat) (f : Steward → Steward) : State :=
  { s with stewards := mset {} s.stewards n (f (s.steward n)) }
def State.queue (s : State) (q : Nat) : Queue := mget {} s.queues q
def State.modQueue (s : State) (q : Nat) (f : Queue → Queue) : State :=
  { s with queues := mset {} s.queues q (f (s.queue q)) }
def State.ten (s : State) (t : Nat) : Tenancy := mget {} s.tens t
def State.modTen (s : State) (t : Nat) (f : Tenancy → Tenancy) : State :=
  { s with tens := mset {} s.tens t (f (s.ten t)) }
def State.log (s : State) (u : Nat) : Log := mget {} s.logs u
def State.modLog (s : State) (u : Nat) (f : Log → Log) : State := { s with logs := mset {} s.logs u (f (s.log u)) }

/-- The 48-bit lease clock of a die, or of the hub as unit 4 (R14). -/
def State.clock (s : State) (die : Nat) : Nat := s.clocks.getD die 0

/-- R4: the die and the region of a core. -/
def dieOfCore (c : Nat) : Nat := c / 48
def regionOfCore (c : Nat) : Nat := c / 8

/-- A fresh id for a request on its way. -/
def State.fresh (s : State) : Nat × State := (s.nextId, { s with nextId := s.nextId + 1 })
/-- A fresh stamp: later stamps are larger. -/
def State.stamp (s : State) : Nat × State := (s.seq, { s with seq := s.seq + 1 })
/-- The next free value (log entry 6). -/
def State.freeVal (s : State) : W64 × State := (Config.freeValue s.free, { s with free := s.free + 1 })

/-! ### The issuing split -/

/-- What an instruction of a split reads of its surroundings. -/
structure Ctx where
  foc : Focus
  wg : Workgroup
  g : Group
  sp : Split
  gr : Grid

def Focus.lookup (f : Focus) (s : State) : Option Ctx :=
  match s.wg? f.wg with
  | none => none
  | some w =>
    match w.groups[f.grp]?, s.grid? w.grid with
    | some g, some gr =>
      match g.table[f.pos]? with
      | some (some sp) => some { foc := f, wg := w, g := g, sp := sp, gr := gr }
      | _ => none
    | _, _ => none

/-- The issuing split and its group, workgroup and grid; none when nothing is presented. -/
def State.ctx? (s : State) : Option Ctx :=
  match s.focus with
  | none => none
  | some f => f.lookup s

def Ctx.die (x : Ctx) : Nat := dieOfCore x.g.core
/-- The index of the issuing group's core within its workgroup's span (R33). -/
def Ctx.win (x : Ctx) : Nat := x.wg.cores.findIdx (· == x.g.core)
def Ctx.alloc (x : Ctx) : Alloc := { v := x.gr.k.vregs, s := x.gr.k.sregs }

def State.modSplit (s : State) (f : Focus) (h : Split → Split) : State :=
  s.modGrp f.wg f.grp (fun g => { g with table := g.table.modify f.pos (Option.map h) })

/-- The split's next word index, with its blocking instruction done (R8, R36). -/
def Split.advance (sp : Split) : Split :=
  { sp with wi := sp.wi + 1, phase := .ready, why := .none, blk := .none, arrived := false, woken := false, wokeFrom := .none, timer := 0, inFlight := false }

/-- R36, R48: the split blocks at its instruction. A park that a wake has only interrupted goes on. -/
def Split.block (ph : Phase) (why : Why) (blk : Blk) (now : Nat) (sp : Split) : Split :=
  { sp with phase := ph, why := why, blk := blk, woken := false, inFlight := false, parkAt := if sp.phase = .parked ∨ (sp.woken ∧ sp.wokeFrom = why) then sp.parkAt else now }

/-- A split becomes ready and its instruction issues again. -/
def Split.wake (sp : Split) : Split :=
  { sp with phase := .ready, why := .none, blk := .none, woken := true, wokeFrom := sp.why, timer := 0 }

def State.advance (s : State) (x : Ctx) : State := s.modSplit x.foc Split.advance

/-- Changing a split's state ends the group's pause of immediate swaps (R44). -/
def Group.stir (g : Group) : Group := { g with swaps := none }

def State.blockSplit (s : State) (x : Ctx) (ph : Phase) (why : Why) (blk : Blk) : State :=
  (s.modSplit x.foc (Split.block ph why blk s.cycle)).modGrp x.foc.wg x.foc.grp Group.stir

def Why.counts : Why → Bool
  | .barrier => true | .counter => true | .popEmpty => true | .pushFull => true | .vsync => true | _ => false

/-- R48: a wait of the grid completes when the blocking instruction of a split that left a park completes. -/
def State.waitDone (s : State) (x : Ctx) : State :=
  if x.sp.woken && x.sp.wokeFrom.counts then s.modGrid x.gr.id (fun g => { g with detections := 0 }) else s

/-- The number of a group's sub-core in the package (R4). -/
def Group.subCore (g : Group) : Nat := 8 * g.core + g.sub

/-- R445, R363: an interlock holds the instruction; the split stays ready, its sub-core may pick another split in this
cycle, and the instruction issues again. -/
def State.holdSplit (s : State) (x : Ctx) : State :=
  let s1 := s.modSplit x.foc (fun sp => { sp with held := some s.cycle, iss := false })
  { s1 with picked := s1.picked.filter (fun p => p.foc != x.foc) }

/-- Every split of the machine whose park names an event is made ready (R36). -/
def State.wakeWhere (s : State) (p : Nat → Nat → Split → Bool) : State :=
  { s with wgs := s.wgs.map (fun w =>
      if w.phase = .saved then w else
      { w with groups := w.groups.mapIdx (fun gi g =>
          if g.table.any (fun e => match e with | some sp => sp.phase != .ready && p w.key gi sp | none => false) ||
             g.spill.any (fun sp => sp.phase != .ready && p w.key gi sp) then
            { g.stir with
              table := g.table.map (Option.map (fun sp => if sp.phase != .ready && p w.key gi sp then sp.wake else sp)),
              spill := g.spill.map (fun sp => if sp.phase != .ready && p w.key gi sp then sp.wake else sp) }
          else g) }) }

def State.wakeBlk (s : State) (b : Blk) : State := s.wakeWhere (fun _ _ sp => sp.phase = .parked && sp.blk = b)

/-! ### Split table and spill area -/

/-- R43: a freed entry takes the last split of the spill area. -/
def Group.freeEntry (g : Group) (pos stamp : Nat) : Group :=
  match g.spill.getLast? with
  | none => { g.stir with table := g.table.set pos none }
  | some sp => { g.stir with table := g.table.set pos (some { sp with age := 0, qAt := stamp, mAt := none, inel := 0 }), spill := g.spill.dropLast }

/-- R39 step 3: a new split takes the lowest free entry, or the end of the spill area. -/
def Group.addSplit (g : Group) (sp : Split) : Group :=
  match g.table.findIdx? (·.isNone) with
  | some p => { g.stir with table := g.table.set p (some sp) }
  | none => { g.stir with spill := g.spill ++ [sp] }

/-- The targets of a split's lanes, grouped: word index, depth and mask, in ascending order of both (R39, R225). -/
def insertTarget (wi : BitVec 32) (dep : BitVec 16) (m : BitVec 32) :
    List (BitVec 32 × BitVec 16 × BitVec 32) → List (BitVec 32 × BitVec 16 × BitVec 32)
  | [] => [(wi, dep, m)]
  | (w, d, k) :: ts =>
    if wi = w ∧ dep = d then (w, d, k ||| m) :: ts
    else if wi < w ∨ (wi = w ∧ dep < d) then (wi, dep, m) :: (w, d, k) :: ts
    else (w, d, k) :: insertTarget wi dep m ts

/-- R39: the lanes bound for the lowest target keep the entry; each further target gets a new split. -/
def Group.diverge (g : Group) (pos stamp : Nat) (ts : List (BitVec 32 × BitVec 16 × BitVec 32)) : Group :=
  match ts, g.table[pos]? with
  | (w, d, m) :: rest, some (some sp) =>
    let sp1 := { sp.advance with wi := w, depth := d, mask := m }
    let g1 := { g with table := g.table.set pos (some sp1) }
    rest.foldl (fun g t => Group.addSplit { g with changed := true } { sp1 with wi := t.1, depth := t.2.1, mask := t.2.2, age := 0, qAt := stamp, mAt := none, inel := 0, held := none }) g1
  | _, _ => g

/-- The larger of two records of stores (R186). -/
def Split.absorb (a b : Split) : Split :=
  { a with mask := a.mask ||| b.mask, vis := Nat.max a.vis b.vis, pend := a.pend ++ b.pend.filter (fun i => !a.pend.contains i), ioVis := Nat.max a.ioVis b.ioVis, ioPend := a.ioPend ++ b.ioPend.filter (fun i => !a.ioPend.contains i), icVis := Nat.max a.icVis b.icVis, icPend := a.icPend ++ b.icPend.filter (fun i => !a.icPend.contains i), halo := b.halo.foldl (fun l i => insertNat i l) a.halo, acqAt := Nat.max a.acqAt b.acqAt }

/-- R40: may this split merge into one that issues a J instruction at a word index and depth? -/
def Split.joins (sp iss : Split) : Bool :=
  sp.wi = iss.wi && sp.depth = iss.depth && sp.phase != .waiting && !sp.woken

/-- The positions of the entries that a J issue merges (R40). -/
def Group.joinSet (g : Group) (pos : Nat) (iss : Split) : List Nat :=
  (List.range 8).filter (fun p => p != pos && (match g.table[p]? with | some (some sp) => sp.joins iss | _ => false))

/-- R40: the merge of a J instruction; freed entries refill under R43 and do not merge in this issue. -/
def Group.jMerge (g : Group) (pos stamp : Nat) : Group :=
  match g.table[pos]? with
  | some (some iss) =>
    let ps := g.joinSet pos iss
    if ps = [] then g
    else
      let sp := ps.foldl (fun acc p => match g.table[p]? with | some (some o) => acc.absorb o | _ => acc) iss
      ps.foldl (fun g p => g.freeEntry p stamp) { g with table := g.table.set pos (some sp), changed := true }
  | _ => g

/-- R41: every split waits at one ssync at one depth. -/
def Group.ssyncReady (g : Group) : Option Nat :=
  match g.table.findIdx? (·.isSome) with
  | none => none
  | some p =>
    match g.table[p]? with
    | some (some f) =>
      let ok := fun (sp : Split) => sp.phase = .waiting && sp.why = .ssync && sp.wi = f.wi && sp.depth = f.depth
      if g.table.all (fun e => match e with | some sp => ok sp | none => true) && g.spill.all ok then some p else none
    | _ => none

/-- R41: all splits merge into the table split of lowest index, which goes on at the next word index. -/
def Group.ssyncMerge (g : Group) : Group :=
  match g.ssyncReady with
  | none => g
  | some p =>
    match g.table[p]? with
    | some (some f) =>
      let sp := (g.table.foldl (fun acc e => match e with | some o => acc.absorb o | none => acc) f)
      let sp := g.spill.foldl Split.absorb sp
      { g.stir with table := ((List.replicate 8 none).set p (some sp.advance)), spill := [], changed := true }
    | _ => g

/-- A group's live lanes: the union of its splits' masks (R35). -/
def Group.live (g : Group) : BitVec 32 :=
  g.spill.foldl (fun m sp => m ||| sp.mask) (g.table.foldl (fun m e => match e with | some sp => m ||| sp.mask | none => m) 0#32)

/-- The record of stores of a split that is freed stays with its group (R228). -/
def Group.keepRecord (g : Group) (sp : Split) : Group :=
  { g with goneVis := Nat.max g.goneVis sp.vis, gonePend := g.gonePend ++ sp.pend.filter (fun i => !g.gonePend.contains i) }

/-- R42: lanes leave the splits of a group; an emptied split is freed. -/
def Group.dropLanes (g : Group) (m : BitVec 32) (stamp : Nat) : Group :=
  let out := (g.table.filterMap id ++ g.spill).filter (fun sp => sp.mask &&& ~~~m == 0)
  let g := out.foldl Group.keepRecord g
  let g1 := { g with table := g.table.map (Option.map (fun sp => { sp with mask := sp.mask &&& ~~~m })), spill := (g.spill.map (fun sp => { sp with mask := sp.mask &&& ~~~m })).filter (fun sp => sp.mask != 0) }
  (List.range 8).foldl (fun g p => match g.table[p]? with
    | some (some sp) => if sp.mask = 0 then g.freeEntry p stamp else g
    | _ => g) g1

/-! ### Lane registers, predicates and conditions -/

/-- The key of a lane register of tier v, o or h. -/
def regKey (lane : Nat) (t : Tier) (idx : Nat) : Nat :=
  512 * lane + (match t with | .v => idx | .o => 256 + idx | .h => 264 + idx | .s => 511)

/-- One register word: the s file for tier s, else the lane's own file (R57). -/
def Group.reg (g : Group) (lane : Nat) (t : Tier) (idx : Nat) : W32 :=
  match t with
  | .s => mget 0 g.sregs idx
  | t => mget 0 g.regs (regKey lane t idx)

/-- The pair at an even index: low word first (R58). -/
def Group.pair (g : Group) (lane : Nat) (t : Tier) (idx : Nat) : W64 := g.reg lane t (idx + 1) ++ g.reg lane t idx

def Group.setReg (g : Group) (lane : Nat) (t : Tier) (idx : Nat) (v : W32) : Group :=
  match t with
  | .s => { g with sregs := mset 0 g.sregs idx v, rpoison := g.rpoison.filter (· != 0x10000 + idx) }
  | t => { g with regs := mset 0 g.regs (regKey lane t idx) v, rpoison := g.rpoison.filter (· != regKey lane t idx) }

/-- R60: the history of lane results moves for a destination of tier v or o, or a push. -/
def Group.shiftHold (g : Group) (lane : Nat) (wide : Bool) (v : W64) : Group :=
  if wide then
    (g.setReg lane .h 0 (v.extractLsb' 0 32)).setReg lane .h 1 (v.extractLsb' 32 32)
  else
    (g.setReg lane .h 1 (g.reg lane .h 0)).setReg lane .h 0 (v.extractLsb' 0 32)

/-- Writing a lane result of one word or a pair, with the hold file (R60, R133). -/
def Group.writeLane (g : Group) (lane : Nat) (t : Tier) (idx : Nat) (wide : Bool) (v : W64) : Group :=
  let g1 := match t with
    | .v => g.shiftHold lane wide v
    | .o => g.shiftHold lane wide v
    | _ => g
  let g2 := g1.setReg lane t idx (v.extractLsb' 0 32)
  if wide then g2.setReg lane t (idx + 1) (v.extractLsb' 32 32) else g2

/-- Writing an s register or pair once, for the group. -/
def Group.writeS (g : Group) (idx : Nat) (wide : Bool) (v : W64) : Group :=
  let g1 := g.setReg 0 .s idx (v.extractLsb' 0 32)
  if wide then g1.setReg 0 .s (idx + 1) (v.extractLsb' 32 32) else g1

/-- A lane predicate; p0 reads as ones (R59). -/
def Group.pred (g : Group) (n : Nat) : BitVec 32 := if n = 0 then BitVec.allOnes 32 else mget 0 g.preds n
/-- A condition; c0 reads as one (R59). -/
def Group.cond (g : Group) (n : Nat) : Bool := n == 0 || g.conds.getLsbD n

/-- R59: the bits of the lanes of m change; a write to p0 is discarded. -/
def Group.setPred (g : Group) (n : Nat) (m v : BitVec 32) : Group :=
  if n = 0 then g else { g with preds := mset 0 g.preds n ((mget 0 g.preds n &&& ~~~m) ||| (v &&& m)), rpoison := g.rpoison.filter (· != 0x20000 + n) }

def Group.setCond (g : Group) (n : Nat) (b : Bool) : Group :=
  if n = 0 then g else { g with conds := if b then g.conds ||| (1#8 <<< n) else g.conds &&& ~~~(1#8 <<< n) }

/-- R86: flags are ORed into a lane's fstat. -/
def Group.orFlags (g : Group) (lane : Nat) (f : BitVec 5) : Group :=
  { g with fstat := mset 0 g.fstat lane (mget 0 g.fstat lane ||| f.zeroExtend 32) }

/-! ### Executing lanes -/

/-- R110: the lanes of the split whose predicate holds. -/
def Ctx.active (x : Ctx) (c : Common) : BitVec 32 :=
  let p := x.g.pred c.prd.toNat
  x.sp.mask &&& (if c.pneg then ~~~p else p)

/-- R110: a group-wide instruction executes when its condition holds. -/
def Ctx.gwOn (x : Ctx) (c : Common) : Bool := x.g.cond c.prd.toNat != c.pneg

/-- The active lanes that are no helpers (R32). -/
def Ctx.real (x : Ctx) (c : Common) : BitVec 32 := x.active c &&& ~~~x.g.helper

/-- R423: the lane named by a trap at the fetch, where no predicate is known: the lowest lane of the split that is no
helper. -/
def Ctx.fetchLane (x : Ctx) : Nat :=
  let m := x.sp.mask &&& ~~~x.g.helper
  if m = 0 then lowestLane x.sp.mask else lowestLane m

/-- R423: the lane named by a trap that no single lane decides: the lowest active lane of the split that is no helper;
under U = 1 every lane of the split takes part. -/
def Ctx.trapLane (x : Ctx) (c : Common) : Nat :=
  let m := (if c.u then x.sp.mask else x.active c) &&& ~~~x.g.helper
  if m = 0 then x.fetchLane else lowestLane m

/-! ### The memory error log (R442, R443) -/

/-- Bytes written at physical addresses with nothing in between: the backing store. -/
def State.rawWrite (s : State) (pa : Nat) (bs : List Byte) : State :=
  { s with mem := msetAll 0 s.mem pa bs }
def State.rawRead (s : State) (pa n : Nat) : List Byte := mgetAll 0 s.mem pa n

/-- What a log record names (R443). -/
structure LogRec where
  unit : Nat
  code : Nat
  sev : Nat := 1
  ten : Nat := 0xFF
  src : Nat := 0
  uno : Nat := 0
  ctx : Nat := 0xFFFFFFFF
  pasid : Nat := 0
  va : Nat := 0
  pa : Nat := 0
  aux : Nat := 0

def LogRec.bytes (r : LogRec) (time : Nat) : List Byte :=
  leBytes 1 r.code ++ leBytes 1 r.sev ++ leBytes 1 r.ten ++ leBytes 1 r.src ++ leBytes 2 r.uno ++ leBytes 2 0 ++
  leBytes 4 r.ctx ++ leBytes 4 r.pasid ++ leBytes 8 r.va ++ leBytes 8 r.pa ++ leBytes 8 time ++ leBytes 8 r.aux ++
  leBytes 16 0

/-- R442: the ring is disabled, or has no room. -/
def Log.full (l : Log) : Bool := l.base = 0 ∨ l.log2n < 6 ∨ l.log2n > 16 ∨ (l.head + 2 ^ 32 - l.tail) % 2 ^ 32 ≥ 2 ^ l.log2n

/-- R442: LOG_RECORD_WRITE. A full or disabled ring counts the record as lost; a record into an empty ring raises
the unit's vector. -/
def State.logRec (s : State) (r : LogRec) : State :=
  let l := s.log r.unit
  if l.full then s.modLog r.unit (fun l => { l with lost := Nat.min (l.lost + 1) 0xFFFFFFFF })
  else
    { (s.rawWrite (l.base + 64 * (l.head % 2 ^ l.log2n)) (r.bytes (s.clock r.unit))).modLog r.unit (fun l => { l with head := (l.head + 1) % 2 ^ 32 }) with
      irqs := if l.head = l.tail then s.irqs ++ [l.vec] else s.irqs }

/-! ### PCI Express links (R379, R381, R470) -/

/-- The link of a port through which a physical address goes: the one whose bridge window holds it, or the port's only link. -/
def State.linkAt (s : State) (port pa : Nat) : Option Link :=
  match s.links.filter (fun l => l.port == port) with
  | [l] => some l
  | ls => ls.find? (fun l => l.base ≤ pa && pa < l.base + l.size)
/-- R470: the link to a device address is contained. -/
def State.contained (s : State) (port pa : Nat) : Bool := match s.linkAt port pa with | some l => l.contained | none => false

/-! ### Traps -/

/-- What R421 and R423 give a trap. -/
structure Trap where
  cause : Nat
  sub : Nat := 0
  lane : Nat
  val : W64 := 0
deriving DecidableEq, Repr

/-- R420: trapcause at entry. -/
def Trap.word (t : Trap) : W32 := BitVec.ofNat 32 (2 ^ 23 + t.lane % 32 * 2 ^ 16 + t.sub % 256 * 256 + t.cause % 256)

/-- R424 step 1: the trap registers of the lanes of a mask. -/
def Group.writeTrap (g : Group) (m : BitVec 32) (t : Trap) (wi : W32) : Group :=
  { g with
    tcause := (lanesOf m).foldl (fun r l => mset 0 r l t.word) g.tcause
    twi := (lanesOf m).foldl (fun r l => mset 0 r l wi) g.twi
    tval := (lanesOf m).foldl (fun r l => mset 0 r l t.val) g.tval }

/-- R426: some lane of the split is in its handler. -/
def Ctx.inHandler (x : Ctx) : Bool := (lanesOf x.sp.mask).any (fun l => (mget 0 x.g.tcause l).getLsbD 23)

/-- Taking a trap (R422, R424, R426): the instruction has had no effect. With a handler, the lanes of the split get the
trap registers and the split waits with WHY 0xB for 12 cycles; with none, or in a lane that is in its handler, the
core reports an abort (R431 step 1), which is the next step. Helper lanes raise no trap (R32): a split that holds no other
lane goes on at its next word (DEDUCED, log entry 75). -/
def State.takeTrap (s : State) (x : Ctx) (t : Trap) : State :=
  if x.sp.mask &&& ~~~x.g.helper = 0#32 then s.advance x
  else if x.gr.k.trap = 0xFFFFFFFF#32 ∨ x.inHandler then
    let s1 := s.blockSplit x .waiting .trapEntry .abort
    { s1 with agenda := .abortReport x.wg.key t.cause t.sub :: s1.agenda }
  else
    (s.modGrp x.foc.wg x.foc.grp (fun g => g.writeTrap x.sp.mask t x.sp.wi)).modSplit x.foc
      (fun sp => { sp.block .waiting .trapEntry .none s.cycle with timer := 12, arrived := false })
      |>.modGrp x.foc.wg x.foc.grp Group.stir

/-! ### Visibility and releases -/

/-- R311: a visibility time has passed on a die; 0 stands for no time. -/
def State.passed (s : State) (die t : Nat) : Bool := t == 0 || t < s.clock die

/-- A store of the listed lanes enters the records of the splits that hold them (R186). -/
def State.recordPend (s : State) (f : Focus) (id : Nat) (io : Bool) : State :=
  s.modSplit f (fun sp => { sp with pend := sp.pend ++ [id], ioPend := if io then sp.ioPend ++ [id] else sp.ioPend })

/-- An icinv enters the record of the split (R193). -/
def State.recordIc (s : State) (f : Focus) (id : Nat) : State :=
  s.modSplit f (fun sp => { sp with pend := sp.pend ++ [id], icPend := sp.icPend ++ [id] })

/-- R186: a visibility time enters the issuing split's record at once. -/
def State.recordVis (s : State) (f : Focus) (t : Nat) (io : Bool) : State :=
  s.modSplit f (fun sp => { sp with vis := Nat.max sp.vis t, ioVis := if io then Nat.max sp.ioVis t else sp.ioVis })

def Split.settle (id t : Nat) (sp : Split) : Split :=
  if sp.pend.contains id || sp.ioPend.contains id then
    { sp with icPend := sp.icPend.filter (· != id), icVis := if sp.icPend.contains id then Nat.max sp.icVis t else sp.icVis, pend := sp.pend.filter (· != id), vis := if sp.pend.contains id then Nat.max sp.vis t else sp.vis, ioPend := sp.ioPend.filter (· != id), ioVis := if sp.ioPend.contains id then Nat.max sp.ioVis t else sp.ioVis }
  else sp

/-- A store gets its visibility time t (0: it is visible now): every record that names it takes the time (R186), and
so does every Mirror-proxy entry that waits for it (R390). -/
def State.settle (s : State) (wg grp id t : Nat) : State :=
  let s1 := s.modGrp wg grp (fun g => { g with table := g.table.map (Option.map (Split.settle id t)), spill := g.spill.map (Split.settle id t), goneVis := if g.gonePend.contains id then Nat.max g.goneVis t else g.goneVis, gonePend := g.gonePend.filter (· != id) })
  { s1 with proxy := s1.proxy.map (fun p => if p.pend.contains id then { p with pend := p.pend.filter (· != id), vis := Nat.max p.vis t } else p) }

end Sys2Proof.Machine
end

