-- ==== Sys2Proof/Machine/Memory.lean ====
section
/-! DEFINITION. The physical map, translation and page requests (R73 to R78, R445), what an agent reads and writes at a
line's current place (R311 to R317, R325), the pointer checks of R54 and scratchpad bytes (R63, R64, R51). -/
namespace Sys2Proof.Machine

/-! ### The physical map -/

/-- The content of a physical address (R73, R381). CXL memory is memory as HBM is (R386). -/
inductive PaKind where
  | hbm (die : Nat) | hole | cxl | pcie (port : Nat) | reg
deriving DecidableEq, Repr

def paKind (pa : Nat) : PaKind :=
  if pa < 2 ^ 40 then (if pa % 2 ^ 38 < 192000000000 then .hbm (pa / 2 ^ 38) else .hole)
  else if pa < 2 ^ 51 then .cxl
  else if pa < 0xF * 2 ^ 48 then .pcie ((pa - 2 ^ 51) / 0xE00000000000)
  else .reg

/-- R380: port 7 is an endpoint. -/
def State.endpointMode (s : State) : Bool := (mget 0 s.pcfg 7).getLsbD 4

/-- A CXL address that a trained link's range covers: the range is interleaved over its links at 4 KiB (R386). -/
def State.cxlHere (s : State) (pa : Nat) : Bool :=
  s.links.any (fun l => l.up && l.cxl && l.base ≤ pa && pa < l.base + l.size && (pa - l.base) / 4096 % Nat.max l.ways 1 == l.pos)

/-- What an address holds as the links are: no memory device, and no root port of an endpoint, leaves its range unpopulated
(R73, R380, R386). -/
def State.kindOf (s : State) (pa : Nat) : PaKind :=
  match paKind pa with
  | .cxl => if s.cxlHere pa then .cxl else .hole
  | .pcie p => if p = 7 ∧ s.endpointMode then .hole else .pcie p
  | k => k

/-- R73: the HBM stack of its die that holds a byte. -/
def hbmStack (pa : Nat) : Nat := pa % 2 ^ 38 / 256 % 3
/-- The memories whose lines are coherent and whose regions have an owner: HBM, and CXL as HBM (R77, R386). -/
def isMemory (pa : Nat) : Bool := match paKind pa with | .hbm _ => true | .cxl => true | _ => false
/-- R77: the 2 MiB region of an address. -/
def hbmRegion (pa : Nat) : Nat := pa / 2 ^ 21
/-- R316: the die whose L2 is the home of a line of a compute-side region. -/
def homeDie (pa : Nat) : Nat := (bitsOf pa 7 2) ^^^ (bitsOf pa 15 2) ^^^ (bitsOf pa 23 2)

def State.region (s : State) (r : Nat) : Region := mget {} s.regions r
def State.modRegion (s : State) (r : Nat) (f : Region → Region) : State :=
  { s with regions := mset {} s.regions r (f (s.region r)) }
/-- The address lies in memory whose lines have a die home now (R77). -/
def State.computeSide (s : State) (pa : Nat) : Bool := isMemory pa && (s.region (hbmRegion pa)).compute
/-- R451: an address in the old range of a migration in progress, where accesses wait. -/
def State.migrating (s : State) (pa : Nat) : Bool := s.mig.busy && s.mig.src ≤ pa && pa < s.mig.src + 2 ^ (12 + (match s.mig.msz with | 0 => 0 | 1 => 4 | _ => 9))
/-- An address whose home is changing: every access to it waits (R78, R333). -/
def State.homeMoves (s : State) (pa : Nat) : Bool := (isMemory pa && (s.region (hbmRegion pa)).moving) || s.migrating pa

/-- R452: an address under a forwarding entry. -/
def State.forwarded (s : State) (pa : Nat) : Nat :=
  match s.forwards.find? (fun f => f.src ≤ pa && pa < f.src + f.size) with
  | some f => f.dst + (pa - f.src)
  | none => pa

/-! ### Lines (R313, R317) -/

def splice (d : List Byte) (off : Nat) (bs : List Byte) : List Byte := d.take off ++ bs ++ d.drop (off + bs.length)

/-- The bytes of a line as of a tick: writes with a later visibility time are left out (R313). -/
def Line.seen (l : Line) (now : Nat) : List Byte :=
  l.writes.foldl (fun d w => if w.vis ≤ now then splice d w.off w.bytes else d) l.data
/-- The bytes of a line with every write applied. -/
def Line.latest (l : Line) : List Byte := l.writes.foldl (fun d w => splice d w.off w.bytes) l.data
/-- The line with its visible writes folded into its data. -/
def Line.fold (l : Line) (now : Nat) : Line := { l with data := l.seen now, writes := l.writes.filter (fun w => now < w.vis) }

/-- R313: a write gets its visibility time. -/
def Line.write (l : Line) (now off : Nat) (bs : List Byte) (lane : Option Nat) : Line × Nat :=
  let vis := Nat.max (Nat.max (l.rts + 1) now) l.wts
  let l1 := l.fold now
  ({ l1 with writes := l1.writes ++ [{ vis := vis, off := off, bytes := bs, lane := lane }], wts := vis, used := true }, vis)

def LineSt.owns (st : LineSt) : Bool :=
  match st with | .m => true | .o => true | .e => true | .omA => true | .miA => true | _ => false
def LineSt.stable (st : LineSt) : Bool :=
  match st with | .m => true | .o => true | .e => true | .s => true | _ => false

def State.line? (s : State) (agent ln : Nat) : Option Line := s.lines.find? (fun l => l.agent == agent && l.addr == ln)
def State.setLine (s : State) (l : Line) : State :=
  { s with lines := s.lines.filter (fun k => !(k.agent == l.agent && k.addr == l.addr)) ++ [l] }
def State.dropLine (s : State) (agent ln : Nat) : State :=
  { s with lines := s.lines.filter (fun k => !(k.agent == agent && k.addr == ln)) }
def State.owner? (s : State) (ln : Nat) : Option Line := s.lines.find? (fun l => l.addr == ln && l.st.owns)
/-- Line data on its way to a new owner. -/
def State.inFlight? (s : State) (ln : Nat) : Option Msg :=
  s.msgs.find? (fun m => m.kind == .data && m.addr == ln && m.give == .m && m.bytes != [])

def State.home (s : State) (ln : Nat) : Home :=
  match s.homes.find? (fun h => h.addr == ln) with | some h => h | none => { addr := ln }
def State.setHome (s : State) (h : Home) : State :=
  { s with homes := s.homes.filter (fun k => k.addr != h.addr) ++ (if h = { addr := h.addr } then [] else [h]) }

/-! ### Operations that wait at an L2 (R313) -/

/-- The workgroup number in the stores of engines and hub agents. -/
def noWg : Nat := 2 ^ 128

/-- The bytes that an operation leaves where it finds others: its own, or what it makes of them. -/
def StoreOp.onto (op : StoreOp) (bs old : List Byte) : List Byte :=
  match op with
  | .add v => leBytes old.length (leNat old + v)
  | .addSat v => leBytes old.length (Nat.min (leNat old + v) (2 ^ (8 * old.length) - 1))
  | .setIn m v => leBytes old.length (((leNat old ||| m) ^^^ m) ||| v)
  | _ => bs
/-- The operation changes bytes, and needs no operand of a lane. -/
def StoreOp.plain (op : StoreOp) : Bool :=
  match op with | .write => true | .add _ => true | .addSat _ => true | .setIn _ _ => true | _ => false

/-- A write of an engine or a hub agent that waits for its line. -/
def Store.waitsAt (q : Store) (ln : Nat) : Bool := q.wg == noWg && q.vis.isNone && q.op.plain && q.pa / 128 == ln

/-- The bytes of a line where it now is: the owner's, as visible in the owner's clock or with all that has been applied; else data
on its way, else memory (log entry 10). -/
def State.lineNow (s : State) (latest : Bool) (pa n : Nat) : List Byte :=
  let ln := pa / 128
  match s.owner? ln with
  | some l => ((if latest then l.latest else l.seen (s.clock l.agent)).drop (pa % 128)).take n
  | none => match s.inFlight? ln with
    | some m => (m.bytes.drop (pa % 128)).take n
    | none => s.rawRead pa n

/-- What an agent without a copy of its own reads of a line. `latest`: with every write that an engine or a hub agent has made, those
that wait for their line too. -/
def State.lineRead (s : State) (latest : Bool) (pa n : Nat) : List Byte :=
  let ln := pa / 128
  if latest && s.storeQ.any (·.waitsAt ln) then
    ((((s.storeQ.filter (·.waitsAt ln)).foldl (fun d q => splice d (q.pa % 128) (q.op.onto q.bytes ((d.drop (q.pa % 128)).take q.bytes.length))) (s.lineNow true (128 * ln) 128)).drop (pa % 128)).take n)
  else s.lineNow latest pa n

/-- Reads of any length at the lines' current places. -/
def State.readLines (s : State) (latest : Bool) : (fuel pa n : Nat) → List Byte
  | 0, _, _ => []
  | f + 1, pa, n =>
    if n = 0 then []
    else
      let k := Nat.min n (128 - pa % 128)
      s.lineRead latest pa k ++ s.readLines latest f (pa + k) (n - k)

def State.cohRead (s : State) (pa n : Nat) : List Byte := s.readLines false (n / 128 + 2) (s.forwarded pa) n
def State.cohLatest (s : State) (pa n : Nat) : List Byte := s.readLines true (n / 128 + 2) (s.forwarded pa) n

/-! ### Poison of physical sectors (R461) -/

def State.poisoned (s : State) (pa n : Nat) : Bool :=
  let p := s.forwarded pa
  n ≠ 0 && (s.poison.any (fun x => p / 32 ≤ x && x ≤ (p + n - 1) / 32) || s.kindOf p == .hole)
/-- R461: a write clears the poison of the sectors that it covers whole. -/
def State.unpoison (s : State) (pa n : Nat) : State :=
  { s with poison := s.poison.filter (fun x => !(pa ≤ 32 * x && 32 * x + 32 ≤ pa + n)) }
def State.poisonSectors (s : State) (pa n : Nat) : State :=
  { s with poison := (List.range (if n = 0 then 0 else (pa + n - 1) / 32 - pa / 32 + 1)).foldl (fun l i => insertNat (pa / 32 + i) l) s.poison }

/-! ### Requests of an agent to the home (R318, R320) -/

def State.post (s : State) (m : Msg) : State := { s with msgs := s.msgs ++ [m] }

/-- R321: the lease ends and the visibility times of a line's writes have passed on its die. -/
def State.linePassed (s : State) (l : Line) : Bool := l.agent ≥ 4 || (s.passed l.agent l.rts && s.passed l.agent l.wts)

/-- The slices of a die that a map entry holds (R408). -/
def Tenancy.sliceSet (t : Tenancy) (d : Nat) : List Nat :=
  let x := bitsOf t.slices (8 * d) 8
  (List.range (2 ^ bitsOf x 4 3)).map (fun i => x % 16 + i)

/-- R71: the hash of a line's address. -/
def l2Hash (pa : Nat) : Nat := bitsOf pa 7 4 ^^^ bitsOf pa 11 4 ^^^ bitsOf pa 15 4 ^^^ bitsOf pa 19 4
/-- R71, R72: the slice of a die in which a tenancy's line lies, in shared and in tenancy-private mode. -/
def State.sliceOf (s : State) (die ten pa : Nat) : Nat :=
  if s.l2mode = 1 ∧ ten < 16 then
    let own := (s.ten ten).sliceSet die
    own.getD (l2Hash pa % own.length) 0
  else l2Hash pa

/-- The tenancy in whose carve-out an address lies (R71), 255 for none. -/
def State.tenAt (s : State) (pa : Nat) : Nat :=
  match s.tens.find? (fun e => e.2.carve.any (fun c => c.1 ≤ pa && pa < c.1 + c.2)) with
  | some e => e.1
  | none => 0xFF

/-- An agent gives up a line (R320: MI_A); a shared copy goes without notice (R317). -/
def State.giveUp (s : State) (l : Line) : State :=
  let put := fun (k : MsgKind) (bs : List Byte) => (s.setLine { l with st := .miA }).post { kind := k, agent := l.agent, addr := l.addr, bytes := bs }
  match l.st with
  | .m => put .putm l.latest
  | .o => put .puto l.latest
  | .e => put .pute []
  | .s => s.dropLine l.agent l.addr
  | _ => s

/-- R74, R406: the number of the key under which memory is encrypted: its tenancy's, or 16 for the kernel's own (log entry 16). -/
def State.keyAt (s : State) (pa : Nat) : Nat := if s.tenAt pa < 16 then s.tenAt pa else 16

/-- A line that may leave its die: it is stable, nothing holds it, and a shared copy has no lease left (R321). -/
def State.mayLeave (s : State) (l : Line) : Bool := l.st.stable && !l.leaving && (l.st != .s || s.linePassed l)

/-- R71: room for a line in the 16 ways of its set; a line that may leave does so, which one the spec leaves free. None
while no line may. -/
def State.makeRoom (s : State) (die ten ln : Nat) : Option State :=
  let near := s.lines.filter (fun l => l.agent == die && l.st != .miA && l.st != .iiA && s.sliceOf die l.ten (128 * l.addr) == s.sliceOf die ten (128 * ln))
  if die ≥ 4 ∨ near.length < 16 then some s
  else
    let set := near.filter (fun l => Config.l2Set l.addr % 2048 == Config.l2Set ln % 2048)
    if set.length < 16 then some s
    else
      let out := set.filter s.mayLeave
      (out[(Config.freeValue s.free).toNat % out.length]?).map (fun l => { s.giveUp l with free := s.free + 1 })

/-- A new line of an agent that awaits its data, with the request for it. -/
def State.request0 (s : State) (agent ln ten : Nat) (st : LineSt) (k : MsgKind) (asks : List (Nat × Nat)) : State :=
  match s.makeRoom agent ten ln with
  | none => s
  | some s1 => (s1.setLine { agent := agent, addr := ln, st := st, data := [], ten := ten, asks := asks }).post { kind := k, agent := agent, addr := ln }

/-- R71: a line that another tenancy owns is no hit; it leaves the die. -/
def Line.hits (l : Line) (ten : Nat) : Bool := l.ten == ten

/-- A load of a requester waits for a line, and the die asks for a shared copy where it has none (R320: IS_D). -/
def State.askShared (s : State) (agent ln ten who lease : Nat) : State :=
  match s.line? agent ln with
  | some l =>
    if !l.hits ten && s.mayLeave l then s.giveUp l
    else if l.asks.contains (who, lease) then s
    else s.setLine { l with asks := l.asks ++ [(who, lease)] }
  | none => s.request0 agent ln ten .isD .gets [(who, lease)]

/-- A die or cache complex asks to write (R320: SM_A, OM_A, IM_AD). -/
def State.askOwn (s : State) (agent ln ten : Nat) : State :=
  match s.line? agent ln with
  | none => s.request0 agent ln ten .imAD .getm []
  | some l =>
    if !l.hits ten then (if s.mayLeave l then s.giveUp l else s)
    else match l.st with
    | .s => (s.setLine { l with st := .smA }).post { kind := .upg, agent := agent, addr := ln }
    | .o => (s.setLine { l with st := .omA }).post { kind := .upg, agent := agent, addr := ln }
    | _ => s

/-- A block whose refresh has started and has no snapshot yet: writes to it are held (R282). -/
def State.refreshing (s : State) (pa : Nat) : Bool := s.refreshes.any (fun r => r.snap.isNone && r.pa / 4096 == pa / 4096)

/-- The line is held for writing, and nothing holds the write back (R313, R282). -/
def State.writable (s : State) (die ten pa : Nat) : Option Line :=
  match s.line? die (pa / 128) with
  | some l => if (l.st = .m ∨ l.st = .e) ∧ ¬ l.leaving ∧ l.hits ten ∧ ¬ s.refreshing pa then some l else none
  | none => none

/-! ### Writes of engines, which act through the L2 of their die, and of hub agents, which act at a line's home (R311,
R325) -/

/-- A write placed over every copy of a line of a system-side region, by its hub directory (log entry 10). -/
def State.patch (s : State) (pa : Nat) (bs : List Byte) : State :=
  let ln := pa / 128
  let s1 : State := { s with lines := s.lines.map (fun l => if l.addr = ln ∧ l.data ≠ [] then { l with data := splice l.latest (pa % 128) bs, writes := [] } else l) }
  let s2 : State := { s1 with msgs := s1.msgs.map (fun m => if m.addr = ln ∧ m.bytes ≠ [] then { m with bytes := splice m.bytes (pa % 128) bs } else m) }
  s2.rawWrite pa bs

/-- R281: a write to a tracked master block is recorded, with its visibility time where it has one, and the block is
queued at engine PA[13:12] of its die. -/
def State.noteMaster (s : State) (pa n : Nat) (vis : Option Nat) : State :=
  match s.masters.find? (fun m => m.pa / 4096 == pa / 4096 && n ≠ 0) with
  | none => s
  | some m =>
    let v := match vis with | some v => v | none => s.clock m.die
    let s1 := { s with masters := s.masters.map (fun k => if k.die = m.die ∧ k.pa = m.pa then { k with wt := Nat.max (Nat.max k.wt v) (k.snap + 1), queued := true } else k) }
    if m.queued then s1
    else { s1 with prismQ := mset [] s1.prismQ (4 * m.die + bitsOf m.pa 12 2) (mget [] s1.prismQ (4 * m.die + bitsOf m.pa 12 2) ++ [m.pa]) }

/-- R214: splits parked on a counter within bytes that a home has written test their condition again. -/
def State.wakeCounter (s : State) (p : CRef → Bool) : State :=
  s.wakeWhere (fun _ _ sp => sp.phase = .parked && (match sp.blk with | .counter r _ => p r | _ => false))

/-- R389: bytes of the SQHD of a submission window that a workgroup has bound. -/
def State.sqhdAt (s : State) (key ch pa n : Nat) : Bool :=
  match s.wg? key with
  | some w =>
    let c := w.chans.getD ch {}
    c.v && c.kind == 1 && c.pa + 0x14 < pa + n && pa < c.pa + 0x18
  | none => false

/-- A hart's load reservation on a line ends with a write to the line (R326). -/
def State.endReservations (s : State) (ln : Nat) : State :=
  if s.harts = [] then s else { s with harts := s.harts.map (fun e => (e.1, if e.2.resv = some ln then { e.2 with resv := none } else e.2)) }

/-- What a home does after a write: the master table (R281), the counters (R214), the submission windows (R389) and the harts'
reservations. -/
def State.noteWrite (s : State) (pa n : Nat) (vis : Option Nat) : State :=
  ((s.noteMaster pa n vis).endReservations (pa / 128)).wakeWhere (fun k _ sp => sp.phase = .parked && (match sp.blk with
    | .counter (.pa a) _ => a < pa + n && pa < a + 8
    | .chan c => sp.why = .pushFull && s.sqhdAt k c pa n
    | _ => false))

/-- The log record of an access to an address that holds nothing (R73). -/
def holeRec (unit pa aux : Nat) : LogRec := { unit := unit, code := 0x40, src := 6, pa := pa, aux := aux }

/-- A write that a root port passes to its device; a contained link discards it (R470). -/
def State.toDevice (s : State) (port pa : Nat) (bs : List Byte) : State :=
  if s.contained port pa then s else { s with devWrites := (pa, bs) :: s.devWrites }

/-- R462: a read-modify-write of a poisoned location is dropped. -/
def StoreOp.dropped (op : StoreOp) (s : State) (pa n : Nat) : Bool := op != .write && s.poisoned pa n

/-- An operation is applied to a line that a die holds for writing (R313). -/
def State.applyAt (s : State) (l : Line) (pa : Nat) (bs : List Byte) (op : StoreOp) : State × Nat :=
  let (l1, vis) := l.write (s.clock l.agent) (pa % 128) (op.onto bs ((l.latest.drop (pa % 128)).take bs.length)) none
  ((((s.unpoison pa bs.length).setLine { l1 with st := .m }).noteWrite pa bs.length (some vis)), vis)

/-- An operation performed by the hub directory of a system-side region (R326, R324). -/
def State.hubDo (s : State) (pa : Nat) (bs : List Byte) (op : StoreOp) : State :=
  if op.dropped s pa bs.length then s else ((s.unpoison pa bs.length).patch pa (op.onto bs (s.lineNow true pa bs.length))).noteWrite pa bs.length none

/-- One write within a line, and the time that it waits for: a visibility time by die, or under 16 plus its number a write
that its die has yet to apply (R311). `die`: the engine's own; a hub agent acts at the home. -/
def State.lineDo (s : State) (die : Option Nat) (pa : Nat) (bs : List Byte) (op : StoreOp) : State × Option (Nat × Nat) :=
  let ln := pa / 128
  match s.kindOf pa with
  | .hole => (s.logRec (holeRec (die.getD 4) pa 1), none)
  | .reg => (s, none)
  | .pcie p => (s.toDevice p pa bs, none)
  | _ =>
    if s.computeSide pa ∨ s.homeMoves pa ∨ s.refreshing pa ∨ s.storeQ.any (·.waitsAt ln) then
      let d := die.getD (homeDie pa)
      let ten := match s.line? d ln with | some l => l.ten | none => s.tenAt pa
      match if s.homeMoves pa || s.storeQ.any (·.waitsAt ln) then none else s.writable d ten pa with
      | some l =>
        if op.dropped s pa bs.length then (s, none)
        else
          let (s1, vis) := s.applyAt l pa bs op
          (s1, some (d, vis))
      | none =>
        let (id, s1) := s.fresh
        let s2 : State := { s1 with storeQ := s1.storeQ ++ [{ id := id, die := d, wg := noWg, grp := 0, lane := 0, pa := pa, bytes := bs, op := op, io := false }] }
        (if s.homeMoves pa ∨ ¬ s.computeSide pa then s2 else s2.askOwn d ln ten, some (16 + id, 1))
    else (s.hubDo pa bs op, none)

/-- The larger of two visibility times by die. -/
def visMax (m : Map Nat) (v : Option (Nat × Nat)) : Map Nat :=
  match v with | none => m | some (d, t) => mset 0 m d (Nat.max t (mget 0 m d))
/-- R311: every visibility time of a record has passed in its die's clock, and every write that it names has been applied and
has passed. -/
def State.allPassed (s : State) (m : Map Nat) : Bool :=
  m.all (fun e => if e.1 < 16 then s.passed e.1 e.2 else s.storeQ.all (fun q => 16 + q.id != e.1))

def State.writeLines (s : State) (die : Option Nat) (vis : Map Nat) : (fuel pa : Nat) → List Byte → State × Map Nat
  | 0, _, _ => (s, vis)
  | f + 1, pa, bs =>
    if bs = [] then (s, vis)
    else
      let k := Nat.min bs.length (128 - pa % 128)
      let (s1, v) := s.lineDo die pa (bs.take k) .write
      State.writeLines s1 die (visMax vis v) f (pa + k) (bs.drop k)

/-- A write of the engines of a die. -/
def State.dieWrite (s : State) (die pa : Nat) (bs : List Byte) : State × Map Nat :=
  State.writeLines s (some die) [] (bs.length / 128 + 2) (s.forwarded pa) bs
/-- A write of a hub agent. -/
def State.cohWrite (s : State) (pa : Nat) (bs : List Byte) : State × Map Nat :=
  State.writeLines s none [] (bs.length / 128 + 2) (s.forwarded pa) bs
/-- The same where nothing waits for the visibility times. -/
def State.hubWrite (s : State) (pa : Nat) (bs : List Byte) : State := (s.cohWrite pa bs).1
/-- An indivisible update of the n bytes at an address within a line. -/
def State.update (s : State) (die : Option Nat) (pa n : Nat) (op : StoreOp) : State × Map Nat :=
  let r := s.lineDo die (s.forwarded pa) (List.replicate n 0) op
  (r.1, visMax [] r.2)

/-- R78, R446: the home of bytes can perform a read-modify-write now; what it needs where it cannot. -/
def State.homeReady (s : State) (pa : Nat) : Bool :=
  let p := s.forwarded pa
  !s.homeMoves p && !s.refreshing p && (!s.computeSide p || (!s.storeQ.any (·.waitsAt (p / 128)) && (match s.line? (homeDie p) (p / 128) with | some l => (s.writable (homeDie p) l.ten p).isSome | none => false)))
def State.askHome (s : State) (pa : Nat) : State :=
  let p := s.forwarded pa
  if s.homeMoves p ∨ ¬ s.computeSide p then s
  else s.askOwn (homeDie p) (p / 128) (match s.line? (homeDie p) (p / 128) with | some l => l.ten | none => s.tenAt p)

/-! ### Translation (R75, R76) -/

/-- The permissions that an access needs (R76, R108). -/
inductive Need where
  | rd | wr | rdwr | any | exec | xw
deriving DecidableEq, Repr

def Need.met (k : Need) (e : Nat) : Bool :=
  let x := bitOf e 62
  let w := bitOf e 61
  let r := bitOf e 60
  match k with
  | .rd => r | .wr => w | .rdwr => r && w | .any => r || w | .exec => x | .xw => x || w
def Need.writes : Need → Bool
  | .wr => true | .rdwr => true | _ => false
/-- The access kind that a core page request carries (R445). -/
def Need.kind : Need → Nat
  | .wr => 1 | .rdwr => 2 | .exec => 3 | .xw => 3 | .rd => 0 | .any => 0

inductive Walk where
  | leaf (entry at_ pa mt : Nat)
  | missing
  | malformed (entry at_ : Nat)
deriving DecidableEq, Repr

/-- R76: bits of an entry that must be zero, and the memory type 3. -/
def pteBad (e level : Nat) : Bool :=
  bitsOf e 52 8 ≠ 0 || bitsOf e 0 6 ≠ 0 || bitsOf e 6 2 = 3 || (bitOf e 11 && level ≠ 0) ||
  (bitOf e 10 && level ≥ 3) || (!bitOf e 10 && level = 0) ||
  (bitOf e 10 && level = 1 && bitsOf e 12 9 ≠ 0) || (bitOf e 10 && level = 2 && bitsOf e 12 18 ≠ 0)

/-- An entry without PPN[3:0], A and D, which the 16 entries of a 64 KiB page may differ in (R76). -/
def pteCommon (e : Nat) : Nat := e - 4096 * bitsOf e 12 4 - 512 * bitsOf e 9 1 - 256 * bitsOf e 8 1

/-- R76: the 16 entries of a 64 KiB page agree, and PPN[3:0] is each entry's position. -/
def State.c64Ok (s : State) (table va : Nat) : Bool :=
  let base := table + 8 * (bitsOf va 12 9 / 16 * 16)
  let es := (List.range 16).map (fun i => leNat (s.cohRead (base + 8 * i) 8))
  (List.range 16).all (fun i => bitsOf (es.getD i 0) 12 4 = i && pteCommon (es.getD i 0) = pteCommon (es.getD 0 0))

/-- The walk from a table of a level down. -/
def State.walkFrom (s : State) (va : Nat) : (level table : Nat) → Walk
  | level, table =>
    let at_ := table + 8 * (if level = 4 then bitsOf va 48 8 else bitsOf va (12 + 9 * level) 9)
    let e := leNat (s.cohRead at_ 8)
    if !bitOf e 63 then .missing
    else if pteBad e level then .malformed e at_
    else if bitOf e 10 then
      if bitOf e 11 && !s.c64Ok table va then .malformed e at_
      else .leaf e at_ (bitsOf e 12 40 * 4096 / 2 ^ (12 + 9 * level) * 2 ^ (12 + 9 * level) + va % 2 ^ (12 + 9 * level)) (bitsOf e 6 2)
    else match level with
      | 0 => .malformed e at_
      | l + 1 => s.walkFrom va l (bitsOf e 12 40 * 4096)

/-- The walk of a 56-bit address under a PASID; an address space without a table has no leaf. -/
def State.walk (s : State) (pasid va : Nat) : Walk :=
  match mget 0 s.ptRoots pasid with
  | 0 => .missing
  | r => s.walkFrom (va % 2 ^ 56) 4 r

/-- R76: A on an access and D on a write, set indivisibly in the leaf. -/
def State.markPte (s : State) (at_ : Nat) (wr : Bool) : State :=
  let m := if wr then 3 else 1
  let old := leNat (s.cohLatest (at_ + 1) 1)
  if old % 4 ||| m = old % 4 then s else (s.update none (at_ + 1) 1 (.setIn m m)).1

/-- The level at which the walk of an address finds its leaf. -/
def State.leafLevel (s : State) (va : Nat) : (level table : Nat) → Nat
  | 0, _ => 0
  | l + 1, table =>
    let e := leNat (s.cohRead (table + 8 * (if l = 3 then bitsOf va 48 8 else bitsOf va (12 + 9 * (l + 1)) 9)) 8)
    if bitOf e 10 then l + 1 else s.leafLevel va l (bitsOf e 12 40 * 4096)
/-- The size of the page that maps an address (R75, R76). -/
def State.pageSize (s : State) (pasid va entry : Nat) : Nat :=
  match s.leafLevel (va % 2 ^ 56) 4 (mget 0 s.ptRoots pasid) with
  | 0 => if bitOf entry 11 then 65536 else 4096
  | 1 => 2 ^ 21
  | _ => 2 ^ 30

/-- What an access to a virtual address meets. -/
inductive Xlat where
  | ok (pa at_ mt : Nat)
  | malformed (entry : Nat)
  | missing
  | noPerm
deriving DecidableEq, Repr

def State.xlat (s : State) (pasid va : Nat) (k : Need) : Xlat :=
  match s.walk pasid va with
  | .missing => .missing
  | .malformed e _ => .malformed e
  | .leaf e at_ pa mt => if k.met e then .ok (s.forwarded pa) at_ mt else .noPerm

/-! ### Page requests (R445, R447) -/

/-- The outcome of an access's translation with the page requests that it makes. -/
inductive Demand where
  | ok (pa at_ mt : Nat)
  | malformed (entry : Nat)
  | wait
  | bad (perm : Bool)
deriving DecidableEq, Repr

def PageReq.is (q : PageReq) (src pasid page kind : Nat) : Bool :=
  q.src == src && q.pasid == pasid && q.page == page && q.kind == kind

/-- A request of a requester for a page: sent when none is on its way and the queue has room. -/
def State.askPage (s : State) (src pasid va kind : Nat) : State :=
  if s.coreReqs.any (fun q => q.is src pasid (va / 4096) kind) ∨ (s.coreReqs.filter (fun q => q.ans.isNone)).length ≥ 1024 then s
  else { s with coreReqs := s.coreReqs ++ [{ src := src, pasid := pasid, page := va / 4096, kind := kind }] }

/-- R445: a missing leaf or permission is refused only after the kernel's answer Invalid. -/
def State.demand (s : State) (src pasid va : Nat) (k : Need) : Demand :=
  let answered := s.coreReqs.any (fun q => q.is src pasid (va / 4096) k.kind && q.ans == some false)
  match s.xlat pasid va k with
  | .ok pa at_ mt => .ok pa at_ mt
  | .malformed e => .malformed e
  | .missing => if answered then .bad false else .wait
  | .noPerm => if answered then .bad true else .wait

/-- The Invalid answers of a requester for a page are used up. -/
def State.useAnswer (s : State) (src pasid va kind : Nat) : State :=
  { s with coreReqs := s.coreReqs.filter (fun q => !(q.is src pasid (va / 4096) kind && q.ans == some false)) }

/-- What the pages of a range meet, page by page: all good, or the first that is not, with its address. -/
def State.demandRange (s : State) (src pasid : Nat) (k : Need) : (fuel va n : Nat) → Option (Nat × Demand)
  | 0, _, _ => none
  | f + 1, va, n =>
    if n = 0 then none
    else match s.demand src pasid va k with
      | .ok _ _ _ => s.demandRange src pasid k f (va + Nat.min n (4096 - va % 4096)) (n - Nat.min n (4096 - va % 4096))
      | d => some (va, d)

/-- Bytes at a virtual address, page by page; none where a page does not translate or holds no plain memory. -/
def State.vreadF (s : State) (latest : Bool) (pasid : Nat) : (fuel va n : Nat) → Option (List Byte)
  | 0, _, _ => some []
  | f + 1, va, n =>
    if n = 0 then some []
    else
      let k := Nat.min n (4096 - va % 4096)
      match s.xlat pasid va .rd with
      | .ok pa _ _ =>
        match paKind pa with
        | .reg => none
        | _ => match s.vreadF latest pasid f (va + k) (n - k) with
          | some r => some (s.readLines latest (k / 128 + 2) (s.forwarded pa) k ++ r)
          | none => none
      | _ => none
def State.vread (s : State) (pasid va n : Nat) : Option (List Byte) := s.vreadF false pasid (n / 4096 + 2) va n
/-- The same for the agent whose own earlier writes count before their visibility points: an image's keeper (R51), and the
Lens arbiter in its slot records (R396). -/
def State.vreadLatest (s : State) (pasid va n : Nat) : Option (List Byte) := s.vreadF true pasid (n / 4096 + 2) va n

/-- Some page of a virtual range has a home that is changing (R78, R333). -/
def State.vmovesF (s : State) (pasid : Nat) : (fuel va n : Nat) → Bool
  | 0, _, _ => false
  | f + 1, va, n =>
    if n = 0 then false
    else
      let k := Nat.min n (4096 - va % 4096)
      (match s.xlat pasid va .rd with | .ok pa _ _ => s.homeMoves (s.forwarded pa) | _ => false) || s.vmovesF pasid f (va + k) (n - k)
def State.vmoves (s : State) (pasid va n : Nat) : Bool := s.vmovesF pasid (n / 4096 + 2) va n

/-- Some sector of a virtual range is poisoned. -/
def State.vpoisonF (s : State) (pasid : Nat) : (fuel va n : Nat) → Bool
  | 0, _, _ => false
  | f + 1, va, n =>
    if n = 0 then false
    else
      let k := Nat.min n (4096 - va % 4096)
      (match s.xlat pasid va .rd with | .ok pa _ _ => s.poisoned pa k | _ => false) || s.vpoisonF pasid f (va + k) (n - k)
def State.vpoison (s : State) (pasid va n : Nat) : Bool := s.vpoisonF pasid (n / 4096 + 2) va n

/-- Writing bytes at a virtual address; pages that do not translate lose theirs. True when every page took its bytes. -/
def State.vwriteF (s : State) (vis : Map Nat) (pasid : Nat) : (fuel va : Nat) → List Byte → State × Map Nat × Bool
  | 0, _, _ => (s, vis, true)
  | f + 1, va, bs =>
    if bs = [] then (s, vis, true)
    else
      let k := Nat.min bs.length (4096 - va % 4096)
      match s.xlat pasid va .wr with
      | .ok pa at_ _ =>
        let (s1, v) := (s.markPte at_ true).cohWrite pa (bs.take k)
        let vis1 := v.foldl (fun m e => visMax m (some e)) vis
        State.vwriteF s1 vis1 pasid f (va + k) (bs.drop k)
      | _ =>
        let r := State.vwriteF s vis pasid f (va + k) (bs.drop k)
        (r.1, r.2.1, false)
def State.vwrite (s : State) (pasid va : Nat) (bs : List Byte) : State × Map Nat × Bool :=
  State.vwriteF s [] pasid (bs.length / 4096 + 2) va bs

/-- R76: the leaves that a read of a virtual range uses get their A. -/
def State.markRange (s : State) (pasid : Nat) : (fuel va n : Nat) → State
  | 0, _, _ => s
  | f + 1, va, n =>
    if n = 0 then s
    else
      let k := Nat.min n (4096 - va % 4096)
      (match s.xlat pasid va .rd with | .ok _ at_ _ => s.markPte at_ false | _ => s).markRange pasid f (va + k) (n - k)
def State.markRead (s : State) (pasid va n : Nat) : State := s.markRange pasid (n / 4096 + 2) va n

/-- An indivisible update at a virtual address within one page; none where it does not translate with RD and W. -/
def State.vupdate (s : State) (pasid va n : Nat) (k : Need) (op : StoreOp) : Option (State × Map Nat) :=
  match s.xlat pasid va k with
  | .ok pa at_ _ => some ((s.markPte at_ true).update none pa n op)
  | _ => none

/-! ### Workgroups' own storage (R33, R34, R64, R67, R50) -/

/-- The number of a workgroup in its grid (R105). -/
def wgIndex (gr : Grid) (w : Workgroup) : Nat := w.x + gr.nx * (w.y + gr.k.gy * w.z)
def Kernel.groups (k : Kernel) : Nat := k.wgsize / 32
/-- R67: the private extent. -/
def Kernel.extent (k : Kernel) : Nat := k.priv + 4096 + k.stack
/-- The global block of a group (R67, R348). -/
def privBlock (gr : Grid) (w : Workgroup) (g : Nat) : Nat :=
  (gr.pb + wgIndex gr w * gr.k.groups * (32 * gr.k.extent + 4096) + g * (32 * gr.k.extent + 4096)) % 2 ^ 56
/-- R67: the space-0 address of a lane's private offset. -/
def privAddr (gr : Grid) (w : Workgroup) (g lane off : Nat) : Nat :=
  (privBlock gr w g + 4096 + off / 16 * 512 + 16 * lane + off % 16) % 2 ^ 56
/-- R33: bytes of each window of a workgroup's scratchpad; the whole when it does not span. -/
def windowOf (n scratch : Nat) : Nat := if n ≤ 1 then scratch else (scratch / n + (if scratch % n = 0 then 0 else 1) + 255) / 256 * 256
def windowBytes (gr : Grid) (w : Workgroup) : Nat := windowOf w.cores.length gr.k.scratch

def round256 (n : Nat) : Nat := (n + 255) / 256 * 256
/-- R50: bytes of one group section, and the offset of the scratchpad section in the image of a workgroup. -/
def groupSection (k : Kernel) : Nat := round256 (128 * k.vregs + 1280 + 4 * k.sregs + 32 + 8 + 8 + 128 + 8 + 128 + 32)
def scratchSection (k : Kernel) (g : Nat) : Nat := 256 + g * groupSection k
/-- R487: the slot of one image in the save area. -/
def slotBytes (gr : Grid) : Nat :=
  let n := if gr.span ≤ 1 then 1 else 8
  let z := 256 + gr.k.groups * groupSection gr.k + round256 gr.k.scratch + 512 * gr.k.acc * n + 4 * n * 25600 + 512 + 256 * 32
  (z + 4095) / 4096 * 4096
def imageAddr (gr : Grid) (w : Workgroup) : Nat := gr.save + wgIndex gr w * slotBytes gr

/-- Bytes of a workgroup's scratchpad: on the core of the window, or in its image while it is saved (R51). -/
def State.scrRead (s : State) (w : Workgroup) (win off n : Nat) : List Byte :=
  match w.phase, s.grid? w.grid with
  | .saved, some gr => (s.vreadLatest gr.pasid (imageAddr gr w + scratchSection gr.k w.groups.length + win * windowBytes gr w + off) n).getD (List.replicate n 0)
  | _, _ => mgetAll 0 (s.core (w.cores.getD win 0)).scr (w.spBase.getD win 0 + off) n

def unitsOf (off n : Nat) : List Nat := if n = 0 then [] else (List.range ((off + n - 1) / 32 - off / 32 + 1)).map (fun i => off / 32 + i)

/-- R51, R486: some saved split waits on a counter of the workgroup's own image that has reached its target. -/
def Workgroup.counterMet (w : Workgroup) (here : Nat → Nat → Bool) (value : Nat → Nat) : Bool :=
  let met := fun (sp : Split) => match sp.blk with | .counter (.sp k win o) t => k == w.key && here win o && value o ≥ t | _ => false
  w.groups.any (fun g => g.table.any (fun e => match e with | some sp => met sp | none => false) || g.spill.any met)

/-- R48, R486: a wait of a saved split has completed in the image, whose header says so. -/
def State.waitInImage (s : State) (gr : Grid) (w : Workgroup) : State :=
  (((s.vwrite gr.pasid (imageAddr gr w + 0x18) (leBytes 4 (if w.alone then 3 else 2))).1).modWg w.key (fun w => { w with wdone := true })).modGrid gr.id (fun g => { g with detections := 0 })

def State.scrWrite (s : State) (w : Workgroup) (win off : Nat) (bs : List Byte) : State :=
  match w.phase, s.grid? w.grid with
  | .saved, some gr =>
    let s1 := (s.vwrite gr.pasid (imageAddr gr w + scratchSection gr.k w.groups.length + win * windowBytes gr w + off) bs).1
    if w.counterMet (fun k o => k == win && o < off + bs.length && off < o + 8) (fun o => leNat (s1.scrRead w win o 8)) then s1.waitInImage gr w else s1
  | _, _ =>
    let a := w.spBase.getD win 0 + off
    (s.wakeCounter (fun r => match r with | .sp k v o => k == w.key && v == win && o < off + bs.length && off < o + 8 | _ => false)).modCore (w.cores.getD win 0) (fun c => { c with scr := msetAll 0 c.scr a bs, scrPoison := c.scrPoison.filter (fun u => !(a ≤ 32 * u && 32 * u + 32 ≤ a + bs.length)) })

def State.scrPoisoned (s : State) (w : Workgroup) (win off n : Nat) : Bool :=
  match w.phase, s.grid? w.grid with
  | .saved, some gr => s.vpoison gr.pasid (imageAddr gr w + scratchSection gr.k w.groups.length + win * windowBytes gr w + off) n
  | _, _ => (unitsOf (w.spBase.getD win 0 + off) n).any (fun u => (s.core (w.cores.getD win 0)).scrPoison.contains u)

/-- The 32-byte units of a range become poisoned (R461). -/
def State.poisonScr (s : State) (w : Workgroup) (win off n : Nat) : State :=
  match w.phase, s.grid? w.grid with
  | .saved, some gr =>
    match s.xlat gr.pasid (imageAddr gr w + scratchSection gr.k w.groups.length + win * windowBytes gr w + off) .wr with
    | .ok pa _ _ => s.poisonSectors pa n
    | _ => s
  | _, _ => s.modCore (w.cores.getD win 0) (fun c => { c with scrPoison := (unitsOf (w.spBase.getD win 0 + off) n).foldl (fun l u => insertNat u l) c.scrPoison })

/-! ### Pointers (R53, R54) -/

/-- What a checked pointer reaches. `priv`: the private offset of a space-1 pointer; `win`: the window of a workgroup. -/
inductive Tgt where
  | glob (va : Nat) (priv : Option Nat)
  | scr (wg win off : Nat)
  | peer (dev off : Nat)
deriving DecidableEq, Repr

def ptrSpace (p : Nat) : Nat := bitsOf p 60 4
/-- R53: the bits that a space marks zero are zero, and the space is not reserved. -/
def ptrFormed (p : Nat) : Bool :=
  match ptrSpace p with
  | 0 => bitsOf p 56 4 == 0
  | 1 => bitsOf p 32 28 == 0
  | 2 => bitsOf p 21 39 == 0
  | 3 => bitsOf p 21 35 == 0
  | 6 => true
  | _ => false

/-- R122: the space hint agrees with the space. -/
def hintOk (hint space : Nat) : Bool :=
  match hint with
  | 0 => true
  | 1 => space == 0
  | 2 => space == 2 || space == 3
  | _ => space == 1

/-- The workgroup and window that rank r of the issuer's cluster or span names (R34, R53). -/
def State.member (s : State) (w : Workgroup) (r : Nat) : Option (Workgroup × Nat) :=
  if w.cores.length > 1 then some (w, r)
  else if r = w.rank then some (w, 0)
  else match s.wgs.find? (fun o => o.grid == w.grid && o.cluster == w.cluster && o.rank == r) with
    | some o => some (o, 0)
    | none => none

/-- How an instruction uses its pointers. -/
structure PtrUse where
  spaces : List Nat
  hint : Nat := 0
  width : Nat
  align : Nat
  wr : Bool := false
  gw : Bool := false
  /-- Only spaces 0 and 1 are acted on (R183). -/
  cache : Bool := false

/-- R54, R122, R190: the checks that need no translation; the lane's target, or its cause and SUB. -/
def Ctx.checkPtr (x : Ctx) (u : PtrUse) (p : Nat) : Except (Nat × Nat) Tgt :=
  let sp := ptrSpace p
  let off := p % 2 ^ 21
  if !ptrFormed p then .error (0x06, 1)
  else if sp = 3 && bitsOf p 56 4 ≥ x.wg.clsize then .error (0x06, 2)
  else if !u.spaces.contains sp then .error (0x06, 3)
  else if !hintOk u.hint sp then .error (0x06, 4)
  else if u.gw && sp = 1 then .error (0x06, 5)
  else if p % u.align ≠ 0 then .error (0x03, 0)
  else match sp with
    | 0 => .ok (.glob (p % 2 ^ 56) none)
    | 1 => if p % 2 ^ 32 + u.width > x.gr.k.extent then .error (0x05, 3) else .ok (.glob 0 (some (p % 2 ^ 32)))
    | 6 => .ok (.peer (bitsOf p 49 11) (p % 2 ^ 49))
    | _ =>
      let win := if sp = 2 then x.win else if x.wg.cores.length > 1 then bitsOf p 56 4 else 0
      if off + u.width > windowBytes x.gr x.wg then .error (0x05, 2)
      else if u.wr && win = 0 && off < 0x400 then .error (0x05, 4)
      else .ok (.scr (if sp = 2 then 16 else bitsOf p 56 4) win off)

/-! ### Where a lane's translated access goes -/

/-- The configuration space that the kernel may map for lanes (R381): 1 MiB per bus; root port p.k is device 2p + (k div 8)
of bus 0. -/
def ecamBase : Nat := 0xF000100000000
def isEcam (pa : Nat) : Bool := ecamBase ≤ pa && pa < ecamBase + 2 ^ 28
/-- The port of a configuration access: that of its root port on bus 0; buses beyond are the kernel's to assign. -/
def ecamPort (pa : Nat) : Nat := if pa - ecamBase < 2 ^ 20 then (pa - ecamBase) / 2 ^ 15 / 2 else 8

/-- The place of a physical access of a lane (R77, R311, R327): `own`, the home itself, uncached. -/
inductive Place where
  | line | own | device (port : Nat) | hole | reg | wait
deriving DecidableEq, Repr

/-- R381: a lane reaches a port's window and configuration space only through a mapping of type 1 or 2; under type 0
nothing is there (log entry 70). R76: memory under type 1 or 2 is not cached. -/
def State.place (s : State) (pa : Nat) (mt : Nat := 0) : Place :=
  match s.kindOf pa with
  | .hole => .hole
  | .pcie p => if mt = 0 then .hole else .device p
  | .reg => if isEcam pa ∧ mt ≠ 0 then .device (ecamPort pa) else .reg
  | _ => if s.computeSide pa ∧ ¬ s.homeMoves pa then (if mt = 0 then .line else .own) else .wait

/-- R77: an access of a core, streamer, Prism engine or array asks for a region on the other side. -/
def State.askRegion (s : State) (pa : Nat) (compute : Bool) : State :=
  if isMemory pa then
    let r := s.region (hbmRegion pa)
    if r.compute = compute ∧ ¬ r.moving then s else s.modRegion (hbmRegion pa) (fun r => { r with wanted := true })
  else s

/-- R78: a load, or an atomic's demand, meets a region on the other side: it asks for the region, and keeps its place among
the accesses that arrive meanwhile. -/
def State.queueLoad (s : State) (die pa : Nat) (op : StoreOp) : State :=
  let p := s.forwarded pa
  if s.storeQ.any (fun q => q.die == die && q.pa / 128 == p / 128 && q.op == op) ∨ ¬ isMemory p then s
  else
    let (id, s1) := s.fresh
    { s1 with storeQ := s1.storeQ ++ [{ id := id, die := die, wg := noWg, grp := 0, lane := 0, pa := p, bytes := [], op := op, io := false }] }

end Sys2Proof.Machine
end

