-- ==== Sys2Proof/Machine/Access.lean ====
section
/-! DEFINITION. What a lane's memory access meets: the checks of R422 step 4 over the lanes in order, page requests
(R445), windows of this device (R418, R446), and the loads and requests of a die's L2 (R313, R314, R320). -/
namespace Sys2Proof.Machine

/-! ### Addresses of form M -/

/-- R121: base, index and offset. -/
def memAddr (w : FormM) (base : W64) (idx : W32) : Nat :=
  let i : Int := if w.com.mod.toNat ≥ 8 then 0 else if w.com.mod.getLsbD 2 then idx.toInt else (idx.toNat : Int)
  wrapNat 64 ((base.toNat : Int) + i * (2 ^ (w.com.mod.toNat % 4) : Nat) + w.off.toInt)

/-- Bytes of an access size code (R122). -/
def szBytes (sz : BitVec 3) : Nat := 2 ^ sz.toNat

/-! ### Resolved targets -/

/-- Where one lane's access goes once its checks have passed. -/
inductive Res where
  /-- A line of memory, with the leaf that the walk used. -/
  | line (pa at_ : Nat)
  /-- Memory under a type that is not cached (R76), or this device's own window (R56): performed at the home. -/
  | direct (pa at_ : Nat) (own : Bool)
  | device (port pa at_ : Nat)
  | hole (pa : Nat)
  /-- A workgroup's scratchpad. -/
  | scr (wg win off : Nat)
  /-- A cluster member that has retired. -/
  | gone
  | peer (dev off : Nat)
deriving DecidableEq, Repr

structure LanePlan where
  lane : Nat
  ptr : Nat
  res : Res
deriving DecidableEq, Repr

/-- The outcome of the checks of one instruction. -/
inductive Plan where
  | go (l : List LanePlan)
  | trap (t : Trap) (s : State)
  | hold (s : State)
  | park (wg : Nat)
  | abort (cause sub : Nat) (s : State)

/-- One lane's outcome. -/
inductive LaneRes where
  | ok (r : Res)
  | bad (cause sub : Nat) (val : Nat) (s : State)
  | wait (s : State)
  | member (wg : Nat)
  | abort (cause sub : Nat) (s : State)

/-- R418: the inbound entry that an access at an offset from a device uses. -/
def State.window? (s : State) (dev off : Nat) : Option Window :=
  (s.windows.map Prod.snd).find? (fun w => w.v && (w.peer == dev || w.peer == 0x7FF) && w.base ≤ off && off < w.base + w.size)

def Window.permits (w : Window) (k : Need) : Bool :=
  match k with
  | .rd => w.rd | .wr => w.w | .rdwr => w.rd && w.w | .any => w.rd || w.w | _ => false

/-- The requester number of a core's page requests is the core's; engines follow it (R447). -/
def srcWindow : Nat := 5000

/-- The lease that R312 gives the loads of a core. -/
def State.leaseOf (s : State) (core : Nat) : Nat := (s.steward (regionOfCore core)).lease

/-- The number that stands for a lane in records of writes. -/
def laneKey (wg grp lane : Nat) : Nat := (wg * 512 + grp) * 32 + lane

/-- Requesters at an L2 other than a core's L1 (R313): the fetch of a core, an engine's command, a lane that is served
at a home without a lease. -/
def fetchBuffer (core : Nat) : Nat := 512 + core
def engineBuffer (id : Nat) : Nat := 1024 + 2 * id
def laneBuffer (wg grp lane : Nat) : Nat := 1025 + 2 * laneKey wg grp lane

/-- R445, R422 step 4: translation of one lane, its page request, cause 0x02 and the place of the access. The guard gap is
never mapped, and an access to it is a stack-limit fault (R67, R68). -/
def Ctx.laneGlob (x : Ctx) (s : State) (k : Need) (lane ptr va : Nat) (priv : Option Nat) : LaneRes :=
  let kind := k.kind
  if (match priv with | some o => decide (x.gr.k.priv ≤ o ∧ o < x.gr.k.priv + 4096) | none => false) then .bad 0x0D 1 ptr s
  else match s.demand x.g.core x.gr.pasid va k with
  | .ok pa at_ mt =>
    match s.place pa mt with
    | .line => .ok (.line pa at_)
    | .own => .ok (.direct pa at_ false)
    | .device p => .ok (.device p pa at_)
    | .hole => .ok (.hole pa)
    | .reg => .bad 0x02 1 va s
    | .wait => if k = .wr then .ok (if mt = 0 then .line pa at_ else .direct pa at_ false)
      else .wait ((s.askRegion pa true).queueLoad (if mt = 0 then x.die else homeDie pa) pa (if k = .rdwr then .demand else if mt = 0 then .load x.g.core (s.leaseOf x.g.core) else .load (laneBuffer x.wg.key x.foc.grp lane) 0))
  | .malformed e => .bad 0x04 2 ptr (s.logRec { unit := x.die, code := 0x06, ten := x.wg.ten, src := 1, uno := x.g.core, ctx := x.wg.ctx, pasid := x.gr.pasid, va := va, aux := e })
  | .wait => .wait (s.askPage x.g.core x.gr.pasid va kind)
  | .bad perm =>
    let s1 := s.useAnswer x.g.core x.gr.pasid va kind
    match priv with
    | some o => if x.gr.k.priv + 4096 ≤ o then .abort 0x0D 1 s1 else .bad (if perm then 0x05 else 0x04) 1 ptr s1
    | none => .bad (if perm then 0x05 else 0x04) 1 ptr s1

/-- R446, R418: an access to this device's own window, performed at the home as a core's access is (R56, R77). -/
def Ctx.laneOwn (x : Ctx) (s : State) (k : Need) (lane ptr off : Nat) : LaneRes :=
  match s.window? s.devnum off with
  | none => .bad 0x04 3 ptr s
  | some w =>
    if !w.permits k then .bad 0x05 1 ptr s
    else
      let va := w.va + (off - w.base)
      match s.demand srcWindow w.pasid va k with
      | .ok pa at_ _ =>
        match s.place pa 1 with
        | .reg => .bad 0x02 1 va s
        | .hole => .ok (.hole pa)
        | .device p => .ok (.device p pa at_)
        | .wait => if k = .wr then .ok (.direct pa at_ true) else .wait ((s.askRegion pa true).queueLoad (homeDie pa) pa (if k = .rdwr then .demand else .load (laneBuffer x.wg.key x.foc.grp lane) 0))
        | _ => .ok (.direct pa at_ true)
      | .malformed _ => .bad 0x04 2 ptr s
      | .wait => .wait (s.askPage srcWindow w.pasid va k.kind)
      | .bad perm => .bad (if perm then 0x05 else 0x04) 1 ptr (s.useAnswer srcWindow w.pasid va k.kind)

/-- R56: the domain has no device of a number. -/
def State.absent (s : State) (dev : Nat) : Bool := s.routes.all (fun r => r.1 != dev)
/-- No route to a device remains (R480). -/
def State.unreachable (s : State) (dev : Nat) : Bool :=
  match s.routes.find? (fun r => r.1 == dev) with
  | some (_, ports) => ports.all (fun p => !s.effUp.contains p)
  | none => false

/-- One lane's checks after its pointer is formed. An unreachable device refuses a store, red or reds (R480). -/
def Ctx.laneCheck (x : Ctx) (s : State) (u : PtrUse) (k : Need) (lane ptr : Nat) : LaneRes :=
  match x.checkPtr u ptr with
  | .error (c, b) => .bad c b ptr s
  | .ok (.glob va none) => x.laneGlob s k lane ptr va none
  | .ok (.glob _ (some o)) => x.laneGlob s k lane ptr (privAddr x.gr x.wg x.g.grpid lane o) (some o)
  | .ok (.peer dev off) =>
    if dev = s.devnum then
      (match x.laneOwn s k lane ptr off with | .ok r => .ok (if u.cache then .gone else r) | r => r)
    else if s.absent dev || (k = .wr && s.unreachable dev) then .bad 0x04 3 ptr s
    else .ok (if u.cache then .gone else .peer dev off)
  | .ok (.scr r win off) =>
    if u.cache then .ok .gone
    else if r ≥ 16 then .ok (.scr x.wg.key win off)
    else match s.member x.wg r with
      | none => .ok .gone
      | some (w, win) => if w.phase = .starting then .member w.key else .ok (.scr w.key win off)

/-- R422 step 4: the lanes in ascending order; the first failing lane decides, once no earlier lane waits (R445). -/
def Ctx.planLanes (x : Ctx) (u : PtrUse) (k : Need) : (waits : Bool) → Option Nat → List LanePlan → State → List (Nat × Nat) → Plan
  | waits, mem, done, s, [] => if waits then .hold s else match mem with | some w => .park w | none => .go done.reverse
  | waits, mem, done, s, (lane, ptr) :: rest =>
    match x.laneCheck s u k lane ptr with
    | .ok r => x.planLanes u k waits mem ({ lane := lane, ptr := ptr, res := r } :: done) s rest
    | .wait s1 => x.planLanes u k true mem done s1 rest
    | .member w => x.planLanes u k waits (some w) done s rest
    | .abort c b s1 => if waits then .hold s else .abort c b s1
    | .bad c b v s1 => if waits then .hold s else .trap { cause := c, sub := b, lane := lane, val := BitVec.ofNat 64 v } s1

/-- Carrying out a plan that does not go: trap, interlock, park at a member that starts (R46), or abort (R445). -/
def Ctx.settlePlan (x : Ctx) (s : State) (p : Plan) (go : List LanePlan → State) : State :=
  match p with
  | .go l => go l
  | .trap t s1 => s1.takeTrap x t
  | .hold s1 => s1.holdSplit x
  | .park w => s.blockSplit x .parked .member (.member w)
  | .abort c b s1 => { s1.blockSplit x .waiting .trapEntry .abort with agenda := .abortReport x.wg.key c b :: s1.agenda }

/-! ### Loads at a die's L2 (R313, R314) -/

/-- A line that the die holds for writing and whose waiting read-modify-writes it still performs: those that waited when it
came go first (R320, log entry 34). -/
def Line.usable (l : Line) : Bool := !l.leaving || !l.used
/-- R320, R321: the die serves loads of the line. -/
def Line.serves (l : Line) : Bool :=
  !l.leaving && (match l.st with | .m => true | .o => true | .e => true | .s => true | .smA => true | .omA => true | _ => false)

/-- R21, R70: room in a core's 256 KiB L1; which copy goes is left free. -/
def State.l1Room (s : State) (who : Nat) : State :=
  let mine := s.l1.filter (fun k => k.core == who)
  if who ≥ 192 ∨ mine.length < 2048 then s
  else match mine[(Config.freeValue s.free).toNat % mine.length]? with
    | some c => { s with l1 := s.l1.erase c, free := s.free + 1 }
    | none => s

/-- L2_LOAD_REQUEST (R313): the line's value at this tick and its grant, which the requester keeps (R314). A lookup hits
only a line of the requester's tenancy (R71). -/
def State.l2Load (s : State) (die ten who lease ln : Nat) : Option State :=
  match s.line? die ln with
  | none => none
  | some l =>
    if !l.serves || !l.hits ten then none
    else
      let now := s.clock die
      let later := (l.writes.map (·.vis)).filter (fun v => now < v)
      let grant := match minNat? later with
        | some v => Nat.min (now + lease) (v - 1)
        | none => now + lease
      let s1 := s.setLine { l with rts := Nat.max l.rts grant }
      let (t, s2) := s1.stamp
      let s3 : State := { s2 with l1 := s2.l1.filter (fun k => !(k.core == who && k.addr == ln)) }
      let s4 := s3.l1Room who
      some { s4 with l1 := s4.l1 ++ [{ core := who, addr := ln, data := l.seen now, grant := grant, at_ := t }] }

/-- R314: the core's copy of a line that this split may hit. -/
def Ctx.l1Hit (x : Ctx) (s : State) (ln : Nat) : Option L1Line :=
  s.l1.find? (fun k => k.core == x.g.core && k.addr == ln && s.clock x.die ≤ k.grant && x.sp.acqAt ≤ k.at_)

/-- A requester without an L1: the line as it was served to it, or none with its request. -/
def State.l2Get (s : State) (die ten who lease ln : Nat) : State × Option (List Byte) :=
  match s.l1.find? (fun k => k.core == who && k.addr == ln) with
  | some c => (s, some c.data)
  | none => match s.l2Load die ten who lease ln with
    | some s1 => (s1, (s1.l1.find? (fun k => k.core == who && k.addr == ln)).map (·.data))
    | none => (s.askShared die ln ten who lease, none)
/-- What was served to such a requester has been used. -/
def State.l2Used (s : State) (who : Nat) : State := { s with l1 := s.l1.filter (fun k => k.core != who) }

/-- R325: an engine's read of any length at its die's L2; none while a line has yet to come. -/
def State.l2Read (s : State) (die ten who lease : Nat) : (fuel pa n : Nat) → State × Option (List Byte)
  | 0, _, _ => (s, some [])
  | f + 1, pa, n =>
    if n = 0 then (s, some [])
    else
      let k := Nat.min n (128 - pa % 128)
      let (s1, d) := s.l2Get die ten who lease (pa / 128)
      let (s2, r) := s1.l2Read die ten who lease f (pa + k) (n - k)
      (s2, match d, r with | some a, some b => some ((a.drop (pa % 128)).take k ++ b) | _, _ => none)

/-- Bytes written at pa laid over bytes read at ra. -/
def overlay (ra : Nat) (d : List Byte) (pa : Nat) (bs : List Byte) : List Byte :=
  (List.range d.length).map (fun i => if pa ≤ ra + i ∧ ra + i < pa + bs.length then bs.getD (ra + i - pa) 0 else d.getD i 0)

def Store.mine (st : Store) (wg grp lane : Nat) : Option (List Byte) :=
  if st.wg = wg ∧ st.grp = grp then
    if st.lane = lane then some st.bytes else (st.under.find? (fun u => u.1 == lane)).map Prod.snd
  else none

/-- R310: a lane's own earlier writes that are not yet visible, over what it reads. -/
def Ctx.ownWrites (x : Ctx) (s : State) (lane pa : Nat) (d : List Byte) : List Byte :=
  let d1 := (s.lines.filter (fun l => l.addr == pa / 128)).foldl (fun d l => l.writes.foldl (fun d w => if s.clock l.agent < w.vis ∧ w.lane = some (laneKey x.wg.key x.foc.grp lane) then overlay pa d (128 * l.addr + w.off) w.bytes else d) d) d
  s.storeQ.foldl (fun d st => match st.op, st.mine x.wg.key x.foc.grp lane with
    | .write, some bs => overlay pa d st.pa bs
    | _, _ => d) d1

/-- A read-modify-write of the lane itself that its die has not applied: a load of its bytes waits for it (R305). -/
def Ctx.ownAtomic (x : Ctx) (s : State) (lane pa n : Nat) : Bool :=
  s.storeQ.any (fun st => st.vis.isNone && (match st.op with | .atomic _ _ _ _ _ => true | _ => false) && st.wg == x.wg.key && st.grp == x.foc.grp && st.lane == lane && st.pa < pa + n && pa < st.pa + st.bytes.length)

/-- The bytes that a lane's load of a line returns, or none with the request that it makes (R313, R314). -/
def Ctx.loadLine (x : Ctx) (s : State) (lane pa n : Nat) : State × Option (List Byte) :=
  if x.ownAtomic s lane pa n then (s, none)
  else
    let get := fun (s : State) (d : List Byte) => (s, some (x.ownWrites s lane pa ((d.drop (pa % 128)).take n)))
    match x.l1Hit s (pa / 128) with
    | some c => get s c.data
    | none =>
      match s.l2Load x.die x.wg.ten x.g.core (s.leaseOf x.g.core) (pa / 128) with
      | some s1 => match x.l1Hit s1 (pa / 128) with
        | some c => get s1 c.data
        | none => get s1 ((s1.l1.getLast?.map (·.data)).getD [])
      | none => (s.askShared x.die (pa / 128) x.wg.ten x.g.core (s.leaseOf x.g.core), none)

/-- The bytes that a lane's load returns which is performed at the home, without a lease (R56, R76, R332). -/
def Ctx.loadHome (x : Ctx) (s : State) (lane pa n : Nat) : State × Option (List Byte) :=
  if x.ownAtomic s lane pa n then (s, none)
  else
    let d := homeDie pa
    let (s1, r) := s.l2Get d (match s.line? d (pa / 128) with | some l => l.ten | none => x.wg.ten) (laneBuffer x.wg.key x.foc.grp lane) 0 (pa / 128)
    (s1, r.map (fun b => x.ownWrites s1 lane pa ((b.drop (pa % 128)).take n)))

/-- What the lanes of the issuing split were served at homes has been used. -/
def Ctx.homeUsed (x : Ctx) (s : State) : State := (lanesOf x.sp.mask).foldl (fun s l => s.l2Used (laneBuffer x.wg.key x.foc.grp l)) s

/-- A lane's load of a page of a PCI Express window (R327): it waits for the completion of its request, whose bytes the
device gives; a contained link completes it with poison (R470). A port has at most 4,096 requests outstanding (R378). -/
def Ctx.loadDevice (x : Ctx) (s : State) (lane port pa n : Nat) : State × Option (Option (List Byte)) :=
  match s.devLoads.find? (fun d => d.wg == x.wg.key && d.grp == x.foc.grp && d.lane == lane && d.wi == x.sp.wi && d.pa == pa) with
  | none =>
    if (s.devLoads.filter (fun d => d.port == port && d.ans.isNone)).length ≥ 4096 then (s, none)
    else
    let (id, s1) := s.fresh
    ({ s1 with devLoads := s1.devLoads ++ [{ id := id, wg := x.wg.key, grp := x.foc.grp, lane := lane, wi := x.sp.wi, port := port, pa := pa, n := n, since := s.cycle, ans := if s.contained port pa then some none else none }] }, none)
  | some d =>
    match d.ans with
    | some a => (s, some a)
    | none =>
      let (v, s1) := s.freeVal
      let (u, s2) := s1.freeVal
      (s2, some (some ((leBytes 8 v.toNat ++ leBytes 8 u.toNat).take n)))

/-- The issuing instruction's device loads are over. -/
def Ctx.devLoadsDone (x : Ctx) (s : State) : State :=
  { s with devLoads := s.devLoads.filter (fun d => !(d.wg == x.wg.key && d.grp == x.foc.grp && d.wi == x.sp.wi && x.sp.mask.getLsbD d.lane)) }

/-- A space-6 access of a lane: its flit, sent once, and the answer when it has come (R330, R332, R446). -/
def Ctx.flit (x : Ctx) (s : State) (lane ptr : Nat) (op : PeerOp) : State × Option PeerAns :=
  match s.fabric.find? (fun f => f.wg == x.wg.key && f.grp == x.foc.grp && f.lane == lane && f.wi == x.sp.wi && f.ptr == ptr && !f.posted && f.copy.isNone) with
  | none =>
    let (id, s1) := s.fresh
    ({ s1 with fabric := s1.fabric ++ [{ id := id, wg := x.wg.key, grp := x.foc.grp, lane := lane, wi := x.sp.wi, ptr := ptr, op := op, since := s1.cycle, posted := false }] }, none)
  | some f => (s, f.ans)

/-- The answered flits of the issuing instruction leave the fabric; writes among them become posted and enter the
split's record until their acknowledgement (R332). -/
def Ctx.flitsDone (x : Ctx) (s : State) (posted : Bool) (io : Bool := false) : State :=
  let mine := fun (f : Flit) => f.wg == x.wg.key && f.grp == x.foc.grp && f.wi == x.sp.wi && !f.posted && f.copy.isNone && (x.sp.mask.getLsbD f.lane)
  if posted then
    let ids := (s.fabric.filter mine).map (·.id)
    ids.foldl (fun s i => s.recordPend x.foc i io) { s with fabric := s.fabric.map (fun f => if mine f then { f with posted := true, ans := none } else f) }
  else { s with fabric := s.fabric.filter (fun f => !mine f) }

/-- R201: a contribution that its peer rejects is held at the core. -/
def State.holdContrib (s : State) (f : Flit) : State :=
  match f.op with
  | .reds mod sgn sz idx b =>
    { s with fabric := s.fabric.filter (fun g => g.id != f.id), contribs := s.contribs ++ [{ id := f.id, wg := f.wg, grp := f.grp, lane := f.lane, cell := f.ptr, pa := 0, idx := idx, val := b, mod := mod, sgn := sgn, sz := sz, away := true }] }
  | _ => s
/-- A contribution held at the core goes to its peer again. -/
def State.resendContrib (s : State) (c : Contrib) : State :=
  { s with contribs := s.contribs.filter (fun k => k.id != c.id), fabric := s.fabric ++ [{ id := c.id, wg := c.wg, grp := c.grp, lane := c.lane, wi := 0, ptr := c.cell, op := .reds c.mod c.sgn c.sz c.idx c.val, since := s.cycle, posted := true }] }

/-- R446, R462: the trap that an answer makes. -/
def peerTrap (a : PeerAns) (lane ptr : Nat) : Option Trap :=
  let v := BitVec.ofNat 64 ptr
  match a with
  | .ok _ _ => none
  | .noWindow => some { cause := 0x04, sub := 3, lane := lane, val := v }
  | .noPerm => some { cause := 0x05, sub := 1, lane := lane, val := v }
  | .invalid leaf => some { cause := if leaf then 0x05 else 0x04, sub := 1, lane := lane, val := v }
  | .poison => some { cause := 0x0F, sub := 1, lane := lane, val := v }
  | .retry => none

/-- A lane's write to its resolved place (R189, R311, R327): a line's write waits for its die, a device's for its port.
`io`: it counts for dbell (R189). `under`: lower lanes' writes of the same bytes. -/
def Ctx.putStore (x : Ctx) (s : State) (lane : Nat) (r : Res) (bs : List Byte) (op : StoreOp) (io : Bool) (under : List (Nat × List Byte)) : State :=
  match r with
  | .line pa _ =>
    let (id, s1) := (s.askRegion pa true).fresh
    ({ s1 with storeQ := s1.storeQ ++ [{ id := id, die := x.die, wg := x.wg.key, grp := x.foc.grp, lane := lane, pa := pa, bytes := bs, op := op, io := io, under := under }] } : State).recordPend x.foc id io
  | .direct pa _ _ =>
    let (id, s1) := (s.askRegion pa true).fresh
    ({ s1 with storeQ := s1.storeQ ++ [{ id := id, die := homeDie pa, wg := x.wg.key, grp := x.foc.grp, lane := lane, pa := pa, bytes := bs, op := op, io := io, under := under }] } : State).recordPend x.foc id io
  | .device port pa _ =>
    let (id, s1) := s.fresh
    ({ s1 with posted := s1.posted ++ [{ id := id, wg := x.wg.key, grp := x.foc.grp, lane := lane, port := port, pa := pa, bytes := bs }] } : State).recordPend x.foc id io
  | .hole pa => s.logRec { unit := x.die, code := 0x40, ten := x.wg.ten, src := 6, ctx := x.wg.ctx, pasid := x.gr.pasid, pa := pa, aux := 1 }
  | .scr key win off => match s.wg? key with | some w => s.scrWrite w win off bs | none => s
  | .gone => s
  | .peer _ _ => s

/-- The poison check of a resolved target (R422 step 5). -/
def State.resPoisoned (s : State) (r : Res) (n : Nat) : Bool :=
  match r with
  | .line pa _ => s.poisoned pa n
  | .direct pa _ _ => s.poisoned pa n
  | .hole _ => true
  | .scr key win off => match s.wg? key with | some w => s.scrPoisoned w win off n | none => false
  | _ => false

def Res.leaf? : Res → Option Nat
  | .line _ a => some a | .direct _ a _ => some a | .device _ _ a => some a | _ => none
/-- R76: A and D of the leaves that the lanes used. -/
def State.markLeaves (s : State) (l : List LanePlan) (wr : Bool) : State :=
  l.foldl (fun s p => match p.res.leaf? with | some a => s.markPte a wr | none => s) s

end Sys2Proof.Machine
end

