-- ==== Sys2Proof/Machine/Pipes.lean ====
section
/-! DEFINITION. The pipe, the occupancy and the register reads of each instruction (R18, R167, R257, R488), and which two
picks of a cycle can pair (R364). -/
namespace Sys2Proof.Machine

/-- A register field that an instruction reads, with how many registers. -/
abbrev Reads := List (Opnd × Nat)

/-- Registers of the address (R121), and a run of registers for data. -/
def memReads (w : FormM) : Reads := (w.a, 2) :: (if w.com.mod.toNat ≥ 8 then [] else [(w.b, 1)])
def runLength (sz : BitVec 3) : Nat := if sz.toNat ≤ 2 then 1 else 2 ^ (sz.toNat - 2)
/-- The register of a barrier instruction that takes its object's address from one (R203). -/
def barReads (w : FormE) : Reads := if w.com.mod.getLsbD 3 then [(w.a, 2)] else []

/-- What an instruction takes of its sub-core: a pipe or either of X and Y, its occupancy, and the fields it reads. -/
structure PipeUse where
  pipe : Pipe := .s
  either : Bool := false
  occ : Nat := 1
  reads : Reads := []

/-- A value by the width of a type. -/
def byTy {α : Type} (t : BitVec 4) (wide narrow : α) : α := if tyBits t = 64 then wide else narrow

/-- Class 0 on X or Y (R488), and its group-wide form on S. -/
def useInt (c : Common) (t : BitVec 4) (rs : Reads) : PipeUse :=
  if c.u then { reads := rs } else { pipe := .x, either := true, occ := byTy t 2 1, reads := rs }
/-- An instruction of one pipe, and its group-wide form on S. -/
def useOn (c : Common) (p : Pipe) (occ : Nat) (rs : Reads) : PipeUse :=
  if c.u then { reads := rs } else { pipe := p, occ := occ, reads := rs }
/-- Binary floating point (R167): X or Y, and X alone for FP64. -/
def useFloat (c : Common) (t : BitVec 4) (rs : Reads) : PipeUse :=
  if c.u then { reads := rs } else { pipe := .x, either := tyBits t != 64, occ := byTy t 2 1, reads := rs }

/-- The sources of form L by how many the instruction has. -/
def read1 (w : FormL) : Reads := [(w.a, byTy w.ty 2 1)]
def read2 (w : FormL) : Reads := [(w.a, byTy w.ty 2 1), (w.b, byTy w.ty 2 1)]
def read3 (w : FormL) : Reads := [(w.a, byTy w.ty 2 1), (w.b, byTy w.ty 2 1), (w.c, byTy w.ty 2 1)]
def readI (w : FormI) : Reads := [(w.a, byTy w.ty 2 1)]
/-- A shift's sources: the value and an amount of one word. -/
def readShift (w : FormL) : Reads := [(w.a, byTy w.ty 2 1), (w.b, 1)]

/-- R18, R167, R257, R488. An instruction that no rule assigns to a pipe goes by R18's table: accesses to memory to L, matrix
instructions to M, the rest to S (DEDUCED, log entry 21). -/
def Instr.use : Instr → PipeUse
  | .mov w => useInt w.com w.ty (read1 w)
  | .movi w => useInt w.com w.ty []
  | .sset w => { reads := [(w.a, if w.d.index = 0x11 then 2 else 1)] }
  | .movg w => { reads := (w.a, byTy w.ty 2 1) :: (if w.com.mod = 1 then [(w.b, 1)] else []) }
  | .iadd w => useInt w.com w.ty (read2 w)
  | .isub w => useInt w.com w.ty (read2 w)
  | .imin w => useInt w.com w.ty (read2 w)
  | .imax w => useInt w.com w.ty (read2 w)
  | .and w => useInt w.com w.ty (read2 w)
  | .or w => useInt w.com w.ty (read2 w)
  | .xor w => useInt w.com w.ty (read2 w)
  | .andn w => useInt w.com w.ty (read2 w)
  | .icmp w => useInt w.com w.ty (read2 w)
  | .sel w => useInt w.com w.ty (read2 w)
  | .iabs w => useInt w.com w.ty (read1 w)
  | .ineg w => useInt w.com w.ty (read1 w)
  | .not w => useInt w.com w.ty (read1 w)
  | .shl w => useInt w.com w.ty (readShift w)
  | .shr w => useInt w.com w.ty (readShift w)
  | .sar w => useInt w.com w.ty (readShift w)
  | .rotl w => useInt w.com w.ty (readShift w)
  | .iaddImm w => useInt w.com w.ty (readI w)
  | .isubImm w => useInt w.com w.ty (readI w)
  | .andImm w => useInt w.com w.ty (readI w)
  | .orImm w => useInt w.com w.ty (readI w)
  | .xorImm w => useInt w.com w.ty (readI w)
  | .shlImm w => useInt w.com w.ty (readI w)
  | .shrImm w => useInt w.com w.ty (readI w)
  | .sarImm w => useInt w.com w.ty (readI w)
  | .rotlImm w => useInt w.com w.ty (readI w)
  | .icmpImm w => useInt w.com w.ty (readI w)
  | .lea w => useInt w.com tyB64 ((w.a, 2) :: (if w.fn.toNat ≥ 0x800 then [] else [(w.b, 1)]))
  | .imul w => useOn w.com .x (byTy w.ty 4 1) (read2 w)
  | .imulImm w => useOn w.com .x (byTy w.ty 4 1) (readI w)
  | .imulh w => useOn w.com .x (byTy w.ty 4 1) (read2 w)
  | .imad w => useOn w.com .x (byTy w.ty 4 1) (read3 w)
  | .popc w => useOn w.com .x (byTy w.ty 2 1) (read1 w)
  | .clz w => useOn w.com .x (byTy w.ty 2 1) (read1 w)
  | .ctz w => useOn w.com .x (byTy w.ty 2 1) (read1 w)
  | .brev w => useOn w.com .x (byTy w.ty 2 1) (read1 w)
  | .bfx w => useOn w.com .x (byTy w.ty 2 1) (readShift w)
  | .bfi w => useOn w.com .x (byTy w.ty 2 1) ((w.c, 1) :: read2 w)
  | .idiv w => useOn w.com .x (byTy w.ty 16 8) (read2 w)
  | .irem w => useOn w.com .x (byTy w.ty 16 8) (read2 w)
  | .ptag w => useOn w.com .x 1 [(w.a, 2)]
  | .qxch w => useOn w.com .x (byTy w.ty 2 1) (read1 w)
  | .shfl w => useOn w.com .x (byTy w.ty 2 1) (readShift w)
  | .scan w => { reads := read1 w }
  | .gred w => { reads := read1 w }
  | .fadd w => useFloat w.com w.ty (read2 w)
  | .faddImm w => useFloat w.com w.ty (readI w)
  | .fsub w => useFloat w.com w.ty (read2 w)
  | .fmul w => useFloat w.com w.ty (read2 w)
  | .fmulImm w => useFloat w.com w.ty (readI w)
  | .ffma w => useFloat w.com w.ty (read3 w)
  | .fmin w => useFloat w.com w.ty (read2 w)
  | .fmax w => useFloat w.com w.ty (read2 w)
  | .fcmp w => useFloat w.com w.ty (read2 w)
  | .fclass w => useFloat w.com w.ty (read1 w)
  | .frnd w => useFloat w.com w.ty (read1 w)
  | .fldx w => useFloat w.com w.ty (readShift w)
  | .fpack w => useOn w.com .x 1 [(w.a, 1)]
  | .funpk w => useOn w.com .x 1 [(w.a, 1)]
  | .frcp w => useOn w.com .t (byTy w.ty 16 4) (read1 w)
  | .frsq w => useOn w.com .t (byTy w.ty 16 4) (read1 w)
  | .fexp2 w => useOn w.com .t 4 (read1 w)
  | .flog2 w => useOn w.com .t 4 (read1 w)
  | .ftanh w => useOn w.com .t 4 (read1 w)
  | .fsin w => useOn w.com .t 4 (read1 w)
  | .fcos w => useOn w.com .t 4 (read1 w)
  | .cvtx w => useOn w.com .t 4 [(w.a, 1), (w.b, 1)]
  | .fdiv w => useOn w.com .t (byTy w.ty 32 8) (read2 w)
  | .fsqrt w => useOn w.com .t (byTy w.ty 32 8) (read1 w)
  | .cvt w => useOn w.com .t (if w.ty = tyF64 ∨ w.ty2 = tyF64 then 8 else 4) [(w.a, byTy w.ty2 2 1)]
  | .cvtm w => useOn w.com .t (if w.ty2 = tyF64 then 8 else 4) [(w.a, byTy w.ty2 2 1)]
  | .frred w => useOn w.com .t (if w.ty2 = tyF64 then 8 else 4) [(w.a, byTy w.ty2 2 1)]
  | .ld w => { pipe := .l, reads := memReads w }
  | .st w => { pipe := .l, reads := memReads w ++ [(w.d, runLength w.sz)] }
  | .pfch w => { pipe := .l, reads := memReads w }
  | .cfls w => { pipe := .l, reads := memReads w }
  | .cinv w => { pipe := .l, reads := memReads w }
  | .icinv w => { pipe := .l, reads := memReads w }
  | .atom w => { pipe := .l, reads := [(w.a, 2), (w.b, if isCas w.com.mod w.sgn then 2 * runLength w.sz else runLength w.sz)] }
  | .red w => { pipe := .l, reads := [(w.a, 2), (w.b, runLength w.sz)] }
  | .reds w => { pipe := .l, reads := [(w.a, 2), (w.d, 1), (w.b, runLength w.sz)] }
  | .binit w => { reads := (w.b, 1) :: barReads w }
  | .barr w => { reads := barReads w }
  | .barw w => { reads := barReads w }
  | .bwait w => { reads := (w.b, 1) :: barReads w }
  | .bexp w => { reads := (w.b, 1) :: barReads w }
  | .bqry w => { reads := barReads w }
  | .cntadd w => { reads := [(w.a, 2), (w.b, 2)] }
  | .cntwait w => { reads := [(w.a, 2), (w.b, 2)] }
  | .chbind w => { reads := if w.com.mod.toNat / 4 % 2 = 1 then [] else [(w.a, 2)] }
  | .mlds w => { pipe := .m, reads := [(w.a, 1), (w.b, 1)] }
  | .mswp _ => { pipe := .m }
  | .mma w => { pipe := .m, reads := [(w.a, 1), (w.b, 1)] }
  | .accz _ => { pipe := .m }
  | .mwin w => { pipe := .m, reads := [(w.a, 1), (w.b, 1), (w.c, 1)] }
  | .ldacc w => { pipe := .m, reads := [(w.a, 1)] }
  | .stacc w => { pipe := .m, reads := [(w.a, 1)] }
  | .accq w => { pipe := .m, reads := [(w.a, 1), (w.b, 1)] }
  | .vsync w => { reads := [(w.a, 1), (w.b, 1)] }
  | .vchk w => { reads := [(w.a, 1), (w.b, 1)] }
  | .vreq w => { reads := [(w.a, 1), (w.b, 1)] }
  | .jmp w => { reads := [(w.a, 1)] }
  | .calli w => { reads := [(w.a, 1)] }
  | .ret w => { reads := [(w.a, 1)] }
  | .loop w => { reads := [(w.a, 1)] }
  | .sleep w => { reads := [(w.a, 1)] }
  | .syscall w => { reads := [(w.a, 2)] }
  | .spawn w => { reads := [(w.a, 2), (w.b, 1)] }
  | .cpy w => { reads := [(w.a, 2)] }
  | .cpyr w => { reads := [(w.a, 2)] }
  | .cpyg w => { reads := [(w.a, 2)] }
  | _ => {}

/-- R257: the quarters of the group that hold a lane of the mask. -/
def quartersIn (m : BitVec 32) : Nat := ((List.range 4).filter (fun q => m.extractLsb' (8 * q) 8 != 0)).length

/-- R61: the destination fields that a lane form may name in the s file. -/
def writesS (i : Instr) : Bool :=
  let inS := fun (o : Opnd) => match o with | .reg .s _ _ => true | _ => false
  match i with
  | .movg _ => true
  | .cvtm _ => true
  | .gred w => inS w.d
  | .vote w => inS w.d
  | .bqry w => inS w.d
  | _ => false

/-- The v registers that a pick reads: group slot and index (R364). -/
def readRegs (slot : Nat) (rs : Reads) : List (Nat × Nat) :=
  (rs.flatMap (fun r => match r.1 with | .reg .v _ i => (List.range r.2).map (fun k => (slot, i.toNat + k)) | _ => [])).eraseDups

/-- The pick of an instruction as it issues alone. -/
def Ctx.pickOf (x : Ctx) (c : Common) (i : Instr) : Pick :=
  let u := Instr.use i
  { sub := x.g.subCore, foc := x.foc, wi := x.sp.wi, depth := x.sp.depth, join := c.j, sole := c.u || u.pipe == .s || writesS i, either := u.either, pipe := u.pipe, occ := (match i with | .mma w => Nat.max 1 (quartersIn (x.real w.com)) | _ => u.occ), regs := readRegs x.g.slot u.reads, before := x.g.regs }

/-- R167: the pipe accepts an instruction in this cycle. -/
def State.pipeFree (s : State) (sub : Nat) (p : Pipe) : Bool := s.pipes.all (fun e => !(e.1 == sub && e.2.1 == p) || e.2.2 ≤ s.cycle)

/-- R364: a pick that may go to X or Y goes to X when X is free and the other does not take it, and to Y otherwise. None where
its pipe is in use. -/
def State.placePick (s : State) (xTaken : Bool) (p : Pick) : Option Pick :=
  let pipe := if p.either then (if s.pipeFree p.sub .x && !xTaken then .x else .y) else p.pipe
  if s.pipeFree p.sub pipe then some { p with pipe := pipe } else none

/-- R364: the v registers that two picks read from one bank. -/
def bankLoad (a b : Pick) (bank : Nat) : Nat := ((a.regs ++ b.regs).eraseDups.filter (fun r => (r.2 + r.1) % 8 == bank)).length

/-- R364: the two picks with their pipes, where they can pair. -/
def State.pairUp (s : State) (a b : Pick) : Option (Pick × Pick) :=
  let oneGroup := a.foc.wg == b.foc.wg && a.foc.grp == b.foc.grp
  let takesX := fun (p : Pick) => !p.either && p.pipe == .x
  match s.placePick (takesX b) a with
  | none => none
  | some a1 =>
    match s.placePick (a1.pipe == .x) b with
    | none => none
    | some b1 =>
      if (a1.pipe != b1.pipe || (a1.pipe == .y && oneGroup)) && !(a.sole && b.sole && oneGroup) &&
          !(oneGroup && a.wi == b.wi && a.depth == b.depth && b.join) && (List.range 8).all (fun k => bankLoad a b k ≤ 2)
      then some (a1, b1) else none

/-- What the pick of an instruction ends in: it issues with the picks of the cycle as they now are, its pipe is in use, or it cannot
pair with the first (R363, R364). -/
inductive Pairing where
  | issues (ps : List Pick)
  | busy
  | alone

def State.pairing (s : State) (p : Pick) : Pairing :=
  let rest := s.picked.filter (fun q => q.sub != p.sub)
  match s.picked.filter (fun q => q.sub == p.sub) with
  | [] => match s.placePick false p with | some q => .issues (q :: s.picked) | none => .busy
  | a :: _ =>
    if (s.placePick false p).isNone then .busy
    else match s.pairUp a p with
      | some (a1, p1) => .issues (p1 :: a1 :: rest)
      | none => .alone

end Sys2Proof.Machine
end

