-- ==== Sys2Proof/Machine/Issue.lean ====
section
/-! DEFINITION. Presentation and picks (R362, R363), instruction fetch (R107, R108, R193, R422 step 1), the end of a
cycle (R14, R37, R44, R229, R424), and the state in which one word is the next to issue. -/
namespace Sys2Proof.Machine

/-! ### Presentation and picks -/

/-- Ready splits of a table with their positions. -/
def Group.readyAt (g : Group) : List (Nat × Split) :=
  (List.range 8).filterMap (fun p => match g.table[p]? with
    | some (some sp) => if sp.phase = .ready then some (p, sp) else none
    | _ => none)

/-- The first of a list under an order given by a number. -/
def leastBy {α : Type} (f : α → Nat) : List α → Option α
  | [] => none
  | x :: xs => match leastBy f xs with
    | none => some x
    | some y => if f x ≤ f y then some x else some y

/-- R362: the end of a cycle for one split: a picked split joins the back of its group's queue, one that is not ready
leaves the matrix, and a held one counts its ineligible cycles. -/
def Split.turn (now stamp : Nat) (sp : Split) : Split :=
  if sp.phase ≠ .ready then { sp with mAt := none, qAt := stamp, inel := 0, iss := false }
  else if sp.iss then { sp with mAt := none, qAt := stamp, inel := 0, iss := false }
  else if sp.held = some now then { sp with inel := sp.inel + 1 }
  else { sp with inel := 0 }

/-- R362: the first splits of the queue enter the matrix until two are presented. -/
def Group.present : (fuel : Nat) → Group → Nat → Group × Nat
  | 0, g, t => (g, t)
  | n + 1, g, t =>
    let r := g.readyAt
    if (r.filter (fun e => e.2.mAt.isSome)).length ≥ 2 then (g, t)
    else match leastBy (fun (e : Nat × Split) => e.2.qAt) (r.filter (fun e => e.2.mAt.isNone)) with
      | none => (g, t)
      | some (p, _) => Group.present n { g with table := g.table.modify p (Option.map (fun sp => { sp with mAt := some t, inel := 0 })) } (t + 1)

/-- R49: a split of a halting workgroup whose issued instruction has its answers on their way, or back. -/
def State.issuedAt (s : State) (w : Workgroup) (gi : Nat) (sp : Split) : Bool :=
  s.fabric.any (fun f => f.wg == w.key && f.grp == gi && !f.posted && sp.mask.getLsbD f.lane && f.wi == sp.wi) ||
  s.devLoads.any (fun d => d.wg == w.key && d.grp == gi && sp.mask.getLsbD d.lane && d.wi == sp.wi)

/-- R363: the oldest presented split that has not been tried in this cycle, of the sub-cores that have picks left. -/
def State.pick (s : State) : Option Focus :=
  let all := s.wgs.flatMap (fun w =>
    if w.phase = .resident ∨ w.phase = .halting then
      (List.range w.groups.length).flatMap (fun gi => match w.groups[gi]? with
        | some g =>
          if (s.picked.filter (fun p => p.sub == g.subCore)).length ≥ 2 then []
          else (g.readyAt.filter (fun e => e.2.mAt.isSome && e.2.held != some s.cycle && e.2.unpaired != some s.cycle && !e.2.iss && (w.phase == .resident || s.issuedAt w gi e.2))).map
            (fun e => (g.subCore, e.2.mAt.getD 0, ({ wg := w.key, grp := gi, pos := e.1 } : Focus)))
        | none => [])
    else [])
  match leastBy (fun (e : Nat × Nat × Focus) => e.1) all with
  | none => none
  | some (sc, _, _) => (leastBy (fun (e : Nat × Nat × Focus) => e.2.1) (all.filter (fun e => e.1 == sc))).map (fun e => e.2.2)

/-- R193: a split that issues at a lower word index than before has taken a backward branch at its last issue. -/
def Split.issues (now : Nat) (sp : Split) : Split :=
  { sp with iss := true, lastWi := sp.wi, lastAt := now, backAt := if sp.wi.toNat < sp.lastWi.toNat then sp.lastAt else sp.backAt }

/-- The picked split becomes the issuing one. -/
def State.beginIssue (s : State) (f : Focus) : State := { s.modSplit f (Split.issues s.cycle) with focus := some f }

/-- R363, R364: the split's instruction cannot pair with the first pick of its sub-core; it stays eligible and is not picked. -/
def State.passOver (s : State) (x : Ctx) : State := s.modSplit x.foc (fun sp => { sp with unpaired := some s.cycle, iss := false })

/-! ### Fetch -/

/-- R107: the space-0 address of a word; one that passes 2^56 wraps, since a space-0 address has 56 bits (DESIGN CHOICE, log
entry 72: the formula states no modulus). -/
def codeAddr (base : Nat) (wi : W32) : Nat := (base + wi.toNat / 10 * 128 + 12 * (wi.toNat % 10)) % 2 ^ 56

/-- What a fetch ends in: an instruction to execute, or a state in which the step is over. -/
inductive Fetched where
  | run (i : Instr) (s : State)
  | stop (s : State)

/-- R21: room for a block in a core's 128 KiB instruction cache; which block goes is left free. -/
def State.icRoom (s : State) (core : Nat) : State :=
  let mine := s.icache.filter (fun b => b.core == core)
  if mine.length < 1024 then s
  else match mine[(Config.freeValue s.free).toNat % mine.length]? with
    | some b => { s with icache := s.icache.erase b, free := s.free + 1 }
    | none => s

/-- R107: the block through the core's die's L2 (R16) into its instruction cache; none while its line has yet to come. -/
def State.loadBlock (s : State) (core ten pa : Nat) : State × Option (List Byte) :=
  let (s1, d) := s.l2Get (dieOfCore core) ten (fetchBuffer core) 0 (pa / 128)
  match d with
  | none => (s1, none)
  | some bs =>
    let s2 := s1.l2Used (fetchBuffer core)
    let s3 := ({ s2 with icache := s2.icache.filter (fun b => !(b.core == core && b.addr == pa / 128)) } : State).icRoom core
    ({ s3 with icache := s3.icache ++ [{ core := core, addr := pa / 128, bytes := bs }] }, some bs)

/-- R193: the split may still run the words of a block marked stale: it has executed no csync since, and has taken no backward branch
after every cache had marked it. -/
def Split.mayRunOld (sp : Split) (b : IBlock) : Bool :=
  (match b.stale with | some m => sp.syncAt < m | none => true) && (match b.known with | some k => sp.backAt ≤ k | none => true)

/-- R107, R193: the block as the core holds it. Whether a split that may run a stale block's words does so is left free. -/
def State.codeBlock (s : State) (core ten : Nat) (sp : Split) (pa : Nat) : State × Option (List Byte) :=
  match s.icache.find? (fun b => b.core == core && b.addr == pa / 128) with
  | none => s.loadBlock core ten pa
  | some b =>
    if b.stale.isNone then (s, some b.bytes)
    else if sp.mayRunOld b && (Config.freeValue s.free).getLsbD 0 then ({ s with free := s.free + 1 }, some b.bytes)
    else ({ s with free := s.free + 1 } : State).loadBlock core ten pa

/-- The block that a device gives at a page of its own (R327): free bytes in place of its ten words. -/
def State.deviceBlock (s : State) (wi : W32) : State × List Byte :=
  let (v, s1) := s.freeVal
  let (u, s2) := s1.freeVal
  (s2, splice (List.replicate 128 0) (12 * (wi.toNat % 10)) (leBytes 8 v.toNat ++ leBytes 4 u.toNat))

/-- The fields that every word has, read from the word itself (R109). -/
def wordCommon (w : W96) : Common :=
  { mod := w.extractLsb' 16 4, j := w.getLsbD 15, u := w.getLsbD 14, pneg := w.getLsbD 13, prd := w.extractLsb' 10 3 }

/-- The trap of a word that breaks cause 0x01 (R421). -/
def illegalTrap (x : Ctx) (sub : Nat) (w : W96) : Trap := { cause := 0x01, sub := sub, lane := x.trapLane (wordCommon w), val := w.extractLsb' 0 64 }

/-- Steps 1 and the layout part of step 2 of R422 for the issuing split. -/
def State.fetch (s : State) (x : Ctx) : Fetched :=
  let va := codeAddr x.gr.k.codeBase x.sp.wi
  let ad := BitVec.ofNat 64 va
  let pasid := x.gr.pasid
  match s.demand x.g.core pasid va .exec with
  | .wait => .stop ((s.askPage x.g.core pasid va 3).holdSplit x)
  | .bad perm => .stop ((s.useAnswer x.g.core pasid va 3).takeTrap x { cause := if perm then 0x05 else 0x04, sub := if perm then 5 else 1, lane := x.fetchLane, val := ad })
  | .malformed e =>
    .stop ((s.logRec { unit := x.die, code := 0x06, ten := x.wg.ten, src := 1, uno := x.g.core, ctx := x.wg.ctx, pasid := pasid, va := va, aux := e }).takeTrap x { cause := 0x04, sub := 2, lane := x.fetchLane, val := ad })
  | .ok pa at_ mt =>
    let run := fun (s : State) (bs : List Byte) =>
      let word : W96 := BitVec.ofNat 96 (leNat ((bs.drop (12 * (x.sp.wi.toNat % 10))).take 12))
      if bs.drop 120 ≠ List.replicate 8 0#8 then Fetched.stop (s.takeTrap x { cause := 0x01, sub := 6, lane := x.fetchLane, val := word.extractLsb' 0 64 })
      else match parse word with
        | .ok i => match s.pairing (x.pickOf (wordCommon word) i) with
          | .issues ps => .run i { s with picked := ps }
          | .busy => .stop (s.holdSplit x)
          | .alone => .stop (s.passOver x)
        | .error _ => .stop (s.takeTrap x (illegalTrap x 2 word))
    match s.place pa mt with
    | .reg => .stop (s.takeTrap x { cause := 0x02, sub := 2, lane := x.fetchLane, val := ad })
    | .wait => .stop (((s.askRegion pa true).queueLoad x.die pa (.load (fetchBuffer x.g.core) 0)).holdSplit x)
    | .hole => .stop ((s.logRec (holeRec x.die pa 0)).takeTrap x { cause := 0x0F, sub := 2, lane := x.fetchLane, val := ad })
    | .device _ =>
      let (s1, bs) := (s.markPte at_ false).deviceBlock x.sp.wi
      run s1 bs
    | _ =>
      let s1 := s.markPte at_ false
      if s1.poisoned (pa / 128 * 128) 128 then .stop (s1.takeTrap x { cause := 0x0F, sub := 2, lane := x.fetchLane, val := ad })
      else match s1.codeBlock x.g.core x.wg.ten x.sp pa with
        | (s2, some bs) => run s2 bs
        | (s2, none) => .stop (s2.holdSplit x)

/-- The issue of the picked split: its fetch, or nothing where the split is gone. -/
def State.issue (s : State) (f : Focus) : Fetched :=
  match f.lookup s with
  | none => .stop s
  | some x => (s.beginIssue f).fetch x

/-! ### Placement lists and stalls (R47, R48, R356) -/

/-- Workgroups of a cluster, and clusters of a grid. -/
def Grid.csize (gr : Grid) : Nat := Nat.max gr.k.cluster 1
def Grid.clusters (gr : Grid) : Nat := gr.nx / gr.csize * gr.k.gy * gr.k.gz
def Grid.total (gr : Grid) : Nat := gr.nx * gr.k.gy * gr.k.gz

/-- The placement list of a tenancy, oldest first, and its head. -/
def State.placeList (s : State) (ten : Nat) : List Grid :=
  sortBy (fun a b => a.joined ≤ b.joined) (s.grids.filter (fun g => g.ten == ten && g.next < g.clusters && g.ended.isNone))
def State.head (s : State) (ten : Nat) : Option Grid := (s.placeList ten)[0]?

/-- R360: the reservation of a tenancy's regions ends. -/
def State.unreserve (s : State) (ten : Nat) : State :=
  { s with stewards := s.stewards.map (fun e => if e.2.ten = ten then (e.1, { e.2 with reserved := false }) else e) }
/-- R360: the reservation ends when the head has changed from what it was in an earlier state. -/
def State.headCheck (s old : State) (ten : Nat) : State :=
  if (s.head ten).map (fun g => (g.id, g.next)) = (old.head ten).map (fun g => (g.id, g.next)) then s else s.unreserve ten

/-- The splits of a workgroup's split tables. -/
def Workgroup.tableSplits (w : Workgroup) : List Split := w.groups.flatMap (fun g => g.table.filterMap id)
/-- R48: a resident workgroup is wholly parked: every one of its splits is parked, is spilled with RET 1, or has exited. -/
def Workgroup.whollyParked (w : Workgroup) : Bool :=
  w.phase == .resident && w.groups.all (·.started) && w.tableSplits.all (fun sp => sp.phase == .parked && sp.why.counts) &&
    w.groups.all (fun g => g.spill.all (fun sp => sp.phase == .parked))
/-- Where a wholly parked workgroup has a split left: the cycle in which the last of its splits parked. -/
def Workgroup.parkedSince (w : Workgroup) : Option Nat :=
  if w.whollyParked && w.tableSplits != [] then some (maxNat ((w.tableSplits ++ w.groups.flatMap (·.spill)).map (·.parkAt))) else none

/-- R47: every split of every resident workgroup of the grid is parked, and work is undispatched. -/
def State.stalledNow (s : State) (g : Grid) : Bool :=
  let mine := s.wgs.filter (fun w => w.grid == g.id && w.phase != .saved)
  g.next < g.clusters && g.ended.isNone && mine != [] && mine.all (·.whollyParked)

/-- The counts of one cycle for grids: the head's age (R360) and the time for which a grid has been stalled (R47). -/
def State.gridTimes (s : State) : State :=
  { s with grids := s.grids.map (fun g => { g with headSince := if (s.head g.ten).map (·.id) = some g.id then some (g.headSince.getD s.cycle) else none, stallSince := if s.stalledNow g then some (g.stallSince.getD s.cycle) else none }) }

/-! ### The end of a cycle -/

/-- A split's counts of one cycle: residency, and the remaining cycles of a sleep or a trap entry. -/
def Split.tick (sp : Split) : Split := { sp with age := sp.age + 1, timer := sp.timer - 1 }

/-- R37: a spilled split keeps its sleep count running and not its residency. -/
def Split.tickSpilled (sp : Split) : Split := { sp with timer := sp.timer - 1 }

def Group.elapse (now stamp : Nat) (g : Group) : Group :=
  { g with rot := g.rot + 1, abase := (g.nextWin.map Prod.fst).getD g.abase, alimit := (g.nextWin.map Prod.snd).getD g.alimit, nextWin := none, table := g.table.map (Option.map (fun sp => (sp.turn now stamp).tick)), spill := g.spill.map (fun sp => sp.tickSpilled), changed := false }

/-- Groups in the order of their sub-cores and slots enter their first splits (R362). -/
def State.presentAll (s : State) : State :=
  let keys := s.wgs.flatMap (fun w => if w.phase = .resident ∨ w.phase = .halting then (List.range w.groups.length).filterMap (fun gi => (w.groups[gi]?).map (fun g => (128 * g.subCore + g.slot, w.key, gi))) else [])
  (sortBy (fun a b => a.1 ≤ b.1) keys).foldl (fun s e =>
    match (s.wg? e.2.1).bind (fun w => w.groups[e.2.2]?) with
    | some g =>
      let (g1, t) := Group.present 2 g s.seq
      { s.modGrp e.2.1 e.2.2 (fun _ => g1) with seq := t }
    | none => s) s

/-- R167: the pipes that the next cycle finds in use: those still occupied, and those that this cycle's picks occupy longer. -/
def State.pipesAfter (s : State) : List (Nat × Pipe × Nat) :=
  s.pipes.filter (fun e => e.2.2 > s.cycle + 1) ++ (s.picked.filter (fun p => p.occ ≥ 2)).map (fun p => (p.sub, p.pipe, s.cycle + p.occ))

/-- One cycle passes (R14, R363): counters advance, and each sub-core may pick again. Every 32 cycles each lease clock
ticks. -/
def State.elapse (s : State) : State :=
  let (t, s0) := s.gridTimes.stamp
  let s1 : State := { s0 with wgs := s0.wgs.map (fun w => if w.phase = .resident ∨ w.phase = .halting ∨ w.phase = .halted then { w with groups := w.groups.map (Group.elapse s0.cycle t) } else w) }
  let s2 : State := { s1 with cycle := s1.cycle + 1, picked := [], pipes := s1.pipesAfter, focus := none, agenda := s1.agenda ++ (s1.evictions.filter (fun e => e.2.2 == s1.cycle)).map (fun e => Instr.lensEviction e.1 e.2.1) }
  let s3 := if s2.cycle % 32 = 0 then { s2 with agenda := s2.agenda ++ (List.range 5).map Instr.leaseClockTick } else s2
  s3.presentAll

/-! ### A state whose next step issues one word -/

/-- The workgroup of one group and one split that issues the word: every lane live, all registers as at creation. -/
def bootWg : Workgroup :=
  { key := 0, ten := 0, ctx := 0, grid := 0, x := 0, y := 0, z := 0, rank := 0, clsize := 1, cluster := 0, cores := [0], spBase := [0], accBase := [0], groups := [{ grpid := 0, core := 0, sub := 0, slot := 0, created := BitVec.allOnes 32, helper := 0, started := true, table := [some { wi := 0, mask := BitVec.allOnes 32, mAt := some 0 }, none, none, none, none, none, none, none] }], chans := List.replicate 16 {}, phase := .resident }

def bootKernel : Kernel :=
  { codeBase := 0, entry := 0, trap := 20, vregs := 256, sregs := 256, wgsize := 32, scratch := 1024, acc := 0, cluster := 1, park := 22, producer := 0, chmask := 0xFFFF, priv := 0, stack := 65536, x := 32, gy := 1, gz := 1, stats := 0, zfill := true, swap := true }

def bootGrid : Grid :=
  { id := 0, node := 0, sub := 0, ten := 0, pasid := 0, q := 0, k := bootKernel, views := [], args := [], pb := 0x10000000, save := 0x20000000, nx := 1, span := 1, next := 1, joined := 0 }

/-- The page table of the boot address space: five levels that map the code page for reading and fetching. -/
def bootTables (s : State) : State :=
  let e := fun (v : Nat) => leBytes 8 v
  ((((s.rawWrite 0x1000 (e (2 ^ 63 + 0x2000))).rawWrite 0x2000 (e (2 ^ 63 + 0x3000))).rawWrite 0x3000 (e (2 ^ 63 + 0x4000))).rawWrite 0x4000 (e (2 ^ 63 + 0x5000))).rawWrite 0x5000 (e (2 ^ 63 + 2 ^ 62 + 2 ^ 60 + 0x200000 + 0x500))

/-- The state in which a split is presented whose next word is w: the word lies in memory, and its block in the core's
instruction cache (log entry 5). -/
def State.boot (s : State) (w : Nat) : State :=
  let s1 := bootTables { s with agenda := [], picked := [], pipes := [], wgs := bootWg :: s.wgs.filter (fun k => k.key != 0), grids := bootGrid :: s.grids.filter (fun g => g.id != 0), icache := { core := 0, addr := 0x4000, bytes := leBytes 12 w ++ List.replicate 116 0 } :: s.icache.filter (fun b => b.core != 0), ptRoots := mset 0 s.ptRoots 0 0x1000 }
  (s1.rawWrite 0x200000 (leBytes 12 w ++ List.replicate 116 0)).modRegion 1 (fun r => { r with compute := true, moving := false })

end Sys2Proof.Machine
end

