-- ==== Sys2Proof/Machine/Channels.lean ====
section
/-! DEFINITION. Words taken from and pushed to channels (R65, R116, R215 to R218). -/
namespace Sys2Proof.Machine

def Workgroup.chan (w : Workgroup) (c : Nat) : Chan := w.chans.getD c {}
def State.modChan (s : State) (key c : Nat) (f : Chan → Chan) : State :=
  s.modWg key (fun w => { w with chans := w.chans.modify c f })

/-- A 32-bit word of a workgroup's scratchpad, window 0 (R34). -/
def State.scrWord (s : State) (w : Workgroup) (off : Nat) : Nat := leNat (s.scrRead w 0 off 4)

/-! ### Rings (R65) -/

def ringHead (s : State) (w : Workgroup) (off : Nat) : Nat := s.scrWord w off
def ringTail (s : State) (w : Workgroup) (off : Nat) : Nat := s.scrWord w (off + 4)
def ringCap (s : State) (w : Workgroup) (off : Nat) : Nat := 2 ^ leNat (s.scrRead w 0 (off + 8) 2)
def ringHeld (s : State) (w : Workgroup) (off : Nat) : Nat := (ringTail s w off + 2 ^ 32 - ringHead s w off) % 2 ^ 32
/-- Element i of a ring. -/
def ringAt (s : State) (w : Workgroup) (off i : Nat) : Nat := off + 16 + 4 * (i % ringCap s w off)

/-- The scratchpad offset of the ring that a ring channel pops, or that a mailbox receives into (R217). -/
def State.chanRing (s : State) (gr : Grid) (c : Chan) : Nat :=
  if c.kind = 0 then c.ptr % 2 ^ 21
  else match s.vread gr.pasid (c.ptr % 2 ^ 56 + 0x24) 4 with | some b => leNat b | none => 0

/-- Ring words go in at TAIL. -/
def State.ringPush (s : State) (w : Workgroup) (off : Nat) (vs : List W32) : State :=
  let t := ringTail s w off
  let s1 := ((List.range vs.length).zip vs).foldl (fun s e => s.scrWrite w 0 (ringAt s w off (t + e.1)) (leBytes 4 e.2.toNat)) s
  s1.scrWrite w 0 (off + 4) (leBytes 4 ((t + vs.length) % 2 ^ 32))

/-! ### Binding records (R217) -/

/-- The fields of a window's binding record. -/
structure Binding where
  qbase : Nat
  depth : Nat
  entw : Nat
  phb : Nat
  ph : Nat
  pos : Nat
  sqhd : Nat
  dbell : Nat
  peer : Nat
  loff : Nat
  rptr : Nat
deriving DecidableEq, Repr

def Binding.ofBytes (b : List Byte) : Binding :=
  { qbase := fieldAt b 0 8, depth := fieldAt b 8 4, entw := fieldAt b 12 1, phb := fieldAt b 13 1, ph := fieldAt b 14 1, pos := fieldAt b 16 4, sqhd := fieldAt b 20 4, dbell := fieldAt b 24 8, peer := fieldAt b 32 2, loff := fieldAt b 36 4, rptr := fieldAt b 40 8 }

def State.binding (s : State) (gr : Grid) (c : Chan) : Binding :=
  Binding.ofBytes ((s.vread gr.pasid (c.ptr % 2 ^ 56) 64).getD (List.replicate 64 0))

/-- The address of word i of the entry at a position. -/
def Binding.wordAt (b : Binding) (pos i : Nat) : Nat := (b.qbase + 4 * (b.entw * pos + i)) % 2 ^ 56

/-- A completion entry has been written by the device: the phase bit of its last word (R217, R218). A page that is not mapped
reads as an empty entry, and the test makes no page request (DESIGN CHOICE, log entry 73). -/
def State.cqReady (s : State) (gr : Grid) (b : Binding) (pos ph : Nat) : Bool :=
  match s.vread gr.pasid (b.wordAt pos (b.entw - 1)) 4 with
  | some w => bitsOf (leNat w) b.phb 1 == ph
  | none => false

/-- The words that pops of a completion window would take, at most n, with where they end: WPOS, POS, PH and whether
some was the first of its entry (R218). -/
def State.cqWords (s : State) (gr : Grid) (b : Binding) : (n wpos pos ph : Nat) → Bool → List W32 × Nat × Nat × Nat × Bool
  | 0, wpos, pos, ph, f => ([], wpos, pos, ph, f)
  | n + 1, wpos, pos, ph, f =>
    if !s.cqReady gr b pos ph then ([], wpos, pos, ph, f)
    else
      let v := BitVec.ofNat 32 (leNat ((s.vread gr.pasid (b.wordAt pos wpos) 4).getD []))
      let f := f || wpos == 0
      let r := if wpos + 1 ≥ b.entw then
          (if pos + 1 ≥ b.depth then s.cqWords gr b n 0 0 (1 - ph) f else s.cqWords gr b n 0 (pos + 1) ph f)
        else s.cqWords gr b n (wpos + 1) pos ph f
      (v :: r.1, r.2)

/-- Words that a submission window takes before it is full (R218, R219). -/
def Binding.room (b : Binding) (pos wpos : Nat) : Nat :=
  if b.depth = 0 then 0
  else
    let open_ := if wpos = 0 then 0 else 1
    let free := (b.sqhd + b.depth - pos - 1 - open_) % b.depth
    let free := if wpos ≠ 0 ∧ (pos + 1) % b.depth = b.sqhd then 0 else free
    free * b.entw + (if wpos = 0 then 0 else b.entw - wpos)

/-! ### Taking and pushing words -/

/-- What a use of a channel meets. -/
inductive ChanUse (α : Type) where
  | ok (v : α)
  | bad (sub : Nat)
  /-- The channel that has too few words, or too little room. -/
  | park (ch : Nat)
  /-- A request is on its way; no word has moved. -/
  | wait (s : State)

/-- The words at the front of a channel: at least n, or a park or a trap (R218). -/
def Ctx.chanFront (x : Ctx) (s : State) (ch n : Nat) : ChanUse (List W32) :=
  let c := x.wg.chan ch
  if !c.v then .bad 1
  else if c.kind = 1 then .bad 2
  else if c.kind = 2 then
    let b := s.binding x.gr c
    let ws := (s.cqWords x.gr b n c.wpos c.pos c.ph false).1
    if ws.length < n then .park ch else .ok ws
  else
    let off := s.chanRing x.gr c
    if ringHeld s x.wg off < n then .park ch
    else .ok ((List.range n).map (fun i => BitVec.ofNat 32 (s.scrWord x.wg (ringAt s x.wg off (ringHead s x.wg off + i)))))

/-- n words leave a channel (R218); a completion entry's first word is an acquire at .sys. -/
def Ctx.chanPop (x : Ctx) (s : State) (ch n : Nat) : State :=
  let c := x.wg.chan ch
  if n = 0 then s
  else if c.kind = 2 then
    let r := s.cqWords x.gr (s.binding x.gr c) n c.wpos c.pos c.ph false
    let s0 := s.markRead x.gr.pasid ((s.binding x.gr c).wordAt c.pos 0) (4 * (s.binding x.gr c).entw)
    let s1 := s0.modChan x.wg.key ch (fun c => { c with wpos := r.2.1, pos := r.2.2.1, ph := r.2.2.2.1 })
    if r.2.2.2.2 then
      let (t, s2) := s1.stamp
      s2.modSplit x.foc (fun sp => { sp with acqAt := t })
    else s1
  else
    let off := s.chanRing x.gr c
    let s1 := s.scrWrite x.wg 0 off (leBytes 4 ((ringHead s x.wg off + n) % 2 ^ 32))
    s1.wakeWhere (fun k _ sp => k == x.wg.key && sp.phase = .parked && sp.blk = .chan ch)

/-- The room that a peer's ring has by its control block, less the words still on their way (R65, R218). -/
def State.roomOf (s : State) (key ch : Nat) (b : List Byte) : Nat :=
  2 ^ fieldAt b 8 2 - (fieldAt b 4 4 + 2 ^ 32 - fieldAt b 0 4) % 2 ^ 32 - (s.fabric.filter (fun g => g.wg == key && g.chan == some ch)).length

/-- Pushing words, in order (R218): a park where they do not fit, a trap where the kind refuses them. A push to a submission
window whose page the kernel answers Invalid is held and asks again (DESIGN CHOICE, log entry 73). A mailbox whose known
room is too small asks the peer's control block once, with a space-6 load, before it parks (log entry 32). -/
def Ctx.chanPush (x : Ctx) (s : State) (ch : Nat) (vs : List W32) : ChanUse State :=
  let c := x.wg.chan ch
  if !c.v then .bad 1
  else match c.kind with
    | 0 =>
      let off := s.chanRing x.gr c
      if ringHeld s x.wg off + vs.length > ringCap s x.wg off then .park ch
      else .ok ((s.ringPush x.wg off vs).wakeWhere (fun k _ sp => k == x.wg.key && sp.phase = .parked && sp.blk = .chan ch))
    | 1 =>
      let b := s.binding x.gr c
      if b.room c.pos c.wpos < vs.length then .park ch
      else
        let at_ := fun (i : Nat) => let k := c.wpos + i; b.wordAt ((c.pos + k / Nat.max b.entw 1) % Nat.max b.depth 1) (k % Nat.max b.entw 1)
        let step := fun (acc : Option State × State) (e : Nat × W32) =>
          match acc.1 with
          | none => acc
          | some t =>
            match x.laneGlob t .wr 0 (at_ e.1) (at_ e.1) none with
            | .ok r => (some ((x.putStore t 0 r (leBytes 4 e.2.toNat) .write true []).markLeaves [{ lane := 0, ptr := 0, res := r }] true), acc.2)
            | .wait s1 => (none, s1)
            | .bad _ _ _ s1 => (none, s1)
            | .member _ => (none, acc.2)
            | .abort _ _ s1 => (none, s1)
        match ((List.range vs.length).zip vs).foldl step (some s, s) with
        | (some t, _) =>
          let k := c.wpos + vs.length
          .ok (t.modChan x.wg.key ch (fun c => { c with wpos := k % Nat.max b.entw 1, pos := (c.pos + k / Nat.max b.entw 1) % Nat.max b.depth 1 }))
        | (none, s1) => .wait s1
    | 3 =>
      let b := s.binding x.gr c
      if s.unreachable b.peer then .bad 1
      else if c.room < vs.length ∧ c.known then .park ch
      else if c.room < vs.length then
        match x.flit s (lowestLane x.sp.mask) b.rptr (.load 16) with
        | (s1, none) => .wait s1
        | (s1, some a) =>
          let room := match a with | .ok d _ => s1.roomOf x.wg.key ch d | _ => 0
          .wait ((x.flitsDone s1 false).modChan x.wg.key ch (fun c => { c with room := room, known := true }))
      else
        let send := fun (s : State) (v : W32) =>
          let (id, s1) := s.fresh
          ({ s1 with fabric := s1.fabric ++ [{ id := id, wg := x.wg.key, grp := x.foc.grp, lane := 0, wi := x.sp.wi, ptr := b.rptr, op := .store (leBytes 4 v.toNat), since := s1.cycle, posted := true, chan := some ch }] } : State).recordPend x.foc id true
        .ok ((vs.foldl send s).modChan x.wg.key ch (fun c => { c with sent := c.sent + vs.length, room := c.room - vs.length }))
    | _ => .bad 2

end Sys2Proof.Machine
end

