-- ==== Sys2Proof/Machine/Flags.lean ====
section
/-! DEFINITION. Number formats, rounding and the five exception flags (R79 to R87), the marker formats (R88 to R95), the
rounding of matrix accumulators (R96 to R100) and of atomics (R101, R197). -/
namespace Sys2Proof.Machine

/-! ### Flags (R86) -/

abbrev Flags := BitVec 5
def fNV : Flags := 16
def fDZ : Flags := 8
def fOF : Flags := 4
def fUF : Flags := 2
def fNX : Flags := 1
def flagIf (b : Bool) (f : Flags) : Flags := if b then f else 0

/-! ### Binary formats (R81) -/

/-- A binary format by its exponent and fraction widths. -/
structure Fmt where
  ew : Nat
  fw : Nat
deriving DecidableEq, Repr

def fp16 : Fmt := { ew := 5, fw := 10 }
def bf16 : Fmt := { ew := 8, fw := 7 }
def fp32 : Fmt := { ew := 8, fw := 23 }
def fp64 : Fmt := { ew := 11, fw := 52 }

def Fmt.width (f : Fmt) : Nat := 1 + f.ew + f.fw
def Fmt.bias (f : Fmt) : Nat := 2 ^ (f.ew - 1) - 1
/-- The exponent of the smallest normal number. -/
def Fmt.emin (f : Fmt) : Int := 1 - (f.bias : Int)
/-- The bits of infinity without a sign. -/
def Fmt.infBits (f : Fmt) : Nat := (2 ^ f.ew - 1) * 2 ^ f.fw
def Fmt.signBit (f : Fmt) : Nat := 2 ^ (f.ew + f.fw)
/-- R81: the canonical NaN. -/
def Fmt.nanBits (f : Fmt) : Nat := f.infBits + 2 ^ (f.fw - 1)

/-- The format of a floating-point type code (R119). -/
def fmtOf (t : BitVec 4) : Fmt := if t = tyF16 then fp16 else if t = tyBF16 then bf16 else if t = tyF32 then fp32 else fp64
def isFloatTy (t : BitVec 4) : Bool := 10 ≤ t.toNat && t.toNat ≤ 13
def isSignedTy (t : BitVec 4) : Bool := t.toNat < 4

/-- A value: a NaN, an infinity, or (-1)^neg * m * 2^e exactly. -/
inductive FVal where
  | nan (signalling : Bool)
  | inf (neg : Bool)
  | fin (neg : Bool) (m : Nat) (e : Int)
deriving DecidableEq, Repr

/-- Decoding bits (R81); under FTZ a subnormal reads as zero of its sign (R82). -/
def Fmt.decode (f : Fmt) (ftz : Bool) (bits : Nat) : FVal :=
  let neg := bitOf bits (f.ew + f.fw)
  let ex := bitsOf bits f.fw f.ew
  let fr := bits % 2 ^ f.fw
  if ex = 2 ^ f.ew - 1 then (if fr = 0 then .inf neg else .nan (fr < 2 ^ (f.fw - 1)))
  else if ex = 0 then .fin neg (if ftz then 0 else fr) (f.emin - f.fw)
  else .fin neg (2 ^ f.fw + fr) (f.emin - f.fw + ((ex : Int) - 1))

def Fmt.subnormal (f : Fmt) (bits : Nat) : Bool := bitsOf bits f.fw f.ew == 0 && bits % 2 ^ f.fw != 0

def FVal.isNaN : FVal → Bool | .nan _ => true | _ => false
def FVal.isSNaN : FVal → Bool | .nan s => s | _ => false
def FVal.isInf : FVal → Bool | .inf _ => true | _ => false
def FVal.isZero : FVal → Bool | .fin _ m _ => m == 0 | _ => false
def FVal.sign : FVal → Bool | .nan _ => false | .inf n => n | .fin n _ _ => n
def FVal.negate : FVal → FVal | .nan s => .nan s | .inf n => .inf !n | .fin n m e => .fin (!n) m e
def FVal.abs : FVal → FVal | .nan s => .nan s | .inf _ => .inf false | .fin _ m e => .fin false m e

/-! ### Rounding (R84, R85) -/

/-- Whether a magnitude with a fraction rem/den above its integer part n goes up, in a mode (R84). -/
def roundUp (mode : Nat) (neg : Bool) (n rem den : Nat) : Bool :=
  match mode with
  | 0 => 2 * rem > den || (2 * rem == den && n % 2 == 1)
  | 1 => false
  | 2 => neg && rem != 0
  | _ => !neg && rem != 0

/-- num/den divided by 2^q, as an integer part, a remainder and its denominator. -/
def divPow (num den : Nat) (q : Int) : Nat × Nat × Nat :=
  match q with
  | .ofNat k => (num / (den * 2 ^ k), num % (den * 2 ^ k), den * 2 ^ k)
  | .negSucc k => (num * 2 ^ (k + 1) / den, num * 2 ^ (k + 1) % den, den)

/-- num/den rounded to a multiple of 2^q: the multiple, and whether it differs. -/
def quantise (mode : Nat) (neg : Bool) (num den : Nat) (q : Int) : Nat × Bool :=
  let (n, rem, d) := divPow num den q
  (if roundUp mode neg n rem d then n + 1 else n, rem != 0)

/-- The exponent of the leading bit of num/den, both positive. -/
def ratLog (num den : Nat) : Int :=
  let k : Int := (Nat.log2 num : Int) - (Nat.log2 den : Int)
  if (divPow num den k).1 = 0 then k - 1 else k

/-- R84: the result of an overflow. -/
def Fmt.overflow (f : Fmt) (mode : Nat) (neg : Bool) : Nat :=
  let big := f.infBits - 1
  match mode with
  | 0 => f.infBits
  | 1 => big
  | 2 => if neg then f.infBits else big
  | _ => if neg then big else f.infBits

def Fmt.withSign (f : Fmt) (neg : Bool) (b : Nat) : Nat := if neg then b + f.signBit else b

/-- R85: the value rounded with an unbounded exponent lies below the smallest normal. -/
def Fmt.tiny (f : Fmt) (mode : Nat) (neg : Bool) (num den : Nat) : Bool :=
  let ex := ratLog num den
  let (un, _) := quantise mode neg num den (ex - f.fw)
  num ≠ 0 && (if un ≥ 2 ^ (f.fw + 1) then ex + 1 else ex) < f.emin

/-- R82 to R85: (-1)^neg * num/den rounded to a format, with OF, UF and NX. -/
def Fmt.roundRat (f : Fmt) (mode : Nat) (ftz neg : Bool) (num den : Nat) : Nat × Flags :=
  if num = 0 then (f.withSign neg 0, 0)
  else
    let ex := ratLog num den
    let tiny := f.tiny mode neg num den
    if tiny && ftz then (f.withSign neg 0, fUF ||| fNX)
    else
      let q := (if ex < f.emin then f.emin else ex) - f.fw
      let (n, inexact) := quantise mode neg num den q
      let bits := (q - (f.emin - f.fw)).toNat * 2 ^ f.fw + n
      if bits ≥ f.infBits then (f.withSign neg (f.overflow mode neg), fOF ||| fNX)
      else (f.withSign neg bits, flagIf (tiny && inexact) fUF ||| flagIf inexact fNX)

/-- A value rounded to a format (R83: a NaN is the canonical one). -/
def Fmt.round (f : Fmt) (mode : Nat) (ftz : Bool) (v : FVal) : Nat × Flags :=
  match v with
  | .nan _ => (f.nanBits, 0)
  | .inf n => (f.withSign n f.infBits, 0)
  | .fin n m (.ofNat e) => f.roundRat mode ftz n (m * 2 ^ e) 1
  | .fin n m (.negSucc e) => f.roundRat mode ftz n m (2 ^ (e + 1))

/-! ### Exact arithmetic on values -/

/-- A signed dyadic as an integer at exponent q, with q no larger than its own. -/
def FVal.at (v : FVal) (q : Int) : Int :=
  match v with
  | .fin n m e => let x : Int := (m * 2 ^ (e - q).toNat : Nat); if n then -x else x
  | _ => 0
def FVal.exp : FVal → Int | .fin _ _ e => e | _ => 0

/-- The sign of an exact zero sum (R99, IEEE 754). -/
def zeroSign (mode : Nat) (a b : Bool) : Bool := if a == b then a else mode == 2

/-- The exact sum, with invalid where infinities of both signs meet (R83). -/
def FVal.add (mode : Nat) (x y : FVal) : FVal × Flags :=
  let sn := flagIf (x.isSNaN || y.isSNaN) fNV
  match x, y with
  | .nan _, _ => (.nan false, sn)
  | _, .nan _ => (.nan false, sn)
  | .inf a, .inf b => if a == b then (.inf a, 0) else (.nan false, fNV)
  | .inf a, _ => (.inf a, 0)
  | _, .inf b => (.inf b, 0)
  | .fin a m e, .fin b k h =>
    let q := if e ≤ h then e else h
    let z := (FVal.fin a m e).at q + (FVal.fin b k h).at q
    if z = 0 then
      (.fin (if m = 0 ∧ k = 0 then zeroSign mode a b else mode == 2) 0 q, 0)
    else (.fin (z < 0) z.natAbs q, 0)

/-- The exact product. -/
def FVal.mul (x y : FVal) : FVal × Flags :=
  let sn := flagIf (x.isSNaN || y.isSNaN) fNV
  match x, y with
  | .nan _, _ => (.nan false, sn)
  | _, .nan _ => (.nan false, sn)
  | .inf a, .inf b => (.inf (a != b), 0)
  | .inf a, .fin b k _ => if k = 0 then (.nan false, fNV) else (.inf (a != b), 0)
  | .fin a m _, .inf b => if m = 0 then (.nan false, fNV) else (.inf (a != b), 0)
  | .fin a m e, .fin b k h => (.fin (a != b) (m * k) (e + h), 0)

/-- x < y for values that are no NaN. -/
def FVal.lt (x y : FVal) : Bool :=
  match x, y with
  | .inf a, .inf b => a && !b
  | .inf a, _ => a
  | _, .inf b => !b
  | .fin a m e, .fin b k h =>
    let q := if e ≤ h then e else h
    (FVal.fin a m e).at q < (FVal.fin b k h).at q
  | _, _ => false
def FVal.eq (x y : FVal) : Bool := !x.isNaN && !y.isNaN && !x.lt y && !y.lt x

/-- R101: the sum of two values in a format; any NaN input raises NV. -/
def Fmt.add (f : Fmt) (mode : Nat) (ftz : Bool) (a b : Nat) : Nat × Flags :=
  let x := f.decode ftz a
  let y := f.decode ftz b
  let (v, fl) := x.add mode y
  let (r, g) := f.round mode ftz v
  (r, fl ||| g ||| flagIf (x.isNaN || y.isNaN) fNV)

/-- R92: rounding a value to an integer type of w bits; a NaN gives 0, an out-of-range value the nearest end, with NV. -/
def toIntTy (mode : Nat) (signed : Bool) (w : Nat) (v : FVal) : Int × Flags :=
  let hi : Int := if signed then 2 ^ (w - 1) - 1 else 2 ^ w - 1
  let lo : Int := if signed then -(2 ^ (w - 1)) else 0
  match v with
  | .nan _ => (0, fNV)
  | .inf n => (if n then lo else hi, fNV)
  | .fin n m e =>
    let (k, inexact) := match e with
      | .ofNat x => (m * 2 ^ x, false)
      | .negSucc x => quantise mode n m (2 ^ (x + 1)) 0
    let z : Int := if n then -(k : Int) else k
    if z > hi then (hi, fNV) else if z < lo then (lo, fNV) else (z, flagIf inexact fNX)

/-- An integer rounded to a format. -/
def Fmt.ofInt (f : Fmt) (mode : Nat) (z : Int) : Nat × Flags := f.roundRat mode false (z < 0) z.natAbs 1

/-! ### Marker formats (R88 to R95) -/

/-- marker_mag(c) times its unit: 32 * 10^7 for M8 (Q = 6) and 2 * 10^3 for M4 (Q = 2). -/
def markerUnits (q6 : Bool) (c : Nat) : Nat :=
  let Q := if q6 then 6 else 2
  if c = 0 then 0
  else
    let q := Nat.log2 c
    let top := if q6 then 5 else 1
    if q = 0 then 2 ^ top
    else
      let ws := q - 1
      let F := c % 2 ^ ws
      let e := if bitOf c (q - 1) then q else 2 * Q + 1 - q
      (2 ^ ws + 9 * F) * 2 ^ (top - ws) * 10 ^ e
def markerDen (q6 : Bool) : Nat := if q6 then 32 * 10 ^ 7 else 2 * 10 ^ 3

/-- The code bits and the sign of an element. -/
def markerCode (q6 : Bool) (el : Nat) : Nat := if q6 then el % 128 else el % 8
def markerNeg (q6 : Bool) (el : Nat) : Bool := if q6 then bitOf el 7 else bitOf el 3

/-- R93: the scale byte of a block of values. -/
def chooseScale (xs : List FVal) : Nat :=
  if xs.any (fun x => x.isNaN || x.isInf) then 0xFF
  else
    match (xs.map FVal.abs).foldl (fun a x => if a.lt x then x else a) (.fin false 0 0) with
    | .fin _ m e =>
      if m = 0 then 127
      else
        let k := Nat.log2 m
        let ea : Int := e + k
        let s := if 4 * m < 5 * 2 ^ k then ea - 3 else ea - 2
        (if s + 127 < 0 then 0 else if s + 127 > 254 then 254 else s + 127).toNat
    | _ => 0xFF

/-- What a conversion to an element counts (R94). -/
structure MarkCount where
  sat : Nat := 0
  flush : Nat := 0
  nan : Nat := 0
deriving DecidableEq, Repr

/-- R94: of two codes, the nearer to num/den; a tie goes to the even code, and of two odd codes to the smaller. -/
def markerBetter (q6 : Bool) (num den : Nat) (a b : Nat) : Nat :=
  let dist := fun c => ((markerUnits q6 c * den : Nat) - (num * markerDen q6 : Nat) : Int).natAbs
  if dist a < dist b then a
  else if dist b < dist a then b
  else if a % 2 = 0 then a
  else if b % 2 = 0 then b
  else if markerUnits q6 a ≤ markerUnits q6 b then a else b

/-- R94: one element under a scale byte, with its count. -/
def markerEncode (q6 : Bool) (k : Nat) (x : FVal) : Nat × MarkCount :=
  if k = 0xFF then (0, {})
  else match x with
    | .fin n m e =>
      if m = 0 then (0, {})
      else
        let sh : Int := e - ((k : Int) - 127)
        let num := m * 2 ^ sh.toNat
        let den := 2 ^ (-sh).toNat
        let c := (List.range (if q6 then 127 else 7)).foldl (fun a i => markerBetter q6 num den a (i + 1)) 0
        let big := num * markerDen q6 > (if q6 then 10 ^ 5 else 10) * markerDen q6 * den
        (if c = 0 then 0 else c + (if n then (if q6 then 128 else 8) else 0),
          { sat := if big then 1 else 0, flush := if c = 0 then 1 else 0 })
    | _ => (0, {})

/-- R91: the exact value of an element with its scale byte, as a sign, numerator and denominator; none is NaN. -/
def markerValue (q6 : Bool) (el k : Nat) : Option (Bool × Nat × Nat) :=
  if k = 0xFF then none
  else
    let u := markerUnits q6 (markerCode q6 el)
    some (u != 0 && markerNeg q6 el, u * 2 ^ (k - 127), markerDen q6 * 2 ^ (127 - k))

/-- R95: an element decoded to a binary format. -/
def markerDecode (f : Fmt) (mode : Nat) (ftz q6 : Bool) (el k : Nat) : Nat × Flags :=
  match markerValue q6 el k with
  | none => (f.nanBits, 0)
  | some (n, a, b) => f.roundRat mode ftz n a b

/-! ### Matrix arithmetic (R96 to R100) -/

/-- The fields of a format word (R96). -/
def fwTid (w : W32) : Nat := bitsOf w.toNat 16 8
def fwRnd (w : W32) : Nat := bitsOf w.toNat 14 2
def fwZf (w : W32) : Bool := bitOf w.toNat 13
def fwSat (w : W32) : Bool := bitOf w.toNat 12
def fwAcc (w : W32) : Nat := bitsOf w.toNat 8 4
def fwBf (w : W32) : Nat := bitsOf w.toNat 4 4
def fwAf (w : W32) : Nat := bitsOf w.toNat 0 4

/-- R97: the legal combinations. -/
def fwLegal (w : W32) : Bool :=
  bitsOf w.toNat 24 8 == 0 &&
  (match fwAf w, fwBf w, fwAcc w with
  | 0, 0, 0 => true
  | 1, 1, 0 => true
  | 2, 2, 2 => true | 2, 3, 2 => true | 3, 2, 2 => true | 3, 3, 2 => true
  | 4, 4, 2 => true
  | 5, 5, 0 => true | 5, 6, 0 => true | 6, 5, 0 => true | 6, 6, 0 => true
  | 7, 7, 0 => true
  | 8, 8, 1 => true
  | _, _, _ => false)

/-- R97: elements per row, elements of a sum block. -/
def rowElems (fmt : Nat) : Nat := match fmt with | 0 => 192 | 1 => 384 | 2 => 192 | 3 => 192 | 4 => 384 | 5 => 96 | 6 => 96 | 7 => 48 | _ => 24
def blockElems (fmt : Nat) : Nat := match fmt with | 7 => 8 | 8 => 4 | _ => 32

/-- An element of a matrix row: a binary value, or a signed integer of units of the format. -/
inductive Elem where
  | flt (v : FVal)
  | int (z : Int)
deriving DecidableEq, Repr

/-- Element i of the bytes of a row (R80, R96); integer and marker elements are counted in their own unit. -/
def rowElem (fmt : Nat) (ftz : Bool) (row : List Byte) (i : Nat) : Elem :=
  let by8 := (row.getD i 0).toNat
  let nib := ((row.getD (i / 2) 0).toNat / 16 ^ (i % 2)) % 16
  match fmt with
  | 0 => .int (if markerNeg true by8 then -(markerUnits true (markerCode true by8) : Int) else markerUnits true (markerCode true by8))
  | 1 => .int (if markerNeg false nib then -(markerUnits false (markerCode false nib) : Int) else markerUnits false (markerCode false nib))
  | 2 => .int (sextInt 8 by8)
  | 3 => .int by8
  | 4 => .int (sextInt 4 nib)
  | 5 => .flt (bf16.decode ftz (fieldAt row (2 * i) 2))
  | 6 => .flt (fp16.decode ftz (fieldAt row (2 * i) 2))
  | 7 => .flt (fp32.decode ftz (fieldAt row (4 * i) 4))
  | _ => .flt (fp64.decode ftz (fieldAt row (8 * i) 8))

/-- A block's sum: NaN, an infinity, or a rational with the sign that its zero has. -/
inductive BSum where
  | nan
  | inf (neg : Bool)
  | rat (zneg : Bool) (num : Int) (den : Nat)
deriving DecidableEq, Repr

/-- The least exponent of the finite products, at which a block is summed. -/
def prodExp (ps : List FVal) : Int := ps.foldl (fun q p => match p with | .fin _ _ e => if e < q then e else q | _ => q) 0

/-- R98, R99: the exact sum of a block's products of binary elements. -/
def fltBlock (mode : Nat) (ps : List FVal) : BSum :=
  if ps.any FVal.isNaN then .nan
  else if ps.any (fun p => p == .inf false) && ps.any (fun p => p == .inf true) then .nan
  else if ps.any (fun p => p == .inf false) then .inf false
  else if ps.any (fun p => p == .inf true) then .inf true
  else
    let q := prodExp ps
    let z := ps.foldl (fun a p => a + p.at q) (0 : Int)
    let allNeg := ps.all (fun p => p.isZero && p.sign)
    let allPos := ps.all (fun p => p.isZero && !p.sign)
    .rat (if allNeg then true else if allPos then false else mode == 2) z (2 ^ (-q).toNat)

/-- R98: the sum of block b of a row and a column, with the scale bytes of marker formats. -/
def blockSum (mode : Nat) (ftz : Bool) (af bf : Nat) (rowA rowB : List Byte) (b : Nat) (ka kb : Nat) : BSum :=
  let n := blockElems af
  let els := (List.range n).map (fun i => (rowElem af ftz rowA (b * n + i), rowElem bf ftz rowB (b * n + i)))
  if af < 5 then
    let z := els.foldl (fun (a : Int) e => match e with | (.int x, .int y) => a + x * y | _ => a) 0
    if af < 2 then
      if ka = 0xFF ∨ kb = 0xFF then .nan
      else
        let allZero := els.all (fun e => match e with | (.int x, .int y) => x * y == 0 | _ => true)
        let allNeg := allZero && els.all (fun e => match e with | (.int x, .int y) => (x < 0) != (y < 0) | _ => false)
        let allPos := allZero && els.all (fun e => match e with | (.int x, .int y) => (x < 0) == (y < 0) | _ => false)
        let d := markerDen (af = 0) * markerDen (af = 0)
        .rat (if allNeg then true else if allPos then false else mode == 2)
          (z * (2 ^ (ka + kb - 254) : Nat)) (d * 2 ^ (254 - (ka + kb)))
    else .rat false z 1
  else fltBlock mode (els.map (fun e => match e with | (.flt x, .flt y) => (x.mul y).1 | _ => .nan false))

/-- What accumulation counts for a tensor (R104). -/
abbrev AccCount := MarkCount

/-- R99: one block added to a floating-point accumulator. FTZ leaves a subnormal value that the accumulator already holds as it is: R99
names only the elements and the rounded results (DESIGN CHOICE, log entry 83). -/
def accFlt (f : Fmt) (mode : Nat) (ftz sat : Bool) (acc : Nat) (s : BSum) : Nat × AccCount :=
  match f.decode false acc, s with
  | .nan _, _ => (f.nanBits, {})
  | _, .nan => (f.nanBits, {})
  | .inf a, .inf b => if a == b then (f.withSign a f.infBits, {}) else (f.nanBits, {})
  | .inf a, _ => (f.withSign a f.infBits, {})
  | _, .inf b => (f.withSign b f.infBits, {})
  | .fin a m e, .rat zn num den =>
    let x : Int := if a then -(m : Int) else m
    let (xn, xd) : Int × Nat := match e with | .ofNat k => (x * (2 ^ k : Nat), 1) | .negSucc k => (x, 2 ^ (k + 1))
    let tot : Int := xn * (den : Int) + num * (xd : Int)
    if tot = 0 then (f.withSign (if m = 0 ∧ num = 0 then zeroSign mode a zn else mode == 2) 0, {})
    else
      let (r, fl) := f.roundRat mode ftz (tot < 0) tot.natAbs (den * xd)
      if fl &&& fOF ≠ 0 ∧ sat ∧ r % f.signBit = f.infBits then (f.withSign (tot < 0) (f.infBits - 1), { sat := 1 })
      else (r, { flush := if ftz && r % f.signBit == 0 then 1 else 0 })

/-- R100: one block added to an INT32 accumulator. -/
def accInt (sat : Bool) (acc : W32) (s : BSum) : W32 × AccCount :=
  match s with
  | .rat _ z _ =>
    let t := acc.toInt + z
    if sat then
      if t > 2 ^ 31 - 1 then (BitVec.ofNat 32 (2 ^ 31 - 1), { sat := 1 })
      else if t < -(2 ^ 31) then (BitVec.ofNat 32 (2 ^ 31), { sat := 1 })
      else (BitVec.ofInt 32 t, {})
    else (BitVec.ofInt 32 t, {})
  | _ => (acc, {})

def AccCount.plus (a b : AccCount) : AccCount := { sat := a.sat + b.sat, flush := a.flush + b.flush, nan := a.nan + b.nan }

/-- R98: one accumulator element over the blocks of a row. -/
def dotBlocks (w : W32) (ftz : Bool) (rowA scA colB scB : List Byte) (acc : Nat) : Nat × AccCount :=
  let f := if fwAcc w = 1 then fp64 else fp32
  let af := fwAf w
  let nblk := rowElems af / blockElems af
  let start := if fwZf w then 0 else acc
  let r := (List.range nblk).foldl (fun (st : Nat × AccCount) b =>
    let s := blockSum (fwRnd w) ftz af (fwBf w) rowA colB b (scA.getD b 127).toNat (scB.getD b 127).toNat
    if fwAcc w = 2 then
      let (v, c) := accInt (fwSat w) (BitVec.ofNat 32 st.1) s
      (v.toNat, st.2.plus c)
    else
      let (v, c) := accFlt f (fwRnd w) ftz (fwSat w) st.1 s
      (v, st.2.plus c)) (start, {})
  if fwAcc w ≠ 2 ∧ (f.decode false r.1).isNaN ∧ !(f.decode false start).isNaN then (r.1, { r.2 with nan := r.2.nan + 1 }) else r

/-! ### Atomics (R101, R197) -/

/-- R197: the new value and the flags of an operation on w bits. -/
def atomicOp (mod : BitVec 3) (sgn : Bool) (sz : BitVec 3) (old b cmp : Nat) : Nat × Flags :=
  let w := 8 * 2 ^ sz.toNat
  let f := if sz.toNat = 3 then fp64 else fp32
  let M := 2 ^ w
  let sv := fun (x : Nat) => if sgn then sextInt w x else ((x % M : Nat) : Int)
  match mod.toNat, sgn with
  | 0, false => ((old + b) % M, 0)
  | 4, false => (old ^^^ b, 0)
  | 0, true => f.add 0 false old b
  | 4, true => f.add 0 true old b
  | 1, _ => (if sv b < sv old then b else old, 0)
  | 2, _ => (if sv old < sv b then b else old, 0)
  | 3, false => (b, 0)
  | 3, true => (if old = cmp then b else old, 0)
  | 7, false => (old &&& b, 0)
  | 7, true => (old ||| b, 0)
  | _, _ => (old, 0)

end Sys2Proof.Machine
end

