-- ==== Sys2Proof/Machine/Operands.lean ====
section
/-! DEFINITION. Operand reads with source modifiers (R114, R115, R135, R162), immediates (R120), the issue of one
instruction (R110, R422, R425), and lane arithmetic with channels, flags and the hold file (R60, R87, R116, R133). -/
namespace Sys2Proof.Machine

/-! ### Sources -/

/-- The low w bits of a number. -/
def lowBits (w n : Nat) : Nat := n % 2 ^ w

/-- R115: the source modifiers of a type applied to a register or pair. -/
def applySmod (ty : BitVec 4) (m : BitVec 3) (v : Nat) : Nat :=
  let neg := m.getLsbD 0
  let abs := m.getLsbD 1
  let hi := m.getLsbD 2
  let w := tyBits ty
  let half := if hi then v / 2 ^ 16 else v
  if isFloatTy ty then
    let u := lowBits w (if w = 16 then half else v)
    let u := if abs then lowBits (w - 1) u else u
    if neg then u ^^^ 2 ^ (w - 1) else u
  else match ty.toNat with
    | 0 =>
      let u := lowBits 8 (v / 2 ^ (8 * (m.toNat % 4)))
      if hi then (256 - u) % 256 else u
    | 4 => lowBits 8 (v / 2 ^ (8 * (m.toNat % 4)))
    | 5 => lowBits 16 half
    | 1 =>
      let u := lowBits 16 half
      let u := if abs && bitOf u 15 then (2 ^ 16 - u) % 2 ^ 16 else u
      if neg then (2 ^ 16 - u) % 2 ^ 16 else u
    | 2 =>
      let u := lowBits 32 v
      let u := if abs && bitOf u 31 then (2 ^ 32 - u) % 2 ^ 32 else u
      if neg then (2 ^ 32 - u) % 2 ^ 32 else u
    | 3 =>
      let u := lowBits 64 v
      let u := if abs && bitOf u 63 then (2 ^ 64 - u) % 2 ^ 64 else u
      if neg then (2 ^ 64 - u) % 2 ^ 64 else u
    | _ => lowBits w v

/-- A source field with the type that it is read in: none reads the whole register or pair without modifiers. -/
structure Src where
  opnd : Opnd
  ty : Option (BitVec 4)
  wide : Bool

/-- A source read under a type. -/
def srcOf (o : Opnd) (t : BitVec 4) : Src := { opnd := o, ty := some t, wide := tyBits t = 64 }
/-- A source of one register read whole. -/
def src32Of (o : Opnd) : Src := { opnd := o, ty := none, wide := false }
/-- A source pair read whole (R58). -/
def src64Of (o : Opnd) : Src := { opnd := o, ty := none, wide := true }

/-- A register source of a lane; a channel field reads as zero here. -/
def Group.readSrc (g : Group) (lane : Nat) (x : Src) : Nat :=
  match x.opnd with
  | .chan _ _ => 0
  | .reg t m i =>
    let v := if x.wide then (g.pair lane t i.toNat).toNat else (g.reg lane t i.toNat).toNat
    match x.ty with
    | none => v
    | some ty => applySmod ty m v

/-- R120: the value of an immediate under a type. -/
def immValue (ty : BitVec 4) (imm : BitVec 34) : Nat :=
  if ty = tyF64 then
    match fp32.decode false (imm.toNat % 2 ^ 32) with
    | .nan _ => bitsOf imm.toNat 31 1 * 2 ^ 63 + 0x7FF * 2 ^ 52 + imm.toNat % 2 ^ 23 * 2 ^ 29
    | v => (fp64.round 0 false v).1
  else if tyBits ty = 64 then wrapNat 64 (sextInt 34 imm.toNat)
  else lowBits (tyBits ty) imm.toNat

/-! ### Results -/

/-- R79, R135: a result of a type as it stands in its register or pair. -/
def extendTy (ty : BitVec 4) (n : Nat) : W64 :=
  let w := tyBits ty
  if isSignedTy ty then BitVec.ofNat 64 (wrapNat (if w = 64 then 64 else 32) (sextInt w n)) else BitVec.ofNat 64 (lowBits w n)

/-- Writing a lane result to a D field (R60, R133); a channel takes its words elsewhere and moves the hold file. -/
def Group.writeD (g : Group) (lane : Nat) (d : Opnd) (wide : Bool) (v : W64) : Group :=
  match d with
  | .reg t _ i => g.writeLane lane t i.toNat wide v
  | .chan _ _ => g.shiftHold lane false v

/-! ### Issue of one instruction -/

/-- R422: the trap of a source read that meets a poisoned register word, in the lowest executing lane that reads one. -/
def Ctx.regPoison (x : Ctx) (c : Common) (rs : Reads) (preds : List Nat) : Option Trap :=
  if x.g.rpoison = [] then none
  else
    let lanes := if c.u then [x.trapLane c] else lanesOf (x.real c)
    let tierNo := fun (t : Tier) => match t with | .v => 0 | .o => 1 | .h => 2 | .s => 3
    let hits := lanes.flatMap (fun l =>
      (preds.filter (fun p => !c.u && p ≠ 0 && x.g.rpoison.contains (0x20000 + p))).map (fun p => (l, 3, 0x80 + p)) ++
      rs.flatMap (fun r => match r.1 with
        | .chan _ _ => []
        | .reg t _ i => (List.range r.2).filterMap (fun k =>
            let key := match t with | .s => 0x10000 + i.toNat + k | _ => regKey l t (i.toNat + k)
            if x.g.rpoison.contains key then some (l, tierNo t, i.toNat + k) else none)))
    match hits with
    | [] => none
    | (l, t, i) :: _ => some { cause := 0x0F, sub := 3, lane := l, val := BitVec.ofNat 64 (t + 256 * i) }

/-- The word of an instruction for trapval (R421). -/
def wordOf (i : Instr) : W96 := (encode i).getD 0

/-- Steps 2 and 3 of R422 around an instruction's own effect: the illegal word, the J merge (R40, R425), poisoned
sources. With no split to issue, nothing happens (log entry 2). -/
def issueWith (i : Instr) (c : Common) (rs : Reads) (preds : List Nat) (s : State) (body : Ctx → State → State) :
    Host.Outcome State Fault Refusal :=
  match s.ctx? with
  | none => .next s
  | some x =>
    if x.sp.phase ≠ .ready then .next s
    else match i.illegal x.alloc with
      | some sub => .next (s.takeTrap x (illegalTrap x sub (wordOf i)))
      | none =>
        let s1 := if c.j && !x.sp.woken then
            let (t, s1) := s.stamp
            s1.modGrp x.foc.wg x.foc.grp (fun g => g.jMerge x.foc.pos t)
          else s
        match x.foc.lookup s1 with
        | none => .next s1
        | some y =>
          match y.regPoison c rs (if c.u then preds else c.prd.toNat :: preds) with
          | some t => .next (s1.takeTrap y t)
          | none => .next (body y s1)

/-- The group of the issuing split changes and the split goes on. -/
def State.doneWith (s : State) (x : Ctx) (f : Group → Group) : State := (s.modGrp x.foc.wg x.foc.grp f).advance x

/-! ### Lanes outside the split (R137) -/

/-- Another split of the group has an issued instruction whose results are still to come. -/
def Ctx.othersInFlight (x : Ctx) : Bool :=
  x.g.table.zipIdx.any (fun e => e.2 != x.foc.pos && (match e.1 with | some sp => sp.inFlight | none => false)) || x.g.spill.any (·.inFlight)

/-- The group without what another pick of the same cycle has written into its lanes. -/
def Ctx.earlier (x : Ctx) (s : State) : Group :=
  match s.picked.find? (fun p => p.foc.wg == x.foc.wg && p.foc.grp == x.foc.grp && p.foc != x.foc) with
  | some p => { x.g with regs := p.before }
  | none => x.g

/-- R137: the instruction is held while earlier writes are to come, and reads the lanes as the cycle found them. -/
def Ctx.acrossLanes (x : Ctx) (s : State) (k : Group → State) : State := if x.othersInFlight then s.holdSplit x else k (x.earlier s)

/-! ### Lane arithmetic -/

/-- An instruction that computes each lane's result from its sources alone. -/
structure Alu where
  com : Common
  d : Opnd
  wide : Bool
  srcs : List Src
  /-- The result and the flags from the sources' values, per lane. -/
  f : Nat → List Nat → W64 × Flags

/-- The pops and peeks of an instruction (R116): per source field its channel, whether it peeks, and the words. The
offset counts how far each channel has been read. -/
def Ctx.takeWords (x : Ctx) (s : State) (n : Nat) : List Src → List (Nat × Nat) → List (Option (List W32)) → ChanUse (List (Option (List W32)) × List (Nat × Nat))
  | [], offs, acc => .ok (acc.reverse, offs)
  | src :: rest, offs, acc =>
    match src.opnd with
    | .reg _ _ _ => x.takeWords s n rest offs (none :: acc)
    | .chan peek ch =>
      if n = 0 then x.takeWords s n rest offs (some [] :: acc) else
      let o := mget 0 offs ch.toNat
      match x.chanFront s ch.toNat (o + n) with
      | .ok ws => x.takeWords s n rest (if peek then offs else mput offs ch.toNat (o + n)) (some (ws.drop o) :: acc)
      | .bad b => .bad (b + 16 * ch.toNat)
      | .park c => .park c
      | .wait t => .wait t

def chanOf? (o : Opnd) : Option Nat :=
  match o with
  | .chan _ c => some c.toNat
  | _ => none

/-- R434: the trap of a channel operand. -/
def Ctx.chanTrap (x : Ctx) (c : Common) (sub ch : Nat) : Trap := { cause := 0x0A, sub := sub, lane := x.trapLane c, val := BitVec.ofNat 64 ch }

/-- The values that the sources give one lane; `k`: the lane's place among the lanes that take channel words. -/
def laneSources (g : Group) (lane : Nat) (k : Option Nat) : List Src → List (Option (List W32)) → List Nat
  | [], _ => []
  | s :: ss, ws =>
    (match ws.headD none with
      | some l =>
        let v := match k with | some i => (l.getD i 0).toNat | none => 0
        (match s.ty with | some t => lowBits (tyBits t) v | none => v)
      | none => g.readSrc lane s) :: laneSources g lane k ss (ws.drop 1)

/-- R87: the trap of enabled flags among lanes that are no helpers. -/
def fpTrap (g : Group) (rs : List (Nat × W64 × Flags)) : Option Trap :=
  match rs.find? (fun r => !g.helper.getLsbD r.1 && (r.2.2 &&& (mget 0 g.fstat r.1).extractLsb' 8 5) != 0) with
  | some (l, _, fl) => some { cause := 0x0E, sub := 0, lane := l, val := BitVec.ofNat 64 ((fl &&& (mget 0 g.fstat l).extractLsb' 8 5).toNat + 256 * fl.toNat) }
  | none => none

/-- The group-wide form (R111, R136, R165). -/
def Ctx.aluS (x : Ctx) (s : State) (a : Alu) : State :=
  if !x.gwOn a.com then s.advance x
  else
    let l := lowestLane x.sp.mask
    let (v, fl) := a.f l (a.srcs.map (x.g.readSrc 0))
    match fpTrap x.g [(l, v, fl)] with
    | some t => s.takeTrap x t
    | none => s.doneWith x (fun g => match a.d with
      | .reg _ _ i => (g.writeS i.toNat a.wide v).orFlags l fl
      | .chan _ _ => g)

/-- A destination of tier s in the lane form of an instruction that R133 does not bind: it is written once, with the
result of one of the lanes, which the spec leaves open (log entry 19). -/
def freeLaneOf (s : State) (ls : List Nat) : Nat × State :=
  (ls.getD (Config.freeLane s.free % Nat.max ls.length 1) 0, { s with free := s.free + 1 })

/-- Results of the executing lanes written to D, with flags (R60, R86, R133). -/
def Ctx.commit (x : Ctx) (s : State) (d : Opnd) (wide : Bool) (rs : List (Nat × W64 × Flags)) : State :=
  match d with
  | .reg .s _ i =>
    let (l, s1) := freeLaneOf s (rs.map Prod.fst)
    s1.doneWith x (fun g =>
      let g1 := rs.foldl (fun g r => g.orFlags r.1 r.2.2) g
      match rs.find? (fun r => r.1 == l) with
      | some r => g1.writeS i.toNat wide r.2.1
      | none => g1)
  | _ => s.doneWith x (fun g => rs.foldl (fun g r => (g.writeD r.1 d wide r.2.1).orFlags r.1 r.2.2) g)

/-- The lane form: channel words taken (R116), results, cause 0x0E, pushes, writes. -/
def Ctx.aluLanes (x : Ctx) (s : State) (a : Alu) : State :=
  let act := lanesOf (x.active a.com)
  let reals := lanesOf (x.real a.com)
  let place := fun l => reals.findIdx? (· == l)
  match x.takeWords s reals.length a.srcs [] [] with
  | .bad b => s.takeTrap x (x.chanTrap a.com (b % 16) (b / 16))
  | .park c => s.blockSplit x .parked .popEmpty (.chan c)
  | .wait t => t.holdSplit x
  | .ok (ws, offs) =>
    let rs := act.map (fun l => (l, a.f l (laneSources x.g l (place l) a.srcs ws)))
    match fpTrap x.g rs with
    | some t => s.takeTrap x t
    | none =>
      let s1 := offs.foldl (fun s o => x.chanPop s o.1 o.2) (s.waitDone x)
      match a.d with
      | .reg _ _ _ => x.commit s1 a.d a.wide rs
      | .chan _ ch =>
        let vs := (rs.filter (fun r => !x.g.helper.getLsbD r.1)).map (fun r => r.2.1.extractLsb' 0 32)
        if vs = [] then x.commit s1 a.d false rs else
        match (x.foc.lookup s1).getD x |>.chanPush s1 ch.toNat vs with
        | .ok s2 => x.commit s2 a.d false rs
        | .bad b => s.takeTrap x (x.chanTrap a.com b ch.toNat)
        | .park c => s.blockSplit x .parked .pushFull (.chan c)
        | .wait _ => match x.chanPush s ch.toNat vs with
          | .wait t => t.holdSplit x
          | _ => s.holdSplit x

/-- Lane arithmetic in either form. With no executing lane a channel instruction takes and pushes no word. -/
def Ctx.alu (x : Ctx) (s : State) (a : Alu) : State :=
  if a.com.u then x.aluS s a
  else if x.active a.com = 0 then s.advance x
  else x.aluLanes s a

def Alu.reads (a : Alu) : Reads := a.srcs.map (fun q => (q.opnd, if q.wide then 2 else 1))
/-- The issue of an instruction of lane arithmetic. -/
def runAlu (i : Instr) (a : Alu) (s : State) : Host.Outcome State Fault Refusal :=
  issueWith i a.com a.reads [] s (fun x t => x.alu t a)

/-! ### Predicate results -/

/-- A compare: each executing lane's bit of predicate D, or condition D under U = 1 (R59, R150, R170). -/
structure Cmp where
  com : Common
  d : Nat
  srcs : List Src
  f : List Nat → Bool × Flags

def Ctx.cmp (x : Ctx) (s : State) (a : Cmp) : State :=
  if a.com.u then
    if !x.gwOn a.com then s.advance x
    else
      let l := lowestLane x.sp.mask
      let (b, fl) := a.f (a.srcs.map (x.g.readSrc 0))
      match fpTrap x.g [(l, 0, fl)] with
      | some t => s.takeTrap x t
      | none => s.doneWith x (fun g => (g.setCond a.d b).orFlags l fl)
  else
    let rs := (lanesOf (x.active a.com)).map (fun l => (l, a.f (a.srcs.map (x.g.readSrc l))))
    match fpTrap x.g (rs.map (fun r => (r.1, 0, r.2.2))) with
    | some t => s.takeTrap x t
    | none => s.doneWith x (fun g =>
        rs.foldl (fun g r => g.orFlags r.1 r.2.2)
          (g.setPred a.d (x.active a.com) (maskOf ((rs.filter (fun r => r.2.1)).map Prod.fst))))

def runCmp (i : Instr) (a : Cmp) (s : State) : Host.Outcome State Fault Refusal :=
  issueWith i a.com (a.srcs.map (fun q => (q.opnd, if q.wide then 2 else 1))) [] s (fun x t => x.cmp t a)

end Sys2Proof.Machine
end

