-- ==== Sys2Proof/Machine/Tags.lean ====
section
/-! DEFINITION. View descriptors, the view blocks of a range, tag entries and freshness (R274 to R280, R288), and what a
release of an edge view's owner waits for (R299). -/
namespace Sys2Proof.Machine

/-! ### Descriptors (R275, R276) -/

def View.mfmt (v : View) : Nat := bitsOf v.ctl 0 4
def View.vfmt (v : View) : Nat := bitsOf v.ctl 4 4
def View.layout (v : View) : Nat := bitsOf v.ctl 8 2
def View.policy (v : View) : Nat := bitsOf v.ctl 10 2
def View.scope (v : View) : Nat := bitsOf v.ctl 12 3
def View.ftz (v : View) : Bool := bitOf v.ctl 16
def View.sat (v : View) : Bool := bitOf v.ctl 17
def View.edge (v : View) : Bool := bitOf v.ctl 18

/-- Bytes of a master element. -/
def View.es (v : View) : Nat := match v.mfmt with | 7 => 4 | 8 => 8 | _ => 2

/-- The descriptor at ptr in an address space. -/
def View.ofBytes (id ptr space ten : Nat) (b : List Byte) : View :=
  { id := id, ptr := ptr, space := space, ten := ten, mbase := fieldAt b 0 8, mstride := fieldAt b 8 8, rows := fieldAt b 0x10 4, cols := fieldAt b 0x14 4, row0 := fieldAt b 0x18 4, vrows := fieldAt b 0x1C 4, col0 := fieldAt b 0x20 4, vcols := fieldAt b 0x24 4, vbase := fieldAt b 0x28 8, vstride := fieldAt b 0x30 8, sbase := fieldAt b 0x38 8, tags := fieldAt b 0x40 8, stats := fieldAt b 0x48 8, ctl := fieldAt b 0x50 4, mdev := fieldAt b 0x54 2, vidx := fieldAt b 0x56 1, pasid := fieldAt b 0x58 4, owner := fieldAt b 0x5C 4 }

/-! ### View blocks (R280) -/

/-- The address of master element (r, c). -/
def View.elemAddr (v : View) (r c : Nat) : Nat := v.mbase + r * v.mstride + c * v.es
def View.block0 (v : View) : Nat := v.elemAddr v.row0 0 / 4096
def View.count (v : View) : Nat := v.elemAddr (v.row0 + v.vrows - 1) (v.cols - 1) / 4096 - v.block0 + 1
/-- The columns that belong to the view. -/
def View.colLo (v : View) : Nat := if v.edge then v.col0 else 0
def View.colHi (v : View) : Nat := if v.edge then v.col0 + v.vcols else v.cols

/-- Some element of rows row to row + n - 1 lies in the master block b: the last row that starts before its end ends
after its start. -/
def View.holds (v : View) (row n b : Nat) : Bool :=
  let lo := v.mbase + v.colLo * v.es
  let hi := v.mbase + v.colHi * v.es
  let last := Nat.min (row + n - 1) ((4096 * b + 4095 - lo) / Nat.max v.mstride 1)
  n != 0 && lo ≤ 4096 * b + 4095 && row ≤ last && 4096 * b < hi + last * v.mstride

/-- R294: the view blocks that hold an element of a range of rows, in ascending order. -/
def View.blocks (v : View) (row n : Nat) : List Nat := (List.range v.count).filter (fun m => v.holds row n (v.block0 + m))

/-- The rows lie in the view (R293 code 0x2). -/
def View.rowsOk (v : View) (row n : Nat) : Bool := n != 0 && v.row0 ≤ row && row + n ≤ v.row0 + v.vrows

/-! ### Freshness (R288) -/

/-- The engine that serves the block reads the entry, and its own writes there count for it at once (R288). -/
def State.tagEntry (s : State) (v : View) (m : Nat) : Nat :=
  match s.vreadLatest v.pasid ((v.tags + 8 * m) % 2 ^ 56) 8 with | some b => leNat b | none => 0
/-- The master-table entry of a view block. -/
def State.masterOf (s : State) (v : View) (m : Nat) : Option Master := s.masters.find? (fun k => k.deps.contains (v.id, m))
def State.viewFaulted (s : State) (v : View) (m : Nat) : Bool := bitOf (s.tagEntry v m) 62
def State.viewFresh (s : State) (v : View) (m : Nat) : Bool :=
  let e := s.tagEntry v m
  bitOf e 63 && !bitOf e 62 && (match s.masterOf v m with | some k => k.wt ≤ e % 2 ^ 48 | none => false)

/-! ### What the device alone writes (R5, R280, R285) -/

/-- A registered view whose tag table or statistics record lies at an address. -/
def State.viewHolds (s : State) (pa : Nat) : Bool :=
  s.views.any (fun v =>
    let at_ := fun (va n : Nat) => match s.xlat v.pasid (va % 2 ^ 56) .any with
      | .ok p _ _ => p / 4096 == pa / 4096 && va % 4096 ≤ pa % 4096 && pa % 4096 < va % 4096 + n
      | _ => false
    at_ v.stats 16 || (List.range v.count).any (fun m => at_ (v.tags + 8 * m) 8))
/-- What a program's write of bytes leaves: those of a view's tag table or statistics keep what they hold. -/
def State.programBytes (s : State) (pa : Nat) (old bs : List Byte) : List Byte :=
  if s.views = [] then bs else bs.zipIdx.map (fun e => if s.viewHolds (pa + e.2) then old.getD e.2 0 else e.1)

/-! ### Edge views and releases (R299) -/

/-- The edge views of a workgroup's context that depend on a master block, with the view block. -/
def State.edgeDeps (s : State) (ctx blk : Nat) : List (View × Nat) :=
  match s.masters.find? (fun m => m.pa / 4096 == blk) with
  | none => []
  | some k => k.deps.filterMap (fun d => match s.views.find? (fun v => v.id == d.1) with
    | some v => if v.edge && v.owner == ctx then some (v, d.2) else none
    | none => none)

/-- Every edge view of the workgroup has the written blocks fresh or faulted. -/
def State.haloDone (s : State) (ctx : Nat) (blks : List Nat) : Bool :=
  blks.all (fun b => (s.edgeDeps ctx b).all (fun e => s.viewFresh e.1 e.2 || s.viewFaulted e.1 e.2))

/-! ### Deregistration (R297) -/

/-- A view is deregistered: its refreshes end, master blocks without a view are tracked no longer, and splits parked on it look
again. -/
def State.dropView (s : State) (v : View) : State :=
  let now := fun (r : Refresh) => (r.left.head?.map Prod.fst) == some v.id
  let cut := (s.refreshes.filter now).map (fun r => some r.id)
  let ms := (s.masters.map (fun k => { k with deps := k.deps.filter (fun d => d.1 != v.id) })).filter (fun k => k.deps != [])
  let s1 : State := { s with views := s.views.filter (fun k => k.id != v.id), masters := ms, prismQ := (s.prismQ.map (fun e => (e.1, e.2.filter (fun p => ms.any (fun k => k.pa == p))))).filter (fun e => e.2 != []), refreshes := s.refreshes.map (fun r => if now r then { r with left := r.left.filter (fun d => d.1 != v.id), run := 0, vis := [] } else { r with left := r.left.filter (fun d => d.1 != v.id) }), fabric := s.fabric.filter (fun f => f.copy.isNone || !cut.contains f.copy) }
  s1.wakeBlk (.view v.id)

/-- R298: the edge views of a cluster that has retired. -/
def State.dropEdges (s : State) (p : Nat × Nat → Bool) : State :=
  (s.views.filter (fun v => match v.home with | some h => p h | none => false)).foldl State.dropView s

end Sys2Proof.Machine
end

