-- ==== Sys2Proof/Machine/Loads.lean ====
section
/-! DEFINITION. Class 3 and the atomics of class 4: loads, stores, cache and code maintenance, fences, atomics and
sequenced reductions (R183 to R202). -/
namespace Sys2Proof.Machine

/-! ### Releases and acquires of a split -/

/-- R314: every visibility time and acknowledgement of the split's record has come. -/
def Ctx.released (x : Ctx) (s : State) : Bool := x.sp.pend.isEmpty && s.passed x.die x.sp.vis

/-- R314, R195: a release waits with WHY 0x9; at .cl or a wider scope also for the edge views of R299. Then the rest is
done. -/
def Ctx.withRelease (x : Ctx) (s : State) (rel : Bool) (scope : Nat) (k : State → State) : State :=
  if rel && !x.released s then s.blockSplit x .waiting .release .none
  else if rel && 2 ≤ scope && !s.haloDone x.wg.ctx x.sp.halo then s.blockSplit x .waiting .release .halo
  else k s

/-- R314: an acquire takes effect for the split's later loads. -/
def State.acquire (s : State) (x : Ctx) (acq : Bool) : State :=
  if acq then
    let (t, s1) := s.stamp
    s1.modSplit x.foc (fun sp => { sp with acqAt := t })
  else s

/-! ### Form M -/

def isAcq (w : FormM) : Bool := w.ord.getLsbD 0
def isRel (w : FormM) : Bool := w.ord.getLsbD 1

/-- The lanes that make an access (R32, R190) with their addresses (R121). A group-wide ld or st is made in a split of helper
lanes alone too: R198 says otherwise of atom and red only (DESIGN CHOICE, log entry 71). -/
def Ctx.memPtrs (x : Ctx) (w : FormM) (noIdx : Bool) : List (Nat × Nat) :=
  let ls := if w.com.u then (if x.gwOn w.com then [lowestLane x.sp.mask] else []) else lanesOf (x.real w.com)
  ls.map (fun l => (l, memAddr w (BitVec.ofNat 64 (x.g.readSrc l (src64Of w.a))) (if noIdx then 0 else BitVec.ofNat 32 (x.g.readSrc l (src32Of w.b)))))

/-- All spaces that classes 3 and 4 take. -/
def allSpaces : List Nat := [0, 1, 2, 3, 6]
def formPtrUse (w : FormM) (spaces : List Nat) (width : Nat) (wr : Bool) : PtrUse :=
  { spaces := spaces, hint := w.sph.toNat, width := width, align := width, wr := wr, gw := w.com.u }

/-- A run of registers as a number, low word first. -/
def Group.readRun (g : Group) (lane : Nat) (o : Opnd) (first n : Nat) : Nat :=
  match o with
  | .chan _ _ => 0
  | .reg t _ i => (List.range n).foldr (fun k v => v * 2 ^ 32 + (g.reg lane t (i.toNat + first + k)).toNat) 0

/-- R188: writing 1 to 16 bytes to D; 16 bytes move the hold file as two pairs in order. -/
def Group.writeRun (g : Group) (lane : Nat) (t : Tier) (i : Nat) (sz : BitVec 3) (v : Nat) : Group :=
  let lo : W64 := BitVec.ofNat 64 v
  let hi : W64 := BitVec.ofNat 64 (v / 2 ^ 64)
  match t with
  | .s => if sz = 4 then (g.writeS i true lo).writeS (i + 2) true hi else g.writeS i (sz = 3) lo
  | _ => if sz = 4 then (g.writeLane lane t i true lo).writeLane lane t (i + 2) true hi else g.writeLane lane t i (sz = 3) lo

/-- Results of a memory instruction written to D, with flags (R188, R198). -/
def Ctx.commitRun (x : Ctx) (s : State) (d : Opnd) (sz : BitVec 3) (rs : List (Nat × Nat × Flags)) : State :=
  match d with
  | .reg .s _ i =>
    let (l, s1) := freeLaneOf s (rs.map Prod.fst)
    s1.doneWith x (fun g =>
      let g1 := rs.foldl (fun g r => g.orFlags r.1 r.2.2) g
      match rs.find? (fun r => r.1 == l) with
      | some r => g1.writeRun 0 .s i.toNat sz r.2.1
      | none => g1)
  | .reg t _ i => s.doneWith x (fun g => rs.foldl (fun g r => (g.writeRun r.1 t i.toNat sz r.2.1).orFlags r.1 r.2.2) g)
  | .chan _ _ => s.advance x

/-! ### Answers from other devices -/

/-- What one lane's request has met. -/
inductive Got where
  | wait
  | bytes (b : List Byte) (fl : Flags)
  | trap (t : Trap)

/-- The bytes of a peer's memory that an operation touches. -/
def peerBytes (op : PeerOp) : Nat :=
  match op with
  | .load n => n | .store bs => bs.length | .atom _ _ _ sz _ _ => szBytes sz | .reds _ _ _ _ _ => 16 | _ => 8
/-- R305: a write or atomic of the lane to a common byte at a peer is not acknowledged yet. -/
def Ctx.ownPeer (x : Ctx) (s : State) (lane ptr : Nat) (op : PeerOp) : Bool :=
  s.fabric.any (fun f => f.posted && f.wg == x.wg.key && f.grp == x.foc.grp && f.lane == lane && f.ptr < ptr + peerBytes op && ptr < f.ptr + peerBytes f.op)

/-- A lane's space-6 access: its flit and its answer (R446), after its own earlier writes of those bytes (R305); an
unreachable device returns poison (R480). -/
def Ctx.ask (x : Ctx) (s : State) (lane ptr dev : Nat) (op : PeerOp) : State × Got :=
  if s.unreachable dev then (s, .trap { cause := 0x0F, sub := 1, lane := lane, val := BitVec.ofNat 64 ptr })
  else if x.ownPeer s lane ptr op then (s, .wait)
  else
    let (s1, a) := x.flit s lane ptr op
    match a with
    | none => (s1, .wait)
    | some a => match peerTrap a lane ptr with
      | some t => (s1, .trap t)
      | none => match a with
        | .ok b fl => (s1, .bytes b fl)
        | _ => (s1, .wait)

/-- The results of lanes in order: the state with every request made, whether some wait, and what each got. -/
def gather (f : State → LanePlan → State × Got) (s : State) : List LanePlan → State × List (LanePlan × Got)
  | [] => (s, [])
  | p :: ps =>
    let (s1, g) := f s p
    let (s2, gs) := gather f s1 ps
    (s2, (p, g) :: gs)

def waits (gs : List (LanePlan × Got)) : Bool := gs.any (fun e => match e.2 with | .wait => true | _ => false)
/-- The trap of the first failing lane: a refusal before poison (R422 steps 4 and 5). -/
def gotTrap (gs : List (LanePlan × Got)) : Option Trap :=
  let ts := gs.filterMap (fun e => match e.2 with | .trap t => some t | _ => none)
  match ts.find? (fun t => t.cause != 0x0F) with
  | some t => some t
  | none => ts.head?

/-! ### Poison (R422 step 5, R462) -/

def Res.pa (r : Res) : Nat :=
  match r with | .line pa _ => pa | .direct pa _ _ => pa | .device _ pa _ => pa | .hole pa => pa | _ => 0

/-- A log record that an access of a lane makes (R443). -/
def Ctx.laneLog (x : Ctx) (code va pa aux : Nat) : LogRec :=
  { unit := x.die, code := code, ten := x.wg.ten, src := 1, uno := x.g.core, ctx := x.wg.ctx, pasid := x.gr.pasid, va := va, pa := pa, aux := aux }

/-- The trap of the first lane that would return poison to a register (codes 0x05 and 0x40). -/
def Ctx.poisonTrap (x : Ctx) (s : State) (n : Nat) (l : List LanePlan) : Option State :=
  match l.find? (fun p => s.resPoisoned p.res n) with
  | none => none
  | some p =>
    let t : Trap := { cause := 0x0F, sub := 1, lane := p.lane, val := BitVec.ofNat 64 p.ptr }
    let s1 := match p.res with | .hole pa => s.logRec (x.laneLog 0x40 0 pa 0) | _ => s
    some ((s1.logRec (x.laneLog 0x05 p.ptr p.res.pa t.word.toNat)).takeTrap x t)

/-! ### ld -/

/-- One lane's load (R188, R313, R327, R332). -/
def Ctx.loadLane (x : Ctx) (n : Nat) (s : State) (p : LanePlan) : State × Got :=
  match p.res with
  | .line pa _ => match x.loadLine s p.lane pa n with | (s1, some b) => (s1, .bytes b 0) | (s1, none) => (s1, .wait)
  | .direct pa _ _ => match x.loadHome s p.lane pa n with | (s1, some b) => (s1, .bytes b 0) | (s1, none) => (s1, .wait)
  | .device port pa _ => match x.loadDevice s p.lane port pa n with
    | (s1, some (some b)) => (s1, .bytes b 0)
    | (s1, some none) => (s1, .trap { cause := 0x0F, sub := 1, lane := p.lane, val := BitVec.ofNat 64 p.ptr })
    | (s1, none) => (s1, .wait)
  | .scr key win off => (s, .bytes (match s.wg? key with | some w => s.scrRead w win off n | none => []) 0)
  | .peer dev _ => x.ask s p.lane p.ptr dev (.load n)
  | _ =>
    let (v, s1) := s.freeVal
    let (u, s2) := s1.freeVal
    (s2, .bytes ((leBytes 8 v.toNat ++ leBytes 8 u.toNat).take n) 0)

/-- R188: the register image of the bytes read. -/
def loaded (w : FormM) (b : List Byte) : Nat :=
  if w.sgn then wrapNat 32 (sextInt (8 * szBytes w.sz) (leNat b)) else leNat b

/-- The end of an access whose lanes wait for answers: it is held, its instruction having issued (R137), or it traps, or it goes
on. -/
def Ctx.answered (x : Ctx) (s : State) (gs : List (LanePlan × Got)) (k : State → State) : State :=
  if waits gs then (s.modSplit x.foc (fun sp => { sp with inFlight := true })).holdSplit x
  else match gotTrap gs with
    | some t =>
      let s1 := x.devLoadsDone (x.flitsDone s false)
      (if t.cause = 0x0F then s1.logRec (x.laneLog 0x05 t.val.toNat 0 t.word.toNat) else s1).takeTrap x t
    | none => k s

def gotBytes (g : Got) : List Byte := match g with | .bytes b _ => b | _ => []
def gotFlags (g : Got) : Flags := match g with | .bytes _ f => f | _ => 0

def Ctx.load (x : Ctx) (s : State) (w : FormM) : State :=
  let n := szBytes w.sz
  if (if w.com.u then !x.gwOn w.com else x.active w.com == 0) then s.advance x
  else x.settlePlan s (x.planLanes (formPtrUse w allSpaces n false) .rd false none [] s (x.memPtrs w (w.com.mod.toNat ≥ 8))) (fun l =>
    match x.poisonTrap s n l with
    | some t => t
    | none =>
      let (s1, gs) := gather (x.loadLane n) (s.markLeaves l false) l
      x.answered s1 gs (fun s2 =>
        let s3 := x.homeUsed (x.devLoadsDone (x.flitsDone s2 false))
        let got := gs.map (fun e => (e.1.lane, loaded w (gotBytes e.2), (0 : Flags)))
        let rs := if w.com.u then got else (lanesOf (x.active w.com)).map (fun lane => (got.find? (fun e => e.1 == lane)).getD (lane, 0, 0))
        (x.commitRun s3 w.d w.sz rs).acquire x (isAcq w)))

/-- R188. -/
def execLd (w : FormM) (s : State) : Host.Outcome State Fault Refusal :=
  issueWith (.ld w) w.com (memReads w) [] s (fun x t => x.load t w)

/-! ### st -/

/-- R189: of the lanes that write the same bytes the highest decides; each remaining lane with the lower lanes. -/
def winners : List LanePlan → List LanePlan → List (LanePlan × List LanePlan)
  | _, [] => []
  | lower, p :: ps =>
    if ps.any (fun q => q.res == p.res) then winners (p :: lower) ps
    else (p, (lower.filter (fun q => q.res == p.res)).reverse) :: winners lower ps

/-- Space-6 writes are checked at their targets first (R446): each lane's flit with its bytes. -/
def Ctx.askStore (x : Ctx) (bytes : Nat → List Byte) (s : State) (p : LanePlan) : State × Got :=
  match p.res with
  | .peer dev _ => x.ask s p.lane p.ptr dev (.store (bytes p.lane))
  | _ => (s, .bytes [] 0)

def Ctx.store (x : Ctx) (s : State) (w : FormM) : State :=
  let n := szBytes w.sz
  if x.memPtrs w (w.com.mod.toNat ≥ 8) = [] then s.advance x
  else x.settlePlan s (x.planLanes (formPtrUse w allSpaces n true) .wr false none [] s (x.memPtrs w (w.com.mod.toNat ≥ 8))) (fun l =>
    x.withRelease s (isRel w) w.scope.toNat (fun s =>
      let bytes := fun (lane : Nat) => leBytes n (x.g.readRun lane w.d 0 (runLength w.sz))
      let ws := winners [] l
      let (s1, gs) := gather (x.askStore bytes) s (ws.map Prod.fst)
      x.answered s1 gs (fun s2 =>
        let s3 := (x.flitsDone s2 true w.io).markLeaves l true
        (ws.foldl (fun s e => x.putStore s e.1.lane e.1.res (bytes e.1.lane) .write w.io (e.2.map (fun q => (q.lane, bytes q.lane)))) s3).advance x)))

/-- R189. -/
def execSt (w : FormM) (s : State) : Host.Outcome State Fault Refusal :=
  issueWith (.st w) w.com (memReads w ++ [(w.d, runLength w.sz)]) [] s (fun x t => x.store t w)

/-! ### Cache and code maintenance -/

/-- R191: no effect beyond the checks of the space. -/
def Ctx.prefetch (x : Ctx) (s : State) (w : FormM) : State :=
  let u : PtrUse := { spaces := allSpaces, hint := w.sph.toNat, width := 0, align := 1, gw := w.com.u, cache := true }
  let bad := (x.memPtrs w (w.com.mod.toNat ≥ 8)).findSome? (fun e => match x.checkPtr u e.2 with
    | .error (6, b) => some ({ cause := 0x06, sub := b, lane := e.1, val := BitVec.ofNat 64 e.2 } : Trap)
    | _ => none)
  match bad with
  | some t => s.takeTrap x t
  | none => s.advance x

def execPfch (w : FormM) (s : State) : Host.Outcome State Fault Refusal :=
  issueWith (.pfch w) w.com (memReads w) [] s (fun x t => x.prefetch t w)

/-- The checks of cfls, cinv and icinv, and what each lane's line undergoes. -/
def Ctx.maintain (x : Ctx) (s : State) (w : FormM) (k : Need) (spaces : List Nat) (f : State → LanePlan → State) : State :=
  let u : PtrUse := { spaces := spaces, hint := w.sph.toNat, width := 1, align := 1, cache := true }
  let ptrs := x.memPtrs w (w.com.mod.toNat ≥ 8)
  if ptrs = [] then s.advance x
  else x.settlePlan s (x.planLanes u k false none [] s ptrs) (fun l => (l.foldl f (s.markLeaves l false)).advance x)

/-- R192: the line's write-back is an access of the die, with a visibility time. -/
def execCfls (w : FormM) (s : State) : Host.Outcome State Fault Refusal :=
  issueWith (.cfls w) w.com (memReads w) [] s (fun x t => x.maintain t w .any allSpaces (fun s p =>
    match p.res with
    | .line _ _ => x.putStore s p.lane p.res [] .flush false []
    | .direct _ _ _ => x.putStore s p.lane p.res [] .flush false []
    | _ => s))

/-- R192: the core's L1 copy and its lease are discarded. -/
def execCinv (w : FormM) (s : State) : Host.Outcome State Fault Refusal :=
  issueWith (.cinv w) w.com (memReads w) [] s (fun x t => x.maintain t w .any allSpaces (fun s p =>
    match p.res with
    | .line pa _ => { s with l1 := s.l1.filter (fun c => !(c.core == x.g.core && c.addr == pa / 128)) }
    | _ => s))

/-- R193: a request to every instruction cache of the package; its visibility time comes with the last answer. -/
def execIcinv (w : FormM) (s : State) : Host.Outcome State Fault Refusal :=
  issueWith (.icinv w) w.com (memReads w) [] s (fun x t => x.maintain t w .xw [0] (fun s p =>
    let (id, s1) := s.fresh
    ({ s1 with icreqs := s1.icreqs ++ [{ id := id, die := x.die, addr := p.res.pa / 128, left := List.range 192 }] } : State).recordIc x.foc id))

/-- R194. -/
def execCsync (w : FormL) (s : State) : Host.Outcome State Fault Refusal :=
  issueWith (.csync w) w.com [] [] s (fun x t =>
    if x.active w.com ≠ 0 ∧ ¬ (x.sp.icPend.isEmpty ∧ t.passed x.die x.sp.icVis) then t.blockSplit x .waiting .release .none
    else (t.modSplit x.foc (fun sp => if x.active w.com = 0 then sp else { sp with syncAt := t.cycle })).advance x)

/-- R195. -/
def execFence (w : FormL) (s : State) : Host.Outcome State Fault Refusal :=
  issueWith (.fence w) w.com [] [] s (fun x t =>
    if x.active w.com = 0 then t.advance x
    else x.withRelease t (w.fn.getLsbD 4) (w.fn.toNat % 8) (fun s => (s.advance x).acquire x (w.fn.getLsbD 3)))

/-! ### Atomics (R196 to R199) -/

/-- The operands of one lane: b, and cmp for `.cas`. -/
def Ctx.atomArgs (x : Ctx) (w : FormM) (lane : Nat) : Nat × Nat :=
  let n := runLength w.sz
  (x.g.readRun lane w.b 0 n, if w.com.mod.toNat % 8 = 3 ∧ w.sgn then x.g.readRun lane w.b n n else 0)

/-- The operation of the word on w bits (R197). -/
def formOp (w : FormM) (old b cmp : Nat) : Nat × Flags := atomicOp (w.com.mod.extractLsb' 0 3) w.sgn w.sz old b cmp

/-- R102, R457: flags of the forms that return nothing. -/
def State.orRemote (s : State) (key : Nat) (fl : Flags) : State :=
  s.modWg key (fun w => { w with rflags := w.rflags ||| fl })

/-- R198: the line is held for writing by the die, and no earlier write of the lane waits. -/
def Ctx.lineReady (x : Ctx) (s : State) (die lane pa n : Nat) : Bool :=
  (match s.line? die (pa / 128) with
    | some l => (l.st == .m || l.st == .e) && l.usable && (die != x.die || l.hits x.wg.ten)
    | none => false) &&
  !s.refreshing pa &&
  !s.storeQ.any (fun q => q.vis.isNone && q.pa < pa + n && pa < q.pa + q.bytes.length && (q.mine x.wg.key x.foc.grp lane).isSome)

/-- The die whose L2 performs an operation on a line (R198): the issuer's, or the home (R56, R76). -/
def Ctx.dieFor (x : Ctx) (r : Res) : Nat := match r with | .direct pa _ _ => homeDie pa | _ => x.die

/-- The visibility times of writes made away from the die's own lines enter the record (R311, R332). -/
def Ctx.recordMap (x : Ctx) (s : State) (lane pa : Nat) (v : Map Nat) : State :=
  if v = [] then s
  else
    let (id, s1) := s.fresh
    ({ s1 with fabric := s1.fabric ++ [{ id := id, wg := x.wg.key, grp := x.foc.grp, lane := lane, wi := x.sp.wi, ptr := pa, op := .store [], since := s1.cycle, posted := true, vis := some v }] } : State).recordPend x.foc id false

/-- Performing one lane's operation at its place: the state, the old value and the flags (R198). -/
def Ctx.perform (x : Ctx) (s : State) (w : FormM) (p : LanePlan) (got : List Byte) : State × Nat × Flags :=
  let n := szBytes w.sz
  let (b, cmp) := x.atomArgs w p.lane
  let atLine := fun (die pa : Nat) => match s.line? die (pa / 128) with
    | none => (s, 0, 0)
    | some l =>
      let old := leNat ((l.latest.drop (pa % 128)).take n)
      let (new, fl) := formOp w old b cmp
      let (l1, vis) := l.write (s.clock die) (pa % 128) (s.programBytes pa ((l.latest.drop (pa % 128)).take n) (leBytes n new)) (some (laneKey x.wg.key x.foc.grp p.lane))
      let s1 := ((s.unpoison pa n).setLine { l1 with st := .m }).noteWrite pa n (some vis)
      let s2 := if die = x.die then s1.recordVis x.foc vis false else x.recordMap s1 p.lane pa [(die, vis)]
      (s2.modSplit x.foc (fun sp => { sp with halo := insertNat (pa / 4096) sp.halo }), old, fl)
  match p.res with
  | .line pa _ => atLine x.die pa
  | .direct pa _ _ => atLine (homeDie pa) pa
  | .device port pa _ =>
    let old := leNat got
    let (new, fl) := formOp w old b cmp
    (s.toDevice port pa (leBytes n new), old, fl)
  | .scr key win off =>
    match s.wg? key with
    | none => (s, 0, 0)
    | some g =>
      let old := leNat (s.scrRead g win off n)
      let (new, fl) := formOp w old b cmp
      (s.scrWrite g win off (leBytes n new), old, fl)
  | .peer _ _ => (s, leNat got, 0)
  | _ => (s, leNat got, 0)

/-- What a lane needs before its operation: the line, a device's bytes, a peer's answer. -/
def Ctx.askAtom (x : Ctx) (w : FormM) (ret : Bool) (peer : Nat → PeerOp) (s : State) (p : LanePlan) : State × Got :=
  let n := szBytes w.sz
  let atLine := fun (pa : Nat) =>
    if !ret then (s, Got.bytes [] 0)
    else if x.lineReady s (x.dieFor p.res) p.lane pa n then (s, .bytes [] 0)
    else (match s.line? (x.dieFor p.res) (pa / 128) with
      | some l => if (l.st == .m || l.st == .e) && l.hits x.wg.ten then s else s.askOwn (x.dieFor p.res) (pa / 128) (if x.dieFor p.res = x.die then x.wg.ten else l.ten)
      | none => s.askOwn (x.dieFor p.res) (pa / 128) x.wg.ten, .wait)
  match p.res with
  | .line pa _ => atLine pa
  | .direct pa _ _ => atLine pa
  | .device port _ _ => if s.posted.any (fun q => q.port == port && q.wg == x.wg.key && q.grp == x.foc.grp && q.lane == p.lane) then (s, .wait) else x.loadLane n s p
  | .peer dev _ => x.ask s p.lane p.ptr dev (peer p.lane)
  | .gone => x.loadLane n s p
  | _ => (s, .bytes [] 0)

/-- The operation as a peer device takes it. -/
def Ctx.peerAtom (x : Ctx) (w : FormM) (ret : Bool) (lane : Nat) : PeerOp :=
  let (b, cmp) := x.atomArgs w lane
  .atom ret (w.com.mod.extractLsb' 0 3) w.sgn w.sz (BitVec.ofNat 64 b) (BitVec.ofNat 64 cmp)

/-- The lanes' operations in ascending order, with the old values. -/
def Ctx.performAll (x : Ctx) (w : FormM) : State → List (LanePlan × Got) → State × List (Nat × Nat × Flags)
  | s, [] => (s, [])
  | s, (p, g) :: rest =>
    let (s1, old, fl) := x.perform s w p (gotBytes g)
    let (s2, rs) := x.performAll w s1 rest
    (s2, (p.lane, old, fl ||| gotFlags g) :: rs)

/-- R198: under U = 1 the operation is made when the split has a lane that is no helper. -/
def Ctx.atomPtrs (x : Ctx) (w : FormM) : List (Nat × Nat) :=
  if w.com.u && (x.sp.mask &&& ~~~x.g.helper) == 0 then [] else x.memPtrs w true

def Ctx.atomic (x : Ctx) (s : State) (w : FormM) : State :=
  let n := szBytes w.sz
  if (if w.com.u then x.atomPtrs w == [] else x.active w.com == 0) then s.advance x
  else x.settlePlan s (x.planLanes (formPtrUse w allSpaces n true) .rdwr false none [] s (x.atomPtrs w)) (fun l =>
    match x.poisonTrap s n l with
    | some t => t
    | none => x.withRelease s (isRel w) w.scope.toNat (fun s =>
      let (s1, gs) := gather (x.askAtom w true (x.peerAtom w true)) s l
      x.answered s1 gs (fun s2 =>
        let s3 := (x.devLoadsDone (x.flitsDone s2 false)).markLeaves l true
        let (s4, got) := x.performAll w s3 gs
        let fix := fun (r : Nat × Nat × Flags) => if w.com.u then (x.fetchLane, r.2) else r
        let rs := if w.com.u then got.map fix else (lanesOf (x.active w.com)).map (fun lane => (got.find? (fun e => e.1 == lane)).getD (lane, 0, 0))
        (x.commitRun s4 w.d w.sz rs).acquire x (isAcq w))))

/-- R198. -/
def execAtom (w : FormM) (s : State) : Host.Outcome State Fault Refusal :=
  let n := runLength w.sz
  issueWith (.atom w) w.com [(w.a, 2), (w.b, if w.com.mod.toNat % 8 = 3 ∧ w.sgn then 2 * n else n)] [] s (fun x t => x.atomic t w)

/-- One lane's red: queued for the die of a line, else performed (R199); a poisoned location drops it (R462). -/
def Ctx.reduce (x : Ctx) (w : FormM) (code : Nat) (s : State) (e : LanePlan × Got) : State :=
  let n := szBytes w.sz
  let p := e.1
  let (b, cmp) := x.atomArgs w p.lane
  if s.resPoisoned p.res n then
    let s1 := match p.res with | .hole pa => s.logRec (x.laneLog 0x40 0 pa 1) | _ => s
    s1.logRec (x.laneLog 0x45 p.ptr p.res.pa code)
  else match p.res with
  | .line _ _ => x.putStore s p.lane p.res (List.replicate n 0) (.atomic (w.com.mod.extractLsb' 0 3) w.sgn w.sz (BitVec.ofNat 64 b) (BitVec.ofNat 64 cmp)) false []
  | .direct _ _ _ => x.putStore s p.lane p.res (List.replicate n 0) (.atomic (w.com.mod.extractLsb' 0 3) w.sgn w.sz (BitVec.ofNat 64 b) (BitVec.ofNat 64 cmp)) false []
  | .gone => s
  | _ =>
    let (s1, _, fl) := x.perform s w p (gotBytes e.2)
    s1.orRemote x.wg.key fl

/-- The operations of red, and the one of cntadd, at the pointers of a list of lanes. -/
def Ctx.redList (x : Ctx) (s : State) (w : FormM) (spaces : List Nat) (code : Nat) (ptrs : List (Nat × Nat)) (peer : Nat → PeerOp) : State :=
  let n := szBytes w.sz
  if ptrs = [] then s.advance x
  else x.settlePlan s (x.planLanes (formPtrUse w spaces n true) .wr false none [] s ptrs) (fun l =>
    x.withRelease s (isRel w) w.scope.toNat (fun s =>
      let (s1, gs) := gather (x.askAtom w false peer) s l
      x.answered s1 gs (fun s2 =>
        let s3 := (x.devLoadsDone (x.flitsDone s2 true)).markLeaves l true
        (gs.foldl (x.reduce w code) s3).advance x)))

/-- R199. -/
def execRed (w : FormM) (s : State) : Host.Outcome State Fault Refusal :=
  issueWith (.red w) w.com [(w.a, 2), (w.b, runLength w.sz)] [] s (fun x t =>
    x.redList t w allSpaces 1 (x.atomPtrs w) (x.peerAtom w false))

/-! ### Sequenced reductions (R200 to R202) -/

/-- A lane's contribution: kept until its cell's home has applied or dropped it. -/
def Ctx.contribute (x : Ctx) (w : FormM) (s : State) (p : LanePlan) : State :=
  match p.res with
  | .peer _ _ => s
  | _ =>
    let (id, s1) := s.fresh
    ({ s1 with contribs := s1.contribs ++ [{ id := id, wg := x.wg.key, grp := x.foc.grp, lane := p.lane, cell := p.ptr, pa := p.res.pa, idx := BitVec.ofNat 32 (x.g.readRun p.lane w.d 0 1), val := BitVec.ofNat 64 (x.g.readRun p.lane w.b 0 (runLength w.sz)), mod := w.com.mod.extractLsb' 0 3, sgn := w.sgn, sz := w.sz }] } : State).recordPend x.foc id false

/-- The contributions that a core holds for a workgroup. -/
def State.heldFor (s : State) (key : Nat) : Nat := (s.contribs.filter (fun c => c.wg == key && !c.atHome)).length

def Ctx.sequenced (x : Ctx) (s : State) (w : FormM) : State :=
  let ptrs := x.memPtrs w true
  if ptrs = [] then s.advance x
  else x.settlePlan s (x.planLanes (formPtrUse w [0, 6] 16 true) .wr false none [] s ptrs) (fun l =>
    if s.heldFor x.wg.key + l.length > 256 then s.holdSplit x
    else x.withRelease s (isRel w) w.scope.toNat (fun s =>
      let (s1, gs) := gather (fun s p => match p.res with
        | .peer dev _ => x.ask s p.lane p.ptr dev (.reds (w.com.mod.extractLsb' 0 3) w.sgn w.sz (BitVec.ofNat 32 (x.g.readRun p.lane w.d 0 1)) (BitVec.ofNat 64 (x.g.readRun p.lane w.b 0 (runLength w.sz))))
        | _ => (s, .bytes [] 0)) s l
      x.answered s1 gs (fun s2 =>
        let s3 := (x.flitsDone s2 true).markLeaves l true
        let s4 := (s3.fabric.filter (fun f => f.rejected && f.wg == x.wg.key && f.grp == x.foc.grp)).foldl (fun s f => s.holdContrib f) s3
        (l.foldl (x.contribute w) s4).advance x)))

/-- R201. -/
def execReds (w : FormM) (s : State) : Host.Outcome State Fault Refusal :=
  issueWith (.reds w) w.com [(w.a, 2), (w.d, 1), (w.b, runLength w.sz)] [] s (fun x t => x.sequenced t w)

end Sys2Proof.Machine
end

