-- ==== Sys2Proof/Machine/Coherence.lean ====
section
/-! DEFINITION. Lease clocks and the die L2s (R311 to R314), the messages between the package agents and the homes of lines (R316
to R323), their time limits (R458) and the ownership of HBM regions (R77, R78, R324). -/
namespace Sys2Proof.Machine

/-! ### Lease clocks (R14, R311) and what the root ports accept (R327) -/

/-- R327: the root ports accept the writes posted to them, in program order; a mailbox of R390 and the splits' records learn
of it. A contained link discards them (R470). -/
def State.acceptPosted (s : State) : State :=
  let s1 : State := { s with posted := [], devWrites := s.posted.foldl (fun l p => if s.contained p.port p.pa then l else (p.pa, p.bytes) :: l) s.devWrites }
  s.posted.foldl (fun s p =>
    let s2 := s.settle p.wg p.grp p.id 0
    { s2 with copies := s2.copies.map (fun c => { c with pend := c.pend.filter (· != p.id) }) }) s1

/-- R311, R325: the writes of engines, hub agents and lanes away from their die whose visibility times have passed on a die
leave its queue; the records of lanes learn of theirs. -/
def State.passStores (s : State) (die : Nat) : State :=
  let done := fun (q : Store) => q.die == die && (match q.vis with | some v => s.passed die v | none => false)
  (s.storeQ.filter done).foldl (fun s q => s.settle q.wg q.grp q.id 0) { s with storeQ := s.storeQ.filter (fun q => !done q) }

/-- R56, R332: writes made in this device's window, its own or a peer's, are acknowledged once their visibility times have
passed. -/
def State.ackOwn (s : State) : State :=
  let done := fun (f : Flit) => match f.vis with | some v => s.allPassed v | none => false
  let ready := fun (i : Inbound) => s.allPassed i.vis
  let s1 : State := { s with fabric := s.fabric.filter (fun f => !done f), inbound := s.inbound.filter (fun i => !ready i), peerAnswers := (s.inbound.filter ready).foldl (fun l i => (i.src, i.ans) :: l) s.peerAnswers }
  (s.fabric.filter done).foldl (fun s f => s.settle f.wg f.grp f.id 0) s1

/-- Events that wait come again, in their order. -/
def State.retryWaiting (s : State) : State := { s with agenda := s.agenda ++ s.waiting, waiting := [] }

/-- LEASE_CLOCK_TICK (R14). The hub's tick is also the moment at which root ports accept what is posted to them and waiting
events are tried again (log entry 29). -/
def execLeaseClockTick (die : Nat) (s : State) : Host.Outcome State Fault Refusal :=
  let s1 : State := { s with clocks := s.clocks.modify die (fun t => (t + 1) % 2 ^ 48) }
  .next (if die = 4 then s1.acceptPosted.retryWaiting else (s1.passStores die).ackOwn)

/-! ### Lines of a die L2 (R313) -/

/-- R299: the block that a store has written enters the records of the splits whose store it is. -/
def State.haloStore (s : State) (q : Store) (pa : Nat) : State :=
  let f := fun (sp : Split) => if sp.pend.contains q.id then { sp with halo := insertNat (pa / 4096) sp.halo } else sp
  if q.wg = noWg then s
  else s.modGrp q.wg q.grp (fun g => { g with table := g.table.map (Option.map f), spill := g.spill.map f })

/-- The die of the group that issued a store (R314). -/
def State.issuerDie (s : State) (q : Store) : Option Nat := ((s.wg? q.wg).bind (fun w => w.groups[q.grp]?)).map (fun g => dieOfCore g.core)

/-- The store has been applied. Its split's record takes the visibility time where it is a time of the issuer's die; an
engine's, a hub agent's or one made at another die waits for the time in the queue (R311, R332). -/
def State.storeDone (s : State) (q : Store) (vis : Nat) : State :=
  if vis ≠ 0 ∧ s.issuerDie q ≠ some q.die then { s with storeQ := s.storeQ.map (fun k => if k.id = q.id then { k with vis := some vis } else k) }
  else ({ s with storeQ := s.storeQ.filter (fun k => k.id != q.id) } : State).settle q.wg q.grp q.id vis

/-- R462: a read-modify-write of a poisoned location is dropped, and counts as applied; an engine's or a streamer's element leaves
no log record. -/
def State.dropStore (s : State) (q : Store) (pa : Nat) : State :=
  if q.wg = noWg ∨ q.grp ≥ 512 then s.storeDone q 0
  else
  let w := s.wg? q.wg
  let code := match q.op with | .atomic _ _ _ _ _ => 1 | _ => 0
  (s.logRec { unit := q.die, code := 0x45, ten := (w.map (·.ten)).getD 0xFF, src := 6, ctx := (w.map (·.ctx)).getD 0xFFFFFFFF, pa := pa, aux := code }).storeDone q 0

/-- R313: a store is applied to a line that its die holds in M or E. -/
def State.applyStore (s : State) (q : Store) (pa : Nat) (l : Line) : State :=
  let now := s.clock q.die
  let off := pa % 128
  let key := fun (lane : Nat) => some (laneKey q.wg q.grp lane)
  let mask := fun (bs : List Byte) => s.programBytes pa ((l.latest.drop off).take bs.length) bs
  let finish := fun (s : State) (r : Line × Nat) =>
    ((((s.unpoison pa q.bytes.length).setLine { r.1 with st := .m }).noteWrite pa q.bytes.length (some r.2)).haloStore q pa).storeDone q r.2
  match q.op with
  | .write => finish s ((q.under.foldl (fun l u => (l.write now off (mask u.2) (key u.1)).1) l).write now off (if q.wg = noWg then q.bytes else mask q.bytes) (key q.lane))
  | .atomic mod sgn sz b cmp =>
    if s.poisoned pa q.bytes.length then s.dropStore q pa
    else
      let r := atomicOp mod sgn sz (leNat ((l.latest.drop off).take q.bytes.length)) b.toNat cmp.toNat
      finish (s.orRemote q.wg r.2) (l.write now off (mask (leBytes q.bytes.length r.1)) (key q.lane))
  | .add _ | .addSat _ | .setIn _ _ =>
    if q.op.dropped s pa q.bytes.length then s.storeDone q 0
    else
      let r := s.applyAt l pa q.bytes q.op
      r.1.storeDone q r.2
  | .flush | .load _ _ | .demand => s

/-- R324: an access that waited while its region went to the system side is performed at the hub directory. A load, or an
atomic's demand, of a core there asks for the region again (R78). -/
def State.applyAway (s : State) (q : Store) (pa : Nat) : State :=
  match q.op with
  | .write => ((s.hubDo pa (if q.wg = noWg then q.bytes else s.programBytes pa (s.lineNow true pa q.bytes.length) q.bytes) .write).haloStore q pa).storeDone q 0
  | .atomic mod sgn sz b cmp =>
    if s.poisoned pa q.bytes.length then s.dropStore q pa
    else
      let old := s.lineNow true pa q.bytes.length
      let r := atomicOp mod sgn sz (leNat old) b.toNat cmp.toNat
      (((s.hubDo pa (s.programBytes pa old (leBytes q.bytes.length r.1)) .write).orRemote q.wg r.2).haloStore q pa).storeDone q 0
  | .add _ | .addSat _ | .setIn _ _ => (s.hubDo pa q.bytes q.op).storeDone q 0
  | .flush => (s.storeDone q 0)
  | .load _ _ | .demand => s.askRegion pa true

/-- R192: the dirty copy of a line, wherever it is, goes to the memory that backs it, and stays clean; none while it is on its
way or about to change. -/
def State.flushLine (s : State) (ln : Nat) : Option State :=
  match s.owner? ln with
  | none => if (s.inFlight? ln).isSome then none else some s
  | some o =>
    let h := s.home ln
    match o.st with
    | .e => some s
    | .m => some (((s.rawWrite (128 * ln) o.latest).setLine { o with st := .e }).setHome { h with st := .e })
    | .o => if h.busy.isSome then none else some (((s.rawWrite (128 * ln) o.latest).setLine { o with st := .s }).setHome { h with st := .s, owner := none, sharers := insertNat o.agent h.sharers })
    | _ => none

/-- R305: no earlier write of the same lane, or of an engine or hub agent, to a common byte waits; a cfls touches its line. -/
def State.storeFirst (s : State) (q : Store) : Bool :=
  let lo := if q.op = .flush then q.pa / 128 * 128 else q.pa
  let n := if q.op = .flush then 128 else q.bytes.length
  (s.storeQ.takeWhile (fun k => k.id != q.id)).all (fun k => k.vis.isSome || !(k.wg == q.wg && k.grp == q.grp && k.pa < lo + n && lo < k.pa + k.bytes.length))

/-- The tenancy for which a waiting access acts (R71): its workgroup's; an engine's or hub agent's is the line's own. -/
def State.tenOf (s : State) (q : Store) (pa : Nat) : Nat :=
  match s.wg? q.wg, s.line? q.die (pa / 128) with
  | some w, none => w.ten
  | some w, some l => if s.issuerDie q = some q.die then w.ten else l.ten
  | none, some l => l.ten
  | none, none => s.tenAt pa

/-- The effect of one waiting access, or the request for its line. -/
def State.l2Store (s : State) (q : Store) : State :=
  let pa := s.forwarded q.pa
  if q.vis.isSome then s
  else match s.place pa with
  | .line =>
    let ten := s.tenOf q pa
    if !s.storeFirst q then s
    else match q.op with
      | .flush => match s.flushLine (pa / 128) with | some t => t.storeDone q (s.clock q.die) | none => s
      | .load who lease =>
        let s1 : State := { s with storeQ := s.storeQ.filter (fun k => k.id != q.id) }
        (s1.l2Load q.die ten who lease (pa / 128)).getD (s1.askShared q.die (pa / 128) ten who lease)
      | .demand => ({ s with storeQ := s.storeQ.filter (fun k => k.id != q.id) } : State).askOwn q.die (pa / 128) ten
      | _ => match s.writable q.die ten pa with
        | some l => s.applyStore q pa l
        | none => s.askOwn q.die (pa / 128) ten
  | _ =>
    if s.computeSide pa ∨ s.homeMoves pa ∨ s.refreshing pa then s
    else if q.wg = noWg ∧ q.op.plain then (if s.storeFirst q then s.applyAway q pa else s)
    else s.askRegion pa true

/-- R324 step 4, R333: the accesses that waited for a change of home are performed at the new one, in the order of their
arrival. -/
def State.replay (s : State) (q : Store) : State :=
  let pa := s.forwarded q.pa
  if q.vis.isSome ∨ s.homeMoves pa then s
  else if s.computeSide pa then s.l2Store q
  else s.applyAway q pa

/-- L2_WRITE (R313). -/
def execL2Write (id : Nat) (s : State) : Host.Outcome State Fault Refusal :=
  match s.storeQ.find? (fun q => q.id == id) with
  | some q => .next (s.l2Store q)
  | none => .next s

/-- L2_LOAD_REQUEST (R313): served, or the die asks for the line. The core's request is for the line's own tenancy. -/
def execL2LoadRequest (die core line : Nat) (s : State) : Host.Outcome State Fault Refusal :=
  if s.place (128 * line) ≠ .line ∨ die ≥ 4 then .next s
  else
    let ten := match s.line? die line with | some l => l.ten | none => s.tenAt (128 * line)
    match s.l2Load die ten core (s.leaseOf core) line with
    | some s1 => .next s1
    | none => .next (s.askShared die line ten core (s.leaseOf core))

/-! ### Messages (R318) -/

/-- Messages to the home. -/
def toHome (k : MsgKind) : Bool :=
  match k with
  | .gets => true | .getm => true | .upg => true | .putm => true | .puto => true | .pute => true | .invack => true | .done => true
  | _ => false

/-- The home of a line: a die, or 4 for the hub directory (R316). -/
def State.homeOf (s : State) (ln : Nat) : Nat := if s.computeSide (128 * ln) then homeDie (128 * ln) else 4

/-- A message that a home has sent to an agent. -/
def Msg.fromHome (m : Msg) : Bool := !toHome m.kind && !(m.kind == .data && m.other == 1)

/-- The message between an agent and the home of a line that arrives next, if its kind is k: those of one line arrive in
the order in which they were sent, those of one home to one agent too, and none over a failed link. -/
def State.arriving (s : State) (k : MsgKind) (agent ln : Nat) : Option Msg :=
  match s.msgs.find? (fun m => m.agent == agent && m.addr == ln && toHome m.kind == toHome k) with
  | some m =>
    let before := (s.msgs.takeWhile (fun x => x != m)).filter (fun x => x.agent == agent && x.fromHome && !x.here && s.homeOf x.addr == s.homeOf ln)
    if m.kind = k ∧ ¬ s.deadLinks.contains agent ∧ (before = [] ∨ ¬ m.fromHome) then some m else none
  | none => none
/-- A message that has arrived and whose answer must wait. -/
def State.noted (s : State) (m : Msg) : State := if m.here then s else { s with msgs := s.msgs.map (fun x => if x = m then { x with here := true } else x) }
def State.took (s : State) (m : Msg) : State := { s with msgs := s.msgs.erase m }

/-- Data from memory (R319: B_MEM). -/
def State.sendMem (s : State) (agent ln : Nat) (give : LineSt) : State :=
  s.post { kind := .data, agent := agent, addr := ln, bytes := s.rawRead (128 * ln) 128, give := give }

/-! ### The home (R319, R322, R323) -/

/-- A GetM or Upg whose invalidations are in: the owner gives up the line, or memory supplies it, or the permission goes out. -/
def State.ownNow (s : State) (h : Home) (k : MsgKind) (who : Nat) : State :=
  let mine : Home := { h with busy := none, st := .m, owner := some who, sharers := [], acks := [] }
  if k = .upg then (s.setHome mine).post { kind := .grant, agent := who, addr := h.addr }
  else match h.owner with
    | some o =>
      if o = who then (s.setHome mine).sendMem who h.addr .m
      else (s.setHome { h with busy := some .fm, req := k, who := who, since := s.cycle, sharers := [], acks := [] }).post { kind := .fwdm, agent := o, addr := h.addr, other := who }
    | none => (s.setHome mine).sendMem who h.addr .m

/-- Invalidations go out (B_INV), or none is needed. -/
def State.invalidate (s : State) (h : Home) (k : MsgKind) (a : Nat) (others : List Nat) : State :=
  if others = [] then s.ownNow h k a
  else others.foldl (fun s o => s.post { kind := .inv, agent := o, addr := h.addr, other := a }) (s.setHome { h with busy := some .inv, req := k, who := a, acks := others, since := s.cycle })

/-- The home processes a request (R319). An Upg whose sender is no longer recorded counts as a GetM (R322); one from a
sharer of a line in O invalidates its owner as well (log entry 30). -/
def State.begin (s : State) (h : Home) (m : Msg) : State :=
  let a := m.agent
  let ln := h.addr
  let own := h.owner = some a
  match m.kind with
  | .gets =>
    match h.owner with
    | some o =>
      if o = a then (s.setHome { h with st := .e, sharers := [] }).sendMem a ln .e
      else (s.setHome { h with busy := some .fs, req := .gets, who := a, since := s.cycle }).post { kind := .fwds, agent := o, addr := ln, other := a }
    | none =>
      if h.sharers = [] then (s.setHome { h with st := .e, owner := some a }).sendMem a ln .e
      else (s.setHome { h with st := .s, sharers := insertNat a h.sharers }).sendMem a ln .s
  | .getm => s.invalidate h .getm a (h.sharers.filter (· != a))
  | .upg =>
    if own then s.invalidate h .upg a (h.sharers.filter (· != a))
    else if h.sharers.contains a then s.invalidate { h with owner := none } .upg a (h.sharers.filter (· != a) ++ h.owner.toList)
    else s.invalidate h .getm a (h.sharers.filter (· != a))
  | k =>
    if own then
      let s1 := if k = .pute then s else s.rawWrite (128 * ln) m.bytes
      (s1.setHome { h with owner := none, st := if h.sharers = [] then .i else .s }).post { kind := .putack, agent := a, addr := ln }
    else (s.setHome h).post { kind := .putstale, agent := a, addr := ln }

/-- A write-back is accepted once the leases and writes of its line have passed on the agent's die (R310, R321). -/
def State.putReady (s : State) (h : Home) (m : Msg) : Bool :=
  match m.kind with
  | .putm | .puto | .pute => h.owner ≠ some m.agent || (match s.line? m.agent m.addr with | some l => s.linePassed l | none => true)
  | _ => true

/-- A request arrives at the home, which processes it or queues it; or its turn in the queue has come. -/
def State.request (s : State) (k : MsgKind) (agent ln : Nat) : State :=
  let h := s.home ln
  match s.arriving k agent ln with
  | some m =>
    let s1 := s.took m
    if h.busy.isSome || h.queue != [] || !s.putReady h m then s1.setHome { h with queue := h.queue ++ [m] } else s1.begin h m
  | none =>
    match h.queue with
    | m :: rest => if h.busy.isNone && m.kind = k && m.agent = agent && s.putReady h m then s.begin { h with queue := rest } m else s
    | [] => s

/-- R326, R77: a system-core cache complex asks for a line; its access to a compute-side region asks for the region. -/
def State.hubAsks (s : State) (k : MsgKind) (agent ln : Nat) : State :=
  if agent ≠ 4 ∨ (s.line? 4 ln).isSome then s
  else if s.computeSide (128 * ln) ∨ s.homeMoves (128 * ln) then s.askRegion (128 * ln) false
  else (s.setLine { agent := 4, addr := ln, st := if k = .getm then .imAD else .isD, data := [] }).post { kind := k, agent := 4, addr := ln }

/-! ### System-core harts (R326, R405, R406) -/

/-- A hart's access waits for its line. -/
def State.waitHart (s : State) (i : Instr) : State := { s with waiting := s.waiting ++ [i] }

def State.hart (s : State) (h : Nat) : Hart := mget {} s.harts h
def State.modHart (s : State) (h : Nat) (f : Hart → Hart) : State := { s with harts := mset {} s.harts h (f (s.hart h)) }

/-- R406: the tenancy whose carve-out a hart's access enters without running a guest bound to that tenancy. -/
def State.hartRefused (s : State) (guest : Option Nat) (pa n : Nat) : Option Nat :=
  (s.tens.find? (fun e => e.2.carve.any (fun c => c.2 != 0 && c.1 < pa + n && pa < c.1 + c.2) && (e.2.st == 0 || guest != some e.2.vmid))).map Prod.fst

/-- The event that asks the home on behalf of a hart. -/
def hartEvent (a : HartAcc) : Instr :=
  match a.op with
  | .load _ | .lr _ | .fence => .gets (.hart a) (a.pa / 128)
  | .store _ | .amo _ _ _ _ _ | .sc _ => .getm (.hart a) (a.pa / 128)
/-- The bytes that an access touches. -/
def hartLen (o : HartOp) : Nat :=
  match o with
  | .load n => n | .lr n => n | .store b => b.length | .sc b => b.length | .amo _ _ sz _ _ => szBytes sz | .fence => 0
def hartWrites (o : HartOp) : Bool := match o with | .store _ => true | .sc _ => true | .amo _ _ _ _ _ => true | _ => false

/-- What a hart's access gives it. -/
def State.giveHart (s : State) (h : Nat) (a : HostAns) : State := { s with hartAnswers := (h, a) :: s.hartAnswers }

/-- A hart's access at a line that the system-core caches hold (R326). Its accesses are performed one after another, each at once,
which is an order that RVWMO allows whatever fences, aq and rl it has (log entry 18). -/
def State.hartDo (s : State) (a : HartAcc) : State :=
  let n := hartLen a.op
  let old := s.lineNow true a.pa n
  let bad := s.poisoned a.pa n
  let data : HostAns := if bad then .poisoned n else .data old
  match a.op with
  | .fence => s
  | .load _ => s.giveHart a.hart data
  | .lr _ => (s.modHart a.hart (fun k => { k with resv := some (a.pa / 128) })).giveHart a.hart data
  | .store b => s.hubDo a.pa b .write
  | .sc b =>
    if (s.hart a.hart).resv = some (a.pa / 128) then ((s.hubDo a.pa b .write).modHart a.hart (fun k => { k with resv := none })).giveHart a.hart (.data [0])
    else (s.modHart a.hart (fun k => { k with resv := none })).giveHart a.hart (.data [1])
  | .amo mod sgn sz b cmp =>
    if bad then s.giveHart a.hart data
    else (s.hubDo a.pa (leBytes n (atomicOp mod sgn sz (leNat old) b.toNat cmp.toNat).1) .write).giveHart a.hart data

/-- An access of one of the 32 enabled harts, with the guest that it runs (R405). One that a carve-out refuses loads poison or stores
nothing, and is logged (R406). -/
def State.hartAccess (s0 : State) (a : HartAcc) : State :=
  let s := s0.modHart a.hart (fun k => { k with guest := a.guest })
  let n := hartLen a.op
  if a.hart ≥ 32 ∨ a.pa % 128 + n > 128 then s0
  else match s.hartRefused a.guest a.pa n with
    | some t =>
      let s1 := s.logRec { unit := 4, code := 0x41, ten := t, src := 12, uno := a.hart, pa := a.pa, aux := if hartWrites a.op then 1 else 0 }
      (match a.op with | .store _ => s1 | .fence => s1 | .sc _ => s1.giveHart a.hart (.data [1]) | _ => s1.giveHart a.hart (.poisoned n))
    | none =>
      let ln := a.pa / 128
      match s.line? 4 ln with
      | some l => if l.st.stable ∧ ¬ s.computeSide a.pa ∧ ¬ s.homeMoves a.pa ∧ (hartWrites a.op = false ∨ l.st = .m ∨ l.st = .e) then s.hartDo a
        else (if hartWrites a.op ∧ l.st.stable then s.askOwn 4 ln l.ten else s).waitHart (hartEvent a)
      | none => if isMemory a.pa then (s.hubAsks (if hartWrites a.op then .getm else .gets) 4 ln).waitHart (hartEvent a) else s.giveHart a.hart (.poisoned n)

/-- GETS (R319); a load, load-reserved or fence of a hart asks for its line. -/
def execGets (agent : Asker) (line : Nat) (s : State) : Host.Outcome State Fault Refusal :=
  match agent with
  | .agent n => .next ((s.hubAsks .gets n line).request .gets n line)
  | .hart a => .next (if hartEvent a = .gets agent line then s.hartAccess a else s)

/-- GETM (R319); a store, atomic or store-conditional of a hart asks for its line. -/
def execGetm (agent : Asker) (line : Nat) (s : State) : Host.Outcome State Fault Refusal :=
  match agent with
  | .agent n => .next ((s.hubAsks .getm n line).request .getm n line)
  | .hart a => .next (if hartEvent a = .getm agent line then s.hartAccess a else s)

/-- UPG (R322). -/
def execUpg (agent line : Nat) (s : State) : Host.Outcome State Fault Refusal := .next (s.request .upg agent line)

/-- An agent gives up a line that it holds (R320: MI_A), or its write-back is processed. -/
def State.evict (s : State) (k : MsgKind) (st : LineSt) (agent ln : Nat) : State :=
  match s.line? agent ln with
  | some l =>
    if l.st = st ∧ ¬ l.leaving then s.giveUp l
    else s.request k agent ln
  | none => s.request k agent ln

/-- PUTM (R323). -/
def execPutm (agent line : Nat) (s : State) : Host.Outcome State Fault Refusal := .next (s.evict .putm .m agent line)
/-- PUTO (R323). -/
def execPuto (agent line : Nat) (s : State) : Host.Outcome State Fault Refusal := .next (s.evict .puto .o agent line)
/-- PUTE (R318). -/
def execPute (agent line : Nat) (s : State) : Host.Outcome State Fault Refusal := .next (s.evict .pute .e agent line)

/-- INVACK (R319). -/
def execInvack (agent line : Nat) (s : State) : Host.Outcome State Fault Refusal :=
  match s.arriving .invack agent line with
  | none => .next s
  | some m =>
    let s1 := s.took m
    let h := s1.home line
    let h1 : Home := { h with acks := h.acks.filter (· != agent) }
    if h.busy = some .inv ∧ h.acks.contains agent then .next (if h1.acks = [] then s1.ownNow h1 h1.req h1.who else s1.setHome h1)
    else .next s1

/-- DONE (R319). -/
def execDone (agent line : Nat) (s : State) : Host.Outcome State Fault Refusal :=
  match s.arriving .done agent line with
  | none => .next s
  | some m =>
    let s1 := s.took m
    let h := s1.home line
    if h.who ≠ agent then .next s1
    else match h.busy with
      | some .fs => .next (s1.setHome { h with busy := none, st := .o, sharers := insertNat agent h.sharers })
      | some .fm => .next (s1.setHome { h with busy := none, st := .m, owner := some agent, sharers := [] })
      | _ => .next s1

/-! ### The agents (R320 to R322) -/

/-- A message whose answer R321 holds back: its line serves no load meanwhile. -/
def State.holdLine (s : State) (m : Msg) (l : Line) : State := (if l.leaving then s else s.setLine { l with leaving := true }).noted m

/-- INV (R321, R322). -/
def execInv (agent line : Nat) (s : State) : Host.Outcome State Fault Refusal :=
  match s.arriving .inv agent line with
  | none => .next s
  | some m =>
    let ack := fun (s : State) => (s.took m).post { kind := .invack, agent := agent, addr := line }
    match s.line? agent line with
    | none => .next (ack s)
    | some l =>
      if l.data = [] then .next (ack s)
      else if !s.linePassed l then .next (s.holdLine m l)
      else match l.st with
        | .smA => .next (ack (s.setLine { agent := agent, addr := line, st := .imAD, data := [], ten := l.ten }))
        | .omA => .next (ack (s.setLine { agent := agent, addr := line, st := .imAD, data := [], ten := l.ten }))
        | .miA => .next (ack (s.setLine { agent := agent, addr := line, st := .iiA, data := [], ten := l.ten }))
        | _ => .next (ack (s.dropLine agent line))

/-- FWDS (R320). -/
def execFwds (agent line : Nat) (s : State) : Host.Outcome State Fault Refusal :=
  match s.arriving .fwds agent line, s.line? agent line with
  | some m, some l =>
    if l.data = [] then .next (s.noted m)
    else if !s.linePassed l then .next (s.holdLine m l)
    else
      let st := match l.st with | .m => LineSt.o | .e => .o | x => x
      .next (((s.took m).setLine { l with st := st, data := l.latest, writes := [], leaving := false }).post { kind := .data, agent := m.other, addr := line, other := 1, bytes := l.latest, give := .s })
  | some m, none => .next (s.noted m)
  | none, _ => .next s

/-- FWDM (R320). -/
def execFwdm (agent line : Nat) (s : State) : Host.Outcome State Fault Refusal :=
  match s.arriving .fwdm agent line, s.line? agent line with
  | some m, some l =>
    if l.data = [] then .next (s.noted m)
    else if !s.linePassed l then .next (s.holdLine m l)
    else
      let s1 := match l.st with
        | .omA => (s.took m).setLine { agent := agent, addr := line, st := .imAD, data := [], ten := l.ten }
        | .smA => (s.took m).setLine { agent := agent, addr := line, st := .imAD, data := [], ten := l.ten }
        | .miA => (s.took m).setLine { agent := agent, addr := line, st := .iiA, data := [], ten := l.ten }
        | _ => (s.took m).dropLine agent line
      .next (s1.post { kind := .data, agent := m.other, addr := line, other := 1, bytes := l.latest, give := .m })
  | some m, none => .next (s.noted m)
  | none, _ => .next s

/-- R320: the writes that wait for a line are applied in the order of their arrival. -/
def State.applyPending (s : State) (agent ln : Nat) : State :=
  (s.storeQ.filter (fun q => q.die == agent && s.forwarded q.pa / 128 == ln)).foldl (fun s q => s.l2Store q) s

/-- R320, R321: the loads that waited for a line are served when it has come. -/
def State.serveAsks (s : State) (agent ln : Nat) : State :=
  match s.line? agent ln with
  | none => s
  | some l => l.asks.foldl (fun s a => (s.l2Load agent l.ten a.1 a.2 ln).getD s) (s.setLine { l with asks := [] })

/-- R313: a line enters the die from outside. -/
def State.lineEnters (s : State) (l : Line) (st : LineSt) (bytes : List Byte) : State :=
  s.setLine { agent := l.agent, addr := l.addr, st := st, data := bytes, wts := s.clock l.agent, rts := s.clock l.agent, ten := l.ten, asks := l.asks }

/-- DATA (R320). A grant of S that a forward supplies is closed by Done, as every grant of M is. -/
def execData (agent line : Nat) (s : State) : Host.Outcome State Fault Refusal :=
  match s.arriving .data agent line, s.line? agent line with
  | some m, some l =>
    let s1 := s.took m
    let fin := fun (s : State) => s.post { kind := .done, agent := agent, addr := line }
    match l.st, m.give with
    | .isD, .e => .next ((s1.lineEnters l .e m.bytes).serveAsks agent line)
    | .isD, .s => .next (let s2 := (s1.lineEnters l .s m.bytes).serveAsks agent line; if m.other = 1 then fin s2 else s2)
    | _, _ => .next (fin (((s1.lineEnters l .m m.bytes).applyPending agent line).serveAsks agent line))
  | some m, none => .next (s.noted m)
  | none, _ => .next s

/-- GRANT (R320). -/
def execGrant (agent line : Nat) (s : State) : Host.Outcome State Fault Refusal :=
  match s.arriving .grant agent line, s.line? agent line with
  | some m, some l => .next ((((s.took m).setLine { l with st := .m, leaving := false, used := false }).applyPending agent line).serveAsks agent line)
  | some m, none => .next (s.noted m)
  | none, _ => .next s

/-- PUTACK (R320). -/
def execPutack (agent line : Nat) (s : State) : Host.Outcome State Fault Refusal :=
  match s.arriving .putack agent line with
  | some m => .next ((s.took m).dropLine agent line)
  | none => .next s

/-- PUTSTALE (R320). -/
def execPutstale (agent line : Nat) (s : State) : Host.Outcome State Fault Refusal :=
  match s.arriving .putstale agent line with
  | some m => .next ((s.took m).dropLine agent line)
  | none => .next s

/-! ### Time limits (R458) -/

/-- The number of cycles after which the home completes a request. -/
def homeLimit : Nat := 2 ^ 20

/-- A silent owner is removed; a line that it held in M or O is lost. -/
def State.removeOwner (s : State) (o ln : Nat) : State :=
  let lost : Bool := match s.line? o ln with
    | some l => (match l.st with | .m => true | .o => true | .omA => true | .miA => !(s.msgs ++ (s.home ln).queue).any (fun m => m.kind == .pute && m.agent == o && m.addr == ln) | _ => false)
    | none => false
  let s1 := s.dropLine o ln
  let s2 : State := { s1 with msgs := s1.msgs.filter (fun m => !(m.agent == o && m.addr == ln)) }
  if lost then s2.poisonSectors (128 * ln) 128 else s2

/-- R458: the log record, with the home's transient state. -/
def State.logTimeout (s : State) (ln aux : Nat) : State :=
  let unit := if s.computeSide (128 * ln) then homeDie (128 * ln) else 4
  s.logRec { unit := unit, code := 0x42, sev := 2, ten := s.tenAt (128 * ln), src := 6, pa := 128 * ln, aux := aux }

/-- HOME_REQUEST_TIMEOUT (R458): a request, or a recall of R324, that has not ended after 2^20 cycles. -/
def execHomeRequestTimeout (line : Nat) (s : State) : Host.Outcome State Fault Refusal :=
  let h := s.home line
  let r := s.region (hbmRegion (128 * line))
  match h.busy with
  | some .inv =>
    if s.cycle < h.since + homeLimit then .next s
    else
      let s1 := h.acks.foldl (fun s a => { s.dropLine a line with msgs := s.msgs.filter (fun m => !(m.agent == a && m.addr == line && (m.kind == .inv || m.kind == .invack))) }) (s.logTimeout line 1)
      .next (s1.ownNow { h with acks := [] } h.req h.who)
  | some b =>
    if s.cycle < h.since + homeLimit then .next s
    else
      let s1 := s.logTimeout line (if b = .fs then 3 else 4)
      let s2 := match h.owner with | some o => s1.removeOwner o line | none => s1
      let s3 : State := { s2 with msgs := s2.msgs.filter (fun m => !(m.agent == h.who && m.addr == line && (m.kind == .data || m.kind == .done))) }
      if b = .fs then .next ((s3.setHome { h with busy := none, st := .s, owner := none, sharers := insertNat h.who h.sharers }).sendMem h.who line .s)
      else .next ((s3.setHome { h with busy := none, st := .m, owner := some h.who, sharers := [] }).sendMem h.who line .m)
  | none =>
    match h.owner with
    | some o =>
      if r.moving ∧ r.began + homeLimit ≤ s.cycle then
        .next (((s.logTimeout line 6).removeOwner o line).setHome { h with owner := none, st := if h.sharers = [] then .i else .s })
      else .next s
    | none => .next s

/-- LINK_RETRY_EXHAUSTED (R458): the agent's link is marked failed and carries nothing more. -/
def execLinkRetryExhausted (agent : Nat) (s : State) : Host.Outcome State Fault Refusal :=
  .next { s with deadLinks := insertNat agent s.deadLinks }

/-! ### Ownership of regions (R77, R78, R324) -/

/-- OWNERSHIP_TRANSFER (R324): an access from the other side begins a transfer, or waits for the end of the hold (R78). -/
def execOwnershipTransfer (region : Nat) (s : State) : Host.Outcome State Fault Refusal :=
  let r := s.region region
  if r.moving then .next s
  else if r.holdUntil ≠ 0 then .next (s.modRegion region (fun r => { r with wanted := true }))
  else .next (s.modRegion region (fun r => { r with moving := true, began := s.cycle, wanted := false }))

def lineIn (region ln : Nat) : Bool := hbmRegion (128 * ln) == region

/-- The former side has given up every line: no request is open, and leases and writes have passed (R321). -/
def State.recalled (s : State) (region : Nat) : Bool :=
  s.homes.all (fun h => !lineIn region h.addr || (h.busy.isNone && h.queue == [])) &&
  s.msgs.all (fun m => !lineIn region m.addr) &&
  s.lines.all (fun l => !lineIn region l.addr || (l.st.stable && s.linePassed l))

/-- TRANSFER_COMPLETE (R324): memory takes the former side's lines, the home moves, and the waiting accesses are replayed
there in order. -/
def execTransferComplete (region : Nat) (s : State) : Host.Outcome State Fault Refusal :=
  let r := s.region region
  if !r.moving || !s.recalled region then .next s
  else
    let mine := s.lines.filter (fun l => lineIn region l.addr)
    let s1 := (mine.filter (fun l => l.st.owns)).foldl (fun s l => s.rawWrite (128 * l.addr) l.latest) s
    let s2 : State := { s1 with lines := s1.lines.filter (fun l => !lineIn region l.addr), homes := s1.homes.filter (fun h => !lineIn region h.addr), l1 := s1.l1.filter (fun c => !lineIn region c.addr) }
    let s3 := s2.modRegion region (fun r => { compute := !r.compute, holdUntil := s.cycle + 4096 })
    .next ((s3.storeQ.filter (fun q => hbmRegion (s.forwarded q.pa) == region)).foldl (fun s q => s.replay q) s3)

/-- OWNERSHIP_HOLD_EXPIRES (R78). -/
def execOwnershipHoldExpires (region : Nat) (s : State) : Host.Outcome State Fault Refusal :=
  let r := s.region region
  if r.holdUntil ≠ 0 ∧ r.holdUntil ≤ s.cycle then .next (s.modRegion region (fun r => { r with holdUntil := 0 })) else .next s

end Sys2Proof.Machine
end

