-- ==== Sys2Proof/Machine/Sync.lean ====
section
/-! DEFINITION. The instructions that a split performs once: barrier objects, completion counters and channels (R203 to
R219), with the updates of barrier objects that other agents make too (R207 to R212, R455). -/
namespace Sys2Proof.Machine

/-! ### Barrier objects (R204) -/

structure BarObj where
  gen : Nat
  pin : Bool
  pout : Bool
  err : Bool
  pend : Nat
  exp : Nat
  inb : Int
  outb : Int
deriving DecidableEq, Repr

def BarObj.ofNat (n : Nat) : BarObj :=
  { gen := bitsOf n 0 4, pin := bitOf n 4, pout := bitOf n 5, err := bitOf n 6, pend := bitsOf n 8 12, exp := bitsOf n 20 12, inb := sextInt 48 (bitsOf n 32 48), outb := sextInt 48 (bitsOf n 80 48) }
def boolNat (b : Bool) : Nat := if b then 1 else 0
def BarObj.toNat (o : BarObj) : Nat :=
  o.gen % 16 + 16 * boolNat o.pin + 32 * boolNat o.pout + 64 * boolNat o.err + 2 ^ 8 * (o.pend % 4096) + 2 ^ 20 * (o.exp % 4096) + 2 ^ 32 * wrapNat 48 o.inb + 2 ^ 80 * wrapNat 48 o.outb

/-- A barrier object by its workgroup, window and number; blocks name the two as 64 * window + number. -/
structure BarRef where
  wg : Nat
  win : Nat
  id : Nat
deriving DecidableEq, Repr

def BarRef.blk (r : BarRef) : Blk := .barrier r.wg (64 * r.win + r.id)

def State.bar (s : State) (r : BarRef) : BarObj :=
  match s.wg? r.wg with
  | some w => BarObj.ofNat (leNat (s.scrRead w r.win (16 * r.id) 16))
  | none => BarObj.ofNat 0
def State.setBar (s : State) (r : BarRef) (o : BarObj) : State :=
  match s.wg? r.wg with
  | some w => s.scrWrite w r.win (16 * r.id) (leBytes 16 o.toNat)
  | none => s

/-- R209: the completion of a phase. -/
def BarObj.complete (o : BarObj) : BarObj :=
  if !o.err && o.pend == 0 && o.inb == 0 && o.outb == 0 then { o with gen := (o.gen + 1) % 16, pend := o.exp, pin := false, pout := false } else o

/-- An object with ERR set for a reason; the reason of the update that sets it (R455). -/
def BarObj.fail (o : BarObj) (reason : Nat) : BarObj × Nat := ({ o with err := true }, if o.err then 0 else reason)

/-- R207: an arrival of n. -/
def BarObj.arrive (n reason : Nat) (o : BarObj) : BarObj × Nat :=
  if n > o.pend then o.fail reason else ({ o with pend := o.pend - n }, 0)

/-- R208: a byte count with the generation of its copy. -/
def BarObj.bytes (out : Bool) (tag amount : Nat) (o : BarObj) : BarObj × Nat :=
  if tag % 16 ≠ o.gen then o.fail 3
  else if out then
    let o1 := { o with outb := o.outb - amount }
    if o1.outb < 0 ∧ o.pout then o1.fail 5 else (o1, 0)
  else
    let o1 := { o with inb := o.inb - amount }
    if o1.inb < 0 ∧ o.pin then o1.fail 4 else (o1, 0)

/-- R208: a post, with an arrival in the same update under ARV. -/
def BarObj.post (out arv : Bool) (e reason : Nat) (o : BarObj) : BarObj × Nat :=
  let o1 : BarObj := if out then { o with outb := o.outb + e, pout := true } else { o with inb := o.inb + e, pin := true }
  let (o2, r) := if (if out then o1.outb else o1.inb) < 0 then o1.fail 6 else (o1, 0)
  if arv then
    let (o3, q) := o2.arrive 1 reason
    (o3, if r ≠ 0 then r else q)
  else (o2, r)

/-- One update of an object in its arbitration order, with the test for completion, the report of an error and the
splits that it makes ready (R205, R209, R211, R455, R51). -/
def State.barUpdate (s : State) (r : BarRef) (f : BarObj → BarObj × Nat) : State :=
  match s.wg? r.wg with
  | none => s
  | some w =>
    let o := s.bar r
    let (o1, reason) := f o
    let o2 := o1.complete
    let s1 := s.setBar r o2
    let s2 := if reason = 0 then s1 else
      let core := w.cores.getD r.win 0
      s1.logRec { unit := dieOfCore core, code := 0x20, ten := w.ten, src := 5, uno := core, ctx := w.ctx, aux := reason + 256 * r.id }
    if o2.gen = o.gen ∧ ¬ (o2.err ∧ ¬ o.err) then s2
    else if w.phase = .saved then
      let parked := w.groups.any (fun g => g.table.any (fun e => match e with | some sp => sp.blk = r.blk | none => false) || g.spill.any (fun sp => sp.blk = r.blk))
      match parked && o2.gen != o.gen, s2.grid? w.grid with
      | true, some gr => s2.waitInImage gr w
      | _, _ => s2
    else s2.wakeBlk r.blk

/-! ### The object of an instruction (R203, R205) -/

/-- The lowest lane that performs a split instruction; none when it has no effect. -/
def Ctx.lead (x : Ctx) (c : Common) : Option Nat := if x.real c = 0 then none else some (lowestLane (x.real c))

/-- What names the object of a barrier instruction. -/
inductive BarTgt where
  | bar (r : BarRef) (ptr : Nat)
  | gone
  | start (wg : Nat)
  | trap (t : Trap)

/-- R205: the object in window 0 of the issuing workgroup, or the one at a checked pointer. -/
def Ctx.barTgt (x : Ctx) (s : State) (w : FormE) (lane : Nat) : BarTgt :=
  if !w.com.mod.getLsbD 3 then
    let id := w.eimm.toNat % 64
    .bar { wg := x.wg.key, win := 0, id := id } ((if x.win = 0 then 2 else 3) * 2 ^ 60 + 16 * id)
  else
    let p := x.g.readSrc lane (src64Of w.a)
    match x.checkPtr { spaces := [2, 3], width := 16, align := 16 } p with
    | .error (c, b) => .trap { cause := c, sub := b, lane := lane, val := BitVec.ofNat 64 p }
    | .ok (.scr r win off) =>
      if off ≥ 0x400 then .trap { cause := 0x05, sub := 2, lane := lane, val := BitVec.ofNat 64 p }
      else if r ≥ 16 then .bar { wg := x.wg.key, win := win, id := off / 16 } p
      else match s.member x.wg r with
        | none => .gone
        | some (m, win) => if m.phase = .starting then .start m.key else .bar { wg := m.key, win := win, id := off / 16 } p
    | .ok _ => .gone

/-- R207, R455: an arrival of another member's split has its own reason. -/
def Ctx.arriveReason (x : Ctx) (r : BarRef) : Nat := if r.wg = x.wg.key then 1 else 2

/-- A result of a split instruction: every active lane, or the s register once (R203). -/
def Group.writeAll (g : Group) (ls : List Nat) (d : Opnd) (v : W64) : Group :=
  match d with
  | .reg .s _ i => g.writeS i.toNat false v
  | .reg t _ i => ls.foldl (fun g l => g.writeLane l t i.toNat false v) g
  | .chan _ _ => g

/-- The parts that all barrier instructions share: the lane, the object, the error of R211. -/
def Ctx.onBar (x : Ctx) (s : State) (w : FormE) (errs : Bool) (gone : State → State) (k : Nat → BarRef → Nat → State) : State :=
  match x.lead w.com with
  | none => s.advance x
  | some lane =>
    match x.barTgt s w lane with
    | .trap t => s.takeTrap x t
    | .gone => gone s
    | .start wg => s.blockSplit x .parked .member (.member wg)
    | .bar r ptr =>
      if errs && (s.bar r).err then s.takeTrap x { cause := 0x0B, sub := 2, lane := lane, val := BitVec.ofNat 64 ptr }
      else k lane r ptr

/-- R206. -/
def execBinit (w : FormE) (s : State) : Host.Outcome State Fault Refusal :=
  issueWith (.binit w) w.com ((w.b, 1) :: barReads w) [] s (fun x t =>
    x.onBar t w false (fun s => s.advance x) (fun lane r ptr =>
      let n := x.g.readSrc lane (src32Of w.b)
      if n = 0 ∨ n > 4095 then t.takeTrap x { cause := 0x0B, sub := 1, lane := lane, val := BitVec.ofNat 64 ptr }
      else (t.setBar r { gen := (t.bar r).gen, pin := false, pout := false, err := false, pend := n, exp := n, inb := 0, outb := 0 }).advance x))

/-- The token of an arrival in D (R207). -/
def Ctx.token (x : Ctx) (s : State) (w : FormE) (gen : Nat) : State :=
  s.modGrp x.foc.wg x.foc.grp (fun g => g.writeAll (lanesOf (x.active w.com)) w.d (BitVec.ofNat 64 gen))

/-- A token that no object gives: its member has retired. -/
def Ctx.freeToken (x : Ctx) (w : FormE) (s : State) : State :=
  let (v, s1) := s.freeVal
  (s1.modGrp x.foc.wg x.foc.grp (fun g => g.writeAll (lanesOf (x.active w.com)) w.d (v.zeroExtend 64))).advance x

/-- R207. -/
def execBarr (w : FormE) (s : State) : Host.Outcome State Fault Refusal :=
  issueWith (.barr w) w.com (barReads w) [] s (fun x t =>
    x.onBar t w true (x.freeToken w) (fun _ r _ =>
      x.withRelease t w.rel w.scope.toNat (fun t =>
        (((x.token t w (t.bar r).gen).barUpdate r (BarObj.arrive (w.eimm.toNat / 64 % 256 + 1) (x.arriveReason r)))).advance x)))

/-- The end of a wait (R36, R48). -/
def Ctx.waitOver (x : Ctx) (s : State) (acq : Bool) : State := ((s.waitDone x).advance x).acquire x acq

/-- The split parks on an object; where an update of its own has set ERR it issues again at once (R211). -/
def Ctx.parkBar (x : Ctx) (s : State) (r : BarRef) : State :=
  let s1 := s.blockSplit x .parked .barrier r.blk
  if (s1.bar r).err then s1.wakeBlk r.blk else s1

/-- R207: the arrival is made once; the wait is re-evaluated against D. -/
def execBarw (w : FormE) (s : State) : Host.Outcome State Fault Refusal :=
  issueWith (.barw w) w.com (barReads w) [] s (fun x t =>
    x.onBar t w true (x.freeToken w) (fun lane r _ =>
      if x.sp.arrived then
        if x.g.readSrc lane (src32Of w.d) ≠ (t.bar r).gen then x.waitOver t w.acq else x.parkBar t r
      else x.withRelease t w.rel w.scope.toNat (fun t =>
        let gen := (t.bar r).gen
        let t1 := ((x.token t w gen).barUpdate r (BarObj.arrive (w.eimm.toNat / 64 % 256 + 1) (x.arriveReason r))).modSplit x.foc (fun sp => { sp with arrived := true })
        if (t1.bar r).gen ≠ gen then x.waitOver t1 w.acq else x.parkBar t1 r)))

/-- R210. -/
def execBwait (w : FormE) (s : State) : Host.Outcome State Fault Refusal :=
  issueWith (.bwait w) w.com ((w.b, 1) :: barReads w) [] s (fun x t =>
    x.onBar t w true (fun s => x.waitOver s w.acq) (fun lane r _ =>
      if x.g.readSrc lane (src32Of w.b) % 16 ≠ (t.bar r).gen then x.waitOver t w.acq else x.parkBar t r))

/-- R208. -/
def execBexp (w : FormE) (s : State) : Host.Outcome State Fault Refusal :=
  issueWith (.bexp w) w.com ((w.b, 1) :: barReads w) [] s (fun x t =>
    x.onBar t w true (fun s => s.advance x) (fun lane r _ =>
      x.withRelease t w.rel w.scope.toNat (fun t =>
        (t.barUpdate r (BarObj.post (w.com.mod.getLsbD 0) (w.com.mod.getLsbD 1) (x.g.readSrc lane (src32Of w.b)) (x.arriveReason r))).advance x)))

/-- R210: the object whole; D to D+3 are written as a 16-byte load writes them. -/
def execBqry (w : FormE) (s : State) : Host.Outcome State Fault Refusal :=
  issueWith (.bqry w) w.com (barReads w) [] s (fun x t =>
    let put := fun (t : State) (v : Nat) =>
      t.doneWith x (fun g => match w.d with
        | .reg .s _ i => g.writeRun 0 .s i.toNat 4 v
        | .reg tr _ i => (lanesOf (x.active w.com)).foldl (fun g l => g.writeRun l tr i.toNat 4 v) g
        | .chan _ _ => g)
    x.onBar t w false (fun s =>
        let (a, s1) := s.freeVal
        let (b, s2) := s1.freeVal
        put s2 (a.toNat + 2 ^ 64 * b.toNat))
      (fun _ r _ => put t (t.bar r).toNat))

/-! ### Completion counters (R213, R214) -/

/-- The form-M word that performs cntadd's addition: 64 bits, no index. -/
def cntForm (w : FormE) : FormM :=
  { com := { w.com with mod := 8 }, d := Opnd.zero, a := w.a, b := w.b, nt := false, io := false, scope := w.scope, ord := if w.rel then 2 else 0, sph := 0, sgn := false, sz := 3, off := 0 }

/-- R213: one addition at the counter's home. -/
def execCntadd (w : FormE) (s : State) : Host.Outcome State Fault Refusal :=
  issueWith (.cntadd w) w.com [(w.a, 2), (w.b, 2)] [] s (fun x t =>
    match x.lead w.com with
    | none => t.advance x
    | some lane =>
      x.redList t (cntForm w) [0, 2, 3, 6] 0x10 [(lane, x.g.readSrc lane (src64Of w.a))] (fun l => .count (BitVec.ofNat 64 (x.g.readRun l w.b 0 2))))

/-- The value of a counter at its home, and the value that is visible (R310); none while an answer is awaited or the
location is poisoned. -/
inductive CntVal where
  | val (v seen : Nat)
  | wait (s : State)
  | stay
  | trap (t : Trap)

def Ctx.cntValue (x : Ctx) (s : State) (p : LanePlan) : CntVal :=
  if s.resPoisoned p.res 8 then .stay
  else match p.res with
  | .line pa _ => .val (leNat (s.cohLatest pa 8)) (leNat (s.cohRead pa 8))
  | .direct pa _ _ => .val (leNat (s.cohLatest pa 8)) (leNat (s.cohRead pa 8))
  | .scr key win off =>
    let v := match s.wg? key with | some g => leNat (s.scrRead g win off 8) | none => 0
    .val v v
  | .gone => .stay
  | _ => match x.loadLane 8 s p with
    | (s1, .wait) => .wait s1
    | (_, .bytes b _) => .val (leNat b) (leNat b)
    | (_, .trap t) => if t.cause = 0x0F then .stay else .trap t

/-- What a split parks on at a counter. -/
def cntBlk (p : LanePlan) (target : Nat) : Blk :=
  match p.res with
  | .line pa _ => .counter (.pa pa) target
  | .direct pa _ _ => .counter (.pa pa) target
  | .device _ pa _ => .counter (.pa pa) target
  | .hole pa => .counter (.pa pa) target
  | .scr key win off => .counter (.sp key win off) target
  | .gone => .counter (.peer p.ptr) target
  | .peer _ _ => .counter (.peer p.ptr) target

/-- R332: a counter on another device is asked again; its home answers when it has an update. -/
def Ctx.askAgain (x : Ctx) (s : State) : State :=
  { s with fabric := s.fabric.map (fun f => if f.wg == x.wg.key && f.grp == x.foc.grp && f.wi == x.sp.wi && !f.posted && f.copy.isNone && x.sp.mask.getLsbD f.lane then { f with ans := none } else f) }

/-- R214: tested at issue and after every update; a poisoned counter keeps its splits parked (R462). An update that meets
the condition ends the wait from its visibility point on (R310). -/
def execCntwait (w : FormE) (s : State) : Host.Outcome State Fault Refusal :=
  issueWith (.cntwait w) w.com [(w.a, 2), (w.b, 2)] [] s (fun x t =>
    match x.lead w.com with
    | none => t.advance x
    | some lane =>
      let u : PtrUse := { spaces := [0, 2, 3, 6], width := 8, align := 8 }
      x.settlePlan t (x.planLanes u .rd false none [] t [(lane, x.g.readSrc lane (src64Of w.a))]) (fun l =>
        match l with
        | [] => t
        | p :: _ =>
          let t1 := t.markLeaves l false
          match x.cntValue t1 p with
          | .wait t2 => t2.holdSplit x
          | .trap tr => (x.devLoadsDone (x.flitsDone t1 false)).takeTrap x tr
          | .stay => (x.askAgain t1).blockSplit x .parked .counter (cntBlk p (x.g.readSrc lane (src64Of w.b)))
          | .val v seen =>
            if v ≥ x.g.readSrc lane (src64Of w.b) then
              if seen ≥ x.g.readSrc lane (src64Of w.b) then x.waitOver (x.devLoadsDone (x.flitsDone t1 false)) w.acq
              else t1.holdSplit x
            else (x.askAgain (x.devLoadsDone t1)).blockSplit x .parked .counter (cntBlk p (x.g.readSrc lane (src64Of w.b)))))

/-! ### Channels (R215 to R219) -/

/-- R217: the limits of a binding record of a kind. -/
def bindingOk (kind : Nat) (b : List Byte) : Bool :=
  let r := Binding.ofBytes b
  zeroBytes b 0x0F 1 && zeroBytes b 0x22 2 && zeroBytes b 0x30 16 && bitsOf r.peer 11 5 == 0 &&
  (if kind = 3 then
    r.qbase == 0 && r.pos == 0 && r.phb == 0 && r.ph == 0 && r.sqhd == 0
  else
    r.qbase % 64 == 0 && 2 ≤ r.depth && r.depth ≤ 65536 && 1 ≤ r.entw && r.entw ≤ 64 && r.pos < r.depth && r.sqhd < r.depth &&
    (if kind = 1 then r.phb == 0 && r.ph == 0 else r.phb ≤ 31 && r.ph ≤ 1 && r.sqhd == 0))

/-- R387: the tenancy's grant table names the doorbell, and the doorbell lies in a port window. -/
def State.granted (s : State) (ten pa : Nat) : Bool :=
  let e := s.ten ten
  pa % 4 == 0 &&
  (match paKind pa with | .pcie _ => true | _ => false) &&
  (List.range e.ndbgt).any (fun i => leNat (s.cohRead (e.dbgt + 8 * i) 8) == pa)

/-- Some split of the workgroup is parked on the channel, in the table or the spill area. -/
def Workgroup.parkedOn (w : Workgroup) (ch : Nat) : Bool :=
  w.groups.any (fun g => g.table.any (fun e => match e with | some sp => sp.phase = .parked && sp.blk = .chan ch | none => false) || g.spill.any (fun sp => sp.phase = .parked && sp.blk = .chan ch))

/-- R217: POS and PH go back to the binding record. -/
def State.writeBack (s : State) (pasid : Nat) (c : Chan) : State :=
  if c.v ∧ (c.kind = 1 ∨ c.kind = 2) then
    let s1 := (s.vwrite pasid ((c.ptr + 0x0E) % 2 ^ 56) (leBytes 1 c.ph)).1
    (s1.vwrite pasid ((c.ptr + 0x10) % 2 ^ 56) (leBytes 4 c.pos)).1
  else s

/-- R216: a ring's control block is written and the entry bound. A pointer that is not aligned to the block's 16 bytes raises
0x03, and a block below 0x400 raises 0x05 SUB 4 as a write there does (R54, R64; DESIGN CHOICE, log entry 74: R216 names no
cause for them). -/
def Ctx.bindRing (x : Ctx) (s : State) (ch cap p lane : Nat) : State :=
  let bad := fun (c b : Nat) => s.takeTrap x { cause := c, sub := b, lane := lane, val := BitVec.ofNat 64 p }
  let off := p % 2 ^ 21
  match x.checkPtr { spaces := [2], width := 16, align := 16 } p with
  | .error (c, b) => bad c b
  | .ok _ =>
    if off + 16 + 4 * 2 ^ cap > windowBytes x.gr x.wg then bad 0x05 2
    else if off < 0x400 then bad 0x05 4
    else
      let s1 := s.scrWrite x.wg 0 off (leBytes 4 0 ++ leBytes 4 0 ++ leBytes 2 cap ++ leBytes 6 0)
      (s1.modChan x.wg.key ch (fun _ => { v := true, kind := 0, ptr := p })).advance x

/-- R216, R217, R387: a binding record is read and checked, and the entry bound. -/
def Ctx.bindRecord (x : Ctx) (s : State) (ch kind p lane : Nat) : State :=
  let bad := fun (s : State) (b : Nat) => s.takeTrap x { cause := 0x0A, sub := b, lane := lane, val := BitVec.ofNat 64 ch }
  match x.checkPtr { spaces := [0], width := 64, align := 1 } p with
  | .error (e, b) => s.takeTrap x { cause := e, sub := b, lane := lane, val := BitVec.ofNat 64 p }
  | .ok _ =>
    if p % 64 ≠ 0 then bad s 6
    else x.settlePlan s (x.planLanes { spaces := [0], width := 64, align := 1 } .rd false none [] s [(lane, p)]) (fun l =>
      match x.poisonTrap s 64 l with
      | some t => t
      | none =>
        let s1 := s.markLeaves l false
        let b := (s1.vread x.gr.pasid (p % 2 ^ 56) 64).getD []
        let r := Binding.ofBytes b
        if b.length < 64 ∨ ¬ bindingOk kind b then bad s1 6
        else if (kind = 1 ∨ kind = 2) ∧ r.dbell ≠ 0 ∧ ¬ s1.granted x.wg.ten r.dbell then bad s1 7
        else (s1.modChan x.wg.key ch (fun _ => { v := true, kind := kind, ptr := p, pos := r.pos, ph := r.ph, dbell := r.dbell, pa := (l.headD { lane := 0, ptr := 0, res := .gone }).res.pa })).advance x)

/-- R216. -/
def execChbind (w : FormE) (s : State) : Host.Outcome State Fault Refusal :=
  let ch := w.eimm.toNat % 16
  let kind := w.com.mod.toNat % 4
  let unb := w.com.mod.getLsbD 2
  issueWith (.chbind w) w.com (if unb then [] else [(w.a, 2)]) [] s (fun x t =>
    match x.lead w.com with
    | none => t.advance x
    | some lane =>
      let bad := fun (b : Nat) => t.takeTrap x { cause := 0x0A, sub := b, lane := lane, val := BitVec.ofNat 64 ch }
      let c := x.wg.chan ch
      if unb then
        if x.wg.parkedOn ch then bad 5
        else ((t.writeBack x.gr.pasid c).modChan x.wg.key ch (fun _ => {})).advance x
      else if c.v then bad 3
      else if !bitOf x.gr.k.chmask ch then bad 4
      else
        let p := x.g.readSrc lane (src64Of w.a)
        if kind = 0 then x.bindRing t ch (w.eimm.toNat / 16 % 32) p lane else x.bindRecord t ch kind p lane)

/-- R219: the status word of a channel. -/
def chanStatus (s : State) (x : Ctx) (ch : Nat) : Nat :=
  let c := x.wg.chan ch
  if !c.v then 0
  else
    let b := s.binding x.gr c
    let count := match c.kind with
      | 1 => b.room c.pos c.wpos
      | 2 => if s.cqReady x.gr b c.pos c.ph then b.entw - c.wpos else 0
      | _ => ringHeld s x.wg (s.chanRing x.gr c)
    2 ^ 31 + 2 ^ 29 * c.kind + (if c.kind = 1 ∧ c.wpos ≠ 0 then 2 ^ 28 else 0) + Nat.min count 0x1FFFF

def execChstat (w : FormL) (s : State) : Host.Outcome State Fault Refusal :=
  issueWith (.chstat w) w.com [] [] s (fun x t =>
    let v := BitVec.ofNat 64 (chanStatus t x w.a.index)
    if w.com.u then (if x.gwOn w.com then t.doneWith x (fun g => g.writeS w.d.index false v) else t.advance x)
    else if x.active w.com = 0 then t.advance x
    else t.doneWith x (fun g => g.writeAll (lanesOf (x.active w.com)) w.d v))

end Sys2Proof.Machine
end

