-- ==== Sys2Proof/Machine/Views.lean ====
section
/-! DEFINITION. The view instructions vsync, vchk and vreq (R278, R292 to R297) and the queues of the Prism engines that
they fill (R281). -/
namespace Sys2Proof.Machine

/-! ### Slots (R278) -/

/-- What a slot names: nothing, a view registered on this device, or one whose master lies on another device. -/
inductive SlotView where
  | empty
  | here (v : View)
  | away (v : View)

/-- The pointer of a slot in the grid's view table, and the view registered there. A descriptor that names another device
as MDEV belongs to a view of that device (log entry 27). -/
def Ctx.slotView (x : Ctx) (s : State) (slot : Nat) : SlotView :=
  let p := x.gr.views.getD slot 0
  if p = 0 then .empty
  else match s.views.find? (fun v => v.ptr == p && v.space == x.gr.pasid) with
    | some v => .here v
    | none => match s.vread x.gr.pasid (p % 2 ^ 56) 128 with
      | some b =>
        let v := View.ofBytes 0 p x.gr.pasid x.wg.ten b
        if v.mdev % 2048 ≠ s.devnum ∧ bitsOf v.mdev 11 5 = 0 ∧ v.mstride ≠ 0 then .away v else .empty
      | none => .empty

/-- R293: trapval of cause 0x0C. -/
def viewTrap (lane slot code m : Nat) : Trap :=
  { cause := 0x0C, sub := code, lane := lane, val := BitVec.ofNat 64 (code + 256 * slot + 2 ^ 32 * m) }

/-! ### Queues of the Prism engines (R281) -/

/-- A master block enters the queue of engine PA[13:12] of its die once. -/
def State.queueMaster (s : State) (m : Master) : State :=
  if m.queued then s
  else
    let e := 4 * m.die + bitsOf m.pa 12 2
    { s with masters := s.masters.map (fun k => if k.pa = m.pa then { k with queued := true } else k), prismQ := mset [] s.prismQ e (mget [] s.prismQ e ++ [m.pa]) }

/-- R296: a refresh of every master block of the view blocks, without a change of WT. -/
def State.requestBlocks (s : State) (v : View) (ms : List Nat) : State :=
  ms.foldl (fun s m => match s.masterOf v m with | some k => s.queueMaster k | none => s) s

/-! ### Checks at another device's engines -/

/-- The name of a check of view blocks at device MDEV: the view's tags there. -/
def View.awayPtr (v : View) (m : Nat) : Nat := 6 * 2 ^ 60 + v.mdev % 2048 * 2 ^ 49 + (v.tags + 8 * m) % 2 ^ 49

/-- What the blocks' engine on another device answers, block by block: 1 fresh, 2 faulted, else neither; 3 where it
has no such view any more (R278). None while the answer is awaited. -/
def Ctx.awayState (x : Ctx) (s : State) (lane : Nat) (v : View) (ms : List Nat) : State × Option (List Nat) :=
  match x.flit s lane (v.awayPtr (ms.headD 0)) (.load ms.length) with
  | (s1, some (.ok b _)) => (s1, some (ms.zipIdx.map (fun e => (b.getD e.2 0).toNat)))
  | (s1, some _) => (s1, some (ms.map (fun _ => 3)))
  | (s1, none) => (s1, none)

/-- The states of view blocks at their engines (R288). -/
def Ctx.blockStates (x : Ctx) (s : State) (lane : Nat) (sv : SlotView) (ms : List Nat) : State × Option (List Nat) :=
  match sv with
  | .here v => (s, some (ms.map (fun m => if s.viewFaulted v m then 2 else if s.viewFresh v m then 1 else 0)))
  | .away v => x.awayState s lane v ms
  | .empty => (s, some [])

def SlotView.view? : SlotView → Option View
  | .empty => none
  | .here v => some v
  | .away v => some v

/-- What a vsync that finds blocks neither fresh nor faulted parks on. -/
def SlotView.blk (sv : SlotView) (ms : List Nat) : Blk :=
  match sv with
  | .here v => .view v.id
  | .away v => .counter (.peer (v.awayPtr (ms.headD 0))) 0
  | .empty => .none

/-- The first view block whose state satisfies a test. -/
def firstBlock (ms st : List Nat) (p : Nat → Bool) : Option Nat := ((ms.zip st).find? (fun e => p e.2)).map Prod.fst

/-- A store of the split itself to a master block of the range has yet to be applied: the check comes after it (R289). -/
def Ctx.writesOpen (x : Ctx) (s : State) (sv : SlotView) (ms : List Nat) : Bool :=
  match sv with
  | .here v =>
    let mine := fun (id pa : Nat) => x.sp.pend.contains id && ms.any (fun m => (s.masterOf v m).any (fun k => k.pa / 4096 == s.forwarded pa / 4096))
    s.storeQ.any (fun q => q.vis.isNone && mine q.id q.pa) || s.contribs.any (fun c => mine c.id c.pa)
  | .away v => s.fabric.any (fun f => f.posted && x.sp.pend.contains f.id && bitsOf f.ptr 49 11 == v.mdev % 2048)
  | .empty => false

/-- A view is on another device. -/
def SlotView.isAway : SlotView → Bool
  | .away _ => true
  | _ => false

/-- R290, R294: the policy decides. -/
def Ctx.syncView (x : Ctx) (s : State) (lane slot : Nat) (sv : SlotView) (v : View) (ms : List Nat) : State :=
  let ended := fun (s : State) => x.waitOver (x.flitsDone s false) true
  if v.policy = 1 ∧ ¬ sv.isAway then ended s
  else if v.policy ≠ 1 ∧ x.writesOpen s sv ms then s.holdSplit x
  else match x.blockStates s lane sv ms with
    | (s1, none) => s1.holdSplit x
    | (s1, some st) =>
      let fault := firstBlock ms st (· == 2)
      let stale := firstBlock ms st (· == 0)
      if st.contains 3 then (x.flitsDone s1 false).takeTrap x (viewTrap lane slot 1 0)
      else if v.policy = 1 then ended s1
      else if v.policy = 0 ∧ stale.isSome then (x.askAgain s1).blockSplit x .parked .vsync (sv.blk ms)
      else match fault, stale with
        | some m, _ => (x.flitsDone s1 false).takeTrap x (viewTrap lane slot 4 m)
        | none, some m => (x.flitsDone s1 false).takeTrap x (viewTrap lane slot 3 m)
        | none, none => ended s1

/-- The slot and the rows of vsync and vreq, checked (R293). -/
def Ctx.onView (x : Ctx) (s : State) (w : FormE) (k : Nat → Nat → SlotView → View → List Nat → State) : State :=
  let slot := w.eimm.toNat % 16
  match x.lead w.com with
  | none => s.advance x
  | some lane =>
    let row := x.g.readSrc lane (src32Of w.a)
    let n := x.g.readSrc lane (src32Of w.b)
    let sv := x.slotView s slot
    match sv.view? with
    | none => s.takeTrap x (viewTrap lane slot 1 0)
    | some v => if v.rowsOk row n then k lane slot sv v (v.blocks row n) else s.takeTrap x (viewTrap lane slot 2 0)

/-- R294. -/
def execVsync (w : FormE) (s : State) : Host.Outcome State Fault Refusal :=
  issueWith (.vsync w) w.com [(w.a, 1), (w.b, 1)] [] s (fun x s => x.onView s w (fun lane slot sv v ms => x.syncView s lane slot sv v ms))

/-- R296: the request; at another device it travels as a posted message. -/
def execVreq (w : FormE) (s : State) : Host.Outcome State Fault Refusal :=
  issueWith (.vreq w) w.com [(w.a, 1), (w.b, 1)] [] s (fun x s => x.onView s w (fun lane _ sv v ms =>
    match sv with
    | .here _ => (s.requestBlocks v ms).advance x
    | _ =>
      let (id, s1) := s.fresh
      ({ s1 with fabric := s1.fabric ++ [{ id := id, wg := x.wg.key, grp := x.foc.grp, lane := lane, wi := x.sp.wi, ptr := v.awayPtr (ms.headD 0), op := .store [], since := s1.cycle, posted := true }] } : State).advance x))

/-- R293 code 0x2 of one lane of vchk. -/
def View.elemOk (v : View) (row col : Nat) : Bool :=
  v.row0 ≤ row && row < v.row0 + v.vrows && col < v.cols && (!v.edge || (v.col0 ≤ col && col < v.col0 + v.vcols))

/-- R295: one bit per executing lane; a helper's is 0. -/
def execVchk (w : FormE) (s : State) : Host.Outcome State Fault Refusal :=
  let slot := w.eimm.toNat % 16
  issueWith (.vchk w) w.com [(w.a, 1), (w.b, 1)] [] s (fun x s =>
    let act := x.active w.com
    let ls := lanesOf (x.real w.com)
    let at_ := fun (l : Nat) => (x.g.readSrc l (src32Of w.a), x.g.readSrc l (src32Of w.b))
    let finish := fun (s : State) (ok : List Nat) => (s.doneWith x (fun g => g.setPred w.d.index act (maskOf ok))).acquire x true
    if act = 0 then s.advance x
    else if ls = [] then finish s []
    else
      let sv := x.slotView s slot
      match sv.view? with
      | none => s.takeTrap x (viewTrap (ls.headD 0) slot 1 0)
      | some v =>
        match ls.find? (fun l => !v.elemOk (at_ l).1 (at_ l).2) with
        | some l => s.takeTrap x (viewTrap l slot 2 0)
        | none =>
          let ms := ls.map (fun l => v.elemAddr (at_ l).1 (at_ l).2 / 4096 - v.block0)
          match x.blockStates s (ls.headD 0) sv ms with
          | (s1, none) => s1.holdSplit x
          | (s1, some st) => if st.contains 3 then (x.flitsDone s1 false).takeTrap x (viewTrap (ls.headD 0) slot 1 0) else finish (x.flitsDone s1 false) ((ls.zip st).filterMap (fun e => if e.2 = 1 then some e.1 else none)))

end Sys2Proof.Machine
end

