-- ==== Sys2Proof/Machine/Arrivals.lean ====
section
/-! DEFINITION. What arrives for the splits' earlier work: contributions at their cells (R201), acknowledgements of icinv
(R193) and of Effeop (R330 to R332), peers' accesses (R418, R446), mailbox words (R218), doorbells (R390), interrupts (R392 to
R395), retests of channels (R388, R389) and updates of saved images (R51). -/
namespace Sys2Proof.Machine

/-- An event waits and comes again (log entry 31). -/
def State.waitEvent (s : State) (i : Instr) : State := { s with waiting := s.waiting ++ [i] }

/-- An access whose visibility times are on other dies settles its record when they have passed (R311). -/
def State.settleLater (s : State) (wg grp id pa : Nat) (v : Map Nat) : State :=
  if v = [] then s.settle wg grp id 0
  else { s with fabric := s.fabric ++ [{ id := id, wg := wg, grp := grp, lane := 0, wi := 0, ptr := pa, op := .store [], since := s.cycle, posted := true, vis := some v }] }

/-- The die that an arrival reaches: that of its line's home (log entry 57). -/
def State.arrivalDie (s : State) (pa : Nat) : Nat :=
  let p := s.forwarded pa
  if s.computeSide p then homeDie p else match paKind p with | .hbm d => d | _ => 0

/-- R26: an arrival whose order is not determined acts once the event arbiter of its die has numbered it. -/
def State.inOrder (s : State) (die kind src tgt : Nat) (again : Instr) (act : State → State) : State :=
  if s.ordered.contains again then act { s with ordered := s.ordered.erase again }
  else { s with agenda := .nondeterministicEvent die kind src tgt again :: s.agenda }

/-! ### Sequenced reductions (R201) -/

/-- A contribution ends: its split's record, or the answer to its peer. -/
def State.contribDone (s : State) (c : Contrib) (v : Map Nat) (fl : Flags) : State :=
  let s1 : State := { s with contribs := s.contribs.filter (fun k => k.id != c.id) }
  match c.peer with
  | some d => { s1 with inbound := s1.inbound ++ [{ src := d, vis := v, ans := .ok [] fl }] }
  | none => (s1.orRemote c.wg fl).settleLater c.wg c.grp c.id c.pa v

/-- The contribution is stale or repeated: DUP is set and it is dropped. -/
def State.contribDup (s : State) (c : Contrib) (pa : Nat) : State :=
  let r := s.update none (pa + 12) 4 (.setIn 1 1)
  r.1.contribDone c r.2 0

/-- The distance of an index from its cell's NEXT. -/
def State.contribGap (s : State) (c : Contrib) : Nat :=
  (c.idx.toNat + 2 ^ 32 - leNat (s.cohLatest (s.forwarded c.pa + 8) 4)) % 2 ^ 32

/-- R201: a contribution arrives, or is judged again. -/
def State.judge (s : State) (c : Contrib) : State :=
  let pa := s.forwarded c.pa
  let hold := fun (h : Bool) => { s with contribs := s.contribs.map (fun k => if k.id = c.id then { k with atHome := h } else k) }
  if s.poisoned pa 16 then
    let w := s.wg? c.wg
    (s.logRec { unit := 4, code := 0x45, ten := (w.map (·.ten)).getD 0xFF, src := 6, ctx := (w.map (·.ctx)).getD 0xFFFFFFFF, pa := pa, aux := 2 }).contribDone c [] 0
  else
    let d := s.contribGap c
    let same := s.contribs.any (fun k => k.atHome && k.id != c.id && s.forwarded k.pa == pa && k.idx == c.idx)
    if !c.atHome && same then s.contribDup c pa
    else if d = 0 ∧ ¬ s.homeReady pa then (hold true).askHome pa
    else if d = 0 then
      let b := s.cohLatest pa 16
      let r := atomicOp c.mod c.sgn c.sz (fieldAt b 0 (szBytes c.sz)) c.val.toNat 0
      let u := s.cohWrite pa (leBytes 8 r.1 ++ leBytes 4 ((fieldAt b 8 4 + 1) % 2 ^ 32) ++ b.drop 12)
      u.1.contribDone c u.2 r.2
    else if d < 256 then hold true
    else if d < 2 ^ 31 then (match c.peer with
      | some src => { s with contribs := s.contribs.filter (fun k => k.id != c.id), peerAnswers := (src, .retry) :: s.peerAnswers }
      | none => hold false)
    else s.contribDup c pa

/-- REDS_CONTRIBUTION_ARRIVAL (R201). -/
def execRedsContributionArrival (id : Nat) (s : State) : Host.Outcome State Fault Refusal :=
  match s.contribs.find? (fun c => c.id == id) with
  | some c => .next (s.judge c)
  | none => .next s

/-- REDS_RESEND (R201): a contribution that its core holds is sent when the cell's home would take it: its index is within
the window, or stale; one that a peer has rejected is sent again. -/
def execRedsResend (id : Nat) (s : State) : Host.Outcome State Fault Refusal :=
  match s.contribs.find? (fun c => c.id == id && !c.atHome) with
  | some c => .next (if c.away then (if (s.wg? c.wg).all (fun w => w.phase != .saved) then s.resendContrib c else s) else if (s.contribGap c < 256 ∨ 2 ^ 31 ≤ s.contribGap c) ∧ (s.wg? c.wg).all (fun w => w.phase != .saved) then s.judge c else s)
  | none => .next s

/-! ### icinv (R193) -/

/-- ICINV_ACK (R193): a cache has marked the block stale; the last acknowledgement gives the visibility time. -/
def execIcinvAck (id cache : Nat) (s : State) : Host.Outcome State Fault Refusal :=
  match s.icreqs.find? (fun r => r.id == id) with
  | none => .next s
  | some r =>
    if !r.left.contains cache then .next s
    else
      let left := r.left.filter (· != cache)
      let s1 : State := { s with icache := s.icache.map (fun b => if b.core = cache ∧ b.addr = r.addr then { b with stale := some s.cycle, known := none } else b) }
      if left ≠ [] then .next { s1 with icreqs := s1.icreqs.map (fun q => if q.id = id then { q with left := left } else q) }
      else
        let t := s.clock r.die + 1
        let s2 : State := { s1 with icreqs := s1.icreqs.filter (fun q => q.id != id), icache := s1.icache.map (fun b => if b.addr = r.addr ∧ b.stale.isSome then { b with known := some s.cycle } else b) }
        .next (s2.wgs.foldl (fun s w => (List.range w.groups.length).foldl (fun s gi => s.settle w.key gi id t) s) s2)

/-! ### Retests of windows (R388, R389) -/

/-- A completion window of a workgroup holds a completed entry. -/
def State.windowReady (s : State) (w : Workgroup) (ch : Nat) : Bool :=
  let c := w.chan ch
  match s.grid? w.grid with
  | some gr => c.v && c.kind == 2 && s.cqReady gr (s.binding gr c) c.pos c.ph
  | none => false

/-- A submission window takes a word. -/
def State.windowRoom (s : State) (w : Workgroup) (ch : Nat) : Bool :=
  let c := w.chan ch
  match s.grid? w.grid with
  | some gr => c.v && c.kind == 1 && (s.binding gr c).room c.pos c.wpos != 0
  | none => false

/-- The splits of a workgroup that are parked on a channel issue again. -/
def State.wakeChan (s : State) (key ch : Nat) : State :=
  s.wakeWhere (fun k _ sp => k == key && sp.phase = .parked && sp.blk = .chan ch)

/-- COMPLETION_WINDOW_RETEST (R388). -/
def execCompletionWindowRetest (wg ch : Nat) (s : State) : Host.Outcome State Fault Refusal :=
  match s.wg? wg with
  | some w => .next (if s.windowReady w ch then s.wakeChan wg ch else s)
  | none => .next s

/-- SUBMISSION_FULL_RETEST (R389). A full mailbox is tested again at the same times, by asking the peer (log entry 32). -/
def execSubmissionFullRetest (wg ch : Nat) (s : State) : Host.Outcome State Fault Refusal :=
  match s.wg? wg with
  | some w => .next (if (w.chan ch).kind = 3 then (s.modChan wg ch (fun c => { c with known := false })).wakeChan wg ch else if s.windowRoom w ch then s.wakeChan wg ch else s)
  | none => .next s

/-! ### The Mirror proxy (R390) -/

/-- R390: the visibility time has passed, ports and peers have answered, and no earlier entry has the same address. -/
def State.bellReady (s : State) (idx : Nat) : Bool :=
  match s.proxy[idx]? with
  | some p => s.passed p.die p.vis && p.pend.isEmpty && (s.proxy.take idx).all (fun q => q.addr != p.addr)
  | none => false

/-- R470: the doorbell's link is contained. -/
def State.bellLost (s : State) (addr : Nat) : Bool := match paKind addr with | .pcie p => s.contained p addr | _ => false

/-- DOORBELL_WRITE_OUT (R390). A doorbell to a contained link leaves as if delivered (R470). -/
def execDoorbellWriteOut (idx : Nat) (s : State) : Host.Outcome State Fault Refusal :=
  match s.proxy[idx]? with
  | some p => .next (if s.bellReady idx then { s with proxy := s.proxy.eraseIdx idx, doorbells := if s.bellLost p.addr then s.doorbells else (p.addr, p.value) :: s.doorbells } else s)
  | none => .next s

/-! ### Effeop (R330 to R332, R480) -/

/-- FLIT_REJECT_REPLAY (R331): the sender replays the flit in lane order; it stays on its way. -/
def execFlitRejectReplay (id : Nat) (s : State) : Host.Outcome State Fault Refusal :=
  let f := s.fabric.find? (fun f => f.id == id)
  .next (match f with | some _ => s | none => s)

/-- The peer ring's room as the latest acknowledgement reports it, less the words still on their way (log entry 32). -/
def State.learnRoom (s : State) (f : Flit) (ch : Nat) (ans : PeerAns) : State :=
  match ans with
  | .ok b _ =>
    let away := (s.fabric.filter (fun g => g.wg == f.wg && g.chan == some ch)).length
    (s.modChan f.wg ch (fun c => { c with room := leNat b - away, known := true })).wakeChan f.wg ch
  | _ => s

/-- SPACE6_ACK (R332, R446): the answer that a held access awaits, or the acknowledgement of a posted write or atomic. -/
def execSpace6Ack (id : Nat) (ans : PeerAns) (s : State) : Host.Outcome State Fault Refusal :=
  match s.fabric.find? (fun f => f.id == id && f.vis.isNone) with
  | none => .next s
  | some f =>
    if f.posted ∧ ans = .retry then .next (s.holdContrib f)
    else if !f.posted then
      let s1 : State := { s with fabric := s.fabric.map (fun g => if g.id = id ∧ g.ans.isNone then (if ans = .retry then { g with ans := some (.ok [] 0), rejected := true } else { g with ans := some ans }) else g) }
      .next (s1.wakeCounter (fun r => r == .peer f.ptr))
    else
      let s1 := ({ s with fabric := s.fabric.filter (fun g => g.id != id) } : State).settle f.wg f.grp id 0
      let s2 := match ans with | .ok _ fl => s1.orRemote f.wg fl | _ => s1
      .next (match f.chan with | some ch => s2.learnRoom f ch ans | none => s2)

/-- SPACE6_STORE_LOST (R480). -/
def execSpace6StoreLost (id : Nat) (s : State) : Host.Outcome State Fault Refusal :=
  match s.fabric.find? (fun f => f.id == id && f.posted && f.vis.isNone) with
  | none => .next s
  | some f =>
    let dev := bitsOf f.ptr 49 11
    if s.unreachable dev ∧ f.since + 2 ^ 24 ≤ s.cycle then
      .next ((({ s with fabric := s.fabric.filter (fun g => g.id != id) } : State).settle f.wg f.grp id 0).logRec { unit := 4, code := 0x58, sev := 2, src := 6, aux := 256 * dev })
    else .next s

/-- R330: the fabric lane of an offset. -/
def fabricLane (off : Nat) : Nat := bitsOf off 7 4 ^^^ bitsOf off 11 4

/-- R446: the permission that a peer's access needs. -/
def peerNeed (op : PeerOp) : Need :=
  match op with
  | .load _ => .rd
  | .atom true _ _ _ _ _ => .rdwr
  | _ => .wr

def State.answerPeer (s : State) (src : Nat) (a : PeerAns) : State := { s with peerAnswers := (src, a) :: s.peerAnswers }
def State.answerLater (_s : State) (src : Nat) (r : State × Map Nat) (a : PeerAns) : State :=
  { r.1 with inbound := r.1.inbound ++ [{ src := src, vis := r.2, ans := a }] }

/-- A peer's access is performed at its home on this device (R332, R446, R462), an atomic in the order that the die's arbiter
gives (R26); `again`: it comes again where the home cannot yet perform it. -/
def State.servePeer (s : State) (src : Nat) (op : PeerOp) (va pa : Nat) (again : Instr) : State :=
  let drop := fun (s : State) (n : Nat) => (s.logRec { unit := 4, code := 0x45, src := 6, pa := pa, aux := n }).answerPeer src (.ok [] 0)
  let next := s.inOrder (s.arrivalDie pa) 3 src va again
  match op with
  | .load n => if s.homeMoves (s.forwarded pa) then s.waitEvent again else if s.poisoned pa n then s.answerPeer src .poison else s.answerPeer src (.ok (s.cohRead pa n) 0)
  | .store b => s.answerLater src (s.cohWrite pa (s.programBytes pa (s.cohLatest pa b.length) b)) (.ok [] 0)
  | .atom ret mod sgn sz b cmp =>
    let n := szBytes sz
    if s.poisoned pa n then next (fun s => if ret then s.answerPeer src .poison else drop s 1)
    else if !s.homeReady pa then (s.askHome pa).waitEvent again
    else next (fun s =>
      let old := leNat (s.cohLatest pa n)
      let r := atomicOp mod sgn sz old b.toNat cmp.toNat
      s.answerLater src (s.cohWrite pa (s.programBytes pa (leBytes n old) (leBytes n r.1))) (.ok (if ret then leBytes n old else []) r.2))
  | .count v => next (fun s => if s.poisoned pa 8 then drop s 0x10 else s.answerLater src (s.update none pa 8 (.add v.toNat)) (.ok [] 0))
  | .reds mod sgn sz idx b => next (fun s =>
    let (id, s1) := s.fresh
    let c : Contrib := { id := id, wg := 0, grp := 0, lane := 0, cell := pa, pa := pa, idx := idx, val := b, mod := mod, sgn := sgn, sz := sz, peer := some src }
    ({ s1 with contribs := s1.contribs ++ [c] } : State).judge c)

/-- SPACE6_ACCESS_ARRIVAL (R418, R446): the window's entry, its permission and its translation decide. -/
def execSpace6AccessArrival (src lane off : Nat) (op : PeerOp) (s : State) : Host.Outcome State Fault Refusal :=
  if lane ≠ fabricLane off then .next s
  else match s.window? src off with
    | none => .next (s.answerPeer src .noWindow)
    | some w =>
      let k := peerNeed op
      if !w.permits k then .next (s.answerPeer src .noPerm)
      else
        let va := w.va + (off - w.base)
        match s.demand srcWindow w.pasid va k with
        | .ok pa at_ _ =>
          match paKind pa with
          | .reg => .next (s.answerPeer src (.invalid false))
          | _ => .next ((s.markPte at_ (k != .rd)).servePeer src op va pa (.space6AccessArrival src lane off op))
        | .malformed e => .next ((s.logRec { unit := 4, code := 0x06, ten := w.ten, src := 6, pasid := w.pasid, va := va, aux := e }).answerPeer src (.invalid false))
        | .bad perm => .next ((s.useAnswer srcWindow w.pasid va k.kind).answerPeer src (.invalid perm))
        | .wait => .next ((s.askPage srcWindow w.pasid va k.kind).waitEvent (.space6AccessArrival src lane off op))

/-- MAILBOX_WORD_ARRIVAL (R218): a peer's word goes in at the tail of the ring that a mailbox of the workgroup receives into. -/
def execMailboxWordArrival (_src wg loff : Nat) (word : W32) (s : State) : Host.Outcome State Fault Refusal :=
  match s.wg? wg with
  | none => .next s
  | some w =>
    match s.grid? w.grid with
    | none => .next s
    | some gr =>
      let chs := (List.range 16).filter (fun c => (w.chan c).v && ((w.chan c).kind == 3 || (w.chan c).kind == 0) && s.chanRing gr (w.chan c) == loff)
      if !chs.any (fun c => (w.chan c).kind == 3) || ringHeld s w loff + 1 > ringCap s w loff then .next s
      else .next (chs.foldl (fun s c => s.wakeChan wg c) (s.ringPush w loff [word]))

/-! ### Interrupts (R392 to R395) -/

/-- The fields of an IAT entry (R393). -/
def iatVa (e : Nat) : Nat := bitsOf e 72 56
def iatPasid (e : Nat) : Nat := bitsOf e 52 20
def iatVal (e : Nat) : Nat := bitsOf e 20 32
def iatTen (e : Nat) : Nat := bitsOf e 3 4
def iatKind (e : Nat) : Nat := bitsOf e 1 2

/-- R395: bits of an entry that break R393. -/
def iatBad (e : Nat) : Bool :=
  bitsOf e 7 13 != 0 || iatKind e == 3 || iatVa e % 8 != 0 || (iatKind e == 2 && (iatVa e != 0 || iatPasid e != 0)) ||
  (iatKind e == 0 && (iatVal e == 0 || iatVal e > 4095))

def State.fn? (s : State) (rid : Nat) : Option Fn := s.functions.find? (fun f => f.rid == rid)

/-- R470, R380: a function lies below a contained link, or below the port that is an endpoint. -/
def State.fnCut (s : State) (rid : Nat) : Bool :=
  match s.fn? rid with | some f => (f.port == 7 && s.endpointMode) || s.links.any (fun l => l.port == f.port && l.link == f.link && l.contained) | none => false

/-- A DMA write of a port that the root complex has received and not yet performed (R328). -/
def dmaOf (port : Nat) (i : Instr) : Bool := match i with | .endpointDmaWrite r => r.port == port | _ => false

/-- R392: the reason for which the root complex drops a write to the arrival window, 0 when it accepts it. -/
def State.msiReason (s : State) (m : Msi) : Nat :=
  let e := (mget 0 s.iat (m.data.toNat % 4096)).toNat
  if m.off ≠ 0 ∨ m.len ≠ 4 then 1
  else if m.data.toNat ≥ 4096 then 2
  else if !bitOf e 0 then 3
  else if ((s.fn? m.rid).bind (·.ten)) ≠ some (iatTen e) then 4
  else 0

/-- R395: an event is dropped and logged. -/
def State.iatDrop (s : State) (n e : Nat) : State :=
  s.logRec { unit := 4, code := 0x21, ten := iatTen e, src := 9, pasid := iatPasid e, va := iatVa e, aux := n }

/-- The entry that a waiting interrupt names. -/
def waitsAt (n : Nat) (i : Instr) : Bool :=
  match i with
  | .iatBarrierArrival m => m.data.toNat == n
  | .iatCounterAdd m => m.data.toNat == n
  | .iatKernelInterrupt m => m.data.toNat == n
  | _ => false

/-- The parts that the three kinds share: the window's drops, the kind, the port's DMA writes (R328), the entry's order and the
entry's own check. -/
def State.onMsi (s : State) (m : Msi) (kind : Nat) (again : Instr) (k : Nat → Nat → State) : State :=
  let n := m.data.toNat % 4096
  let e := (mget 0 s.iat n).toNat
  let why := s.msiReason m
  if s.fnCut m.rid then s
  else if why ≠ 0 then s.logRec { unit := 4, code := 0x5C, src := 10, aux := m.rid % 2 ^ 16 + 2 ^ 16 * why + 2 ^ 20 * n }
  else if s.waiting.any (fun i => waitsAt n i || dmaOf m.port i) ∨ ¬ s.allPassed (mget [] s.portVis m.port) then s.waitEvent again
  else if iatBad e then s.iatDrop n e
  else if iatKind e ≠ kind then s
  else k n e

/-- The requester number of the IAT's page requests. -/
def srcIat : Nat := 3001

/-- The physical address of an entry's word, or what becomes of the event (R447). -/
def State.iatPlace (s : State) (n e : Nat) (nd : Need) (again : Instr) (k : State → Nat → State) : State :=
  match s.demand srcIat (iatPasid e) (iatVa e) nd with
  | .ok pa at_ _ =>
    match paKind pa with
    | .reg => s.iatDrop n e
    | _ => if s.homeMoves pa then s.waitEvent again else if s.poisoned pa 8 then s.iatDrop n e else k (s.markPte at_ (nd == .wr)) pa
  | .malformed x => (s.logRec { unit := 4, code := 0x06, ten := iatTen e, src := 9, pasid := iatPasid e, va := iatVa e, aux := x }).iatDrop n e
  | .bad _ => (s.useAnswer srcIat (iatPasid e) (iatVa e) nd.kind).iatDrop n e
  | .wait => (s.askPage srcIat (iatPasid e) (iatVa e) nd.kind).waitEvent again

/-- IAT_BARRIER_ARRIVAL (R394, R395), with the retest of R388. -/
def execIatBarrierArrival (msi : Msi) (s : State) : Host.Outcome State Fault Refusal :=
  .next (s.onMsi msi 0 (.iatBarrierArrival msi) (fun n e => s.iatPlace n e .rd (.iatBarrierArrival msi) (fun s pa =>
    let t := leNat (s.cohRead pa 8)
    match s.wgs.find? (fun w => w.ten == iatTen e && w.ctx == bitsOf t 0 20) with
    | none => s.iatDrop n e
    | some w =>
      if !bitOf t 63 || bitsOf t 26 37 != 0 then s.iatDrop n e
      else s.inOrder (dieOfCore (w.cores.getD 0 0)) 1 n (iatVa e) (.iatBarrierArrival msi) (fun s =>
        let s1 := s.barUpdate { wg := w.key, win := 0, id := bitsOf t 20 6 } (BarObj.arrive (iatVal e) 2)
        (List.range 16).foldl (fun s c => if s.windowReady w c then s.wakeChan w.key c else s) s1))))

/-- IAT_COUNTER_ADD (R395). -/
def execIatCounterAdd (msi : Msi) (s : State) : Host.Outcome State Fault Refusal :=
  .next (s.onMsi msi 1 (.iatCounterAdd msi) (fun n e => s.iatPlace n e .wr (.iatCounterAdd msi) (fun s pa =>
    s.inOrder (s.arrivalDie pa) 1 n (iatVa e) (.iatCounterAdd msi) (fun s => (s.update none pa 8 (.add (iatVal e))).1))))

/-- IAT_KERNEL_INTERRUPT (R395). -/
def execIatKernelInterrupt (msi : Msi) (s : State) : Host.Outcome State Fault Refusal :=
  .next (s.onMsi msi 2 (.iatKernelInterrupt msi) (fun _ e => { s with irqs := s.irqs ++ [iatVal e] }))

/-! ### Images (R51) -/

/-- IMAGE_UPDATE (R51): an update directed to a pre-empted workgroup. -/
def execImageUpdate (wg : Nat) (upd : ImageUpd) (s : State) : Host.Outcome State Fault Refusal :=
  match s.wg? wg with
  | none => .next s
  | some w =>
    if w.phase ≠ .saved then .next s
    else match upd with
      | .arrive bid n => .next (s.barUpdate { wg := wg, win := 0, id := bid } (BarObj.arrive n 2))
      | .bytes bid tag out amount => .next (s.barUpdate { wg := wg, win := 0, id := bid } (BarObj.bytes out tag amount))
      | .store win off bs => .next (s.scrWrite w win off bs)
      | .count win off v => .next (s.scrWrite w win off (leBytes 8 ((leNat (s.scrRead w win off 8) + v.toNat) % 2 ^ 64)))

end Sys2Proof.Machine
end

