-- ==== Sys2Proof/Machine/Control.lean ====
section
/-! DEFINITION. Classes 6 and 7: branches, calls and loops (R222 to R226), retirement and waiting (R228, R229), traps
(R230), services (R232), the lease clock (R233) and doorbells (R235), with the ends of the waits that they begin. -/
namespace Sys2Proof.Machine

/-! ### Targets (R222) and placement of lanes (R39) -/

/-- R123, R222: the target of a form-K word at a word index. -/
def kTarget (w : FormK) (wi : W32) : W32 := if w.kind = 1 then w.off else wi + w.off

/-- Every lane of the split goes to one target. -/
def State.moveSplit (s : State) (x : Ctx) (t : W32) : State := s.modSplit x.foc (fun sp => { sp.advance with wi := t })

/-- R39, R225: each executing lane to its target and depth, the others to the next word index at the split's depth. -/
def State.placeLanes (s : State) (x : Ctx) (act : BitVec 32) (f : Group → Group) (tgt : Nat → W32) (dep : BitVec 16) : State :=
  let ts := (lanesOf x.sp.mask).foldl (fun ts l =>
    if act.getLsbD l then insertTarget (tgt l) dep (laneBit l) ts else insertTarget (x.sp.wi + 1) x.sp.depth (laneBit l) ts) []
  let (st, s1) := s.stamp
  s1.modGrp x.foc.wg x.foc.grp (fun g => (f g).diverge x.foc.pos st ts)

/-- R223. -/
def execBra (w : FormK) (s : State) : Host.Outcome State Fault Refusal :=
  issueWith (.bra w) w.com [] [] s (fun x s => s.moveSplit x (kTarget w x.sp.wi))

/-- R223: the condition of the group moves the issuing split. -/
def execBrc (w : FormK) (s : State) : Host.Outcome State Fault Refusal :=
  issueWith (.brc w) w.com [] [] s (fun x s => if x.gwOn w.com then s.moveSplit x (kTarget w x.sp.wi) else s.advance x)

/-- R223. -/
def execBrp (w : FormK) (s : State) : Host.Outcome State Fault Refusal :=
  issueWith (.brp w) w.com [] [] s (fun x s => s.placeLanes x (x.active w.com) id (fun _ => kTarget w x.sp.wi) x.sp.depth)

/-- R223. -/
def execJmp (w : FormK) (s : State) : Host.Outcome State Fault Refusal :=
  issueWith (.jmp w) w.com [(w.a, 1)] [] s (fun x s =>
    s.placeLanes x (x.active w.com) id (fun l => BitVec.ofNat 32 (x.g.readSrc l (src32Of w.a)) + w.off) x.sp.depth)

/-! ### Calls (R224, R225) -/

/-- R224: the depth leaves its range in a lane that is no helper. -/
def Ctx.depthTrap (x : Ctx) (c : Common) (bad : Bool) : Option Trap :=
  if bad && x.real c != 0 then some { cause := 0x0D, sub := 2, lane := x.trapLane c, val := x.sp.depth.zeroExtend 64 } else none

/-- R225: the return address in each executing lane, and the lanes at their callees. -/
def Ctx.enter (x : Ctx) (s : State) (c : Common) (d : Opnd) (tgt : Nat → W32) : State :=
  match x.depthTrap c (x.sp.depth == BitVec.allOnes 16) with
  | some t => s.takeTrap x t
  | none =>
    let act := x.active c
    s.placeLanes x act (fun g => (lanesOf act).foldl (fun g l => g.writeD l d false ((x.sp.wi + 1).zeroExtend 64)) g) tgt (x.sp.depth + 1)

def execCall (w : FormK) (s : State) : Host.Outcome State Fault Refusal :=
  issueWith (.call w) w.com [] [] s (fun x s => x.enter s w.com w.d (fun _ => kTarget w x.sp.wi))

def execCalli (w : FormL) (s : State) : Host.Outcome State Fault Refusal :=
  issueWith (.calli w) w.com [(w.a, 1)] [] s (fun x s => x.enter s w.com w.d (fun l => BitVec.ofNat 32 (x.g.readSrc l (src32Of w.a))))

/-- R225; in a helper lane alone a depth below 0 is 0 (R32). -/
def execRet (w : FormL) (s : State) : Host.Outcome State Fault Refusal :=
  issueWith (.ret w) w.com [(w.a, 1)] [] s (fun x s =>
    match x.depthTrap w.com (x.sp.depth == 0) with
    | some t => s.takeTrap x t
    | none => s.placeLanes x (x.active w.com) id (fun l => BitVec.ofNat 32 (x.g.readSrc l (src32Of w.a))) (if x.sp.depth = 0 then 0 else x.sp.depth - 1))

/-- R226. -/
def execLoop (w : FormK) (s : State) : Host.Outcome State Fault Refusal :=
  issueWith (.loop w) w.com [(w.a, 1)] [] s (fun x s =>
    let act := x.active w.com
    let n := fun (l : Nat) => BitVec.ofNat 32 (x.g.readSrc l (src32Of w.a)) - 1
    s.placeLanes x act (fun g => (lanesOf act).foldl (fun g l => g.writeD l w.a false ((n l).zeroExtend 64)) g)
      (fun l => if n l ≠ 0 then x.sp.wi + w.off else x.sp.wi + 1) x.sp.depth)

/-! ### Retirement of lanes and waiting -/

/-- R41: the group merges at an ssync that every split has reached. -/
def State.trySsync (s : State) (x : Ctx) : State := s.modGrp x.foc.wg x.foc.grp Group.ssyncMerge

/-- R32: with no lane left that is no helper, the helpers leave too. -/
def Group.dropHelpers (g : Group) (stamp : Nat) : Group :=
  if g.live &&& ~~~g.helper = 0 then g.dropLanes (BitVec.allOnes 32) stamp else g

/-- R42, R32: the executing lanes leave the split; the rest go on. -/
def execExit (w : FormL) (s : State) : Host.Outcome State Fault Refusal :=
  issueWith (.exit w) w.com [] [] s (fun x s =>
    let act := x.active w.com
    let (st, s1) := (s.advance x).stamp
    if act = 0 then s.advance x
    else (s1.modGrp x.foc.wg x.foc.grp (fun g => (g.dropLanes act st).dropHelpers st)).trySsync x)

/-- R229. -/
def execNop (w : FormL) (s : State) : Host.Outcome State Fault Refusal :=
  issueWith (.nop w) w.com [] [] s (fun x s => s.advance x)

/-- R41. -/
def execSsync (w : FormL) (s : State) : Host.Outcome State Fault Refusal :=
  issueWith (.ssync w) w.com [] [] s (fun x s => (s.blockSplit x .waiting .ssync .none).trySsync x)

/-- R229: the split goes to the youngest position of the age matrix, as every split does that has issued (R362). -/
def execYield (w : FormL) (s : State) : Host.Outcome State Fault Refusal :=
  issueWith (.yield w) w.com [] [] s (fun x s => s.advance x)

/-- R221: the lane that supplies a v or o source of a split instruction that acts within the group. -/
def Ctx.anyLead (x : Ctx) (c : Common) : Option Nat :=
  if x.active c = 0 then none else some (if x.real c = 0 then lowestLane (x.active c) else lowestLane (x.real c))

/-- R229. -/
def execSleep (w : FormL) (s : State) : Host.Outcome State Fault Refusal :=
  issueWith (.sleep w) w.com [(w.a, 1)] [] s (fun x s =>
    match x.anyLead w.com with
    | none => s.advance x
    | some l =>
      let n := Nat.min (x.g.readSrc l (src32Of w.a)) (2 ^ 24)
      if n = 0 then s.advance x
      else (s.blockSplit x .waiting .sleep .none).modSplit x.foc (fun sp => { sp with timer := n }))

/-- SLEEP_EXPIRES (R229): the count of a sleeping split of the table or of the spill area has reached zero. -/
def execSleepExpires (wg grp : Nat) (spilled : Bool) (pos : Nat) (s : State) : Host.Outcome State Fault Refusal :=
  let ended := fun (sp : Split) => sp.phase = .waiting && sp.why = .sleep && sp.timer = 0
  match (s.wg? wg).bind (fun w => w.groups[grp]?) with
  | none => .next s
  | some g =>
    if spilled then
      match g.spill[pos]? with
      | some sp => if ended sp then .next (s.modGrp wg grp (fun g => { g.stir with spill := g.spill.modify pos Split.advance })) else .next s
      | none => .next s
    else
      match g.table[pos]? with
      | some (some sp) => if ended sp then .next (s.modGrp wg grp (fun g => { g.stir with table := g.table.modify pos (Option.map Split.advance) })) else .next s
      | _ => .next s

/-! ### Spill rotation (R44) -/

/-- The table entry that a rotation exchanges: of ready splits, else of all, the one of the largest AGE, and of equal ones the
lowest. -/
def Group.oldest (g : Group) : Option (Nat × Split) :=
  let all := (List.range 8).filterMap (fun p => match g.table[p]? with | some (some sp) => some (p, sp) | _ => none)
  let ready := all.filter (fun e => e.2.phase == .ready)
  let from_ := if ready = [] then all else ready
  let top := maxNat (from_.map (fun e => Nat.min (e.2.age / 256) 0xFFFF))
  from_.find? (fun e => Nat.min (e.2.age / 256) 0xFFFF == top)

/-- One exchange of the oldest split with the front of the spill area. -/
def Group.rotate (g : Group) (stamp : Nat) : Group :=
  match g.spill, g.oldest with
  | sp :: rest, some (p, old) => { g with table := g.table.set p (some { sp with age := 0, qAt := stamp, mAt := none, inel := 0 }), spill := rest ++ [{ old with mAt := none, inel := 0 }] }
  | _, _ => g

/-- ROTATION (R44). One that falls in a cycle in which a merge or a divergence changes the split table comes in the next. -/
def execRotation (wg grp : Nat) (s : State) : Host.Outcome State Fault Refusal :=
  match (s.wg? wg).bind (fun w => w.groups[grp]?) with
  | none => .next s
  | some g =>
    if g.rot < 16384 ∨ g.changed then .next s
    else
      let (t, s1) := s.stamp
      .next (s1.modGrp wg grp (fun g => { (g.rotate t) with rot := 0 }))

/-- R44: every split of the table is parked or waiting while splits are spilled. -/
def Group.blocked (g : Group) : Bool :=
  g.spill != [] && g.table.any (·.isSome) && g.table.all (fun e => match e with | some sp => sp.phase != .ready | none => true)

/-- An immediate swap may be made: none has been made in this sequence, or some are left of it. -/
def Group.swapDue (g : Group) : Bool := g.blocked && (match g.swaps with | none => true | some n => n != 0)

/-- IMMEDIATE_SWAP (R44): at most one per cycle. A ready split brought in ends the sequence, and the table that blocks later begins
another. -/
def execImmediateSwap (wg grp : Nat) (s : State) : Host.Outcome State Fault Refusal :=
  match (s.wg? wg).bind (fun w => w.groups[grp]?) with
  | none => .next s
  | some g =>
    if !g.swapDue || g.swapAt = some s.cycle then .next s
    else
      let (t, s1) := s.stamp
      let left := (match g.swaps with | none => g.spill.length | some n => n) - 1
      .next (s1.modGrp wg grp (fun g => { (g.rotate t) with rot := 0, swapAt := some s.cycle, swaps := if (g.rotate t).blocked then some left else none }))

/-! ### Traps (R230, R424) -/

/-- R230. -/
def Ctx.software (x : Ctx) (s : State) (w : FormL) (cause : Nat) : State :=
  if x.real w.com = 0 then s.advance x
  else s.takeTrap x { cause := cause, lane := lowestLane (x.real w.com), val := w.fn.zeroExtend 64 }

def execTrap (w : FormL) (s : State) : Host.Outcome State Fault Refusal :=
  issueWith (.trap w) w.com [] [] s (fun x s => x.software s w 0x10)

def execBrk (w : FormL) (s : State) : Host.Outcome State Fault Refusal :=
  issueWith (.brk w) w.com [] [] s (fun x s => x.software s w 0x11)

/-- TRAP_ENTRY (R424): after 12 cycles the split is ready at the handler's word index. -/
def execTrapEntry (wg grp pos : Nat) (s : State) : Host.Outcome State Fault Refusal :=
  match ({ wg := wg, grp := grp, pos := pos } : Focus).lookup s with
  | none => .next s
  | some x =>
    if x.sp.phase = .waiting ∧ x.sp.why = .trapEntry ∧ x.sp.timer = 0 ∧ x.sp.blk = .none then
      .next ((s.moveSplit x x.gr.k.trap).modGrp wg grp Group.stir)
    else .next s

/-- RELEASE_WAIT_ENDS (R314, R299): what the release awaits has come, and its instruction goes on. -/
def execReleaseWaitEnds (wg grp pos : Nat) (s : State) : Host.Outcome State Fault Refusal :=
  match ({ wg := wg, grp := grp, pos := pos } : Focus).lookup s with
  | none => .next s
  | some x =>
    if x.sp.phase = .waiting ∧ x.sp.why = .release ∧ x.released s ∧ (x.sp.blk = .halo → s.haloDone x.wg.ctx x.sp.halo) then
      .next ((s.modSplit x.foc Split.wake).modGrp wg grp Group.stir)
    else .next s

/-- INELIGIBLE_SPLIT_REQUEUE (R362): a presented split that has been ineligible for 16 consecutive cycles. -/
def execIneligibleSplitRequeue (wg grp pos : Nat) (s : State) : Host.Outcome State Fault Refusal :=
  match ({ wg := wg, grp := grp, pos := pos } : Focus).lookup s with
  | none => .next s
  | some x =>
    if x.sp.mAt.isSome ∧ x.sp.inel ≥ 16 then
      let (t, s1) := s.stamp
      let (g1, u) := Group.present 2 { x.g with table := x.g.table.modify pos (Option.map (fun sp => { sp with mAt := none, inel := 0, qAt := t })) } s1.seq
      .next { s1.modGrp wg grp (fun _ => g1) with seq := u }
    else .next s

/-! ### Services (R232) -/

/-- Requests that a tenancy's service queue holds: at least one (log entry 28). -/
def serviceRoom : Nat := Config.serviceExtra + 1

/-- R232: the request goes to the tenancy's queue; a full queue leaves it at the core. -/
def Ctx.postCall (x : Ctx) (s : State) (ptr : Nat) : State :=
  let (id, s1) := s.fresh
  let room := (s.services.filter (fun r => r.ten == x.wg.ten && r.queued)).length < serviceRoom
  let s2 : State := { s1 with services := s1.services ++ [{ id := id, ten := x.wg.ten, pasid := x.gr.pasid, ptr := ptr, root := (match (s.node? x.gr.node).map (·.root) with | some 0 => 2 * x.gr.node | some r => 2 * r + 1 | none => 2 * x.gr.node), ctx := x.wg.ctx, grid := x.gr.id, wg := x.wg.key, grp := x.foc.grp, queued := room }] }
  if room then s2 else s2.recordPend x.foc id false

/-- R232. -/
def execSyscall (w : FormL) (s : State) : Host.Outcome State Fault Refusal :=
  issueWith (.syscall w) w.com [(w.a, 2)] [] s (fun x s =>
    match x.lead w.com with
    | none => s.advance x
    | some lane =>
      let p := x.g.readSrc lane (src64Of w.a)
      x.settlePlan s (x.planLanes { spaces := [0], width := 64, align := 64 } .rd false none [] s [(lane, p)]) (fun l =>
        x.withRelease s true 5 (fun s => (x.postCall (s.markLeaves l false) p).advance x)))

/-- SYSCALL_RESEND (R232): a held request enters the queue when it has room. -/
def execSyscallResend (id : Nat) (s : State) : Host.Outcome State Fault Refusal :=
  match s.services.find? (fun r => r.id == id && !r.queued) with
  | none => .next s
  | some r =>
    if (s.services.filter (fun q => q.ten == r.ten && q.queued)).length < serviceRoom then
      .next (({ s with services := s.services.filter (fun q => q.id != id) ++ [{ r with queued := true }] } : State).settle r.wg r.grp id 0)
    else .next s

/-! ### The lease clock (R233) -/

/-- R233: a value for the pair D. -/
def Group.writePairs (g : Group) (ls : List Nat) (d : Opnd) (v : W64) : Group :=
  match d with
  | .reg .s _ i => g.writeS i.toNat true v
  | .reg t _ i => ls.foldl (fun g l => g.writeLane l t i.toNat true v) g
  | .chan _ _ => g

/-- R233: held until every earlier store of the split has its visibility time. -/
def execGetlt (w : FormL) (s : State) : Host.Outcome State Fault Refusal :=
  issueWith (.getlt w) w.com [] [] s (fun x s =>
    if (if w.com.u then !x.gwOn w.com else x.active w.com == 0) then s.advance x
    else if !x.sp.pend.isEmpty then s.holdSplit x
    else
      let now := s.clock x.die
      let v := if w.com.mod.getLsbD 0 && !s.passed x.die x.sp.vis then x.sp.vis else now
      s.doneWith x (fun g => g.writePairs (lanesOf (x.active w.com)) w.d (BitVec.ofNat 64 (v % 2 ^ 48))))

/-- UNASSIGNED_OPCODE (R125): cause 0x01 with SUB 0x1, and no effect. -/
def execUnassignedOpcode (w : W96) (s : State) : Host.Outcome State Fault Refusal :=
  issueWith (.unassignedOpcode w) (wordCommon w) [] [] s (fun x s => s.takeTrap x (illegalTrap x 1 w))

/-! ### Doorbells (R235, R390, R391) -/

/-- R235: POS is read, and the entry with what it waits for goes to the Mirror proxy. -/
def execDbell (w : FormE) (s : State) : Host.Outcome State Fault Refusal :=
  let ch := w.eimm.toNat % 16
  issueWith (.dbell w) w.com [] [] s (fun x s =>
    match x.lead w.com with
    | none => s.advance x
    | some lane =>
      let c := x.wg.chan ch
      if !c.v ∨ (c.kind ≠ 1 ∧ c.kind ≠ 2) ∨ c.dbell = 0 then s.takeTrap x { cause := 0x0A, sub := 8, lane := lane, val := BitVec.ofNat 64 ch }
      else if s.proxy.length ≥ 1024 then s.holdSplit x
      else ({ s with proxy := s.proxy ++ [{ addr := c.dbell, value := c.pos, die := x.die, vis := x.sp.ioVis, pend := x.sp.ioPend }] } : State).advance x)

end Sys2Proof.Machine
end

