-- ==== Sys2Proof/Machine/Integer.lean ====
section
/-! DEFINITION. Class 0: integer, logic, move, address and predicate instructions (R132 to R153). -/
namespace Sys2Proof.Machine

/-- The value of w bits under a type (R79). -/
def valTy (ty : BitVec 4) (n : Nat) : Int := if isSignedTy ty then sextInt (tyBits ty) n else (lowBits (tyBits ty) n : Nat)

/-- The limits of a type (R79). -/
def loTy (ty : BitVec 4) : Int := if isSignedTy ty then -(2 ^ (tyBits ty - 1)) else 0
def hiTy (ty : BitVec 4) : Int := if isSignedTy ty then 2 ^ (tyBits ty - 1) - 1 else 2 ^ tyBits ty - 1

/-- R143: an exact result stored modulo 2^w, clamped first under SAT. -/
def storeTy (ty : BitVec 4) (sat : Bool) (x : Int) : W64 :=
  let y := if sat then (if x < loTy ty then loTy ty else if x > hiTy ty then hiTy ty else x) else x
  extendTy ty (wrapNat (tyBits ty) y)

/-- An integer instruction of form L: its sources under the type and its exact result. -/
def intL (w : FormL) (srcs : List Opnd) (f : List Int → Int) : Alu :=
  { com := w.com, d := w.d, wide := tyBits w.ty = 64, srcs := srcs.map (fun o => srcOf o w.ty), f := fun _ vs => (storeTy w.ty (w.com.mod.getLsbD 3) (f (vs.map (valTy w.ty))), 0) }

/-- The same in form I: the last source is the immediate. -/
def intI (w : FormI) (f : Int → Int → Int) : Alu :=
  { com := w.com, d := w.d, wide := tyBits w.ty = 64, srcs := [srcOf w.a w.ty], f := fun _ vs => (storeTy w.ty (w.com.mod.getLsbD 3) (f (valTy w.ty (vs.getD 0 0)) (valTy w.ty (immValue w.ty w.imm))), 0) }

/-- A bitwise instruction of form L: its sources as w-bit numbers. -/
def bitL (w : FormL) (srcs : List Src) (f : Nat → List Nat → Nat) : Alu :=
  { com := w.com, d := w.d, wide := tyBits w.ty = 64, srcs := srcs, f := fun _ vs => (extendTy w.ty (f (tyBits w.ty) vs), 0) }
def bitI (w : FormI) (f : Nat → Nat → Nat → Nat) : Alu :=
  { com := w.com, d := w.d, wide := tyBits w.ty = 64, srcs := [srcOf w.a w.ty], f := fun _ vs => (extendTy w.ty (f (tyBits w.ty) (vs.getD 0 0) (immValue w.ty w.imm)), 0) }

def arg0 (vs : List Int) : Int := vs.getD 0 0
def arg1 (vs : List Int) : Int := vs.getD 1 0
def arg2 (vs : List Int) : Int := vs.getD 2 0

/-! ### Moves (R140 to R142) -/

def execMov (w : FormL) (s : State) : Host.Outcome State Fault Refusal :=
  runAlu (.mov w) (bitL w [srcOf w.a w.ty] (fun _ vs => vs.getD 0 0)) s

/-- R140: the immediate's bit pattern; narrower integer patterns extend as R79 says. -/
def execMovi (w : FormI) (s : State) : Host.Outcome State Fault Refusal :=
  runAlu (.movi w) { com := w.com, d := w.d, wide := tyBits w.ty = 64, srcs := [], f := fun _ _ => (extendTy w.ty (immValue w.ty w.imm), 0) } s

/-- R126, R29: a special register as a lane of the issuing split reads it. -/
def Ctx.special (x : Ctx) (s : State) (n lane : Nat) : Nat :=
  match n with
  | 0x00 => lane
  | 0x01 => lane / 4
  | 0x02 => x.g.grpid
  | 0x03 => x.wg.ctx
  | 0x04 => x.gr.k.wgsize
  | 0x05 => if x.wg.cores.length > 1 then x.win else x.wg.rank
  | 0x06 => x.wg.clsize
  | 0x07 => x.wg.x
  | 0x08 => x.wg.y
  | 0x09 => x.wg.z
  | 0x0A => x.foc.pos
  | 0x0B => x.sp.mask.toNat
  | 0x0C => x.sp.depth.toNat
  | 0x0D => s.clock x.die
  | 0x0E => (mget 0 x.g.fstat lane).toNat
  | 0x0F => (mget 0 x.g.tcause lane).toNat
  | 0x10 => (mget 0 x.g.twi lane).toNat
  | 0x11 => (mget 0 x.g.tval lane).toNat
  | 0x12 => x.g.abase
  | 0x13 => x.g.alimit
  | _ => x.g.core

def execMovs (w : FormL) (s : State) : Host.Outcome State Fault Refusal :=
  let n := w.a.index
  issueWith (.movs w) w.com [] [] s (fun x t =>
    x.alu t { com := w.com, d := w.d, wide := specialWidth n = .pair, srcs := [], f := fun l _ => (BitVec.ofNat 64 (x.special t n l), 0) })

/-- R141, R428: what sset keeps of its source in one lane. -/
def Group.setSpecial (g : Group) (n lane : Nat) (v : Nat) : Group :=
  match n with
  | 0x0E => { g with fstat := mset 0 g.fstat lane (BitVec.ofNat 32 v &&& 0x1F1F#32) }
  | 0x0F => { g with tcause := mset 0 g.tcause lane (BitVec.ofNat 32 v &&& 0x9FFFFF#32) }
  | 0x10 => { g with twi := mset 0 g.twi lane (BitVec.ofNat 32 v) }
  | _ => { g with tval := mset 0 g.tval lane (BitVec.ofNat 64 v) }

def execSset (w : FormL) (s : State) : Host.Outcome State Fault Refusal :=
  let n := w.d.index
  let wide := specialWidth n = .pair
  issueWith (.sset w) w.com [(w.a, if wide then 2 else 1)] [] s (fun x t =>
    t.doneWith x (fun g => (lanesOf (x.active w.com)).foldl (fun g l => g.setSpecial n l (x.g.readSrc l { opnd := w.a, ty := none, wide := wide })) g))

/-- R142: the first active lane, or a named one, into an s register. -/
def execMovg (w : FormL) (s : State) : Host.Outcome State Fault Refusal :=
  let wide := tyBits w.ty = 64
  issueWith (.movg w) w.com ([(w.a, if wide then 2 else 1)] ++ (if w.com.mod = 1 then [(w.b, 1)] else [])) [] s (fun x t =>
    let set := x.real w.com
    if set = 0 then t.advance x
    else
      let l := if w.com.mod = 1 then x.g.readSrc 0 (src32Of w.b) % 32 else lowestLane set
      x.acrossLanes t (fun old => t.doneWith x (fun g => g.writeS w.d.index wide (BitVec.ofNat 64 (old.readSrc l { opnd := w.a, ty := none, wide := wide })))))

/-! ### Integer arithmetic (R143, R144) -/

def execIadd (w : FormL) (s : State) : Host.Outcome State Fault Refusal :=
  runAlu (.iadd w) (intL w [w.a, w.b] (fun vs => arg0 vs + arg1 vs)) s
def execIaddImm (w : FormI) (s : State) : Host.Outcome State Fault Refusal :=
  runAlu (.iaddImm w) (intI w (fun a b => a + b)) s
def execIsub (w : FormL) (s : State) : Host.Outcome State Fault Refusal :=
  runAlu (.isub w) (intL w [w.a, w.b] (fun vs => arg0 vs - arg1 vs)) s
def execIsubImm (w : FormI) (s : State) : Host.Outcome State Fault Refusal :=
  runAlu (.isubImm w) (intI w (fun a b => a - b)) s
def execImul (w : FormL) (s : State) : Host.Outcome State Fault Refusal :=
  runAlu (.imul w) (intL w [w.a, w.b] (fun vs => arg0 vs * arg1 vs)) s
def execImulImm (w : FormI) (s : State) : Host.Outcome State Fault Refusal :=
  runAlu (.imulImm w) (intI w (fun a b => a * b)) s
/-- The high half of the exact product. -/
def execImulh (w : FormL) (s : State) : Host.Outcome State Fault Refusal :=
  runAlu (.imulh w) (intL w [w.a, w.b] (fun vs => Int.fdiv (arg0 vs * arg1 vs) (2 ^ tyBits w.ty))) s
def execImad (w : FormL) (s : State) : Host.Outcome State Fault Refusal :=
  runAlu (.imad w) (intL w [w.a, w.b, w.c] (fun vs => arg0 vs * arg1 vs + arg2 vs)) s

/-- R144: quotient and remainder, truncating, with the results for a zero divisor and for minimum by -1. -/
def divRem (ty : BitVec 4) (a b : Int) : Int × Int :=
  if b = 0 then (2 ^ tyBits ty - 1, a)
  else if isSignedTy ty ∧ a = loTy ty ∧ b = -1 then (loTy ty, 0)
  else (Int.tdiv a b, Int.tmod a b)

def execIdiv (w : FormL) (s : State) : Host.Outcome State Fault Refusal :=
  runAlu (.idiv w) (intL w [w.a, w.b] (fun vs => (divRem w.ty (arg0 vs) (arg1 vs)).1)) s
def execIrem (w : FormL) (s : State) : Host.Outcome State Fault Refusal :=
  runAlu (.irem w) (intL w [w.a, w.b] (fun vs => (divRem w.ty (arg0 vs) (arg1 vs)).2)) s
def execImin (w : FormL) (s : State) : Host.Outcome State Fault Refusal :=
  runAlu (.imin w) (intL w [w.a, w.b] (fun vs => if arg1 vs < arg0 vs then arg1 vs else arg0 vs)) s
def execImax (w : FormL) (s : State) : Host.Outcome State Fault Refusal :=
  runAlu (.imax w) (intL w [w.a, w.b] (fun vs => if arg0 vs < arg1 vs then arg1 vs else arg0 vs)) s
def execIabs (w : FormL) (s : State) : Host.Outcome State Fault Refusal :=
  runAlu (.iabs w) (intL w [w.a] (fun vs => ((arg0 vs).natAbs : Int))) s
def execIneg (w : FormL) (s : State) : Host.Outcome State Fault Refusal :=
  runAlu (.ineg w) (intL w [w.a] (fun vs => - arg0 vs)) s

/-! ### Logic, shifts and bits (R145 to R148) -/

def execAnd (w : FormL) (s : State) : Host.Outcome State Fault Refusal :=
  runAlu (.and w) (bitL w [srcOf w.a w.ty, srcOf w.b w.ty] (fun _ vs => vs.getD 0 0 &&& vs.getD 1 0)) s
def execAndImm (w : FormI) (s : State) : Host.Outcome State Fault Refusal :=
  runAlu (.andImm w) (bitI w (fun _ a b => a &&& b)) s
def execOr (w : FormL) (s : State) : Host.Outcome State Fault Refusal :=
  runAlu (.or w) (bitL w [srcOf w.a w.ty, srcOf w.b w.ty] (fun _ vs => vs.getD 0 0 ||| vs.getD 1 0)) s
def execOrImm (w : FormI) (s : State) : Host.Outcome State Fault Refusal :=
  runAlu (.orImm w) (bitI w (fun _ a b => a ||| b)) s
def execXor (w : FormL) (s : State) : Host.Outcome State Fault Refusal :=
  runAlu (.xor w) (bitL w [srcOf w.a w.ty, srcOf w.b w.ty] (fun _ vs => vs.getD 0 0 ^^^ vs.getD 1 0)) s
def execXorImm (w : FormI) (s : State) : Host.Outcome State Fault Refusal :=
  runAlu (.xorImm w) (bitI w (fun _ a b => a ^^^ b)) s

/-- The bitwise complement at a width. -/
def complement (w a : Nat) : Nat := 2 ^ w - 1 - lowBits w a

def execAndn (w : FormL) (s : State) : Host.Outcome State Fault Refusal :=
  runAlu (.andn w) (bitL w [srcOf w.a w.ty, srcOf w.b w.ty] (fun n vs => vs.getD 0 0 &&& complement n (vs.getD 1 0))) s
def execNot (w : FormL) (s : State) : Host.Outcome State Fault Refusal :=
  runAlu (.not w) (bitL w [srcOf w.a w.ty] (fun n vs => complement n (vs.getD 0 0))) s

/-- R146: the shifts at a width, for any amount. -/
def shlBits (w a n : Nat) : Nat := if n < w then lowBits w (a * 2 ^ n) else 0
def shrBits (w a n : Nat) : Nat := if n < w then a / 2 ^ n else 0
def sarBits (w a n : Nat) : Nat := wrapNat w (Int.fdiv (sextInt w a) ((2 ^ (if n < w then n else w) : Nat) : Int))
def rotlBits (w a n : Nat) : Nat := lowBits w (a * 2 ^ (n % w)) ||| a / 2 ^ (w - n % w)

/-- Form L of a shift: B is a 32-bit amount whatever the type (R135). -/
def shiftL (w : FormL) (f : Nat → Nat → Nat → Nat) : Alu := bitL w [srcOf w.a w.ty, src32Of w.b] (fun n vs => f n (vs.getD 0 0) (vs.getD 1 0))
/-- Form I: the low 32 bits of the immediate's value (R146). -/
def shiftI (w : FormI) (f : Nat → Nat → Nat → Nat) : Alu := bitI w (fun n a b => f n a (lowBits 32 b))

def execShl (w : FormL) (s : State) : Host.Outcome State Fault Refusal := runAlu (.shl w) (shiftL w shlBits) s
def execShlImm (w : FormI) (s : State) : Host.Outcome State Fault Refusal := runAlu (.shlImm w) (shiftI w shlBits) s
def execShr (w : FormL) (s : State) : Host.Outcome State Fault Refusal := runAlu (.shr w) (shiftL w shrBits) s
def execShrImm (w : FormI) (s : State) : Host.Outcome State Fault Refusal := runAlu (.shrImm w) (shiftI w shrBits) s
def execSar (w : FormL) (s : State) : Host.Outcome State Fault Refusal := runAlu (.sar w) (shiftL w sarBits) s
def execSarImm (w : FormI) (s : State) : Host.Outcome State Fault Refusal := runAlu (.sarImm w) (shiftI w sarBits) s
def execRotl (w : FormL) (s : State) : Host.Outcome State Fault Refusal := runAlu (.rotl w) (shiftL w rotlBits) s
def execRotlImm (w : FormI) (s : State) : Host.Outcome State Fault Refusal := runAlu (.rotlImm w) (shiftI w rotlBits) s

/-- R147: a count goes to one register whatever the type. -/
def countL (w : FormL) (f : Nat → Nat → Nat) : Alu :=
  { com := w.com, d := w.d, wide := false, srcs := [srcOf w.a w.ty], f := fun _ vs => (BitVec.ofNat 64 (f (tyBits w.ty) (vs.getD 0 0)), 0) }

def execPopc (w : FormL) (s : State) : Host.Outcome State Fault Refusal := runAlu (.popc w) (countL w popcount) s
/-- Zeros above the most significant one, w for zero. -/
def leadingZeros (w a : Nat) : Nat := if a = 0 then w else w - 1 - topBit w a
def execClz (w : FormL) (s : State) : Host.Outcome State Fault Refusal := runAlu (.clz w) (countL w leadingZeros) s
def execCtz (w : FormL) (s : State) : Host.Outcome State Fault Refusal := runAlu (.ctz w) (countL w trailingZeros) s
def execBrev (w : FormL) (s : State) : Host.Outcome State Fault Refusal :=
  runAlu (.brev w) (bitL w [srcOf w.a w.ty] (fun n vs => bitReverse n (vs.getD 0 0))) s

/-- R148: the control word's position and length, cut at the width; none where the field is empty. -/
def bitField (w ctl : Nat) : Option (Nat × Nat) :=
  let p := ctl % 256
  let n := ctl / 256 % 256
  if n = 0 ∨ p ≥ w then none else some (p, Nat.min n (w - p))

def bfxBits (ty : BitVec 4) (a ctl : Nat) : Nat :=
  match bitField (tyBits ty) ctl with
  | none => 0
  | some (p, n) => if isSignedTy ty then wrapNat (tyBits ty) (sextInt n (a / 2 ^ p)) else a / 2 ^ p % 2 ^ n
def bfiBits (w a b ctl : Nat) : Nat :=
  match bitField w ctl with
  | none => a
  | some (p, n) => a - bitsOf a p n * 2 ^ p + b % 2 ^ n * 2 ^ p

def execBfx (w : FormL) (s : State) : Host.Outcome State Fault Refusal :=
  runAlu (.bfx w) (bitL w [srcOf w.a w.ty, src32Of w.b] (fun _ vs => bfxBits w.ty (vs.getD 0 0) (vs.getD 1 0))) s
def execBfi (w : FormL) (s : State) : Host.Outcome State Fault Refusal :=
  runAlu (.bfi w) (bitL w [srcOf w.a w.ty, srcOf w.b w.ty, src32Of w.c] (fun n vs => bfiBits n (vs.getD 0 0) (vs.getD 1 0) (vs.getD 2 0))) s

/-! ### Selection and predicates (R149 to R151) -/

def execSel (w : FormL) (s : State) : Host.Outcome State Fault Refusal :=
  issueWith (.sel w) w.com [(w.a, if tyBits w.ty = 64 then 2 else 1), (w.b, if tyBits w.ty = 64 then 2 else 1)] [w.c.index] s (fun x t =>
    x.alu t { com := w.com, d := w.d, wide := tyBits w.ty = 64, srcs := [srcOf w.a w.ty, srcOf w.b w.ty], f := fun l vs => (extendTy w.ty (if (if w.com.u then x.g.cond w.c.index else (x.g.pred w.c.index).getLsbD l) then vs.getD 0 0 else vs.getD 1 0), 0) })

/-- R150: the condition of a compare. -/
def icmpHolds (m : BitVec 4) (a b : Int) : Bool :=
  match m.toNat with
  | 0 => a == b | 1 => a != b | 2 => a < b | 3 => a ≤ b | 4 => b < a | _ => b ≤ a

def execIcmp (w : FormL) (s : State) : Host.Outcome State Fault Refusal :=
  runCmp (.icmp w) { com := w.com, d := w.d.index, srcs := [srcOf w.a w.ty, srcOf w.b w.ty], f := fun vs => (icmpHolds w.com.mod (valTy w.ty (vs.getD 0 0)) (valTy w.ty (vs.getD 1 0)), 0) } s
def execIcmpImm (w : FormI) (s : State) : Host.Outcome State Fault Refusal :=
  runCmp (.icmpImm w) { com := w.com, d := w.d.index, srcs := [srcOf w.a w.ty], f := fun vs => (icmpHolds w.com.mod (valTy w.ty (vs.getD 0 0)) (valTy w.ty (immValue w.ty w.imm)), 0) } s

/-- R151: bit FN[4a + 2b + c]. -/
def plogBit (fn : BitVec 12) (a b c : Bool) : Bool :=
  fn.getLsbD ((if a then 4 else 0) + (if b then 2 else 0) + (if c then 1 else 0))

def execPlog (w : FormL) (s : State) : Host.Outcome State Fault Refusal :=
  issueWith (.plog w) w.com [] [w.a.index, w.b.index, w.c.index] s (fun x t =>
    if w.com.u then
      if !x.gwOn w.com then t.advance x
      else t.doneWith x (fun g => g.setCond w.d.index (plogBit w.fn (x.g.cond w.a.index) (x.g.cond w.b.index) (x.g.cond w.c.index)))
    else
      let m := x.active w.com
      let v := maskOf ((lanesOf m).filter (fun l => plogBit w.fn ((x.g.pred w.a.index).getLsbD l) ((x.g.pred w.b.index).getLsbD l) ((x.g.pred w.c.index).getLsbD l)))
      t.doneWith x (fun g => g.setPred w.d.index m v))

/-! ### Addresses (R152, R153) -/

/-- R152: the address that lea forms. -/
def leaAddr (w : FormL) (a b : Nat) : Nat :=
  let i : Int := if w.fn.getLsbD 11 then 0 else (if w.com.mod.getLsbD 2 then sextInt 32 b else (b : Int)) * (2 ^ (w.com.mod.toNat % 4) : Nat)
  let off := sextInt 11 w.fn.toNat
  if w.com.mod.getLsbD 3 then bitsOf a 60 4 * 2 ^ 60 + wrapNat 60 ((a % 2 ^ 60 : Nat) + i + off) else wrapNat 64 ((a : Int) + i + off)

def execLea (w : FormL) (s : State) : Host.Outcome State Fault Refusal :=
  runAlu (.lea w) { com := w.com, d := w.d, wide := true, srcs := [src64Of w.a] ++ (if w.fn.getLsbD 11 then [] else [src32Of w.b]), f := fun _ vs => (BitVec.ofNat 64 (leaAddr w (vs.getD 0 0) (vs.getD 1 0)), 0) } s

/-- R153: the first two rows of R54, as a SUB of cause 0x06. -/
def Ctx.tagFault (x : Ctx) (p : Nat) : Option Nat :=
  if !ptrFormed p then some 1
  else if ptrSpace p = 3 && bitsOf p 56 4 ≥ x.wg.clsize then some 2 else none

def Ctx.ptagged (x : Ctx) (lane p : Nat) : Nat :=
  match ptrSpace p with
  | 1 => (privBlock x.gr x.wg x.g.grpid + 4096 + p % 2 ^ 32 / 16 * 512 + 16 * lane + p % 16) % 2 ^ 64
  | 2 => 3 * 2 ^ 60 + (if x.wg.cores.length > 1 then x.win else x.wg.rank) * 2 ^ 56 + p % 2 ^ 21
  | _ => p

def execPtag (w : FormL) (s : State) : Host.Outcome State Fault Refusal :=
  issueWith (.ptag w) w.com [(w.a, 2)] [] s (fun x t =>
    match (lanesOf (x.real w.com)).find? (fun l => (x.tagFault (x.g.readSrc l (src64Of w.a))).isSome) with
    | some l =>
      let p := x.g.readSrc l (src64Of w.a)
      t.takeTrap x { cause := 0x06, sub := (x.tagFault p).getD 1, lane := l, val := BitVec.ofNat 64 p }
    | none =>
      x.alu t { com := w.com, d := w.d, wide := true, srcs := [src64Of w.a], f := fun l vs => (if (x.tagFault (vs.getD 0 0)).isSome then 0 else BitVec.ofNat 64 (x.ptagged l (vs.getD 0 0)), 0) })

end Sys2Proof.Machine
end

