-- ==== Sys2Proof/Machine/Real.lean ====
section
/-! DEFINITION. Square roots and bounds of real functions in fixed point, with which the results that R175 bounds are
tested, and 2*pi for frred (R177). A number here is an integer count of 2^-P. -/
namespace Sys2Proof.Machine

/-- The integer square root of n, one bit of the root per step from bit k-1 down. -/
def isqrt (n : Nat) : (k r : Nat) → Nat
  | 0, r => r
  | k + 1, r => isqrt n k (if (r + 2 ^ k) * (r + 2 ^ k) ≤ n then r + 2 ^ k else r)

/-- The precision of the bounds below: 240 bits under the point. -/
def realP : Nat := 240
def one : Int := 2 ^ realP
def fmulP (a b : Int) : Int := Int.fdiv (a * b) one

/-- The sum of x^n / n! from a term on (n counts up). -/
def expSeries (x : Int) : (fuel n : Nat) → (term acc : Int) → Int
  | 0, _, _, acc => acc
  | f + 1, n, t, acc =>
    let t1 := Int.fdiv (fmulP t x) n
    expSeries x f (n + 1) t1 (acc + t1)

/-- exp(x) for |x| at most 1. -/
def expP (x : Int) : Int := expSeries x 60 1 one one

/-- The sum of z^(2n+1)/(2n+1), alternating in sign when `alt`. -/
def atanSeries (z2 : Int) (alt : Bool) : (fuel n : Nat) → (pow acc : Int) → Int
  | 0, _, _, acc => acc
  | f + 1, n, p, acc =>
    let t := Int.fdiv p (2 * n + 1 : Nat)
    atanSeries z2 alt f (n + 1) (fmulP p z2) (if alt && n % 2 == 1 then acc - t else acc + t)

/-- ln(num/den) for num/den from 1 up to 2. -/
def lnP (num den : Nat) : Int :=
  let z := Int.fdiv (((num : Int) - den) * one) (num + den : Nat)
  2 * atanSeries (fmulP z z) false 80 0 z 0
def ln2P : Int := lnP 2 1

/-- atan(1/k) as a count of 2^-p. -/
def atanInv (k : Nat) : (fuel n : Nat) → (pow acc : Int) → Int
  | 0, _, _, acc => acc
  | f + 1, n, p, acc =>
    let t := Int.fdiv p (2 * n + 1 : Nat)
    atanInv k f (n + 1) (Int.fdiv p (k * k : Nat)) (if n % 2 == 1 then acc - t else acc + t)
/-- pi as a count of 2^-p, to within a few units (Machin's formula). -/
def piFix (p terms : Nat) : Int :=
  let s : Int := 2 ^ p
  4 * (4 * atanInv 5 terms 0 (Int.fdiv s 5) 0 - atanInv 239 terms 0 (Int.fdiv s 239) 0)
def piP : Int := piFix realP 60

/-- The sum of the sine series from a term on: the terms of odd power, alternating. -/
def sinSeries (x2 : Int) : (fuel n : Nat) → (term acc : Int) → Int
  | 0, _, _, acc => acc
  | f + 1, n, t, acc =>
    let t1 := -Int.fdiv (fmulP t x2) ((n + 1) * (n + 2) : Nat)
    sinSeries x2 f (n + 2) t1 (acc + t1)
/-- sin(x) and cos(x) for |x| up to pi. -/
def sinP (x : Int) : Int := sinSeries (fmulP x x) 50 1 x x
def cosP (x : Int) : Int := sinSeries (fmulP x x) 50 0 one one

/-- (-1)^neg m 2^e as a count of 2^-P, rounded down. -/
def toP (n : Bool) (m : Nat) (e : Int) : Int :=
  let x : Int := if n then -(m : Int) else m
  match e + realP with
  | .ofNat k => x * 2 ^ k
  | .negSucc k => Int.fdiv x (2 ^ (k + 1))

def pow2P (x : Int) (k : Int) : Int :=
  match k with
  | .ofNat j => x * 2 ^ j
  | .negSucc j => Int.fdiv x (2 ^ (j + 1))

/-- 2^x for x given as a count of 2^-P. -/
def exp2P (x : Int) : Int :=
  let i := Int.fdiv x one
  pow2P (expP (fmulP (x - i * one) ln2P)) i

/-- tanh(x) for x not negative: (1 - u)/(1 + u) with u = exp(-2x). -/
def tanhP (x : Int) : Int :=
  if x > 128 * one then one - 1
  else
    let u0 := expP (Int.fdiv (-2 * x) 256)
    let sq := fun (a : Int) => fmulP a a
    let u := sq (sq (sq (sq (sq (sq (sq (sq u0)))))))
    Int.fdiv ((one - u) * one) (one + u)

/-- How far the fixed-point values above may be from the real ones, in units of 2^-P. -/
def realErr : Int := 2 ^ 40

end Sys2Proof.Machine
end

