-- ==== Sys2Proof/Machine/Float.lean ====
section
/-! DEFINITION. Classes 1 and 2: floating point, functions, conversions and narrow formats (R160 to R182). -/
namespace Sys2Proof.Machine

def modSat (c : Common) : Bool := c.mod.getLsbD 3
def modFtz (c : Common) : Bool := c.mod.getLsbD 2
def modRm (c : Common) : Nat := c.mod.toNat % 4

/-- R168, R172, R174, R179: an overflow to infinity under SAT becomes the largest finite number. -/
def satInf (f : Fmt) (sat : Bool) (r : Nat × Flags) : Nat × Flags :=
  if sat ∧ r.2 &&& fOF ≠ 0 ∧ r.1 % f.signBit = f.infBits then (r.1 - 1, r.2) else r

/-- A result's bits as they stand in a register or pair (R162). -/
def asBits (r : Nat × Flags) : W64 × Flags := (BitVec.ofNat 64 r.1, r.2)

/-- A floating-point instruction of form L: its result from its decoded sources. -/
def fltL (w : FormL) (srcs : List Opnd) (f : Fmt → List FVal → Nat × Flags) : Alu :=
  let ft := fmtOf w.ty
  { com := w.com, d := w.d, wide := tyBits w.ty = 64, srcs := srcs.map (fun o => srcOf o w.ty), f := fun _ vs => asBits (f ft (vs.map (ft.decode (modFtz w.com)))) }

def fv (vs : List FVal) (i : Nat) : FVal := vs.getD i (.fin false 0 0)

/-- An exact result with the flags of its operation, rounded and saturated. -/
def finish (c : Common) (f : Fmt) (v : FVal × Flags) : Nat × Flags :=
  let r := satInf f (modSat c) (f.round (modRm c) (modFtz c) v.1)
  (r.1, r.2 ||| v.2)

/-! ### Arithmetic (R168 to R174) -/

def execFadd (w : FormL) (s : State) : Host.Outcome State Fault Refusal :=
  runAlu (.fadd w) (fltL w [w.a, w.b] (fun f vs => finish w.com f ((fv vs 0).add (modRm w.com) (fv vs 1)))) s

/-- Form I: the second source is the immediate (R120, R160). -/
def fltI (w : FormI) (g : FVal → FVal → FVal × Flags) : Alu :=
  let ft := fmtOf w.ty
  { com := w.com, d := w.d, wide := tyBits w.ty = 64, srcs := [srcOf w.a w.ty], f := fun _ vs => asBits (finish w.com ft (g (ft.decode (modFtz w.com) (vs.getD 0 0)) (ft.decode (modFtz w.com) (immValue w.ty w.imm)))) }

def execFaddImm (w : FormI) (s : State) : Host.Outcome State Fault Refusal :=
  runAlu (.faddImm w) (fltI w (fun a b => a.add (modRm w.com) b)) s
def execFsub (w : FormL) (s : State) : Host.Outcome State Fault Refusal :=
  runAlu (.fsub w) (fltL w [w.a, w.b] (fun f vs => finish w.com f ((fv vs 0).add (modRm w.com) (fv vs 1).negate))) s
def execFmul (w : FormL) (s : State) : Host.Outcome State Fault Refusal :=
  runAlu (.fmul w) (fltL w [w.a, w.b] (fun f vs => finish w.com f ((fv vs 0).mul (fv vs 1)))) s
def execFmulImm (w : FormI) (s : State) : Host.Outcome State Fault Refusal :=
  runAlu (.fmulImm w) (fltI w (fun a b => a.mul b)) s

/-- R168: the product is not rounded, and 0 * infinity is invalid even with a quiet NaN addend. -/
def fmaVals (mode : Nat) (a b c : FVal) : FVal × Flags :=
  let (p, f1) := a.mul b
  let (r, f2) := p.add mode c
  (r, f1 ||| f2)

def execFfma (w : FormL) (s : State) : Host.Outcome State Fault Refusal :=
  runAlu (.ffma w) (fltL w [w.a, w.b, w.c] (fun f vs => finish w.com f (fmaVals (modRm w.com) (fv vs 0) (fv vs 1) (fv vs 2)))) s

/-- R169: a before b in the order in which -0 lies below +0. -/
def fltBefore (a b : FVal) : Bool := a.lt b || (a.isZero && b.isZero && a.sign && !b.sign)
def minMax (f : Fmt) (max : Bool) (a b : FVal) : Nat × Flags :=
  let fl := flagIf (a.isSNaN || b.isSNaN) fNV
  let v := if a.isNaN then b else if b.isNaN then a
    else if max then (if fltBefore a b then b else a) else (if fltBefore b a then b else a)
  ((f.round 0 false v).1, fl)

def execFmin (w : FormL) (s : State) : Host.Outcome State Fault Refusal :=
  runAlu (.fmin w) (fltL w [w.a, w.b] (fun f vs => minMax f false (fv vs 0) (fv vs 1))) s
def execFmax (w : FormL) (s : State) : Host.Outcome State Fault Refusal :=
  runAlu (.fmax w) (fltL w [w.a, w.b] (fun f vs => minMax f true (fv vs 0) (fv vs 1))) s

/-- R170. -/
def fcmpHolds (cond : Nat) (a b : FVal) : Bool × Flags :=
  let un := a.isNaN || b.isNaN
  let sn := flagIf (a.isSNaN || b.isSNaN) fNV
  match cond with
  | 0 => (a.eq b, sn)
  | 1 => (!a.eq b, sn)
  | 2 => (!un && a.lt b, flagIf un fNV)
  | 3 => (!un && !b.lt a, flagIf un fNV)
  | 4 => (!un && b.lt a, flagIf un fNV)
  | 5 => (!un && !a.lt b, flagIf un fNV)
  | 6 => (un, sn)
  | _ => (!un, sn)

def execFcmp (w : FormL) (s : State) : Host.Outcome State Fault Refusal :=
  let f := fmtOf w.ty
  runCmp (.fcmp w) { com := w.com, d := w.d.index, srcs := [srcOf w.a w.ty, srcOf w.b w.ty], f := fun vs => fcmpHolds (w.fn.toNat % 16) (f.decode (modFtz w.com) (vs.getD 0 0)) (f.decode (modFtz w.com) (vs.getD 1 0)) } s

/-- R171: the bit of a value's class. -/
def classBit (f : Fmt) (bits : Nat) : Nat :=
  match f.decode false bits with
  | .nan true => 8
  | .nan false => 9
  | .inf n => if n then 0 else 7
  | .fin n m _ =>
    if m = 0 then (if n then 3 else 4)
    else if f.subnormal bits then (if n then 2 else 5) else (if n then 1 else 6)

def execFclass (w : FormL) (s : State) : Host.Outcome State Fault Refusal :=
  runAlu (.fclass w) { com := w.com, d := w.d, wide := false, srcs := [srcOf w.a w.ty], f := fun _ vs => (BitVec.ofNat 64 (2 ^ classBit (fmtOf w.ty) (vs.getD 0 0)), 0) } s

/-- R172. -/
def divVals (f : Fmt) (mode : Nat) (ftz sat : Bool) (a b : FVal) : Nat × Flags :=
  let sg := a.sign != b.sign
  match a, b with
  | .fin _ m e, .fin _ k h =>
    if k = 0 then (if m = 0 then (f.nanBits, fNV) else (f.withSign sg f.infBits, fDZ))
    else
      let d := e - h
      satInf f sat (f.roundRat mode ftz sg (m * 2 ^ d.toNat) (k * 2 ^ (-d).toNat))
  | .inf _, .inf _ => (f.nanBits, fNV)
  | .inf _, .fin _ _ _ => (f.withSign sg f.infBits, 0)
  | .fin _ _ _, .inf _ => (f.withSign sg 0, 0)
  | _, _ => (f.nanBits, flagIf (a.isSNaN || b.isSNaN) fNV)

def execFdiv (w : FormL) (s : State) : Host.Outcome State Fault Refusal :=
  runAlu (.fdiv w) (fltL w [w.a, w.b] (fun f vs => divVals f (modRm w.com) (modFtz w.com) (modSat w.com) (fv vs 0) (fv vs 1))) s

/-- The root of m * 2^e to at least p bits, as twice the integer root plus one where it is inexact, at an exponent. -/
def rootOf (m : Nat) (e : Int) (p : Nat) : Nat × Int :=
  let k := 2 * p + 4 + (if (e - (2 * p + 4 : Nat)) % 2 = 0 then 0 else 1)
  let n := m * 2 ^ k
  let r := isqrt n (Nat.log2 n / 2 + 1) 0
  (2 * r + (if r * r = n then 0 else 1), (e - (k : Int)) / 2 - 1)

def sqrtVal (f : Fmt) (mode : Nat) (ftz : Bool) (a : FVal) : Nat × Flags :=
  match a with
  | .nan sn => (f.nanBits, flagIf sn fNV)
  | .inf n => if n then (f.nanBits, fNV) else (f.infBits, 0)
  | .fin n m e =>
    if m = 0 then (f.withSign n 0, 0)
    else if n then (f.nanBits, fNV)
    else
      let (r, q) := rootOf m e (f.fw + 2)
      f.round mode ftz (.fin false r q)

def execFsqrt (w : FormL) (s : State) : Host.Outcome State Fault Refusal :=
  runAlu (.fsqrt w) (fltL w [w.a] (fun f vs => sqrtVal f (modRm w.com) (modFtz w.com) (fv vs 0))) s

/-- R173: rounding to an integral value in the same format. -/
def roundIntegral (f : Fmt) (mode : Nat) (a : FVal) : Nat × Flags :=
  match a with
  | .nan sn => (f.nanBits, flagIf sn fNV)
  | .inf n => (f.withSign n f.infBits, 0)
  | .fin n m (.ofNat e) => ((f.round 0 false (.fin n m (.ofNat e))).1, 0)
  | .fin n m (.negSucc e) => ((f.round 0 false (.fin n (quantise mode n m (2 ^ (e + 1)) 0).1 0)).1, 0)

def execFrnd (w : FormL) (s : State) : Host.Outcome State Fault Refusal :=
  runAlu (.frnd w) (fltL w [w.a] (fun f vs => roundIntegral f (modRm w.com) (fv vs 0))) s

/-- R174: a power of two beyond ±5000 rounds as ±5000 does in every format. -/
def scaleVal (f : Fmt) (mode : Nat) (ftz sat : Bool) (a : FVal) (b : Int) : Nat × Flags :=
  let b := if b > 5000 then 5000 else if b < -5000 then -5000 else b
  match a with
  | .fin n m e => satInf f sat (f.round mode ftz (.fin n m (e + b)))
  | .inf n => (f.withSign n f.infBits, 0)
  | .nan sn => (f.nanBits, flagIf sn fNV)

def execFldx (w : FormL) (s : State) : Host.Outcome State Fault Refusal :=
  let f := fmtOf w.ty
  runAlu (.fldx w) { com := w.com, d := w.d, wide := tyBits w.ty = 64, srcs := [srcOf w.a w.ty, srcOf w.b tyI32], f := fun _ vs => asBits (scaleVal f (modRm w.com) (modFtz w.com) (modSat w.com) (f.decode (modFtz w.com) (vs.getD 0 0)) (sextInt 32 (vs.getD 1 0))) } s

/-! ### Functions (R175 to R178) -/

/-- R175: |r - y| is at most n ulp(y) at both ends of an interval that holds y (counts of 2^-P), and r has y's sign. The binade is
that of the end nearer to zero: an inexact y is no power of two. -/
def withinUlp (f : Fmt) (n : Nat) (r : Nat) (neg : Bool) (lo hi : Int) : Bool :=
  match f.decode false r with
  | .fin sg m e =>
    let rv := toP sg m e
    let y := Nat.min lo.natAbs hi.natAbs
    let ex := if y = 0 then f.emin else (Nat.log2 y : Int) - (realP : Int)
    let ulp := toP false 1 ((if ex < f.emin then f.emin else ex) - f.fw)
    (rv - lo).natAbs ≤ n * ulp.natAbs && (rv - hi).natAbs ≤ n * ulp.natAbs && sg == neg
  | _ => false

/-- A function's result: the part's own bits where they keep the bound of R175, else y rounded to nearest (log entry 7).
`mag`: no result of a larger magnitude (ftanh). -/
def boundedResult (fno : Nat) (f : Fmt) (ftz : Bool) (n : Nat) (input : Nat) (y : Int) (mag : Option Nat) : Nat × Flags :=
  let near := f.roundRat 0 ftz (y < 0) y.natAbs (2 ^ realP)
  if near.2 &&& fOF ≠ 0 then near
  else if ftz && near.2 &&& fUF != 0 && near.1 % f.signBit == 0 then near
  else
    let own := (Config.functionBits fno f.width input ftz).toNat % 2 ^ f.width
    let ok := withinUlp f n own (y < 0) (y - realErr) (y + realErr) && (match mag with | some k => own % f.signBit ≤ k | none => true)
    let r := if ok then own else near.1
    if ftz && f.subnormal r then (f.withSign (y < 0) 0, fUF ||| fNX) else (r, fNX ||| flagIf (f.tiny 0 (y < 0) y.natAbs (2 ^ realP)) fUF)

/-- The exponent of a magnitude that is a power of two. -/
def pow2Exp (m : Nat) (e : Int) : Option Int := if m ≠ 0 ∧ m = 2 ^ Nat.log2 m then some (e + Nat.log2 m) else none

/-- R176: the reciprocal. -/
def rcpVal (f : Fmt) (ftz : Bool) (input : Nat) (a : FVal) : Nat × Flags :=
  match a with
  | .nan sn => (f.nanBits, flagIf sn fNV)
  | .inf n => (f.withSign n 0, 0)
  | .fin n m e =>
    if m = 0 then (f.withSign n f.infBits, fDZ)
    else
      let num := 2 ^ (-e).toNat
      let den := m * 2 ^ e.toNat
      let near := f.roundRat 0 ftz n num den
      if near.2 &&& (fOF ||| fNX) = 0 then near
      else if near.2 &&& fOF ≠ 0 then near
      else
        let own := (Config.functionBits 0 f.width input ftz).toNat % 2 ^ f.width
        let ok := match f.decode false own with
          | .fin sg k h =>
            let ex := ratLog num den
            let q := (if ex < f.emin then f.emin else ex) - f.fw
            let c := if h < q then h else q
            let rn := k * 2 ^ (h - c).toNat
            let un := 2 ^ (q - c).toNat
            let sc := 2 ^ (-c).toNat
            let up := 2 ^ c.toNat
            sg == n && (((rn * up * den : Nat) : Int) - (num * sc : Nat)).natAbs ≤ un * up * den
          | _ => false
        let r := if ok then own else near.1
        if ftz && f.subnormal r then (f.withSign n 0, fUF ||| fNX) else (r, near.2 ||| fNX)

def funcL (w : FormL) (g : Fmt → Bool → Nat → FVal → Nat × Flags) : Alu :=
  let ft := fmtOf w.ty
  let ftz := modFtz w.com
  { com := w.com, d := w.d, wide := tyBits w.ty = 64, srcs := [srcOf w.a w.ty], f := fun _ vs => asBits (g ft ftz (vs.getD 0 0) (ft.decode ftz (vs.getD 0 0))) }

def execFrcp (w : FormL) (s : State) : Host.Outcome State Fault Refusal := runAlu (.frcp w) (funcL w rcpVal) s

/-- R176: the reciprocal square root. Twice the exponent of the result is at least that of the smallest normal number. -/
def rsqVal (f : Fmt) (ftz : Bool) (input : Nat) (a : FVal) : Nat × Flags :=
  match a with
  | .nan sn => (f.nanBits, flagIf sn fNV)
  | .inf n => if n then (f.nanBits, fNV) else (0, 0)
  | .fin n m e =>
    if m = 0 then (f.withSign n f.infBits, fDZ)
    else if n then (f.nanBits, fNV)
    else match pow2Exp m e with
      | some k => if k % 2 = 0 then f.round 0 ftz (.fin false 1 (-(k / 2))) else go m e
      | none => go m e
where
  /-- The root of 2^q / (m 2^e) scaled by an even power so that the fixed point holds enough bits. -/
  go (m : Nat) (e : Int) : Nat × Flags :=
    let sh : Int := if e % 2 = 0 then e else e - 1
    let m2 := if e % 2 = 0 then m else 2 * m
    let r := isqrt (2 ^ (2 * realP + 128) / m2) (realP + 66) 0
    let y : Int := r
    let ex := -(sh / 2) - 64
    let near := f.round 0 ftz (.fin false (2 * r + 1) (ex - realP - 1))
    let own := (Config.functionBits 1 f.width input ftz).toNat % 2 ^ f.width
    let ok := match f.decode false own with
      | .fin sg k h =>
        let q := ex + (Nat.log2 r : Int) - (realP : Int) - f.fw
        let rv := pow2P ((k : Int) * 2 ^ (2 * realP)) (h - ex - (realP : Int))
        let ulp := pow2P (2 ^ (2 * realP)) (q - ex - (realP : Int))
        !sg && (rv - y).natAbs + 2 ≤ ulp.natAbs
      | _ => false
    (if ok then own else near.1, near.2 ||| fNX)

def execFrsq (w : FormL) (s : State) : Host.Outcome State Fault Refusal := runAlu (.frsq w) (funcL w rsqVal) s

/-- R176: 2^a. An input of magnitude 4096 or more lies beyond every result. -/
def exp2Val (f : Fmt) (ftz : Bool) (input : Nat) (a : FVal) : Nat × Flags :=
  match a with
  | .nan sn => (f.nanBits, flagIf sn fNV)
  | .inf n => if n then (0, 0) else (f.infBits, 0)
  | .fin n m e =>
    if m = 0 then f.round 0 false (.fin false 1 0)
    else
      let x := toP n m e
      if x ≥ ((f.bias : Int) + 1) * one then (f.infBits, fOF ||| fNX)
      else
        let i := Int.fdiv x one
        let small := f.emin - f.fw
        if i * one = x ∧ e ≥ -(realP : Int) ∧ i ≥ small then f.round 0 ftz (.fin false 1 i)
        else boundedResult 2 f ftz 2 input (if i < -200 then 1 else exp2P x) none

def execFexp2 (w : FormL) (s : State) : Host.Outcome State Fault Refusal := runAlu (.fexp2 w) (funcL w exp2Val) s

/-- R176: the base-2 logarithm. -/
def log2Val (f : Fmt) (ftz : Bool) (input : Nat) (a : FVal) : Nat × Flags :=
  match a with
  | .nan sn => (f.nanBits, flagIf sn fNV)
  | .inf n => if n then (f.nanBits, fNV) else (f.infBits, 0)
  | .fin n m e =>
    if m = 0 then (f.withSign true f.infBits, fDZ)
    else if n then (f.nanBits, fNV)
    else match pow2Exp m e with
      | some k => f.ofInt 0 k
      | none =>
        let k := Nat.log2 m
        boundedResult 3 f ftz 2 input ((e + k) * one + Int.fdiv (lnP m (2 ^ k) * one) ln2P) none

def execFlog2 (w : FormL) (s : State) : Host.Outcome State Fault Refusal := runAlu (.flog2 w) (funcL w log2Val) s

/-- R176: tanh; no magnitude above 1. -/
def tanhVal (f : Fmt) (ftz : Bool) (input : Nat) (a : FVal) : Nat × Flags :=
  let one_ := (f.round 0 false (.fin false 1 0)).1
  match a with
  | .nan sn => (f.nanBits, flagIf sn fNV)
  | .inf n => (f.withSign n one_, 0)
  | .fin n m e =>
    if m = 0 then (f.withSign n 0, 0)
    else
      let y := tanhP (toP false m (if e > 200 then 200 else e))
      boundedResult 4 f ftz 2 input (if n then -y else y) (some one_)

def execFtanh (w : FormL) (s : State) : Host.Outcome State Fault Refusal := runAlu (.ftanh w) (funcL w tanhVal) s

/-- R178: the angle in turns less its nearest integer, ties to even: numerator of 2^-P turns. -/
def turnsP (n : Bool) (m : Nat) (e : Int) : Int :=
  match e with
  | .ofNat _ => 0
  | .negSucc k =>
    let q := (quantise 0 n m (2 ^ (k + 1)) 0).1
    let r : Int := (m : Int) - (q * 2 ^ (k + 1) : Nat)
    toP false 1 (Int.negSucc k) * (if n then -r else r)

def sinCosVal (cos : Bool) (f : Fmt) (ftz : Bool) (input : Nat) (a : FVal) : Nat × Flags :=
  match a with
  | .nan sn => (f.nanBits, flagIf sn fNV)
  | .inf _ => (f.nanBits, fNV)
  | .fin n m e =>
    let t := turnsP n m e
    let exact := fun (v : Int) => f.ofInt 0 v
    if t = 0 then (if cos then exact 1 else (f.withSign n 0, 0))
    else if 2 * t.natAbs = one.natAbs then (if cos then exact (-1) else (0, 0))
    else if 4 * t = one then (if cos then (0, 0) else exact 1)
    else if 4 * t = -one then (if cos then (0, 0) else exact (-1))
    else
      let x := fmulP (2 * piP) t
      boundedResult (if cos then 6 else 5) f ftz 1 input (if cos then cosP x else sinP x) none

def execFsin (w : FormL) (s : State) : Host.Outcome State Fault Refusal := runAlu (.fsin w) (funcL w (sinCosVal false)) s
def execFcos (w : FormL) (s : State) : Host.Outcome State Fault Refusal := runAlu (.fcos w) (funcL w (sinCosVal true)) s

/-- R177: an angle in radians to turns. pi is taken to 1,400 bits under the point, beyond the largest exponent of f64
by more than 40 fraction bits. -/
def rredVal (a : FVal) : Nat × Flags :=
  match a with
  | .nan sn => (fp32.nanBits, flagIf sn fNV)
  | .inf _ => (fp32.nanBits, fNV)
  | .fin n m e =>
    if m = 0 then (fp32.withSign n 0, 0)
    else
      let twoPi := (2 * piFix 1400 320).natAbs
      -- x / (2 pi) * 2^200, rounded down
      let t := match e + 1600 with | .ofNat k => m * 2 ^ k / twoPi | .negSucc k => m / (twoPi * 2 ^ (k + 1))
      let i := (quantise 0 false t (2 ^ 200) 0).1
      let fr : Int := (t : Int) - (i * 2 ^ 200 : Nat)
      let g := (quantise 0 (fr < 0) fr.natAbs (2 ^ 160) 0).1
      let neg := (fr < 0) != n
      if g = 0 then (0, fNX) else ((fp32.round 0 false (.fin neg g (-40))).1, fNX)

def execFrred (w : FormL) (s : State) : Host.Outcome State Fault Refusal :=
  let ft := fmtOf w.ty2
  runAlu (.frred w) { com := w.com, d := w.d, wide := false, srcs := [srcOf w.a w.ty2], f := fun _ vs => asBits (rredVal (ft.decode (modFtz w.com) (vs.getD 0 0))) } s

/-! ### Conversions (R179 to R182) -/

/-- R92, R179: the result of cvt from TY2 to TY. SAT acts on every floating-point result that overflows, also on cvt.f16.bf16, whose
types have one width: R179 says `a narrower FP`, and bf16's range is not within f16's (DESIGN CHOICE, log entry 82). -/
def cvtBits (ty ty2 : BitVec 4) (c : Common) (v : Nat) : W64 × Flags :=
  if isFloatTy ty2 then
    let a := (fmtOf ty2).decode (modFtz c) v
    if isFloatTy ty then
      let r := finish c (fmtOf ty) (a, flagIf a.isSNaN fNV)
      let r := if a.isInf then ((fmtOf ty).withSign a.sign (fmtOf ty).infBits, 0) else r
      (BitVec.ofNat 64 r.1, r.2)
    else
      let r := toIntTy (modRm c) (isSignedTy ty) (tyBits ty) a
      (extendTy ty (wrapNat (tyBits ty) r.1), r.2)
  else
    let z := valTy ty2 v
    if isFloatTy ty then
      let r := satInf (fmtOf ty) (modSat c) ((fmtOf ty).ofInt (modRm c) z)
      (BitVec.ofNat 64 r.1, r.2)
    else (storeTy ty (modSat c) z, 0)

def execCvt (w : FormL) (s : State) : Host.Outcome State Fault Refusal :=
  runAlu (.cvt w) { com := w.com, d := w.d, wide := tyBits w.ty = 64, srcs := [srcOf w.a w.ty2], f := fun _ vs => cvtBits w.ty w.ty2 w.com (vs.getD 0 0) } s

/-- R104: a tensor's counts, saturating: saturations, flushes and NaNs at 4t, 4t+1 and 4t+2. -/
def addStat (m : Map Nat) (k n : Nat) : Map Nat := mset 0 m k (Nat.min (mget 0 m k + n) 0xFFFFFFFF)
def Workgroup.count (w : Workgroup) (tid : Nat) (c : MarkCount) : Workgroup :=
  { w with stats := addStat (addStat (addStat w.stats (4 * tid) c.sat) (4 * tid + 1) c.flush) (4 * tid + 2) c.nan }
def markSum (cs : List MarkCount) : MarkCount := cs.foldl (fun a c => { sat := a.sat + c.sat, flush := a.flush + c.flush, nan := a.nan + c.nan }) {}

/-- R180: one element per lane into one scale block over the group's 32 lanes. -/
def execCvtm (w : FormL) (s : State) : Host.Outcome State Fault Refusal :=
  let ft := fmtOf w.ty2
  let q6 := w.ty = tyM8
  issueWith (.cvtm w) w.com [(w.a, if tyBits w.ty2 = 64 then 2 else 1)] [] s (fun x t =>
    let set := x.real w.com
    let val := fun l => ft.decode (modFtz w.com) (x.g.readSrc l (srcOf w.a w.ty2))
    let k := chooseScale ((lanesOf set).map val)
    let rs := (lanesOf (x.active w.com)).map (fun l => (l, if set.getLsbD l then markerEncode q6 k (val l) else (0, {})))
    let cnt := markSum (rs.map (fun r => r.2.2))
    if set = 0 then t.advance x
    else
      let t1 := t.modWg x.wg.key (fun wg => wg.count (w.fn.toNat % 256) { cnt with nan := if k = 0xFF then 1 else 0 })
      t1.doneWith x (fun g => (rs.foldl (fun g r => g.writeD r.1 w.d false (BitVec.ofNat 64 r.2.1)) g).writeS w.c.index false (BitVec.ofNat 64 k)))

/-- R181. -/
def execCvtx (w : FormL) (s : State) : Host.Outcome State Fault Refusal :=
  let ft := fmtOf w.ty
  let q6 := w.ty2 = tyM8
  runAlu (.cvtx w) { com := w.com, d := w.d, wide := tyBits w.ty = 64, srcs := [src32Of w.a, src32Of w.b], f := fun _ vs => asBits (markerDecode ft (modRm w.com) (modFtz w.com) q6 (vs.getD 0 0 % (if q6 then 256 else 16)) (vs.getD 1 0 % 256)) } s

/-- R182: elements of neighbouring lanes packed into words, from any lane of the group (R137). A of .f16 and .bf16 is a source of that
type, whose SMOD row of R115 admits HI, ABS and NEG; the packed word of funpk is read whole and takes no modifier (log entry 81). -/
def execFpack (w : FormL) (s : State) : Host.Outcome State Fault Refusal :=
  let e := tyBits w.ty
  let n := 32 / e
  issueWith (.fpack w) w.com [(w.a, 1)] [] s (fun x t =>
    x.acrossLanes t (fun g => x.commit t w.d false ((lanesOf (x.active w.com)).map (fun l =>
      (l, BitVec.ofNat 64 ((List.range n).foldl (fun acc i => acc + g.readSrc (l / n * n + i) (srcOf w.a w.ty) % 2 ^ e * 2 ^ (e * i)) 0), (0 : Flags))))))

def execFunpk (w : FormL) (s : State) : Host.Outcome State Fault Refusal :=
  let e := tyBits w.ty
  runAlu (.funpk w) { com := w.com, d := w.d, wide := false, srcs := [src32Of w.a], f := fun l vs => (BitVec.ofNat 64 (vs.getD 0 0 / 2 ^ (e * (l % (32 / e))) % 2 ^ e), 0) } s

end Sys2Proof.Machine
end

