-- ==== Sys2Proof/Machine/Digest.lean ====
section
/-! DEFINITION. SHA-256, which R413 names for the digests of a report. The function itself is that of FIPS 180-4 (log entry 79). -/
namespace Sys2Proof.Machine

/-- The round constants. -/
def shaK0 : List W32 := [0x428a2f98, 0x71374491, 0xb5c0fbcf, 0xe9b5dba5, 0x3956c25b, 0x59f111f1, 0x923f82a4, 0xab1c5ed5, 0xd807aa98, 0x12835b01, 0x243185be, 0x550c7dc3, 0x72be5d74, 0x80deb1fe, 0x9bdc06a7, 0xc19bf174]
def shaK1 : List W32 := [0xe49b69c1, 0xefbe4786, 0x0fc19dc6, 0x240ca1cc, 0x2de92c6f, 0x4a7484aa, 0x5cb0a9dc, 0x76f988da, 0x983e5152, 0xa831c66d, 0xb00327c8, 0xbf597fc7, 0xc6e00bf3, 0xd5a79147, 0x06ca6351, 0x14292967]
def shaK2 : List W32 := [0x27b70a85, 0x2e1b2138, 0x4d2c6dfc, 0x53380d13, 0x650a7354, 0x766a0abb, 0x81c2c92e, 0x92722c85, 0xa2bfe8a1, 0xa81a664b, 0xc24b8b70, 0xc76c51a3, 0xd192e819, 0xd6990624, 0xf40e3585, 0x106aa070]
def shaK3 : List W32 := [0x19a4c116, 0x1e376c08, 0x2748774c, 0x34b0bcb5, 0x391c0cb3, 0x4ed8aa4a, 0x5b9cca4f, 0x682e6ff3, 0x748f82ee, 0x78a5636f, 0x84c87814, 0x8cc70208, 0x90befffa, 0xa4506ceb, 0xbef9a3f7, 0xc67178f2]
def shaK : List W32 := shaK0 ++ shaK1 ++ shaK2 ++ shaK3

/-- The eight working words. -/
structure Sha where
  a : W32
  b : W32
  c : W32
  d : W32
  e : W32
  f : W32
  g : W32
  h : W32
deriving DecidableEq, Repr

def shaInit : Sha := { a := 0x6a09e667, b := 0xbb67ae85, c := 0x3c6ef372, d := 0xa54ff53a, e := 0x510e527f, f := 0x9b05688c, g := 0x1f83d9ab, h := 0x5be0cd19 }

/-- One round, with its constant and its word of the message schedule. -/
def Sha.round (s : Sha) (k w : W32) : Sha :=
  let t1 := s.h + (s.e.rotateRight 6 ^^^ s.e.rotateRight 11 ^^^ s.e.rotateRight 25) + ((s.e &&& s.f) ^^^ (~~~s.e &&& s.g)) + k + w
  let t2 := (s.a.rotateRight 2 ^^^ s.a.rotateRight 13 ^^^ s.a.rotateRight 22) + ((s.a &&& s.b) ^^^ (s.a &&& s.c) ^^^ (s.b &&& s.c))
  { a := t1 + t2, b := s.a, c := s.b, d := s.c, e := s.d + t1, f := s.e, g := s.f, h := s.g }

/-- The message schedule, latest word first. -/
def shaExtend : (fuel : Nat) → List W32 → List W32
  | 0, ws => ws
  | n + 1, ws =>
    let w2 := ws.getD 1 0
    let w15 := ws.getD 14 0
    let w := (w2.rotateRight 17 ^^^ w2.rotateRight 19 ^^^ w2 >>> 10) + ws.getD 6 0 + (w15.rotateRight 7 ^^^ w15.rotateRight 18 ^^^ w15 >>> 3) + ws.getD 15 0
    shaExtend n (w :: ws)

/-- A block of 64 bytes as 16 words, most significant byte first. -/
def shaWords (b : List Byte) : List W32 :=
  (List.range 16).map (fun i => ((b.drop (4 * i)).take 4).foldl (fun w x => w <<< 8 ||| x.zeroExtend 32) (0 : W32))

def Sha.block (s : Sha) (b : List Byte) : Sha :=
  let r := (shaK.zip (shaExtend 48 (shaWords b).reverse).reverse).foldl (fun t e => t.round e.1 e.2) s
  { a := s.a + r.a, b := s.b + r.b, c := s.c + r.c, d := s.d + r.d, e := s.e + r.e, f := s.f + r.f, g := s.g + r.g, h := s.h + r.h }

def Sha.blocks (s : Sha) : (fuel : Nat) → List Byte → Sha
  | 0, _ => s
  | n + 1, m => (s.block (m.take 64)).blocks n (m.drop 64)

/-- The message with its bit 1, zeros to 56 bytes modulo 64, and its length in bits. -/
def shaPad (m : List Byte) : List Byte :=
  m ++ [0x80] ++ List.replicate ((119 - m.length % 64) % 64) 0 ++ (List.range 8).map (fun i => BitVec.ofNat 8 (8 * m.length / 2 ^ (8 * (7 - i))))

def wordBE (w : W32) : List Byte := [w.extractLsb' 24 8, w.extractLsb' 16 8, w.extractLsb' 8 8, w.extractLsb' 0 8]

/-- The digest of 32 bytes. -/
def sha256 (m : List Byte) : List Byte :=
  let p := shaPad m
  let r := shaInit.blocks (p.length / 64) p
  [r.a, r.b, r.c, r.d, r.e, r.f, r.g, r.h].flatMap wordBE

end Sys2Proof.Machine
end

