-- ==== Sys2Proof/Machine/Matrix.lean ====
section
/-! DEFINITION. The matrix engine: planes, accumulator windows and rows, mma and its passes (R237 to R257). Scratchpad
bytes are read and written when an instruction issues, and the rows that it owns stay closed until it retires. -/
namespace Sys2Proof.Machine

/-! ### Accumulator rows (R69, R240, R241) -/

def Core.accRow (c : Core) (row : Nat) : List W32 := mgetAll 0 c.acc (128 * row) 128
/-- A row's columns, with the poison that they carry (R462). -/
def Core.setAccRow (c : Core) (row : Nat) (vs : List W32) (bad : Bool) : Core :=
  { c with acc := msetAll 0 c.acc (128 * row) vs, accPoison := if bad then insertNat row c.accPoison else c.accPoison.filter (· != row) }
def zeroRow : List W32 := List.replicate 128 0

/-- The row of the core that row r of the group's workgroup is. -/
def Ctx.physRow (x : Ctx) (r : Nat) : Nat := x.wg.accBase.getD x.win 0 + r

/-- R240, R433: the first of n rows outside the group's window, or an odd first row of a pair. -/
def Ctx.rowTrap (x : Ctx) (lane first n : Nat) (pair : Bool) : Option Trap :=
  match (List.range n).find? (fun k => !(x.g.abase ≤ first + k && first + k < x.g.alimit)) with
  | some k => some { cause := 0x08, sub := 1, lane := lane, val := BitVec.ofNat 64 (first + k) }
  | none => if pair && first % 2 == 1 then some { cause := 0x08, sub := 2, lane := lane, val := BitVec.ofNat 64 first } else none

/-- R244 steps 4 and 5 for lanes with their scratchpad offsets; `segs`: the bytes that an offset reaches. trapval is the space-2 pointer of
the offset, the pointer that R421 asks for (DESIGN CHOICE, log entry 85). -/
def Ctx.offTrap (x : Ctx) (wr : Bool) (segs : Nat → List (Nat × Nat)) (ps : List (Nat × Nat)) : Option Trap :=
  let ptr := fun (p : Nat) => BitVec.ofNat 64 (2 * 2 ^ 60 + p)
  match ps.find? (fun p => p.2 % 16 != 0) with
  | some (l, p) => some { cause := 0x03, lane := l, val := ptr p }
  | none => ps.findSome? (fun e =>
      if (segs e.2).any (fun q => q.1 + q.2 > windowBytes x.gr x.wg) then some { cause := 0x05, sub := 2, lane := e.1, val := ptr e.2 }
      else if wr && x.win == 0 && (segs e.2).any (fun q => q.1 < 0x400) then some { cause := 0x05, sub := 4, lane := e.1, val := ptr e.2 }
      else none)

/-- R241: some operation in flight owns one of the rows. -/
def Ctx.rowsBusy (x : Ctx) (s : State) (rows : List Nat) : Bool := (s.core x.g.core).mops.any (fun m => m.rows.any rows.contains)

/-- R241: the instruction waits with WHY 0xA while a row is owned; then its effect, and its operation in flight. -/
def Ctx.withRows (x : Ctx) (s : State) (rows : List Nat) (k : State → State) : State :=
  if x.rowsBusy s rows then s.blockSplit x .waiting .accRow .none else k s

/-- An operation that owns rows until it retires. -/
def Ctx.ownRows (x : Ctx) (s : State) (rows : List Nat) (cycles : Nat) : State :=
  let (id, s1) := s.fresh
  s1.modCore x.g.core (fun c => { c with mops := c.mops ++ [{ id := id, wg := x.wg.key, rows := rows, doneAt := s.cycle + cycles }] })

/-- The rows of each lane: one at start + lane, or a pair at start + 2 * lane. -/
def Ctx.laneRows (x : Ctx) (start : Nat) (pair : Bool) (ls : List Nat) : List (Nat × Nat) :=
  ls.map (fun l => (l, x.g.abase + start + (if pair then 2 * l else l)))

def rowsOf (pair : Bool) (first : Nat) : List Nat := if pair then [first, first + 1] else [first]

/-- R240 over the lanes in ascending order. -/
def Ctx.rowTraps (x : Ctx) (pair : Bool) (rows : List (Nat × Nat)) : Option Trap :=
  rows.findSome? (fun e => x.rowTrap e.1 e.2 (if pair then 2 else 1) pair)

/-- The first of a list of checks that finds a trap. -/
def firstTrap (ts : List (Option Trap)) : Option Trap := ts.findSome? id

/-! ### Arrays and planes (R237, R238, R245 to R247) -/

def Core.array (c : Core) (n : Nat) : Arr := c.arrays.getD n {}
def State.modArray (s : State) (core n : Nat) (f : Arr → Arr) : State :=
  s.modCore core (fun c => { c with arrays := c.arrays.modify n f })

/-- R238: an array of another workgroup. -/
def Ctx.arrayTrap (x : Ctx) (s : State) (lane n : Nat) : Option Trap :=
  match ((s.core x.g.core).array n).owner with
  | some k => if k = x.wg.key then none else some { cause := 0x08, sub := 3, lane := lane, val := BitVec.ofNat 64 n }
  | none => none

/-- R238: taking an unowned array marks both planes invalid. -/
def Arr.take (a : Arr) (key : Nat) : Arr :=
  match a.owner with
  | some _ => a
  | none => { a with owner := some key, live := { a.live with valid := false }, shadow := { a.shadow with valid := false } }

/-- R247: the command's place among an array's: its M-pipe cycle, then its sub-core. -/
def ArrCmd.place : ArrCmd → Nat × Nat
  | .load _ c b => (c, b)
  | .swap c b => (c, b)
  | .quarter _ c b => (c, b)
def ArrCmd.upTo (c d : ArrCmd) : Bool := decide (c.place.1 < d.place.1) || (c.place.1 == d.place.1 && c.place.2 ≤ d.place.2)
/-- R247: a command joins an array's queue at its place. -/
def Arr.accept (a : Arr) (d : ArrCmd) : Arr := { a with queue := a.queue.takeWhile (·.upTo d) ++ d :: a.queue.dropWhile (·.upTo d) }

/-- Role exchanges at the front of the queue take effect (R246, R247). -/
def settleCmds : List ArrCmd → Plane → Plane → Plane × Plane × List ArrCmd
  | .swap _ _ :: q, l, sh => settleCmds q sh l
  | q, l, sh => (l, sh, q)
def Arr.settle (a : Arr) : Arr :=
  let (l, sh, q) := settleCmds a.queue a.live a.shadow
  { a with live := l, shadow := sh, queue := q }

/-- The plane that is live after the queued commands (R247): its valid bit and its format. -/
def liveAfter : List ArrCmd → (live shadow : Bool × Nat) → Bool × Nat
  | [], l, _ => l
  | .load p _ _ :: q, l, _ => liveAfter q l (true, p.fmt)
  | .swap _ _ :: q, l, sh => liveAfter q sh l
  | .quarter _ _ _ :: q, l, sh => liveAfter q l sh
def Arr.liveNext (a : Arr) : Bool × Nat := liveAfter a.queue (a.live.valid, a.live.fmt) (a.shadow.valid, a.shadow.fmt)

/-- R245: column j of a source at offset p with stride t, and its scale bytes. -/
def Ctx.sourceCol (x : Ctx) (s : State) (p t j : Nat) : List Byte := s.scrRead x.wg x.win (p + j * t) 192
def Ctx.sourceScale (x : Ctx) (s : State) (m4 : Bool) (p t j : Nat) : List Byte :=
  (List.range 6).map (fun m => (s.scrRead x.wg x.win (p + j * t + 192 + (if m4 then 2 * m else m)) 1).headD 0)

/-- R245: the first pair of M4 scale bytes that differ. -/
def Ctx.scalePairs (x : Ctx) (s : State) (p t : Nat) : Option (Nat × Nat) :=
  (List.range 128).findSome? (fun j =>
    let b := s.scrRead x.wg x.win (p + j * t + 192) 12
    (List.range 6).findSome? (fun m => if b.getD (2 * m) 0 ≠ b.getD (2 * m + 1) 0 then some (j, m) else none))

/-- R245. trapval of a misaligned stride is the space-2 pointer of the stride, and that of a source beyond the window, a stride below 208
among them, the pointer of the offset: R421 says only the pointer (DESIGN CHOICE, log entry 85). -/
def execMlds (w : FormE) (s : State) : Host.Outcome State Fault Refusal :=
  let n := w.eimm.toNat % 2
  let fmt := w.eimm.toNat / 2 % 16
  issueWith (.mlds w) w.com [(w.a, 1), (w.b, 1)] [] s (fun x s =>
    match x.lead w.com with
    | none => s.advance x
    | some lane =>
      let p := x.g.readSrc lane (src32Of w.a)
      let t := x.g.readSrc lane (src32Of w.b)
      let ptr := fun (v : Nat) => BitVec.ofNat 64 (2 * 2 ^ 60 + v)
      match x.arrayTrap s lane n with
      | some tr => s.takeTrap x tr
      | none =>
        if p % 16 ≠ 0 then s.takeTrap x { cause := 0x03, lane := lane, val := ptr p }
        else if t % 16 ≠ 0 then s.takeTrap x { cause := 0x03, lane := lane, val := ptr t }
        else if t < 208 ∨ p + 127 * t + 208 > windowBytes x.gr x.wg then s.takeTrap x { cause := 0x05, sub := 2, lane := lane, val := ptr p }
        else match (if fmt = 1 then x.scalePairs s p t else none) with
        | some (j, m) => s.takeTrap x { cause := 0x07, sub := 5, lane := lane, val := BitVec.ofNat 64 (fmt + 2 ^ 32 * j + 2 ^ 40 * m) }
        | none =>
          let bad := (List.range 128).any (fun j => s.scrPoisoned x.wg x.win (p + j * t) 208)
          let pl : Plane := { cols := (List.range 128).map (x.sourceCol s p t), scales := (List.range 128).map (x.sourceScale s (fmt = 1) p t), fmt := fmt, valid := true, poison := bad }
          ((s.modArray x.g.core n (fun a => (a.take x.wg.key).accept (.load pl s.cycle x.g.sub))).advance x).acquire x w.acq)

/-- R246. -/
def execMswp (w : FormE) (s : State) : Host.Outcome State Fault Refusal :=
  let n := w.eimm.toNat % 2
  issueWith (.mswp w) w.com [] [] s (fun x s =>
    match x.lead w.com with
    | none => s.advance x
    | some lane =>
      match x.arrayTrap s lane n with
      | some tr => s.takeTrap x tr
      | none => (s.modArray x.g.core n (fun a => ((a.take x.wg.key).accept (.swap s.cycle x.g.sub)).settle)).advance x)

/-- PLANE_LOAD_COMPLETE (R245): a plane load at the front of its array's commands writes the shadow plane. -/
def execPlaneLoadComplete (core arr : Nat) (s : State) : Host.Outcome State Fault Refusal :=
  match ((s.core core).array arr).queue with
  | .load p cyc _ :: _ =>
    if cyc + 26 ≤ s.cycle then .next (s.modArray core arr (fun a => ({ a with shadow := p, queue := a.queue.tail } : Arr).settle))
    else .next s
  | _ => .next s

/-! ### mma (R248 to R252) -/

/-- R249, R432: the vote over the lanes' format words. -/
def voteTrap (words : List (Nat × W32)) : Option Trap :=
  match words with
  | [] => none
  | (l, w) :: rest =>
    match rest.find? (fun e => e.2 != w) with
    | some (_, v) => some { cause := 0x07, sub := 1, lane := l, val := v ++ w }
    | none => none

/-- R249: the live plane at the command's place in the array's order. -/
def Ctx.planeTrap (x : Ctx) (s : State) (lane n : Nat) (w : W32) : Option Trap :=
  let a := (s.core x.g.core).array n
  if a.owner.isNone || !a.liveNext.1 then some { cause := 0x07, sub := 4, lane := lane, val := w.zeroExtend 64 }
  else if fwBf w ≠ a.liveNext.2 then some { cause := 0x07, sub := 3, lane := lane, val := BitVec.ofNat 32 a.liveNext.2 ++ w }
  else none

/-- R250: the quarters of the group that hold a lane, each with its rows. -/
def quartersOf (jobs : List RowJob) : List (List RowJob) :=
  ((List.range 4).map (fun q => jobs.filter (fun j => j.lane / 8 == q))).filter (· != [])

/-- R244, R249, R250. -/
def execMma (w : FormE) (s : State) : Host.Outcome State Fault Refusal :=
  let n := w.eimm.toNat % 2
  issueWith (.mma w) w.com [(w.d, 1), (w.a, 1), (w.b, 1)] [] s (fun x s =>
    let ls := lanesOf (x.real w.com)
    if ls = [] then s.advance x
    else
      let words := ls.map (fun l => (l, BitVec.ofNat 32 (x.g.readSrc l (src32Of w.b))))
      let fw := (words.headD (0, 0)).2
      let lane := ls.headD 0
      let pair := fwAcc fw = 1
      let nb := if fwAf fw < 2 then 208 else 192
      let rows := x.laneRows (x.g.readSrc 0 (src32Of w.d)) pair ls
      let offs := ls.map (fun l => (l, x.g.readSrc l (src32Of w.a)))
      match firstTrap [voteTrap words, if fwLegal fw then none else some { cause := 0x07, sub := 2, lane := lane, val := fw.zeroExtend 64 }, x.arrayTrap s lane n, x.planeTrap s lane n fw, x.rowTraps pair rows, x.offTrap false (fun p => [(p, nb)]) offs] with
      | some t => s.takeTrap x t
      | none =>
        let named := rows.flatMap (fun e => (rowsOf pair e.2).map x.physRow)
        x.withRows s named (fun s =>
          let jobs := (rows.zip offs).map (fun e => ({ lane := e.1.1, row := x.physRow e.1.2, bytes := s.scrRead x.wg x.win e.2.2 nb, poison := s.scrPoisoned x.wg x.win e.2.2 nb } : RowJob))
          let qs := quartersOf jobs
          let (id, s1) := s.fresh
          let s2 := s1.modCore x.g.core (fun c => { c with mops := c.mops ++ [{ id := id, wg := x.wg.key, rows := named, mma := some (fw, w.com.mod.getLsbD 0, w.com.mod.getLsbD 1), quarters := qs, doneAt := s.cycle }] })
          ((s2.modArray x.g.core n (fun a => (List.range qs.length).foldl (fun a i => a.accept (.quarter id (s.cycle + i) x.g.sub)) a)).advance x).acquire x w.acq))

/-! ### Passes (R251, R257) -/

/-- R257: when a quarter operation of an M-pipe cycle reaches its array's queue. -/
def arrival (cyc : Nat) : Nat := cyc + 2

/-- The rows of the next quarter operation of an mma, and the operations once a pass has taken it. -/
def nextRows (m : Mop) : Nat := (m.quarters.headD []).length
def dropQuarter (op : Nat) (ms : List Mop) : List Mop := ms.map (fun m => if m.id = op then { m with quarters := m.quarters.tail } else m)

/-- R251: the quarter operations that one pass takes, in order, at most `left` rows: those that have arrived and carry the AF of the
first, up to the next mlds or mswp. The rest stay. -/
def takeQuarters (now af : Nat) : (mops : List Mop) → (left : Nat) → List ArrCmd → List Nat × List ArrCmd
  | ms, left, .quarter op cyc b :: q =>
    match ms.find? (fun m => m.id == op) with
    | none => takeQuarters now af ms left q
    | some m =>
      if arrival cyc > now then ([], .quarter op cyc b :: q)
      else if (match m.mma with | some (w, _, _) => fwAf w != af | none => true) then
        let r := takeQuarters now af ms left q
        (r.1, .quarter op cyc b :: r.2)
      else if nextRows m > left then ([], .quarter op cyc b :: q)
      else
        let r := takeQuarters now af (dropQuarter op ms) (left - nextRows m) q
        (op :: r.1, r.2)
  | _, _, q => ([], q)

/-- R257: cycles per row, and cycles from a row's entry to its writing. -/
def passRate (af : Nat) : Nat × Nat := match af with | 7 => (4, 24) | 8 => (8, 28) | _ => (1, 20)

/-- The stored scale bytes of a column by block: M4's blocks 2m and 2m+1 share byte m (R237). -/
def blockScales (fmt : Nat) (sc : List Byte) : List Byte := if fmt = 1 then sc.flatMap (fun b => [b, b]) else sc

/-- R250: one A row against the live plane, added into its accumulator row or pair. -/
def mmaRow (c : Core) (p : Plane) (w : W32) (ftz : Bool) (j : RowJob) : Core × AccCount :=
  let pair := fwAcc w = 1
  let lo := c.accRow j.row
  let hi := if pair then c.accRow (j.row + 1) else []
  let rs := (List.range 128).map (fun k =>
    dotBlocks w ftz (j.bytes.take 192) (j.bytes.drop 192) (p.cols.getD k []) (blockScales (fwBf w) (p.scales.getD k [])) ((lo.getD k 0).toNat + 2 ^ 32 * (hi.getD k 0).toNat))
  let bad := j.poison || p.poison || (!fwZf w && (rowsOf pair j.row).any c.accPoison.contains)
  let c1 := c.setAccRow j.row (rs.map (fun r => BitVec.ofNat 32 r.1)) bad
  let c2 := if pair then c1.setAccRow (j.row + 1) (rs.map (fun r => BitVec.ofNat 32 (r.1 / 2 ^ 32))) bad else c1
  (c2, rs.foldl (fun a r => a.plus r.2) {})

/-- The next quarter operation of an mma enters a pass whose earlier rows number `before`. -/
def State.enterQuarter (s : State) (core arr af start : Nat) (acc : State × Nat) (op : Nat) : State × Nat :=
  let (t, before) := acc
  match (t.core core).mops.find? (fun m => m.id == op) with
  | none => (t, before)
  | some m =>
    match m.mma, m.quarters with
    | some (w, z, ftz), jobs :: rest =>
      let w1 := if z then w ||| 0x2000 else w
      let p := ((s.core core).array arr).live
      let r := jobs.foldl (fun (e : Core × AccCount) j => let (c, k) := mmaRow e.1 p w1 ftz j; (c, e.2.plus k)) (t.core core, {})
      let total := before + jobs.length
      let done := start + (passRate af).1 * (total - 1) + (passRate af).2
      let t1 := (t.modCore core (fun _ => r.1)).modCore core (fun c => { c with mops := c.mops.map (fun k => if k.id = op then { k with quarters := rest, doneAt := Nat.max k.doneAt done } else k) })
      (t1.modWg m.wg (fun g => g.count (fwTid w) r.2), total)
    | _, _ => (t, before)

/-- PASS_START (R251): the array is free, and the fourth cycle after the first quarter operation's arrival has come. -/
def execPassStart (core arr : Nat) (s : State) : Host.Outcome State Fault Refusal :=
  let a := (s.core core).array arr
  match a.queue with
  | .quarter op cyc _ :: _ =>
    if s.cycle < arrival cyc + 4 ∨ s.cycle < a.busyUntil then .next s
    else match (s.core core).mops.find? (fun m => m.id == op) with
      | none => .next (s.modArray core arr (fun a => ({ a with queue := a.queue.tail } : Arr).settle))
      | some m =>
        let af := match m.mma with | some (w, _, _) => fwAf w | none => 0
        let (ops, rest) := takeQuarters s.cycle af (s.core core).mops 32 a.queue
        let (t, rows) := ops.foldl (s.enterQuarter core arr af s.cycle) (s, 0)
        .next (t.modArray core arr (fun a => ({ a with queue := rest, busyUntil := s.cycle + (passRate af).1 * rows } : Arr).settle))
  | _ => .next s

/-- The rows of a retired operation are free, and the waits for rows of its workgroup end (R241). -/
def State.retireMop (s : State) (core op wg : Nat) : State :=
  (s.modCore core (fun c => { c with mops := c.mops.filter (fun m => m.id != op) })).wakeWhere (fun k _ sp => k == wg && sp.phase = .waiting && sp.why = .accRow)

/-- The row of a retiring operation has been written in an earlier cycle (R241). -/
def Mop.ended (m : Mop) (now : Nat) : Bool := m.quarters == [] && m.doneAt < now

/-- MMA_RETIRE (R257). -/
def execMmaRetire (core op : Nat) (s : State) : Host.Outcome State Fault Refusal :=
  match (s.core core).mops.find? (fun m => m.id == op && m.mma.isSome) with
  | some m => if m.ended s.cycle then .next (s.retireMop core op m.wg) else .next s
  | none => .next s

/-- ACCUMULATOR_OPERATION_RETIRE (R241). -/
def execAccumulatorOperationRetire (core op : Nat) (s : State) : Host.Outcome State Fault Refusal :=
  match (s.core core).mops.find? (fun m => m.id == op && m.mma.isNone) with
  | some m => if m.ended s.cycle then .next (s.retireMop core op m.wg) else .next s
  | none => .next s

/-! ### Rows and windows (R253 to R256) -/

/-- R253. -/
def execAccz (w : FormE) (s : State) : Host.Outcome State Fault Refusal :=
  issueWith (.accz w) w.com [(w.a, 1), (w.b, 1)] [] s (fun x s =>
    match x.lead w.com with
    | none => s.advance x
    | some lane =>
      let first := x.g.abase + x.g.readSrc lane (src32Of w.a)
      let n := x.g.readSrc lane (src32Of w.b)
      if n = 0 ∨ n > 2048 then s.takeTrap x { cause := 0x08, sub := 6, lane := lane, val := BitVec.ofNat 64 n }
      else match x.rowTrap lane first n false with
        | some t => s.takeTrap x t
        | none =>
          let rows := (List.range n).map (fun k => x.physRow (first + k))
          x.withRows s rows (fun s =>
            (x.ownRows (s.modCore x.g.core (fun c => { c with acc := mclear c.acc (128 * x.physRow first) (128 * n), accPoison := c.accPoison.filter (fun r => !rows.contains r) })) rows ((n + 1) / 2)).advance x))

/-- R256. A group of the workgroup that has retired still counts as one of its groups (DESIGN CHOICE, log entry 86). -/
def execMwin (w : FormL) (s : State) : Host.Outcome State Fault Refusal :=
  issueWith (.mwin w) w.com [(w.a, 1), (w.b, 1), (w.c, 1)] [] s (fun x s =>
    match x.lead w.com with
    | none => s.advance x
    | some lane =>
      let id := x.g.readSrc lane (src32Of w.a)
      let lo := x.g.readSrc lane (src32Of w.b)
      let hi := x.g.readSrc lane (src32Of w.c)
      if x.g.grpid ≠ 0 then s.takeTrap x { cause := 0x08, sub := 4, lane := lane, val := BitVec.ofNat 64 x.g.grpid }
      else if id ≥ x.wg.groups.length ∨ lo > hi ∨ hi > x.gr.k.acc then s.takeTrap x { cause := 0x08, sub := 5, lane := lane, val := BitVec.ofNat 64 id }
      else (s.modGrp x.wg.key id (fun g => { g with nextWin := some (lo, hi) })).advance x)

/-- R242: the array acquires and releases through the record and the stamp of the split that commands it. The checks that ldacc and stacc
share, then the move with the rows and offsets of the lanes (R254). -/
def Ctx.moveRows (x : Ctx) (s : State) (w : FormE) (wr : Bool) (cycles : Nat) (f : State → (lane first off : Nat) → State) : State :=
  let pair := w.com.mod.getLsbD 0
  let ls := lanesOf (x.real w.com)
  if ls = [] then s.advance x
  else
    let rows := x.laneRows (x.g.readSrc 0 (src32Of w.d)) pair ls
    let offs := ls.map (fun l => (l, x.g.readSrc l (src32Of w.a)))
    match firstTrap [x.rowTraps pair rows, x.offTrap wr (fun p => [(p, if pair then 1024 else 512)]) offs] with
    | some t => s.takeTrap x t
    | none =>
      let named := rows.flatMap (fun e => (rowsOf pair e.2).map x.physRow)
      x.withRows s named (fun s => x.withRelease s w.rel w.scope.toNat (fun s =>
        ((x.ownRows ((rows.zip offs).foldl (fun s e => f s e.1.1 (x.physRow e.1.2) e.2.2) s) named (named.length + cycles)).advance x).acquire x w.acq))

/-- The words of a row or a pair from scratchpad bytes, column by column (R254). -/
def rowWords (b : List Byte) (step off : Nat) : List W32 := (List.range 128).map (fun j => BitVec.ofNat 32 (fieldAt b (step * j + off) 4))

/-- R254. -/
def execLdacc (w : FormE) (s : State) : Host.Outcome State Fault Refusal :=
  let pair := w.com.mod.getLsbD 0
  issueWith (.ldacc w) w.com [(w.d, 1), (w.a, 1)] [] s (fun x s =>
    x.moveRows s w false 8 (fun s _ row off =>
      let n := if pair then 1024 else 512
      let b := s.scrRead x.wg x.win off n
      let bad := s.scrPoisoned x.wg x.win off n
      s.modCore x.g.core (fun c =>
        if pair then (c.setAccRow row (rowWords b 8 0) bad).setAccRow (row + 1) (rowWords b 8 4) bad
        else c.setAccRow row (rowWords b 4 0) bad)))

/-- Scratchpad bytes that carry a row's poison (R462). -/
def Ctx.writeCarried (x : Ctx) (s : State) (off : Nat) (b : List Byte) (bad : Bool) : State :=
  let s1 := s.scrWrite x.wg x.win off b
  if bad then s1.poisonScr x.wg x.win off b.length else s1

/-- R254: ascending lanes, so that the highest decides a byte that several write. -/
def execStacc (w : FormE) (s : State) : Host.Outcome State Fault Refusal :=
  let pair := w.com.mod.getLsbD 0
  issueWith (.stacc w) w.com [(w.d, 1), (w.a, 1)] [] s (fun x s =>
    x.moveRows s w true 0 (fun s _ row off =>
      let c := s.core x.g.core
      let lo := c.accRow row
      let hi := c.accRow (row + 1)
      let b := (List.range 128).flatMap (fun j => leBytes 4 (lo.getD j 0).toNat ++ (if pair then leBytes 4 (hi.getD j 0).toNat else []))
      x.writeCarried s off b ((rowsOf pair row).any c.accPoison.contains)))

/-! ### accq (R255) -/

/-- R255: the words that accq takes, and the block offsets of each format. -/
def accqLegal (w : W32) : Bool :=
  bitsOf w.toNat 24 8 == 0 && fwBf w == 0 && !fwZf w &&
  ((fwAcc w == 0 && [0, 1, 5, 6].contains (fwAf w)) || (fwAcc w == 2 && fwAf w == 2))
def accqMaxBo (af : Nat) : Nat := match af with | 0 => 2 | 1 => 8 | _ => 15

/-- One element of a binary format out of FP32, with its counts (R255). A subnormal column that FTZ reads as zero counts as a flush, and an
overflow that RND already delivers as the largest finite value counts as a clamp under SAT: the spec says neither (DESIGN CHOICE,
log entry 84). -/
def narrowElem (f : Fmt) (w : W32) (ftz : Bool) (v : W32) : Nat × MarkCount :=
  let x := fp32.decode ftz v.toNat
  let r := f.round (fwRnd w) ftz x
  let ovf := r.2 &&& fOF != 0
  let out := if ovf && fwSat w then f.withSign x.sign (f.infBits - 1) else r.1
  (out, { sat := if ovf && fwSat w then 1 else 0, flush := if ftz && !(fp32.decode false v.toNat).isZero && out % f.signBit == 0 then 1 else 0 })

/-- R255: the bytes that one block of 32 columns gives at lane offset p, and its counts. -/
def narrowBlock (w : W32) (ftz : Bool) (p n : Nat) (blk : List W32) : List (Nat × List Byte) × MarkCount :=
  match fwAf w with
  | 0 =>
    let xs := blk.map (fun v => fp32.decode ftz v.toNat)
    let k := chooseScale xs
    let cs := xs.map (markerEncode true k)
    ([(p + 32 * n, cs.map (fun c => BitVec.ofNat 8 c.1)), (p + 192 + n, [BitVec.ofNat 8 k])], { markSum (cs.map Prod.snd) with nan := if k = 0xFF then 1 else 0 })
  | 1 =>
    let xs := blk.map (fun v => fp32.decode ftz v.toNat)
    let k := chooseScale xs
    let cs := xs.map (markerEncode false k)
    let b := (List.range 16).map (fun i => BitVec.ofNat 8 ((cs.getD (2 * i) (0, {})).1 + 16 * (cs.getD (2 * i + 1) (0, {})).1))
    ([(p + 16 * n, b), (p + 192 + n, [BitVec.ofNat 8 k])], { markSum (cs.map Prod.snd) with nan := if k = 0xFF then 1 else 0 })
  | 2 =>
    let cs := blk.map (fun v => let z := v.toInt; if z > 127 then (127, true) else if z < -128 then (0x80, true) else (wrapNat 8 z, false))
    ([(p + 32 * n, cs.map (fun c => BitVec.ofNat 8 c.1))], { sat := (cs.filter Prod.snd).length })
  | af =>
    let cs := blk.map (narrowElem (if af = 5 then bf16 else fp16) w ftz)
    ([(p + 64 * n, cs.flatMap (fun c => leBytes 2 c.1))], markSum (cs.map Prod.snd))

/-- The bytes that a lane's accq writes, for the checks of R244. -/
def accqSegs (af bo p : Nat) : List (Nat × Nat) :=
  match af with
  | 0 => [(p + 32 * bo, 128), (p + 192 + bo, 4)]
  | 1 => [(p + 16 * bo, 64), (p + 192 + bo, 4)]
  | 2 => [(p + 32 * bo, 128)]
  | _ => [(p + 64 * bo, 256)]

def Ctx.quantiseRow (x : Ctx) (w : W32) (clr ftz : Bool) (bo : Nat) (s : State) (row off : Nat) : State :=
  let c := s.core x.g.core
  let v := c.accRow row
  let bad := c.accPoison.contains row
  let rs := (List.range 4).map (fun h => narrowBlock w ftz off (bo + h) ((v.drop (32 * h)).take 32))
  let s1 := (rs.flatMap Prod.fst).foldl (fun s e => x.writeCarried s e.1 e.2 bad) s
  let s2 := s1.modWg x.wg.key (fun g => g.count (fwTid w) (markSum (rs.map Prod.snd)))
  if clr then s2.modCore x.g.core (fun c => c.setAccRow row zeroRow false) else s2

/-- R255. -/
def execAccq (w : FormE) (s : State) : Host.Outcome State Fault Refusal :=
  let bo := w.eimm.toNat % 16
  issueWith (.accq w) w.com [(w.d, 1), (w.a, 1), (w.b, 1)] [] s (fun x s =>
    let ls := lanesOf (x.real w.com)
    if ls = [] then s.advance x
    else
      let words := ls.map (fun l => (l, BitVec.ofNat 32 (x.g.readSrc l (src32Of w.b))))
      let fw := (words.headD (0, 0)).2
      let lane := ls.headD 0
      let rows := x.laneRows (x.g.readSrc 0 (src32Of w.d)) false ls
      let offs := ls.map (fun l => (l, x.g.readSrc l (src32Of w.a)))
      match firstTrap [voteTrap words, if accqLegal fw then none else some { cause := 0x07, sub := 2, lane := lane, val := fw.zeroExtend 64 }, if bo ≤ accqMaxBo (fwAf fw) then none else some (illegalTrap x 5 (wordOf (.accq w))), x.rowTraps false rows, x.offTrap true (accqSegs (fwAf fw) bo) offs] with
      | some t => s.takeTrap x t
      | none =>
        let named := rows.map (fun e => x.physRow e.2)
        x.withRows s named (fun s => x.withRelease s w.rel w.scope.toNat (fun s =>
          (x.ownRows ((rows.zip offs).foldl (fun s e => x.quantiseRow fw (w.com.mod.getLsbD 0) (w.com.mod.getLsbD 1) bo s (x.physRow e.1.2) e.2.2) s) named named.length).advance x)))

end Sys2Proof.Machine
end

