-- ==== Sys2Proof/Machine/Streamer.lean ====
section
/-! DEFINITION. The streamers: copy descriptors and their checks (R260 to R262, R268), copies in segments (R263, R264, R267),
reductions through a staging area (R269), completion targets (R270), failures (R453, R454) and copy programs (R349). -/
namespace Sys2Proof.Machine

/-! ### Descriptors (R260, R261) -/

/-- A copy as its descriptor gives it. -/
def Copy.ofBytes (id : Nat) (owner : CopyOwner) (core pasid desc opf : Nat) (acq rel : Bool) (scope : Nat) (b : List Byte) : Copy :=
  { id := id, owner := owner, core := core, pasid := pasid, desc := desc, opf := opf, acq := acq, rel := rel, scope := scope, src := fieldAt b 0 8, dst := fieldAt b 8 8, n0 := fieldAt b 0x10 4, n1 := fieldAt b 0x14 4, n2 := fieldAt b 0x18 4, ctl := fieldAt b 0x1C 4, ss1 := sextInt 64 (fieldAt b 0x20 8), ss2 := sextInt 64 (fieldAt b 0x28 8), ds1 := sextInt 64 (fieldAt b 0x30 8), ds2 := sextInt 64 (fieldAt b 0x38 8), cptr := fieldAt b 0x40 8, cval := fieldAt b 0x48 8, idx := fieldAt b 0x50 8, stg := fieldAt b 0x58 4, stgsz := fieldAt b 0x5C 4 }

def Copy.dims (c : Copy) : Nat := bitsOf c.ctl 0 2
def Copy.cmp (c : Copy) : Nat := bitsOf c.ctl 2 2
def Copy.out (c : Copy) : Bool := bitOf c.ctl 4
def Copy.esz (c : Copy) : Nat := bitsOf c.ctl 5 3
def Copy.rop (c : Copy) : Nat := bitsOf c.ctl 8 2
def Copy.ty (c : Copy) : Nat := bitsOf c.ctl 12 4
def Copy.idxBytes (c : Copy) : Nat := if bitOf c.ctl 16 then 8 else 4
def Copy.reduces (c : Copy) : Bool := c.opf == 0x09
def Copy.gathers (c : Copy) : Bool := c.opf == 0x0A
def Copy.total (c : Copy) : Nat := c.n0 * c.n1 * c.n2

/-- R268: a reserved field or bit, or one that must be zero for this instruction, is nonzero. -/
def Copy.reservedBad (c : Copy) (b : List Byte) : Bool :=
  !zeroBytes b 0x60 32 || bitsOf c.ctl 21 11 != 0 || bitsOf c.ctl 17 3 != 0 || bitsOf c.ctl 10 2 != 0 ||
  (c.out && c.cmp != 1) || (c.cmp == 0 && c.cptr != 0) || (c.cmp != 2 && c.cval != 0) ||
  (!c.gathers && (c.idx != 0 || bitOf c.ctl 16)) ||
  (!c.reduces && (c.stg != 0 || c.stgsz != 0 || bitOf c.ctl 20 || c.ty != 0 || c.rop != 0)) ||
  (c.dims == 0 && (c.ss1 != 0 || c.ds1 != 0)) || (c.dims ≤ 1 && (c.ss2 != 0 || c.ds2 != 0))

/-- R261: the types that cpyr takes, with the size code of their width. -/
def reduceTy (ty : Nat) : Option Nat := match ty with | 2 => some 2 | 6 => some 2 | 0xC => some 2 | 3 => some 3 | 7 => some 3 | 0xD => some 3 | _ => none

/-- R268: a code reserved, or not accepted by the instruction (R266, R269). -/
def Copy.codeBad (c : Copy) : Bool :=
  c.dims == 3 || c.esz > 4 || c.cmp == 3 || (c.gathers && (c.dims != 1 || c.idx == 0)) ||
  (c.reduces && (c.rop == 3 || c.stg == 0 || reduceTy c.ty != some c.esz || (c.rop != 0 && c.ty ≥ 0xC)))

def Copy.limitBad (c : Copy) : Bool :=
  c.n0 == 0 || c.n0 > 2 ^ 24 || c.n1 == 0 || c.n1 > 2 ^ 20 || c.n2 == 0 || c.n2 > 2 ^ 16 || (c.dims == 0 && c.n1 != 1) ||
  (c.dims ≤ 1 && c.n2 != 1) || c.total > 2 ^ 40 || (c.reduces && (c.stgsz % 256 != 0 || c.stgsz < 512 || c.stgsz > 65536))

/-- The pointers of a descriptor, with the spaces that each accepts (R262, R260, R270). -/
def Copy.pointers (c : Copy) : List (Nat × List Nat) :=
  [(c.src, [0, 2, 3, 6]), (c.dst, [0, 2, 3, 6])] ++ (if c.gathers then [(c.idx, [0, 2])] else []) ++
  (match c.cmp with | 1 => [(c.cptr, [2, 3])] | 2 => [(c.cptr, [0, 2, 3, 6])] | _ => [])

/-- R54: a space tag that no engine takes raises 0x06; a space that this field does not accept is the descriptor error. -/
def Copy.spaceFault (c : Copy) (clsize : Nat) : Option (Nat × Nat × Nat) :=
  c.pointers.findSome? (fun e =>
    if !ptrFormed e.1 then some (6, 1, e.1)
    else if ptrSpace e.1 = 3 && bitsOf e.1 56 4 ≥ clsize then some (6, 2, e.1)
    else if !e.2.contains (ptrSpace e.1) then some (9, 4, 4)
    else none)

def Copy.alignBad (c : Copy) : Bool :=
  let e := 2 ^ c.esz
  c.src % e != 0 || c.dst % e != 0 || c.n0 % e != 0 || c.ss1 % e != 0 || c.ss2 % e != 0 || c.ds1 % e != 0 || c.ds2 % e != 0 ||
  (c.gathers && c.idx % c.idxBytes != 0) || (c.reduces && c.stg % 256 != 0)

/-- The lowest and highest byte offset of strided rows from a pointer's offset. -/
def extent (p : Nat) (s1 s2 : Int) (n0 n1 n2 : Nat) : Int × Int :=
  let o : Int := p % 2 ^ 21
  let a := s1 * (n1 - 1 : Nat)
  let b := s2 * (n2 - 1 : Nat)
  (o + (if a < 0 then a else 0) + (if b < 0 then b else 0), o + (if a < 0 then 0 else a) + (if b < 0 then 0 else b) + n0)

/-- The scratchpad ranges of a copy: the pointer, its bytes, and whether they are written. -/
def Copy.ranges (c : Copy) : List (Nat × (Int × Int) × Bool) :=
  (if ptrSpace c.src = 2 ∨ ptrSpace c.src = 3 then (if c.gathers then [] else [(c.src, extent c.src c.ss1 c.ss2 c.n0 c.n1 c.n2, false)]) else []) ++
  (if ptrSpace c.dst = 2 ∨ ptrSpace c.dst = 3 then [(c.dst, extent c.dst c.ds1 c.ds2 c.n0 c.n1 c.n2, true)] else []) ++
  (if c.gathers ∧ ptrSpace c.idx = 2 then [(c.idx, extent c.idx 0 0 (c.n1 * c.idxBytes) 1 1, false)] else []) ++
  (if c.reduces then [(2 * 2 ^ 60 + c.stg, extent c.stg 0 0 c.stgsz 1 1, true)] else [])

/-- R64: barrier objects lie at the start of window 0. `own`: the window of space 2. -/
def barrierBytes (own p : Nat) (lo : Int) (span : Bool) : Bool :=
  (if ptrSpace p = 3 then (if span then bitsOf p 56 4 else 0) else own) == 0 && lo < 0x400

/-- R268 from the fourth row on: the cause, SUB and trapval of the first check that fails. `size`: bytes of a window. -/
def Copy.fault (c : Copy) (b : List Byte) (clsize size own : Nat) (span : Bool) : Option (Nat × Nat × Nat) :=
  if c.reservedBad b then some (9, 1, 1)
  else if c.codeBad then some (9, 2, 2)
  else if c.limitBad then some (9, 3, 3)
  else if (c.spaceFault clsize).isSome then c.spaceFault clsize
  else if c.alignBad then some (9, 5, 5)
  else if c.cmp == 1 && c.cptr % 16 != 0 then some (3, 0, c.cptr)
  else if c.cmp == 1 && c.cptr % 2 ^ 21 ≥ 0x400 then some (5, 2, c.cptr)
  else if c.cmp == 2 && c.cptr % 8 != 0 then some (3, 0, c.cptr)
  else if c.cmp == 2 && (ptrSpace c.cptr == 2 || ptrSpace c.cptr == 3) && c.cptr % 2 ^ 21 + 8 > size then some (5, 2, c.cptr)
  else if c.cmp == 2 && (ptrSpace c.cptr == 2 || ptrSpace c.cptr == 3) && barrierBytes own c.cptr (c.cptr % 2 ^ 21 : Nat) span then some (5, 4, c.cptr)
  else match c.ranges.find? (fun r => r.2.1.1 < 0 || r.2.1.2 > (size : Int)) with
    | some r => some (5, 2, r.1)
    | none => match c.ranges.find? (fun r => r.2.2 && barrierBytes own r.1 r.2.1.1 span) with
      | some r => some (5, 4, r.1)
      | none => none

/-- R349: the limits of a copy program. -/
def Copy.programBad (c : Copy) : Bool :=
  !([0, 6].contains (ptrSpace c.src)) || !([0, 6].contains (ptrSpace c.dst)) || c.cmp == 1 || c.cmp == 3

/-- R454: FDET of a descriptor that fails a check in a copy program; none when it passes. -/
def Copy.programFault (c : Copy) (b : List Byte) : Option Nat :=
  if !c.reservedBad b && !c.codeBad && !c.limitBad && c.programBad then some 7
  else match c.fault b 16 0 0 false with
    | some (9, k, _) => some k
    | some _ => some 6
    | none => none

/-! ### Where an engine's access goes (R447) -/

inductive EngPlace where
  | mem (pa at_ : Nat)
  | dev (port pa at_ : Nat)
  | scr (wg win off : Nat)
  | peer
  | gone

inductive EngAt where
  | ok (p : EngPlace)
  | wait (s : State)
  | fail (code : Nat) (s : State)

/-- The requester number of a core's streamer. -/
def srcStreamer (core : Nat) : Nat := 1000 + core

def Copy.wg? (c : Copy) (s : State) : Option Workgroup := match c.owner with | .wg k _ => s.wg? k | .prism _ k => s.wg? k | _ => none

/-- The tenancy for which a copy acts (R71). -/
def Copy.ten (c : Copy) (s : State) : Nat :=
  match c.owner with
  | .prog n _ => match s.node? n with | some x => x.ten | none => 0xFF
  | .lens t _ => t
  | .prism _ _ => (((s.refreshes.find? (fun r => r.id == c.id)).bind (fun r => r.left.head?)).bind (fun d => s.views.find? (fun v => v.id == d.1))).elim 0xFF (·.ten)
  | _ => match c.wg? s with | some w => w.ten | none => 0xFF
/-- The lease that an engine's load is granted (R312, R313): its core's region's; a Prism engine's, the first of its die's (DESIGN
CHOICE, log entry 10). -/
def Copy.lease (c : Copy) (s : State) : Nat :=
  match c.owner with | .prism u _ => (s.steward (6 * (u / 4))).lease | _ => s.leaseOf c.core

/-- The requester number of an engine, its die, and its place in a log record (R443). -/
def Copy.requester (c : Copy) : Nat := match c.owner with | .prism u _ => 2000 + u | _ => srcStreamer c.core
def Copy.die (c : Copy) : Nat := match c.owner with | .prism u _ => u / 4 | _ => dieOfCore c.core
def Copy.logSrc (c : Copy) : Nat := match c.owner with | .prism _ _ => 3 | _ => 2
def Copy.logUnit (c : Copy) : Nat := match c.owner with | .prism u _ => u % 4 | _ => c.core

/-- The byte at a pointer of a copy; `k`: what the access needs there. -/
def State.engAt (s : State) (c : Copy) (k : Need) (p : Nat) : EngAt :=
  let src := c.requester
  let glob := fun (pasid va : Nat) =>
    match s.demand src pasid va k with
    | .ok pa at_ mt =>
      match s.place pa mt with
      | .line => EngAt.ok (.mem pa at_)
      | .own => .ok (.mem pa at_)
      | .device port => .ok (.dev port pa at_)
      | .hole => .fail 6 (s.logRec (holeRec c.die pa (boolNat k.writes)))
      | .reg => .fail 6 s
      | .wait => .wait (s.askRegion pa true)
    | .malformed e => .fail 1 (s.logRec { unit := c.die, code := 0x06, src := c.logSrc, uno := c.logUnit, pasid := pasid, va := va, aux := e })
    | .wait => .wait (s.askPage src pasid va k.kind)
    | .bad perm =>
      let code := if perm then 2 else 1
      .fail code ((s.useAnswer src pasid va k.kind).logRec { unit := c.die, code := 0x10, src := c.logSrc, uno := c.logUnit, pasid := pasid, va := va, aux := code })
  match ptrSpace p with
  | 0 => glob c.pasid (p % 2 ^ 56)
  | 6 =>
    if bitsOf p 49 11 = s.devnum then
      match s.window? s.devnum (p % 2 ^ 49) with
      | none => .fail 3 s
      | some w => if w.permits k then glob w.pasid (w.va + (p % 2 ^ 49 - w.base)) else .fail 2 s
    else if s.absent (bitsOf p 49 11) || s.unreachable (bitsOf p 49 11) then .fail 3 s
    else .ok .peer
  | sp =>
    match c.wg? s with
    | none => .ok .gone
    | some w =>
      let own := w.cores.findIdx (· == c.core)
      if sp = 2 then .ok (.scr w.key own (p % 2 ^ 21))
      else match s.member w (bitsOf p 56 4) with
        | none => .ok .gone
        | some (m, win) => if m.phase = .starting then .wait s else .ok (.scr m.key win (p % 2 ^ 21))

/-- A range of an access within pages: pointers, lengths and places; or a wait, or the code and address of a failure. -/
inductive EngPlan where
  | ok (ps : List (Nat × Nat × EngPlace))
  | wait (s : State)
  | fail (code addr : Nat) (s : State)

def State.engPlan (s : State) (c : Copy) (k : Need) : (fuel p n : Nat) → EngPlan
  | 0, _, _ => .ok []
  | f + 1, p, n =>
    if n = 0 then .ok []
    else
      let len := Nat.min n (4096 - p % 4096)
      match s.engAt c k p with
      | .wait s1 => .wait s1
      | .fail code s1 => .fail code p s1
      | .ok pl => match s.engPlan c k f (p + len) (n - len) with
        | .ok rest => .ok ((p, len, pl) :: rest)
        | r => r

/-- A copy's space-6 request: its flit, and the answer once it has come (R332). -/
def State.copyFlit (s : State) (c : Copy) (p : Nat) (op : PeerOp) : State × Option PeerAns :=
  match s.fabric.find? (fun f => f.copy == some c.id && f.ptr == p && f.op == op) with
  | some f => (s, f.ans)
  | none =>
    let (id, s1) := s.fresh
    ({ s1 with fabric := s1.fabric ++ [{ id := id, wg := 0, grp := 0, lane := 0, wi := 0, ptr := p, op := op, since := s1.cycle, posted := false, copy := some c.id }] }, none)

/-- R453: the fault code of a refusing answer. -/
def ansCode (a : PeerAns) : Nat := match a with | .noWindow => 3 | .noPerm => 2 | .invalid leaf => if leaf then 2 else 1 | _ => 0

/-- What a copy has asked for and been answered is used: its flits, and the lines served to it. -/
def State.dropFlits (s : State) (c : Nat) : State := ({ s with fabric := s.fabric.filter (fun f => f.copy != some c) } : State).l2Used (engineBuffer c)

/-- What a copy's read or write has met. -/
inductive EngIO (α : Type) where
  | ok (v : α) (s : State)
  | wait (s : State)
  | fail (code addr : Nat) (s : State)

/-- The bytes of a planned range, each with its poison (R461). -/
def State.engBytes (s : State) (c : Copy) : List (Nat × Nat × EngPlace) → EngIO (List (Byte × Bool))
  | [] => .ok [] s
  | (p, n, pl) :: rest =>
    let more := fun (s : State) (b : List (Byte × Bool)) => match State.engBytes s c rest with
      | .ok v s1 => EngIO.ok (b ++ v) s1
      | r => r
    match pl with
    | .mem pa at_ => match (s.markPte at_ false).l2Read c.die (c.ten s) (engineBuffer c.id) (c.lease s) (n / 128 + 2) pa n with
      | (s1, some b) => more s1 (b.zipIdx.map (fun e => (e.1, s1.poisoned (pa + e.2) 1)))
      | (s1, none) => (match State.engBytes s1 c rest with | .wait s2 => .wait s2 | _ => .wait s1)
    | .scr key win off => more s (match s.wg? key with | some w => (s.scrRead w win off n).zipIdx.map (fun e => (e.1, s.scrPoisoned w win (off + e.2) 1)) | none => [])
    | .peer => match s.copyFlit c p (.load n) with
      | (s1, none) => .wait s1
      | (s1, some (.ok b _)) => more s1 ((List.range n).map (fun i => (b.getD i 0, false)))
      | (s1, some .poison) => more s1 (List.replicate n (0, true))
      | (s1, some a) => .fail (ansCode a) p s1
    | .gone => more s (List.replicate n (0, false))
    | .dev port pa at_ =>
      let r := (List.range n).foldl (fun (acc : List (Byte × Bool) × State) _ => let (v, t) := acc.2.freeVal; (acc.1 ++ [(v.extractLsb' 0 8, s.contained port pa)], t)) ([], s.markPte at_ false)
      more r.2 r.1

def State.engRead (s : State) (c : Copy) (p n : Nat) : EngIO (List (Byte × Bool)) :=
  match s.engPlan c .rd (n / 4096 + 2) p n with
  | .wait s1 => .wait s1
  | .fail code a s1 => .fail code a s1
  | .ok ps => s.engBytes c ps

/-- Sectors that receive a poisoned byte are poisoned (R462). -/
def carryPoison (put : State → Nat → State) (s : State) (bs : List (Byte × Bool)) : State :=
  (bs.zipIdx.filter (fun e => e.1.2)).foldl (fun s e => put s e.2) s

/-- Every line of a range is held by the die for writing, or the request for those that are not (R320). -/
def State.holdLines (s : State) (die ten : Nat) : (fuel pa n : Nat) → State × Bool
  | 0, _, _ => (s, true)
  | f + 1, pa, n =>
    if n = 0 then (s, true)
    else
      let k := Nat.min n (128 - pa % 128)
      let here := (s.writable die ten pa).isSome && !s.storeQ.any (fun q => q.waitsAt (pa / 128))
      let r := (if here then s else s.askOwn die (pa / 128) ten).holdLines die ten f (pa + k) (n - k)
      (r.1, here && r.2)

/-- R5: the bytes that a program's copy leaves; the device's own engines write what they have. -/
def Copy.masked (c : Copy) (s : State) (pa : Nat) (bs : List Byte) : List Byte :=
  match c.owner with
  | .prism _ _ => bs
  | _ => if s.views = [] then bs else s.programBytes pa (s.cohLatest pa bs.length) bs

/-- Bytes written at a planned range: the new state and the copy's record of what they await. -/
def State.engPut (s : State) (c : Copy) : List (Nat × Nat × EngPlace) → List (Byte × Bool) → EngIO Copy
  | [], _ => .ok c s
  | (p, n, pl) :: rest, bs =>
    let d := bs.take n
    match pl with
    | .mem pa at_ =>
      let ready := if d.any Prod.snd then s.holdLines c.die (c.ten s) (n / 128 + 2) (s.forwarded pa) n else (s, true)
      if !ready.2 then .wait ready.1
      else
        let (s1, v) := (s.markPte at_ true).dieWrite c.die pa (c.masked s pa (d.map Prod.fst))
        let s2 := carryPoison (fun s i => s.poisonSectors (s.forwarded pa + i) 1) s1 d
        State.engPut s2 { c with vis := v.foldl (fun m e => visMax m (some e)) c.vis } rest (bs.drop n)
    | .scr key win off =>
      let s1 := match s.wg? key with
        | some w => carryPoison (fun s i => s.poisonScr w win (off + i) 1) (s.scrWrite w win off (d.map Prod.fst)) d
        | none => s
      State.engPut s1 c rest (bs.drop n)
    | .peer => match s.copyFlit c p (.store (d.map Prod.fst)) with
      | (s1, none) => .wait s1
      | (s1, some (.ok _ _)) => State.engPut s1 c rest (bs.drop n)
      | (s1, some .poison) => State.engPut s1 c rest (bs.drop n)
      | (s1, some a) => .fail (ansCode a) p s1
    | .dev port pa at_ =>
      let (id, s1) := (s.markPte at_ true).fresh
      State.engPut { s1 with posted := s1.posted ++ [{ id := id, wg := 0, grp := 0, lane := 0, port := port, pa := pa, bytes := d.map Prod.fst }] } { c with pend := c.pend ++ [id] } rest (bs.drop n)
    | .gone => State.engPut s c rest (bs.drop n)

def State.engWrite (s : State) (c : Copy) (p : Nat) (bs : List (Byte × Bool)) : EngIO Copy :=
  match s.engPlan c .wr (bs.length / 4096 + 2) p bs.length with
  | .wait s1 => .wait s1
  | .fail code a s1 => .fail code a s1
  | .ok ps => s.engPut c ps bs

/-! ### Elements and segments (R263, R264) -/

/-- The plane, row and byte at a position of the copy element order. -/
def Copy.at (c : Copy) (q : Nat) : Nat × Nat × Nat := (q / (c.n0 * c.n1), q / c.n0 % c.n1, q % c.n0)

def Copy.dstAt (c : Copy) (q : Nat) : Nat :=
  let (p, r, b) := c.at q
  wrapNat 64 ((c.dst : Int) + p * c.ds2 + r * c.ds1 + b)
/-- The source address; `row`: the row that an index list gives. -/
def Copy.srcAt (c : Copy) (q : Nat) (row : Option Nat) : Nat :=
  let (p, r, b) := c.at q
  match row with
  | some i => wrapNat 64 ((c.src : Int) + i * c.ss1 + b)
  | none => wrapNat 64 ((c.src : Int) + p * c.ss2 + r * c.ss1 + b)

/-- R263: an element address keeps the space, and in space 6 the device, of its pointer. -/
def sameSpace (base a : Nat) : Bool :=
  ptrSpace a == ptrSpace base && ptrFormed a && (ptrSpace a != 6 || bitsOf a 49 11 == bitsOf base 49 11)
/-- The first byte address of a run that leaves the space. -/
def leaves (base a n : Nat) : Option Nat :=
  if !sameSpace base a then some a
  else if !sameSpace base ((a + n - 1) % 2 ^ 64) then some ((a + n - 1) % 2 ^ 64)
  else none

/-- R264: the bytes from a position to the end of its segment. The counted address of a gather is its destination or its
source as for the others. -/
def Copy.segLen (c : Copy) (q : Nat) (row : Option Nat) : Nat :=
  let a := if c.cmp = 1 ∧ c.out then c.srcAt q row else c.dstAt q
  Nat.min (c.n0 - q % c.n0) (512 - a % 512)

/-- R266: the row that the index list gives for a position of a gather. -/
def State.gatherRow (s : State) (c : Copy) (q : Nat) : EngIO (Option Nat) :=
  if !c.gathers then .ok none s
  else
    let a := (c.idx + (c.at q).2.1 * c.idxBytes) % 2 ^ 64
    match s.engRead c a c.idxBytes with
    | .ok b s1 => if b.any Prod.snd then .fail 4 a s1 else .ok (some (leNat (b.map Prod.fst))) s1
    | .wait s1 => .wait s1
    | .fail code x s1 => .fail code x s1

/-- The window that bounds a gather's scratchpad rows (R453 code 0x5). -/
def State.rowOk (s : State) (c : Copy) (a n : Nat) : Bool :=
  if ptrSpace c.src = 2 ∨ ptrSpace c.src = 3 then
    match (c.wg? s).bind (fun w => s.grid? w.grid) with
    | some gr => (c.wg? s).all (fun w => a % 2 ^ 21 + n ≤ windowBytes gr w)
    | none => true
  else true

/-! ### Completion targets (R270) -/

/-- The barrier of CMP = 1; none when its workgroup has retired. -/
def State.copyBar (s : State) (c : Copy) : Option BarRef :=
  match c.wg? s with
  | none => none
  | some w =>
    let id := c.cptr % 2 ^ 21 / 16
    if ptrSpace c.cptr = 2 then some { wg := w.key, win := w.cores.findIdx (· == c.core), id := id }
    else match s.member w (bitsOf c.cptr 56 4) with
      | some (m, win) => some { wg := m.key, win := win, id := id }
      | none => none

/-- R213: one addition to a counter at its home. -/
def State.copyCount (s : State) (c : Copy) (v : Nat) : EngIO Unit :=
  match s.engAt c .wr c.cptr with
  | .wait s1 => .wait s1
  | .fail code s1 => .fail code c.cptr s1
  | .ok pl => match pl with
    | .mem pa at_ => .ok () ((s.markPte at_ true).update (some c.die) pa 8 (.add v)).1
    | .scr key win off => match s.wg? key with
      | some w => .ok () (s.scrWrite w win off (leBytes 8 ((leNat (s.scrRead w win off 8) + v) % 2 ^ 64)))
      | none => .ok () s
    | .peer => match s.copyFlit c c.cptr (.count (BitVec.ofNat 64 v)) with
      | (s1, none) => .wait s1
      | (s1, some (.ok _ _)) => .ok () s1
      | (s1, some .poison) => .ok () s1
      | (s1, some _) => .fail 8 c.cptr s1
    | _ => .fail 8 c.cptr s

/-! ### Progress of a copy (R267) -/

/-- The copy's own record, and the copy with its record replaced. -/
def State.setCopy (s : State) (c : Copy) : State := s.modCopy c.id (fun _ => c)

/-- A failing copy: the next step makes the failure (R454). -/
def State.failCopy (s : State) (c : Copy) (code fspc addr : Nat) : State :=
  { s with agenda := .copyFail c.id code fspc (BitVec.ofNat 64 addr) :: s.agenda }

/-- R311: what the copy has written has reached its visibility times and acknowledgements. -/
def State.copyVisible (s : State) (c : Copy) : Bool := s.allPassed c.vis && c.pend.isEmpty

/-- A copy of the Lens arbiter, which does not carry poison (R471). -/
def Copy.lens (c : Copy) : Bool := match c.owner with | .lens _ _ => true | _ => false

/-- Free values that an unfinished step has looked at are looked at again when it is tried again. -/
def State.sameFree (t s : State) : State := { t with free := s.free }

/-- The next segment of a copy or a gather moves. -/
def State.moveSegment (s : State) (c : Copy) : State :=
  match s.gatherRow c c.moved with
  | .wait s1 => s1.sameFree s
  | .fail code a s1 => s1.failCopy c code 2 a
  | .ok row s1 =>
    let n := c.segLen c.moved row
    let src := c.srcAt c.moved row
    let dst := c.dstAt c.moved
    match leaves c.src src n, leaves c.dst dst n with
    | some a, _ => s1.failCopy c 9 0 a
    | none, some a => if s1.rowOk c src n then s1.failCopy c 9 1 a else s1.failCopy c 5 0 src
    | none, none =>
      if !s1.rowOk c src n then s1.failCopy c 5 0 src
      else
      match s1.engRead c src n with
      | .wait s2 => s2.sameFree s
      | .fail code a s2 => s2.failCopy c code 0 a
      | .ok b s2 =>
        if c.lens && b.any Prod.snd then s2.failCopy c 4 0 src
        else match s2.engWrite c dst b with
        | .wait s3 => s3.sameFree s
        | .fail code a s3 => s3.failCopy c code 1 a
        | .ok c1 s3 => (s3.dropFlits c.id).setCopy { c1 with moved := c.moved + n }

/-- R267, R269: a segment that has moved is counted, once its bytes are visible. -/
def State.countSegment (s : State) (c : Copy) : State :=
  match s.gatherRow c c.rep with
  | .wait s1 => s1
  | .fail code a s1 => s1.failCopy c code 2 a
  | .ok row s1 =>
    let n := c.segLen c.rep row
    match s1.copyBar c with
    | none => s1.failCopy c 8 5 c.cptr
    | some r => (s1.barUpdate r (BarObj.bytes c.out c.gtag n)).setCopy { c with rep := c.rep + n }

/-- A counted segment is owed: its bytes have moved and are visible. The chunk of a cpyr may end within a segment. -/
def State.countDue (s : State) (c : Copy) : Bool :=
  c.cmp == 1 && c.rep < c.moved && (!c.reduces || c.rep + c.segLen c.rep none ≤ c.moved) && s.copyVisible c

/-- The copy may move a segment: no count is owed. -/
def Copy.moveDue (c : Copy) : Bool := !c.reduces && c.moved < c.total && (c.cmp != 1 || c.moved ≤ c.rep)

/-- The failure of a copy that waits for the page of its record. -/
def failureOf (id : Nat) (i : Instr) : Bool := match i with | .copyFail k _ _ _ => k == id | _ => false

/-- Copies of a workgroup whose groups do not run are stopped (R49). -/
def State.copyStopped (s : State) (c : Copy) : Bool :=
  c.replay || c.failed.isSome || s.waiting.any (failureOf c.id) || (match c.owner with | .wg k _ => (match s.wg? k with | some w => w.phase == .halted || w.phase == .saved | none => false) | _ => false)

/-- A descriptor read where the streamer of a core reaches it, through its die's L2; none while its page or line is awaited.
`job`: the number under which lines are served to it. -/
def State.readDesc (s : State) (core pasid ten job va : Nat) : State × Option (Except (Nat × Nat) (List Byte)) :=
  let src := srcStreamer core
  match s.demand src pasid va .rd with
  | .ok pa at_ mt =>
    match s.place pa mt with
    | .hole => (s.logRec (holeRec (dieOfCore core) pa 0), some (.error (6, va)))
    | .reg => (s, some (.error (6, va)))
    | .wait => (s.askRegion pa true, none)
    | .device _ =>
      let r := (List.range 16).foldl (fun (acc : List Byte × State) _ => let (v, t) := acc.2.freeVal; (acc.1 ++ leBytes 8 v.toNat, t)) ([], s.markPte at_ false)
      (r.2, some (.ok r.1))
    | _ =>
      let s1 := s.markPte at_ false
      if s1.poisoned pa 128 then (s1, some (.error (4, va)))
      else match s1.l2Read (dieOfCore core) ten (engineBuffer job) (s.leaseOf core) 2 pa 128 with
        | (s2, some b) => (s2.l2Used (engineBuffer job), some (.ok b))
        | (s2, none) => (s2, none)
  | .wait => (s.askPage src pasid va 0, none)
  | .bad perm => (s.useAnswer src pasid va 0, some (.error (if perm then 2 else 1, va)))
  | .malformed _ => (s, some (.error (1, va)))
/-- The numbers of what reads descriptors and is no copy yet. -/
def programJob (node sub : Nat) : Nat := 2 ^ 64 + 256 * node + sub
def lensJob (ten slot : Nat) : Nat := 2 ^ 63 + 4096 * ten + slot

/-- The workgroup that holds the staging area, with the window of the copy's core. -/
def Copy.staging (c : Copy) (s : State) : Option (Workgroup × Nat) := (c.wg? s).map (fun w => (w, w.cores.findIdx (· == c.core)))

/-- A copy marked for replay may run again: its owner runs, no shootdown is open (R449), and no earlier one of the same owner
waits (R273). -/
def State.replayDue (s : State) (c : Copy) : Bool :=
  c.replay && c.failed.isNone && !s.shoot.busy &&
  (match c.owner with | .wg k _ => (match s.wg? k with | some w => w.phase == .resident | none => true) | _ => true) &&
  (match s.copies.find? (fun k => k.replay && k.failed.isNone && k.owner == c.owner) with | some k => k.id == c.id | none => true)

/-- COPY_REPLAY (R272): the copy starts again from its descriptor, read again; a cpyr goes on at DONE. -/
def State.replayCopy (s : State) (c : Copy) : State :=
  let start := fun (s : State) (b : List Byte) =>
    let d := Copy.ofBytes c.id c.owner c.core c.pasid c.desc c.opf c.acq c.rel c.scope b
    let d1 : Copy := { d with gtag := c.gtag, rep := c.rep, vis := c.vis, pend := c.pend, abandons := c.abandons, inRow := c.inRow, repAt := c.repAt }
    match d1.reduces, d1.staging s with
    | true, some (w, win) => let n := leNat (s.scrRead w win d1.stg 8); s.setCopy { d1 with moved := n, applied := n }
    | _, _ => s.setCopy d1
  let bad := fun (s : State) (code a : Nat) => (s.setCopy { c with replay := false }).failCopy c code 4 a
  if ptrSpace c.desc = 2 then
    match c.staging s with
    | none => bad s 8 c.desc
    | some (w, win) => if s.scrPoisoned w win (c.desc % 2 ^ 21) 128 then bad s 4 c.desc else start s (s.scrRead w win (c.desc % 2 ^ 21) 128)
  else match s.readDesc c.core c.pasid (c.ten s) c.id (c.desc % 2 ^ 56) with
    | (s1, none) => s1
    | (s1, some (.error (code, a))) => bad s1 code a
    | (s1, some (.ok b)) => start s1 b

/-- SEGMENT_COUNT (R267), which also moves the next segment and starts a replay. -/
def execSegmentCount (id : Nat) (s : State) : Host.Outcome State Fault Refusal :=
  match s.copy? id with
  | none => .next s
  | some c =>
    if s.replayDue c then .next (s.replayCopy c)
    else if s.copyStopped c then .next s
    else if s.countDue c then .next (s.countSegment c)
    else if c.moveDue then .next (s.moveSegment c)
    else .next s

/-! ### cpyr (R269) -/

/-- The operation of ROP and TY as an atomic one (R197): its MOD and SGN. -/
def Copy.op (c : Copy) : BitVec 3 × Bool :=
  match c.rop with
  | 0 => if c.ty ≥ 0xC then (if bitOf c.ctl 20 then 4 else 0, true) else (0, false)
  | 1 => (1, c.ty < 4)
  | _ => (2, c.ty < 4)

/-- The group number in the stores of a streamer's elements: they belong to a workgroup and to none of its groups. -/
def streamerGrp : Nat := 512

/-- Elements of a chunk applied at a destination range that has been planned. At memory each is one indivisible operation
that its die's L2 applies in its turn (R198, R313). -/
def State.applyElems (s : State) (c : Copy) (e : Nat) : (fuel : Nat) → List (Nat × Nat × EngPlace) → List (Byte × Bool) → State × Copy × Flags
  | 0, _, _ => (s, c, 0)
  | _, [], _ => (s, c, 0)
  | f + 1, (p, n, pl) :: rest, bs =>
    if n < e then State.applyElems s c e f rest bs
    else
      let b := leNat ((bs.take e).map Prod.fst)
      let bad := (bs.take e).any Prod.snd
      let sz := BitVec.ofNat 3 c.esz
      let next := fun (s : State) (c : Copy) (fl : Flags) =>
        let pl1 := match pl with | .mem pa a => EngPlace.mem (pa + e) a | .dev port pa a => .dev port (pa + e) a | .scr k w o => .scr k w (o + e) | x => x
        let r := State.applyElems s c e f ((p + e, n - e, pl1) :: rest) (bs.drop e)
        (r.1, r.2.1, fl ||| r.2.2)
      match pl with
      | .mem pa at_ =>
        if bad || s.poisoned pa e then next (s.poisonSectors (s.forwarded pa) e) c 0
        else
          let (id, s1) := (s.markPte at_ true).fresh
          let q : Store := { id := id, die := c.die, wg := (match c.owner with | .wg k _ => k | _ => noWg), grp := streamerGrp, lane := 0, pa := s.forwarded pa, bytes := List.replicate e 0, op := .atomic c.op.1 c.op.2 sz (BitVec.ofNat 64 b) 0, io := false }
          next { s1 with storeQ := s1.storeQ ++ [q] } { c with vis := visMax c.vis (some (16 + id, 1)) } 0
      | .dev port pa at_ =>
        let (v, s1) := (s.markPte at_ true).freeVal
        let r := atomicOp c.op.1 c.op.2 sz (v.toNat % 2 ^ (8 * e)) b 0
        next (if bad then s1 else s1.toDevice port pa (leBytes e r.1)) c (if bad then 0 else r.2)
      | .scr key win off => match s.wg? key with
        | none => next s c 0
        | some w =>
          if bad || s.scrPoisoned w win off e then next (s.poisonScr w win off e) c 0
          else
            let r := atomicOp c.op.1 c.op.2 sz (leNat (s.scrRead w win off e)) b 0
            next (s.scrWrite w win off (leBytes e r.1)) c r.2
      | _ => next s c 0

/-- Elements that go to another device: each is one non-returning atomic of its own there. -/
def State.sendElems (s : State) (c : Copy) (e dst : Nat) (bs : List (Byte × Bool)) : State × Bool × Flags :=
  (List.range (bs.length / e)).foldl (fun (acc : State × Bool × Flags) i =>
    let op := PeerOp.atom false c.op.1 c.op.2 (BitVec.ofNat 3 c.esz) (BitVec.ofNat 64 (leNat (((bs.drop (e * i)).take e).map Prod.fst))) 0
    match acc.1.copyFlit c (dst + e * i) op with
    | (t, some (.ok _ fl)) => (t, acc.2.1, acc.2.2 ||| fl)
    | (t, some _) => (t, acc.2.1, acc.2.2)
    | (t, none) => (t, false, acc.2.2)) (s, true, 0)

/-- The refusal of a device among the answers to a copy's elements. -/
def State.refused (s : State) (c : Nat) : Option (Nat × Nat) :=
  (s.fabric.filter (fun f => f.copy == some c)).findSome? (fun f => match f.ans with
    | some a => if ansCode a ≠ 0 then some (ansCode a, f.ptr) else none
    | none => none)

/-- CPYR_CHUNK_APPLY (R269): the next run of source elements of one row, through the staging area; the applies and DONE
are one unit. -/
def State.applyChunk (s : State) (c : Copy) : State :=
  match c.staging s with
  | none => s.failCopy c 8 3 (2 * 2 ^ 60 + c.stg)
  | some (w, win) =>
    let e := 2 ^ c.esz
    let n := Nat.min (c.n0 - c.moved % c.n0) ((c.stgsz - 64) / e * e)
    let src := c.srcAt c.moved none
    let dst := c.dstAt c.moved
    match leaves c.src src n, leaves c.dst dst n with
    | some a, _ => s.failCopy c 9 0 a
    | none, some a => s.failCopy c 9 1 a
    | none, none =>
      match s.engRead c src n with
      | .wait s1 => s1.sameFree s
      | .fail code a s1 => s1.failCopy c code 0 a
      | .ok b s1 =>
        match s1.engPlan c .wr (n / 4096 + 2) dst n with
        | .wait s2 => s2.sameFree s
        | .fail code a s2 => s2.failCopy c code 1 a
        | .ok ps =>
          let s2 := s1.scrWrite w win (c.stg + 64) (b.map Prod.fst)
          let finish := fun (s : State) (c : Copy) (fl : Flags) =>
            let done := c.moved + n
            ((s.orRemote w.key fl).scrWrite w win c.stg (leBytes 8 done)).setCopy { c with moved := done, applied := done }
          if ptrSpace dst = 6 ∧ bitsOf dst 49 11 ≠ s.devnum then
            let r := s2.sendElems c e dst b
            match r.1.refused c.id with
            | some (code, a) => r.1.failCopy c code 1 a
            | none => if r.2.1 then finish (r.1.dropFlits c.id) c r.2.2 else r.1.sameFree s
          else
            let r := s2.applyElems c e (n / e + ps.length + 1) ps b
            finish (r.1.dropFlits c.id) r.2.1 r.2.2

def execCpyrChunkApply (id : Nat) (s : State) : Host.Outcome State Fault Refusal :=
  match s.copy? id with
  | none => .next s
  | some c => if s.copyStopped c || !c.reduces || c.moved ≥ c.total then .next s else .next (s.applyChunk c)

/-! ### Copy programs (R349) -/

/-- What the end of a program's sub-launch records on its node (R354, R454). -/
def State.progDone (s : State) (node sub : Nat) (status : Nat) : State :=
  s.modNode node (fun x => { x with subs := x.subs.modify sub (fun r => { r with done := true }), status := if x.status = 0 then status else x.status, statSub := if x.status = 0 ∧ status ≠ 0 then sub else x.statSub })

/-- The streamer reaches the next descriptor of a program, or the program is complete. -/
def State.progNext (s : State) (node sub : Nat) : State :=
  match (s.node? node).bind (fun x => (x.subs[sub]?).map (fun r => (x, r))) with
  | none => s
  | some (x, r) =>
    if r.pos ≥ fieldAt r.bytes 4 4 then s.progDone node sub 0
    else
      let core := fieldAt r.bytes 2 2
      let desc := fieldAt r.bytes 8 8 + 128 * r.pos
      match s.readDesc core x.pasid x.ten (programJob node sub) (desc % 2 ^ 56) with
      | (s1, none) => s1
      | (s1, some d) =>
        let (id, s2) := s1.fresh
        let b := match d with | .ok b => b | .error _ => []
        let c := Copy.ofBytes id (.prog node sub) core x.pasid desc 8 false false 0 b
        let s3 : State := { s2 with copies := s2.copies ++ [c] }
        let s4 := s3.modNode node (fun x => { x with subs := x.subs.modify sub (fun r => { r with pos := r.pos + 1 }) })
        match d with
        | .error (code, a) => s4.failCopy c code 4 a
        | .ok b => if (c.programFault b).isSome then s4.failCopy c 0xA 4 desc else s4

/-! ### The end of a copy -/

/-- COPY_COMPLETE (R267): everything has moved and been counted; a release waits for visibility; then the counter. -/
def State.copyOver (s : State) (c : Copy) : Bool :=
  c.moved ≥ c.total && (c.cmp != 1 || c.rep ≥ c.total) && (!c.rel || s.copyVisible c) && c.pend.isEmpty

def State.endCopy (s : State) (c : Copy) : State :=
  let s1 : State := { s.dropFlits c.id with copies := s.copies.filter (fun k => k.id != c.id) }
  match c.owner with
  | .prog node sub => (s1.modNode node (fun x => { x with vis := c.vis.foldl (fun m e => visMax m (some e)) x.vis })).progNext node sub
  | .lens ten slot => { s1 with lensRuns := s1.lensRuns.map (fun r => if r.ten = ten ∧ r.slot = slot then { r with vis := c.vis.foldl (fun m e => visMax m (some e)) r.vis } else r) }
  | _ => s1

def execCopyComplete (id : Nat) (s : State) : Host.Outcome State Fault Refusal :=
  match s.copy? id with
  | none => .next s
  | some c =>
    if s.copyStopped c || !s.copyOver c then .next s
    else if c.cmp = 2 then
      match s.copyCount c c.cval with
      | .ok _ s1 => .next (s1.endCopy c)
      | .wait s1 => .next s1
      | .fail _ a s1 => .next (s1.failCopy c 8 5 a)
    else .next (s.endCopy c)

/-! ### Failures (R454) -/

/-- R454 step 2: the fault record. -/
def Copy.record (c : Copy) (s : State) (code fspc addr fdet : Nat) : List Byte :=
  leBytes 1 code ++ leBytes 1 fspc ++ leBytes 2 (Nat.min c.abandons 0xFFFF) ++ leBytes 1 fdet ++ leBytes 3 0 ++ leBytes 8 addr ++ leBytes 8 c.rep ++ leBytes 8 (s.clock (dieOfCore c.core))

/-- The record written over the descriptor, where that page takes it. -/
def State.writeRecord (s : State) (c : Copy) (b : List Byte) : EngIO Copy :=
  match s.engWrite { c with pend := [] } (c.desc + 0x60) (b.map (fun x => (x, false))) with
  | .ok c1 s1 => .ok c1 s1
  | .wait s1 => .wait s1
  | .fail _ _ s1 => .ok c s1

/-- R454 step 3. -/
def State.failTarget (s : State) (c : Copy) : EngIO Unit :=
  match c.cmp with
  | 1 => match s.copyBar c with
    | some r => .ok () (s.barUpdate r (fun o => o.fail 7))
    | none => .ok () s
  | 2 => match s.copyCount c ((c.cval + 2 ^ 63) % 2 ^ 64) with
    | .fail _ _ s1 => .ok () s1
    | r => r
  | _ => .ok () s

/-- COPY_FAIL (R454): the copy stops with its fault record; once that is visible, the completion target and the log. -/
def execCopyFail (id code fspc : Nat) (addr : W64) (s : State) : Host.Outcome State Fault Refusal :=
  match s.copy? id with
  | none => .next s
  | some c =>
    let fdet := if code = 0xA then (match c.programFault ((s.vread c.pasid (c.desc % 2 ^ 56) 128).getD []) with | some k => k | none => 0) else 0
    match c.failed with
    | none =>
      match (s.dropFlits id).writeRecord c (c.record s code fspc addr.toNat fdet) with
      | .wait s1 => .next { s1 with waiting := s1.waiting ++ [.copyFail id code fspc addr] }
      | .ok c1 s1 => .next (s1.setCopy { c1 with failed := some (code, fspc, addr.toNat) })
      | .fail _ _ s1 => .next (s1.setCopy { c with failed := some (code, fspc, addr.toNat) })
    | some (code, fspc, _) =>
      if !s.copyVisible c then .next s
      else match s.failTarget c with
        | .wait s1 => .next s1
        | .fail _ _ s1 => .next s1
        | .ok _ s1 =>
          let w := c.wg? s
          let s2 := s1.logRec { unit := dieOfCore c.core, code := 0x13, ten := (w.map (·.ten)).getD 0xFF, src := 2, uno := c.core, ctx := (w.map (·.ctx)).getD 0xFFFFFFFF, pasid := c.pasid, va := addr.toNat, aux := code + 256 * fspc }
          let s3 : State := { s2.dropFlits id with copies := s2.copies.filter (fun k => k.id != id) }
          match c.owner with
          | .prog node sub => .next (s3.progDone node sub 8)
          | .lens ten slot => .next { s3 with lensRuns := s3.lensRuns.map (fun r => if r.ten = ten ∧ r.slot = slot then { r with failed := true } else r) }
          | _ => .next s3

/-! ### Issue (R258, R259, R266 to R268) -/

/-- R267: every earlier store of the split is at its home and visible there. -/
def Ctx.storesDone (x : Ctx) (s : State) : Bool :=
  s.passed x.die x.sp.vis && !s.storeQ.any (fun q => x.sp.pend.contains q.id) && !s.fabric.any (fun f => x.sp.pend.contains f.id) && !s.posted.any (fun p => x.sp.pend.contains p.id) && !s.contribs.any (fun c => x.sp.pend.contains c.id)

/-- n bytes that an engine of the core reads at a checked pointer as the instruction issues, with their poison; none while a
line has yet to come. -/
def Ctx.descBytes (x : Ctx) (s : State) (n : Nat) (p : LanePlan) : State × Option (List Byte × Bool) :=
  match p.res with
  | .scr key win off => (s, some (match s.wg? key with | some w => (s.scrRead w win off n, s.scrPoisoned w win off n) | none => ([], false)))
  | .line pa _ | .direct pa _ _ =>
    let who := laneBuffer x.wg.key x.foc.grp p.lane
    (match s.l2Read x.die x.wg.ten who (s.leaseOf x.g.core) (n / 128 + 2) pa n with
      | (s1, some b) => (s1.l2Used who, some (b, s1.resPoisoned p.res n))
      | (s1, none) => (s1, none))
  | .device port pa _ =>
    let r := (List.range ((n + 7) / 8)).foldl (fun (acc : List Byte × State) _ => let (v, t) := acc.2.freeVal; (acc.1 ++ leBytes 8 v.toNat, t)) ([], s)
    (r.2, some (r.1.take n, s.contained port pa))
  | r => (s, some (List.replicate n 0, s.resPoisoned r n))

/-- The copy that a checked descriptor starts. -/
def Ctx.startCopy (x : Ctx) (s : State) (lane : Nat) (w : FormE) (opf ptr : Nat) (p : LanePlan) : State :=
  match x.descBytes s 128 p with
  | (s1, none) => s1.holdSplit x
  | (s, some (b, bad)) =>
  if bad then s.takeTrap x { cause := 0x0F, sub := 1, lane := lane, val := BitVec.ofNat 64 ptr }
  else
    let (id, s1) := s.fresh
    let c := Copy.ofBytes id (.wg x.wg.key x.foc.grp) x.g.core x.gr.pasid ptr opf w.acq w.rel w.scope.toNat b
    match c.fault b x.wg.clsize (windowBytes x.gr x.wg) x.win (x.wg.cores.length > 1) with
    | some (cause, sub, v) => s.takeTrap x { cause := cause, sub := sub, lane := lane, val := BitVec.ofNat 64 v }
    | none =>
      let mine := s.copies.filter (fun k => match k.owner with | .wg key _ => key == x.wg.key | _ => false)
      if mine.length ≥ 15 ∨ mine.any (·.replay) then s.holdSplit x
      else
        let go := fun (s : State) (c : Copy) =>
          let s2 : State := { s with copies := s.copies ++ [c] }
          (if c.reduces then s2.scrWrite x.wg x.win c.stg (leBytes 64 0) else s2).advance x
        if c.cmp ≠ 1 then go s1 c
        else match (if ptrSpace c.cptr = 3 then s.member x.wg (bitsOf c.cptr 56 4) else some (x.wg, 0)) with
          | some (m, _) =>
            if m.phase = .starting then s.blockSplit x .parked .member (.member m.key)
            else go s1 { c with gtag := (match s.copyBar c with | some r => (s.bar r).gen | none => 0) }
          | none => go s1 c

def Ctx.copyIssue (x : Ctx) (s : State) (w : FormE) (opf : Nat) : State :=
  match x.lead w.com with
  | none => s.advance x
  | some lane =>
    if x.g.grpid ≠ x.gr.k.producer then s.takeTrap x { cause := 0x09, lane := lane }
    else
      let p := x.g.readSrc lane (src64Of w.a)
      x.settlePlan s (x.planLanes { spaces := [0, 2], width := 128, align := 128 } .rd false none [] s [(lane, p)]) (fun l =>
        if !x.storesDone s then s.holdSplit x
        else match l with
          | [] => s
          | q :: _ => x.startCopy (s.markLeaves l false) lane w opf p q)

/-- R267. -/
def execCpy (w : FormE) (s : State) : Host.Outcome State Fault Refusal :=
  issueWith (.cpy w) w.com [(w.a, 2)] [] s (fun x s => x.copyIssue s w 0x08)

/-- R269. -/
def execCpyr (w : FormE) (s : State) : Host.Outcome State Fault Refusal :=
  issueWith (.cpyr w) w.com [(w.a, 2)] [] s (fun x s => x.copyIssue s w 0x09)

/-- R266. -/
def execCpyg (w : FormE) (s : State) : Host.Outcome State Fault Refusal :=
  issueWith (.cpyg w) w.com [(w.a, 2)] [] s (fun x s => x.copyIssue s w 0x0A)

end Sys2Proof.Machine
end

