-- ==== Sys2Proof/Machine/Placement.lean ====
section
/-! DEFINITION. The resources of cores, the fit of workgroups and clusters (R33, R34, R57, R358, R485), context numbers (R30), helper
and absent lanes (R31), the placement of a cluster (R66, R361) and the creation of groups (R62, R368). -/
namespace Sys2Proof.Machine

/-- A region's steward acts: it runs and is not being restarted (R407, R468). -/
def State.stewardUp (s : State) (region : Nat) : Bool := (s.steward region).sstat == 0 && (s.steward region).downUntil.isNone
def Workgroup.region (w : Workgroup) : Nat := regionOfCore (w.cores.getD 0 0)

/-! ### What the workgroups of a core take (R33, R57) -/

/-- One sub-core's slots in use, main registers and s registers; the ranges of scratchpad and of accumulator rows in use. -/
structure CoreUse where
  subs : List (List Nat × Nat × Nat)
  scr : List (Nat × Nat)
  acc : List (Nat × Nat)
deriving DecidableEq, Repr

def emptyCore : CoreUse := { subs := List.replicate 8 ([], 0, 0), scr := [], acc := [] }

/-- The scratchpad of a core, the rows of its accumulator memory, the registers of a sub-core (R57, R64, R69). -/
def scrLimit : Nat := 1572864
def accLimit : Nat := 2048
def mainLimit : Nat := 4096
def sLimit : Nat := 16384

/-- What the placed workgroups hold of a core; none for a core that counts as occupied (R484). -/
def State.coreUse (s : State) (c : Nat) : Option CoreUse :=
  if !(s.core c).avail then none
  else some (s.wgs.foldl (fun u w =>
    if w.phase = .saved ∨ ¬ w.cores.contains c then u
    else match s.grid? w.grid with
      | none => u
      | some gr =>
        let i := w.cores.findIdx (· == c)
        let subs := (w.groups.filter (fun g => g.core == c)).foldl (fun l g => l.modify g.sub (fun b => (g.slot :: b.1, b.2.1 + gr.k.vregs, b.2.2 + gr.k.sregs))) u.subs
        { subs := subs, scr := (w.spBase.getD i 0, windowBytes gr w) :: u.scr, acc := (w.accBase.getD i 0, gr.k.acc) :: u.acc }) emptyCore)

/-- The lowest base of a free range; beyond every range in use where no gap is large enough (log entry 24). -/
def freeBase (used : List (Nat × Nat)) (n limit : Nat) : Nat :=
  let ends := used.map (fun r => r.1 + r.2)
  let ok := (0 :: ends).filter (fun b => b + n ≤ limit && used.all (fun r => r.2 == 0 || b + n ≤ r.1 || r.1 + r.2 ≤ b))
  match minNat? ok with
  | some b => b
  | none => maxNat ends

/-- The lowest free group slot of a sub-core. -/
def freeSlot (used : List Nat) : Nat := ((List.range 129).find? (fun k => !used.contains k)).getD 128

/-- R485: groups go one at a time to the sub-core with the fewest groups on which they fit; the sub-core and slot of each. -/
def assignGroups (k : Kernel) : (n : Nat) → List (List Nat × Nat × Nat) → Option (List (Nat × Nat) × List (List Nat × Nat × Nat))
  | 0, subs => some ([], subs)
  | n + 1, subs =>
    let ok := (List.range 8).filter (fun i => match subs[i]? with
      | some b => b.1.length < 128 && b.2.1 + k.vregs ≤ mainLimit && b.2.2 + k.sregs ≤ sLimit
      | none => false)
    match leastBy (fun i => ((subs.getD i ([], 0, 0)).1).length) ok with
    | none => none
    | some i =>
      let slot := freeSlot (subs.getD i ([], 0, 0)).1
      match assignGroups k n (subs.modify i (fun b => (slot :: b.1, b.2.1 + k.vregs, b.2.2 + k.sregs))) with
      | none => none
      | some r => some ((i, slot) :: r.1, r.2)

/-- A part of a workgroup on one core: the core, its groups' places and the bases of its scratchpad and rows. -/
structure Spot where
  core : Nat
  places : List (Nat × Nat)
  spBase : Nat
  accBase : Nat
deriving DecidableEq, Repr

/-- R33: one core takes n groups, a window of scratchpad and the declared rows. -/
def CoreUse.take (u : CoreUse) (k : Kernel) (core n win : Nat) : Option (Spot × CoreUse) :=
  if (u.scr.map Prod.snd).sum + win > scrLimit ∨ (u.acc.map Prod.snd).sum + k.acc > accLimit then none
  else match assignGroups k n u.subs with
    | none => none
    | some r =>
      let spot : Spot := { core := core, places := r.1, spBase := freeBase u.scr win scrLimit, accBase := freeBase u.acc k.acc accLimit }
      some (spot, { subs := r.2, scr := (spot.spBase, win) :: u.scr, acc := (spot.accBase, k.acc) :: u.acc })

/-- R33: how the groups of a workgroup divide among the n cores of its span. -/
def spanParts (n g : Nat) : List Nat :=
  let per := (g + n - 1) / Nat.max n 1
  (List.range n).map (fun i => Nat.min per (g - i * per))

/-- The parts in order on the lowest-numbered cores that take them all, a core once. -/
def fitParts (k : Kernel) (win : Nat) (ok : Nat → Nat → Bool) : (idx : Nat) → List Nat → List (Nat × CoreUse) → Option (List (Spot × CoreUse))
  | _, [], _ => some []
  | i, n :: ns, us =>
    us.findSome? (fun e => if !ok i e.1 then none else match e.2.take k e.1 n win with
      | none => none
      | some r => (fitParts k win ok (i + 1) ns (us.filter (fun u => u.1 != e.1))).map (fun rest => r :: rest))

/-- One workgroup of g groups over n cores among those listed, and what is then in use. -/
def fitWorkgroup (k : Kernel) (n g : Nat) (ok : Nat → Nat → Bool) (us : List (Nat × CoreUse)) : Option (List Spot × List (Nat × CoreUse)) :=
  match fitParts k (windowOf n k.scratch) ok 0 (spanParts n g) us with
  | none => none
  | some rs => some (rs.map Prod.fst, us.map (fun e => match rs.find? (fun r => r.1.core == e.1) with | some r => (e.1, r.2) | none => e))

/-- R33, R34: the number of cores of a workgroup: 1 where an empty core holds it, else the smallest span of a lone one. -/
def spanOf (k : Kernel) (g : Nat) : Option Nat :=
  let empty := (List.range 8).map (fun c => (c, emptyCore))
  ((if k.cluster ≤ 1 then [1, 2, 3, 4, 5, 6, 7, 8] else [1]).find? (fun n => (fitWorkgroup k n g (fun _ _ => true) empty).isSome))

/-- R358: the members of a cluster in rank order. -/
def fitCluster (k : Kernel) : List Nat → List (Nat × CoreUse) → Option (List (List Spot))
  | [], _ => some []
  | g :: gs, us =>
    match (spanOf k g).bind (fun n => fitWorkgroup k n g (fun _ _ => true) us) with
    | none => none
    | some r => (fitCluster k gs r.2).map (fun rest => r.1 :: rest)

/-- The cores of a region that can take work. -/
def State.regionUse (s : State) (region : Nat) : List (Nat × CoreUse) :=
  (List.range 8).filterMap (fun i => (s.coreUse (8 * region + i)).map (fun u => (8 * region + i, u)))

/-! ### Clusters and lanes (R28, R31, R356) -/

/-- R31: the groups of a workgroup at x that have a lane within the extent. -/
def createdGroups (k : Kernel) (x : Nat) : Nat := ((List.range k.groups).filter (fun g => x * k.wgsize + 32 * g < k.x)).length
/-- The created lanes and the helper lanes of group g. -/
def laneMasks (k : Kernel) (x g : Nat) : BitVec 32 × BitVec 32 :=
  let n := Nat.min (k.x - (x * k.wgsize + 32 * g)) 32
  let made := (n + 3) / 4 * 4
  (BitVec.ofNat 32 (2 ^ made - 1), BitVec.ofNat 32 (2 ^ made - 2 ^ n))

/-- R356: the coordinates of the members of cluster c, in rank order. The clusters' first key is the index along x, then y, then z
(log entry 76). -/
def Grid.members (gr : Grid) (c : Nat) : List (Nat × Nat × Nat) :=
  let gy := Nat.max gr.k.gy 1
  let gz := Nat.max gr.k.gz 1
  (List.range gr.csize).map (fun r => (c / (gy * gz) * gr.csize + r, c / gz % gy, c % gz))

/-- R357: the first cluster fits an empty region. -/
def Grid.placeable (gr : Grid) : Bool :=
  (fitCluster gr.k ((gr.members 0).map (fun m => createdGroups gr.k m.1)) ((List.range 8).map (fun c => (c, emptyCore)))).isSome

/-! ### Context numbers (R30) -/

/-- The first number from n on that no unretired workgroup of the tenancy holds. -/
def nextFree (held : List Nat) : (fuel n : Nat) → Nat
  | 0, n => n % 2 ^ 20
  | f + 1, n => if held.contains (n % 2 ^ 20) then nextFree held f (n + 1) else n % 2 ^ 20

def State.heldCtx (s : State) (ten : Nat) : List Nat := (s.wgs.filter (fun w => w.ten == ten)).map (·.ctx)

/-- R30: which free number a workgroup gets is left open: from the number that the event gives, else from a free value on. -/
def State.takeCtx (s : State) (ten : Nat) (want : Option Nat) : Nat × State :=
  let held := s.heldCtx ten
  match want with
  | some n => (nextFree held held.length n, s)
  | none =>
    let (v, s1) := s.freeVal
    (nextFree held held.length v.toNat, s1)

/-! ### Placing a cluster (R66, R361) -/

/-- R66: a core that passes between tenancies is cleared. -/
def State.claimCore (s : State) (core ten : Nat) : State :=
  s.modCore core (fun c =>
    if c.lastTen = some ten ∨ c.lastTen = none then { c with lastTen := some ten }
    else { c with lastTen := some ten, scr := [], scrPoison := [], acc := [], accPoison := [], arrays := c.arrays.map (fun a => { a with live := {}, shadow := {} }) })

/-- R66: the barrier block, and with zero-fill the whole window, start as zero. -/
def State.zeroScr (s : State) (core base n : Nat) : State :=
  s.modCore core (fun c => { c with scr := mclear c.scr base n, scrPoison := c.scrPoison.filter (fun u => !(base ≤ 32 * u && 32 * u < base + n)) })

/-- The groups of a workgroup before their creation. -/
def newGroups (k : Kernel) (x : Nat) (spots : List Spot) : List Group :=
  let all := spots.flatMap (fun sp => sp.places.map (fun p => (sp.core, p.1, p.2)))
  all.zipIdx.map (fun e => { grpid := e.2, core := e.1.1, sub := e.1.2.1, slot := e.1.2.2, created := (laneMasks k x e.2).1, helper := (laneMasks k x e.2).2 })

/-- A member takes its place and a context number; barrier 0 expects its created groups (R31, R204), which are created
later (R361). -/
def State.placeMember (s : State) (gr : Grid) (c rank : Nat) (m : Nat × Nat × Nat) (spots : List Spot) (want : Option Nat) : State :=
  let (ctx, s1) := s.takeCtx gr.ten want
  let (key, s2) := s1.fresh
  let w : Workgroup := { key := key, ten := gr.ten, ctx := ctx, grid := gr.id, x := m.1, y := m.2.1, z := m.2.2, rank := rank, clsize := if spots.length > 1 then spots.length else gr.csize, cluster := c, cores := spots.map (·.core), spBase := spots.map (·.spBase), accBase := spots.map (·.accBase), groups := newGroups gr.k m.1 spots, chans := List.replicate 16 {}, since := s.cycle }
  let win := windowBytes gr w
  let s3 := spots.zipIdx.foldl (fun s e =>
    let s1 := s.claimCore e.1.core gr.ten
    s1.zeroScr e.1.core e.1.spBase (if gr.k.zfill then win else if e.2 = 0 then 0x400 else 0)) s2
  let n := w.groups.length
  ({ s3 with wgs := s3.wgs ++ [w] } : State).scrWrite w 0 0 (leBytes 4 (2 ^ 20 * n + 2 ^ 8 * n))

/-- R30: enough context numbers are free. -/
def State.ctxRoom (s : State) (gr : Grid) : Bool := (s.heldCtx gr.ten).length + gr.csize ≤ 2 ^ 20

/-- R358: the region places every member of a grid's next cluster, or none. -/
def State.placeNext (s : State) (gr : Grid) (region : Nat) (ctxs : List Nat) : Option State :=
  if gr.next ≥ gr.clusters ∨ gr.ended.isSome ∨ ¬ s.ctxRoom gr then none
  else
    let ms := gr.members gr.next
    match fitCluster gr.k (ms.map (fun m => createdGroups gr.k m.1)) (s.regionUse region) with
    | none => none
    | some plan =>
      let s1 := (ms.zip plan).zipIdx.foldl (fun s e => s.placeMember gr gr.next e.2 e.1.1 e.1.2 ctxs[e.2]?) s
      some (s1.modGrid gr.id (fun g => { g with next := g.next + 1, headSince := none, swapping := false, stallSince := none }))

/-! ### Creating groups (R62, R361, R368) -/

/-- R62, R368: the registers that the launch loads. -/
def Group.loadArgs (g : Group) (gr : Grid) (args : Nat) : Group :=
  let g1 := (List.range 8).foldl (fun g i => g.setReg 0 .s i (gr.args.getD i 0)) g
  let g2 := (g1.setReg 0 .s 8 (BitVec.ofNat 32 args)).setReg 0 .s 9 (BitVec.ofNat 32 (args / 2 ^ 32))
  if gr.k.vregs ≠ 256 then g2
  else (lanesOf g.created).foldl (fun g l =>
    ((g.setReg l .v 254 (BitVec.ofNat 32 gr.k.extent)).setReg l .v 255 0x10000000#32).setReg l .v 252 (BitVec.ofNat 32 gr.k.extent)) g2

/-- Cycles that a placement decision takes (R361). -/
def decideCycles : Nat := 256

/-- GROUP_CREATE (R353, R361): each split begins with the acquire of its sub-launch's dispatch; after the decision the group has its registers and one split at the kernel's entry; a workgroup whose
first group is created has started, and splits that waited for it go on (R46). -/
def execGroupCreate (wg grp : Nat) (s : State) : Host.Outcome State Fault Refusal :=
  match s.wg? wg with
  | none => .next s
  | some w =>
    match w.groups[grp]?, s.grid? w.grid with
    | some g, some gr =>
      if g.started ∨ s.cycle < w.since + decideCycles ∨ (w.phase ≠ .starting ∧ w.phase ≠ .resident) then .next s
      else
        let (t, s1) := s.stamp
        let first : Split := { wi := gr.k.entry, mask := g.created, qAt := t, acqAt := gr.joined }
        let g1 := { (g.loadArgs gr gr.argsPtr) with started := true, table := [some first, none, none, none, none, none, none, none] }
        let s2 := s1.modWg wg (fun w => { w with phase := .resident, groups := w.groups.set grp g1 })
        .next (s2.wakeBlk (.member wg))
    | _, _ => .next s

end Sys2Proof.Machine
end

