-- ==== Sys2Proof/Machine/Retire.lean ====
section
/-! DEFINITION. Retirement of groups, workgroups and grids with the statistics record (R42, R105, R228, R354), aborts (R431), and
stalls with swap-on-stall (R47, R48, R437). -/
namespace Sys2Proof.Machine

/-! ### What the QFE and the stewards write (R447) -/

/-- The requester numbers of the QFE and of a region's steward. -/
def srcQfe : Nat := 3000
def srcSteward (region : Nat) : Nat := 4000 + region

/-- Every page of a range is asked for where it is missing; true while an answer is awaited. -/
def State.awaitF (s : State) (src pasid : Nat) (k : Need) : (fuel va n : Nat) → State × Bool
  | 0, _, _ => (s, false)
  | f + 1, va, n =>
    if n = 0 then (s, false)
    else
      let step := Nat.min n (4096 - va % 4096)
      match s.demand src pasid (va % 2 ^ 56) k with
      | .wait =>
        let r := State.awaitF (s.askPage src pasid (va % 2 ^ 56) k.kind) src pasid k f (va + step) (n - step)
        (r.1, true)
      | _ => State.awaitF s src pasid k f (va + step) (n - step)
def State.await (s : State) (src pasid : Nat) (k : Need) (va n : Nat) : State × Bool := s.awaitF src pasid k (n / 4096 + 2) va n

/-- The same for several ranges. -/
def State.awaitAll (s : State) (src pasid : Nat) (k : Need) (rs : List (Nat × Nat)) : State × Bool :=
  rs.foldl (fun acc r => let t := acc.1.await src pasid k r.1 r.2; (t.1, acc.2 || t.2)) (s, false)

/-- R444, R447: an engine write that finds no page is discarded and logged. -/
def State.discarded (s : State) (pasid va aux : Nat) : State :=
  (s.useAnswer srcQfe pasid va 1).logRec { unit := 4, code := 0x15, src := 8, pasid := pasid, va := va, aux := aux }

/-- Visibility times of two records together. -/
def visJoin (a b : Map Nat) : Map Nat := b.foldl (fun m e => visMax m (some e)) a
/-- The QFE's record of its writes, which a SIGNAL's release waits for (R25). -/
def State.qfeKeep (s : State) (v : Map Nat) : State := { s with qfeVis := visJoin (if s.allPassed s.qfeVis then [] else s.qfeVis) v }

/-- Bytes that the QFE writes, with their visibility times; those of a missing page are lost. -/
def State.qfeWrite (s : State) (pasid va aux : Nat) (bs : List Byte) : State × Map Nat :=
  let r := s.vwrite pasid va bs
  ((if r.2.2 then r.1 else r.1.discarded pasid va aux).qfeKeep r.2.1, r.2.1)

/-! ### Statistics (R102, R104, R105) -/

/-- The places of a workgroup's counts in the record, with the counts. -/
def statTargets (gr : Grid) (w : Workgroup) : List (Nat × Nat) :=
  if gr.k.stats = 0 then [] else w.stats.map (fun e => (gr.k.stats + 0x40 + 4 * e.1, e.2))
/-- The places of the remote-flag words that have a flag; the others are zero already. -/
def flagTargets (gr : Grid) (fl : Map Nat) : List (Nat × Nat) :=
  if gr.k.stats = 0 then [] else fl.map (fun e => (gr.k.stats + 0x1040 + 4 * e.1, e.2))
def endTargets (gr : Grid) (fl : Map Nat) : List (Nat × Nat) :=
  (flagTargets gr fl).map (fun e => (e.1, 4)) ++ (if gr.k.stats = 0 then [] else [(gr.k.stats + 8, 8)])

/-- Saturating adds of a workgroup's counts, which are then zero. -/
def State.flushStats (s : State) (gr : Grid) (w : Workgroup) : State :=
  let s1 := (statTargets gr w).foldl (fun s e =>
    match s.vupdate gr.pasid e.1 4 .wr (.addSat e.2) with
    | some r => r.1.modGrid gr.id (fun g => { g with vis := visJoin g.vis r.2 })
    | none => s.discarded gr.pasid e.1 1) s
  s1.modWg w.key (fun w => { w with stats := [] })

/-- A workgroup's remote-flag word among its grid's. -/
def Grid.keepFlags (gr : Grid) (w : Workgroup) : Grid :=
  { gr with rflags := mset 0 gr.rflags (wgIndex gr w) (mget 0 gr.rflags (wgIndex gr w) ||| w.rflags.toNat) }

/-! ### The end of sub-launches, grids and workgroups -/

/-- R354: a sub-launch ends; the first status that is not zero is the node's. -/
def State.subDone (s : State) (node sub status cause detail : Nat) : State :=
  s.modNode node (fun x =>
    let y : Node := { x with subs := x.subs.modify sub (fun r => { r with done := true }) }
    if x.status = 0 ∧ status ≠ 0 then { y with status := status, statSub := sub, cause := cause, detail := detail } else y)

/-- R105: the remote-flag words are written; STATUS follows when they and the counts are visible. -/
def State.closeGrid (s : State) (id : Nat) : State :=
  match s.grid? id with
  | none => s
  | some gr =>
    let s1 := (flagTargets gr gr.rflags).foldl (fun s e =>
      let r := s.qfeWrite gr.pasid e.1 2 (leBytes 4 e.2)
      r.1.modGrid id (fun g => { g with vis := visJoin g.vis r.2 })) s
    s1.modGrid id (fun g => { g with closing := true })

/-- R105, R354: STATUS last, and the grid sub-launch is complete. -/
def State.finishGrid (s : State) (gr : Grid) : State :=
  let r := if gr.k.stats = 0 then (s, []) else s.qfeWrite gr.pasid (gr.k.stats + 8) 1 (leBytes 8 1)
  let s1 : State := { r.1 with grids := r.1.grids.filter (fun g => g.id != gr.id) }
  let e := gr.ended.getD (0, 0, 0)
  (s1.modNode gr.node (fun x => { x with vis := visJoin x.vis r.2 })).subDone gr.node gr.sub e.1 e.2.1 e.2.2

/-- R238: the workgroup's arrays are free. -/
def Core.release (c : Core) (key : Nat) : Core :=
  { c with mops := c.mops.filter (fun m => m.wg != key), arrays := c.arrays.map (fun a => if a.owner = some key then { a with owner := none, live := {}, shadow := {}, queue := [] } else a) }
def State.releaseArrays (s : State) (w : Workgroup) : State := w.cores.foldl (fun s c => s.modCore c (fun k => k.release w.key)) s

/-- A workgroup's slots, registers, scratchpad, rows and arrays return to the cores. -/
def State.freeWg (s : State) (w : Workgroup) : State :=
  let s1 := if w.phase = .saved then s else s.releaseArrays w
  { s1 with wgs := s1.wgs.filter (fun k => k.key != w.key) }

/-- The workgroup's matrix operations that are still in flight. -/
def State.matrixBusy (s : State) (w : Workgroup) : Bool :=
  w.cores.any (fun c => (s.core c).mops.any (fun m => m.wg == w.key) || (s.core c).arrays.any (fun a => a.owner == some w.key && a.queue != []))

/-- WORKGROUP_RETIRE (R42, R105): counts, remote flags, and with the grid's last workgroup the end of the grid. -/
def State.retireWg (s : State) (gr : Grid) (w : Workgroup) : State :=
  let last := gr.retired + 1 ≥ gr.total
  let keep := fun (g : Grid) => { g.keepFlags w with retired := g.retired + 1, detections := 0, stallSince := none }
  let r := s.awaitAll srcQfe gr.pasid .wr ((statTargets gr w).map (fun e => (e.1, 4)) ++ (if last then endTargets gr (keep gr).rflags else []))
  if r.2 then r.1
  else
    let s0 := ((r.1.flushStats gr w).freeWg w).modGrid gr.id keep
    let s1 := if s0.wgs.any (fun o => o.grid == gr.id && o.cluster == w.cluster) then s0 else s0.dropEdges (fun h => h == (gr.id, w.cluster))
    if last then s1.closeGrid gr.id else s1

/-- GROUP_RETIRE (R228): no split is left, and every store of the lanes that have exited is visible. -/
def execGroupRetire (wg grp : Nat) (s : State) : Host.Outcome State Fault Refusal :=
  match s.wg? wg with
  | none => .next s
  | some w =>
    match w.groups[grp]?, s.grid? w.grid with
    | some g, some gr =>
      if w.phase ≠ .resident ∨ ¬ g.started ∨ g.retired ∨ g.live ≠ 0 ∨ g.gonePend ≠ [] ∨ ¬ s.passed (dieOfCore g.core) g.goneVis then .next s
      else if w.groups.zipIdx.any (fun e => e.2 != grp && !e.1.retired) then .next (s.modGrp wg grp (fun g => { g with retired := true }))
      else if s.matrixBusy w then .next s
      else .next (s.retireWg gr w)
    | _, _ => .next s

/-! ### Aborts (R431) -/

/-- R431 steps 2 to 5 once the pages of the record can be reached: copies, accesses and images of every workgroup of the grid
end, counts are added, and the grid ends with its status. -/
def State.stopGrid (s : State) (gr : Grid) : State :=
  let mine := s.wgs.filter (fun w => w.grid == gr.id)
  let keys := mine.map (·.key)
  let own := fun (c : Copy) => match c.owner with | .wg k _ => keys.contains k | _ => false
  let s1 := (s.copies.filter own).foldl (fun s c => s.dropFlits c.id) s
  let s2 : State := { s1 with copies := s1.copies.filter (fun c => !own c), fabric := s1.fabric.filter (fun f => f.posted || !keys.contains f.wg), devLoads := s1.devLoads.filter (fun d => !keys.contains d.wg), contribs := s1.contribs.filter (fun c => c.atHome || c.peer.isSome || !keys.contains c.wg), services := s1.services.filter (fun q => q.queued || !keys.contains q.wg) }
  let s3 := mine.foldl (fun s w => s.flushStats gr w) s2
  let s4 := (mine.foldl State.freeWg s3).modGrid gr.id (fun g => mine.foldl Grid.keepFlags g)
  let s5 := s4.modNode gr.node (fun x => { x with subs := x.subs.mapIdx (fun i r => if i ≠ gr.sub ∧ fieldAt r.bytes 0 1 = 2 then { r with pos := fieldAt r.bytes 4 4 } else r) })
  (s5.dropEdges (fun h => h.1 == gr.id)).closeGrid gr.id

/-- The grid's workgroups halt, and it ends when the pages of its record are there; the event again meanwhile. -/
def State.abortGrid (s : State) (gr : Grid) (e : Nat × Nat × Nat) (again : Instr) : State :=
  let e1 := gr.ended.getD e
  let mine := s.wgs.filter (fun w => w.grid == gr.id)
  let s1 : State := { s with wgs := s.wgs.map (fun w => if w.grid = gr.id ∧ w.phase ≠ .saved then { w with phase := .halted } else w) }
  let gr1 : Grid := { gr with ended := some e1, headSince := none }
  let s2 := s1.modGrid gr.id (fun _ => gr1)
  let r := s2.awaitAll srcQfe gr.pasid .wr (mine.flatMap (fun w => (statTargets gr w).map (fun e => (e.1, 4))) ++ endTargets gr1 (mine.foldl Grid.keepFlags gr1).rflags)
  let t := if r.2 then r.1.waitEvent again else r.1.stopGrid gr1
  t.headCheck s gr.ten

/-- ABORT_REPORT (R431): the first report of a grid is kept. -/
def execAbortReport (wg cause sub : Nat) (s : State) : Host.Outcome State Fault Refusal :=
  match s.wg? wg with
  | none => .next s
  | some w =>
    match s.grid? w.grid with
    | none => .next s
    | some gr => .next (if gr.closing then s else s.abortGrid gr (7, cause, w.ctx) (.abortReport wg cause sub))

/-! ### Stalls (R47, R48, R437) -/

/-- R48: the workgroup parked longest; a tie goes to the lower context number. -/
def State.parkedLongest (s : State) (grid : Nat) : Option Workgroup :=
  let ws := s.wgs.filterMap (fun w => if w.grid = grid then w.parkedSince.map (fun t => (t, w)) else none)
  (leastBy (fun (e : Nat × Workgroup) => e.1 * 2 ^ 20 + e.2.ctx) ws).map Prod.snd

/-- R49: the steward asks a workgroup's cores to stop. -/
def State.askHalt (s : State) (key : Nat) (alone : Bool) : State :=
  s.modWg key (fun w => if w.phase = .resident then { w with phase := .halting, since := s.cycle, alone := alone, wdone := false } else w)

/-- SWAP_ON_STALL (R48): the workgroup parked longest is pre-empted, its cluster as a whole; with no parked workgroup left the
swapping ends. -/
def State.swapOut (s : State) (grid : Nat) : State :=
  match s.parkedLongest grid with
  | none => s.modGrid grid (fun g => { g with swapping := false })
  | some w => (s.wgs.filter (fun o => o.grid == grid && o.cluster == w.cluster)).foldl (fun s o => s.askHalt o.key false) s

/-- R48: the split-table split of a workgroup that is parked longest. -/
def Workgroup.splitLongest (w : Workgroup) : Option Focus :=
  let all := w.groups.zipIdx.flatMap (fun e => (List.range 8).filterMap (fun p => match e.1.table[p]? with
    | some (some sp) => if sp.phase = .parked then some (sp.parkAt, ({ wg := w.key, grp := e.2, pos := p } : Focus)) else none
    | _ => none))
  (leastBy (fun (e : Nat × Focus) => e.1) all).map Prod.snd

/-- CO_RESIDENCY_STALL (R437): cause 0x12 in one split. -/
def State.raiseStall (s : State) (gr : Grid) (detections : Nat) : State :=
  match ((s.parkedLongest gr.id).bind Workgroup.splitLongest).bind (fun f => f.lookup s) with
  | none => s
  | some x =>
    let left := Nat.min (gr.total - gr.next * gr.csize) 0xFFFFFFFF
    s.takeTrap x { cause := 0x12, lane := x.fetchLane, val := BitVec.ofNat 64 (left + detections * 2 ^ 32 + gr.k.park * 2 ^ 40) }

/-- STALL_DETECTED (R47, R48): the park limit has expired; or a swap goes on to its next victim, once the last one has gone and
nothing was placed. -/
def execStallDetected (grid : Nat) (s : State) : Host.Outcome State Fault Refusal :=
  match s.grid? grid with
  | none => .next s
  | some gr =>
    let busy := s.wgs.any (fun w => w.grid == grid && (w.phase == .halting || w.phase == .halted || w.phase == .starting))
    if gr.ended.isSome ∨ busy then .next s
    else if gr.swapping then .next (s.swapOut grid)
    else match gr.stallSince with
      | none => .next s
      | some t =>
        if s.cycle ≤ t + 2 ^ gr.k.park ∨ (s.parkedLongest grid).all (fun w => !s.stewardUp w.region) then .next s
        else
          let n := Nat.min (gr.detections + 1) 8
          let swap := gr.k.swap ∧ n < 8
          let s1 := s.modGrid grid (fun g => { g with detections := n, stallSince := some s.cycle, swapping := swap })
          .next (if swap then s1.swapOut grid else s1.raiseStall gr n)

end Sys2Proof.Machine
end

