-- ==== Sys2Proof/Machine/Image.lean ====
section
/-! DEFINITION. The context image (R50, R239, R273, R486), the split-table entry (R37), and what pre-emption keeps in a group's
private block (R67, R215, R229, R429). -/
namespace Sys2Proof.Machine

/-! ### Split entries (R37) -/

def Why.code : Why → Nat
  | .none => 0 | .barrier => 1 | .counter => 2 | .popEmpty => 3 | .pushFull => 4 | .vsync => 5 | .member => 6 | .ssync => 7 | .sleep => 8 | .release => 9 | .accRow => 10 | .trapEntry => 11
def Why.ofCode (n : Nat) : Why :=
  ([Why.none, .barrier, .counter, .popEmpty, .pushFull, .vsync, .member, .ssync, .sleep, .release, .accRow, .trapEntry])[n]?.getD .none

def Phase.code : Phase → Nat
  | .ready => 0 | .parked => 1 | .waiting => 2

/-- The state that an entry shows: a split whose event has come has its blocking instruction still to complete (R36, R49). -/
def Split.shown (sp : Split) : Phase × Why :=
  if sp.phase = .ready ∧ sp.woken then (if sp.wokeFrom.code ≤ 6 then .parked else .waiting, sp.wokeFrom) else (sp.phase, sp.why)

/-- The 128 bits of an entry. -/
def Split.entry (sp : Split) (spilled : Bool) : Nat :=
  let (ph, why) := sp.shown
  sp.wi.toNat + sp.mask.toNat * 2 ^ 32 + sp.depth.toNat * 2 ^ 64 + (if spilled then 3 else ph.code) * 2 ^ 88 + (if spilled then ph.code else 0) * 2 ^ 90 + why.code * 2 ^ 92 + (if spilled then 0 else Nat.min (sp.age / 256) 0xFFFF) * 2 ^ 96 + 2 ^ 127

/-- The sleep count beside an entry (R229). -/
def Split.sleepWord (sp : Split) : Nat := if sp.why = .sleep then sp.timer else 0

/-- R52: a split as an entry gives it. A parked split, and one that waits for a release or for rows, tries its blocking
instruction again; a trap entry restarts (R429). `old` gives the place in the group's queue and the records of R202 and R299. -/
def Split.ofEntry (e sleep now stamp : Nat) (old : Split) : Split :=
  let spilled := bitsOf e 88 2 = 3
  let st := if spilled then bitsOf e 90 2 else bitsOf e 88 2
  let why := Why.ofCode (bitsOf e 92 4)
  let base : Split := { wi := BitVec.ofNat 32 e, mask := BitVec.ofNat 32 (bitsOf e 32 32), depth := BitVec.ofNat 16 (bitsOf e 64 16), age := 256 * bitsOf e 96 16, parkAt := now, qAt := old.qAt, halo := old.halo, pend := old.pend, acqAt := stamp, arrived := why == .barrier, syncAt := now }
  if st = 0 then { base with arrived := false }
  else if why = .ssync then { base with phase := .waiting, why := .ssync, arrived := false }
  else if why = .sleep then { base with phase := .waiting, why := .sleep, timer := sleep, arrived := false }
  else if why = .trapEntry then { base with phase := .waiting, why := .trapEntry, timer := 12, arrived := false }
  else { base with woken := true, wokeFrom := why, parkAt := now }

/-! ### The sections -/

def pad256 (b : List Byte) : List Byte := b ++ List.replicate (round256 b.length - b.length) 0
def wordBytes (w : W32) : List Byte := leBytes 4 w.toNat

/-- The register words of a section in order: lane registers register-major, then s registers and predicates. -/
def sectionKeys (k : Kernel) : List Nat :=
  let lane := fun (code : Nat) => (List.range 32).map (fun l => 512 * l + code)
  ((List.range k.vregs).flatMap lane) ++ ((List.range 10).flatMap (fun i => lane (256 + i))) ++ ((List.range k.sregs).map (0x10000 + ·)) ++ ((List.range 8).map (0x20000 + ·))

def Group.wordAt (g : Group) (key : Nat) : W32 :=
  if key ≥ 0x20000 then g.pred (key - 0x20000) else if key ≥ 0x10000 then mget 0 g.sregs (key - 0x10000) else mget 0 g.regs key

/-- R486: a group section. -/
def Group.section_ (g : Group) (k : Kernel) : List Byte :=
  pad256 ((sectionKeys k).flatMap (fun i => wordBytes (g.wordAt i)) ++ (List.range 8).flatMap (fun i => leBytes 1 (boolNat (g.cond i))) ++
    leBytes 4 g.abase ++ leBytes 4 g.alimit ++ (List.range 32).flatMap (fun l => wordBytes (mget 0 g.fstat l)) ++ leBytes 4 g.rot ++ leBytes 4 g.spill.length ++
    g.table.flatMap (fun e => leBytes 16 (match e with | some sp => sp.entry false | none => 0)) ++
    g.table.flatMap (fun e => leBytes 4 (match e with | some sp => sp.sleepWord | none => 0)))

/-- The offsets in a group section of its poisoned words. -/
def Group.poisonOffsets (g : Group) (k : Kernel) : List Nat :=
  (sectionKeys k).zipIdx.filterMap (fun e => if g.rpoison.contains e.1 then some (4 * e.2) else none)

/-- R239: a plane's record. -/
def Plane.record (p : Plane) (live : Bool) (arr core : Nat) : List Byte :=
  let cols : List (List Byte) → Nat → List Byte := fun l n => (List.range 128).flatMap (fun j => ((l.getD j []) ++ List.replicate n 0).take n)
  cols p.cols 192 ++ cols p.scales 6 ++ leBytes 1 p.fmt ++ leBytes 1 (boolNat live) ++ leBytes 1 arr ++ leBytes 1 (boolNat p.valid) ++ leBytes 1 core ++ List.replicate 251 0

/-- The planes of the arrays that a workgroup owns, in the image's order: the plane, its role, array and span index. -/
def State.ownedPlanes (s : State) (w : Workgroup) : List (Plane × Bool × Nat × Nat) :=
  w.cores.zipIdx.flatMap (fun c => (s.core c.1).arrays.zipIdx.flatMap (fun a =>
    if a.1.owner = some w.key then [(a.1.live, true, a.2, c.2), (a.1.shadow, false, a.2, c.2)] else []))

/-- A copy of a workgroup that waits to run again. -/
def Copy.of (key : Nat) (c : Copy) : Bool := match c.owner with | .wg k _ => k == key | _ => false
def State.replays (s : State) (key : Nat) : List Copy := s.copies.filter (fun c => c.of key && c.replay)

/-- R273: the streamer section. -/
def copyRecord (c : Copy) : List Byte :=
  leBytes 8 c.desc ++ leBytes 8 c.cptr ++ leBytes 8 c.rep ++ leBytes 1 c.opf ++ leBytes 1 (c.scope + 8 * boolNat c.acq + 16 * boolNat c.rel) ++ leBytes 1 c.gtag ++ leBytes 5 0
def streamerSection (k : Kernel) (cs : List Copy) : List Byte :=
  let b := leBytes 4 k.producer ++ leBytes 4 cs.length ++ List.replicate 24 0 ++ cs.flatMap copyRecord
  b ++ List.replicate (512 - b.length) 0

/-- R202: the contributions that the core holds for a workgroup, and their records. -/
def State.heldContribs (s : State) (key : Nat) : List Contrib := s.contribs.filter (fun c => c.wg == key && !c.atHome && c.peer.isNone)
def contribRecord (c : Contrib) : List Byte :=
  leBytes 8 c.cell ++ leBytes 4 c.idx.toNat ++ leBytes 1 (c.mod.toNat + 8 * boolNat c.sgn + 16 * c.sz.toNat) ++ leBytes 1 c.lane ++ leBytes 2 c.grp ++ leBytes 8 c.val.toNat ++ leBytes 8 0

/-- R486: the header. -/
def imageHeader (k : Kernel) (w : Workgroup) (planes reps held : Nat) : List Byte :=
  leBytes 4 w.ctx ++ leBytes 2 w.groups.length ++ leBytes 1 w.cores.length ++ leBytes 1 0 ++ leBytes 2 k.vregs ++ leBytes 2 k.sregs ++ leBytes 4 k.scratch ++
  leBytes 4 (k.acc * w.cores.length) ++ leBytes 1 planes ++ leBytes 1 reps ++ leBytes 2 held ++ leBytes 4 (boolNat w.alone + 2 * boolNat w.wdone) ++ List.replicate 228 0

/-- Offsets of the sections behind the scratchpad. -/
def accOff (k : Kernel) (g : Nat) : Nat := scratchSection k g + round256 k.scratch
def planeOff (k : Kernel) (g n : Nat) : Nat := accOff k g + 512 * k.acc * n
def streamerOff (k : Kernel) (g n planes : Nat) : Nat := planeOff k g n + 25600 * planes

/-- The bytes of the scratchpad, windows in order. -/
def State.windowsBytes (s : State) (gr : Grid) (w : Workgroup) : List Byte :=
  ((List.range w.cores.length).flatMap (fun i => s.scrRead w i 0 (windowBytes gr w))).take gr.k.scratch

/-- R50: the image of a workgroup, and the offsets in it of what is poisoned (R461). -/
def State.image (s : State) (gr : Grid) (w : Workgroup) : List Byte × List Nat :=
  let k := gr.k
  let n := w.cores.length
  let planes := s.ownedPlanes w
  let reps := s.replays w.key
  let held := s.heldContribs w.key
  let rows := w.cores.zipIdx.flatMap (fun c => (List.range k.acc).map (fun r => (c.1, w.accBase.getD c.2 0 + r)))
  let win := windowBytes gr w
  let b := imageHeader k w planes.length reps.length held.length ++ w.groups.flatMap (fun g => g.section_ k) ++ pad256 (s.windowsBytes gr w) ++
    rows.flatMap (fun r => ((s.core r.1).accRow r.2).flatMap wordBytes) ++ planes.flatMap (fun p => p.1.record p.2.1 p.2.2.1 p.2.2.2) ++
    streamerSection k reps ++ pad256 (held.flatMap contribRecord)
  let bad := w.groups.zipIdx.flatMap (fun g => (g.1.poisonOffsets k).map (fun o => 256 + g.2 * groupSection k + o)) ++
    (List.range n).flatMap (fun i => (List.range (win / 32)).filterMap (fun u => if s.scrPoisoned w i (32 * u) 32 then some (scratchSection k w.groups.length + i * win + 32 * u) else none)) ++
    rows.zipIdx.flatMap (fun r => if (s.core r.1.1).accPoison.contains r.1.2 then (List.range 16).map (fun i => accOff k w.groups.length + 512 * r.2 + 32 * i) else []) ++
    planes.zipIdx.filterMap (fun p => if p.1.1.poison then some (planeOff k w.groups.length n + 25600 * p.2) else none)
  (b, bad)

/-! ### The private block -/

/-- The spill area and its sleep words (R37, R229). -/
def Group.spillBytes (g : Group) : List Byte :=
  let area := (List.range 24).flatMap (fun i => leBytes 16 (match g.spill[i]? with | some sp => sp.entry true | none => 0))
  area ++ (List.range 24).flatMap (fun i => leBytes 4 (match g.spill[i]? with | some sp => sp.sleepWord | none => 0))

/-- R215: the channel table. -/
def chanEntry (c : Chan) : Nat := boolNat c.v + 2 * c.kind + c.wpos * 2 ^ 32 + c.ptr * 2 ^ 64
def Workgroup.chanBytes (w : Workgroup) : List Byte := (List.range 16).flatMap (fun i => leBytes 16 (chanEntry (w.chan i)))

/-- R429: the trap registers. -/
def Group.trapBytes (g : Group) : List Byte :=
  (List.range 32).flatMap (fun l => wordBytes (mget 0 g.tcause l) ++ wordBytes (mget 0 g.twi l) ++ leBytes 8 (mget 0 g.tval l).toNat)

/-- What pre-emption writes in the private blocks, with its addresses. -/
def privateParts (gr : Grid) (w : Workgroup) : List (Nat × List Byte) :=
  w.groups.flatMap (fun g => [(privBlock gr w g.grpid, g.spillBytes), (privBlock gr w g.grpid + 1280, g.trapBytes)]) ++ [(privBlock gr w 0 + 1024, w.chanBytes)]

/-! ### Reading a section back -/

def wordOff (b : List Byte) (off : Nat) : W32 := BitVec.ofNat 32 (fieldAt b off 4)

/-- The position in the section's words of each register's key. -/
def wordPos (k : Kernel) (key : Nat) : Nat :=
  if key ≥ 0x20000 then 32 * k.vregs + 320 + k.sregs + (key - 0x20000)
  else if key ≥ 0x10000 then 32 * k.vregs + 320 + (key - 0x10000)
  else if key % 512 ≥ 256 then 32 * k.vregs + 32 * (key % 512 - 256) + key / 512
  else 32 * (key % 512) + key / 512

/-- A map of words from their keys in rising order. -/
def mapOf {α : Type} [DecidableEq α] (d : α) (keys : List Nat) (f : Nat → α) : Map α :=
  keys.filterMap (fun i => if f i = d then none else some (i, f i))

/-- R52: a group as its section and its private block give it. -/
def Group.ofSection (g : Group) (k : Kernel) (b spill traps : List Byte) (bad : Nat → Bool) (now stamp : Nat) : Group :=
  let word := fun key => wordOff b (4 * wordPos k key)
  let laneKeys := (List.range 32).flatMap (fun l => ((List.range k.vregs).map (512 * l + ·)) ++ (List.range 10).map (fun i => 512 * l + 256 + i))
  let o := 4 * (32 * k.vregs + 320 + k.sregs + 8)
  let conds := (List.range 8).foldl (fun (c : BitVec 8) i => if i ≠ 0 ∧ fieldAt b (o + i) 1 = 1 then c ||| (1#8 <<< i) else c) 0
  let t := o + 8 + 8 + 128 + 8
  let table := (List.range 8).map (fun i =>
    let e := fieldAt b (t + 16 * i) 16
    if bitOf e 127 then some (Split.ofEntry e (fieldAt b (t + 128 + 4 * i) 4) now stamp ((g.table.getD i none).getD { wi := 0, mask := 0 })) else none)
  let spilled := (List.range (Nat.min (fieldAt b (o + 148) 4) 24)).map (fun i =>
    Split.ofEntry (fieldAt spill (16 * i) 16) (fieldAt spill (384 + 4 * i) 4) now stamp (g.spill.getD i { wi := 0, mask := 0 }))
  { g with regs := mapOf 0 laneKeys word, sregs := mapOf 0 (List.range k.sregs) (fun i => word (0x10000 + i)), preds := mapOf 0 ((List.range 8).drop 1) (fun i => word (0x20000 + i)), conds := conds, abase := fieldAt b (o + 8) 4, alimit := fieldAt b (o + 12) 4, fstat := mapOf 0 (List.range 32) (fun l => wordOff b (o + 16 + 4 * l)), rot := fieldAt b (o + 144) 4, swaps := none, swapAt := none, nextWin := none, table := table, spill := spilled, spillMem := (if spilled = [] then [] else spill), rpoison := (laneKeys ++ (List.range k.sregs).map (0x10000 + ·) ++ (List.range 8).map (0x20000 + ·)).filter (fun i => bad (4 * wordPos k i)), tcause := mapOf 0 (List.range 32) (fun l => wordOff traps (16 * l)), twi := mapOf 0 (List.range 32) (fun l => wordOff traps (16 * l + 4)), tval := mapOf 0 (List.range 32) (fun l => BitVec.ofNat 64 (fieldAt traps (16 * l + 8) 8)) }

/-- R239: a plane from its record. -/
def Plane.ofRecord (b : List Byte) (bad : Bool) : Plane :=
  let part := fun (off n : Nat) => (List.range 128).map (fun j => (b.drop (off + n * j)).take n)
  if fieldAt b 25347 1 = 1 then { cols := part 0 192, scales := part 24576 6, fmt := fieldAt b 25344 1, valid := true, poison := bad } else { poison := bad }

/-- R215, R217: a channel from its entry, with POS and PH from its record. -/
def State.chanOf (s : State) (pasid e : Nat) (old : Chan) : Chan :=
  let c : Chan := { old with v := bitOf e 0, kind := bitsOf e 1 2, wpos := bitsOf e 32 8, ptr := bitsOf e 64 64 }
  if c.v ∧ (c.kind = 1 ∨ c.kind = 2) then
    let b := (s.vreadLatest pasid (c.ptr % 2 ^ 56) 64).getD (List.replicate 64 0)
    { c with pos := fieldAt b 0x10 4, ph := fieldAt b 0x0E 1 }
  else c

end Sys2Proof.Machine
end

