-- ==== Sys2Proof/Machine/Preempt.lean ====
section
/-! DEFINITION. Pre-emption in three steps (R49, R438 to R441), restores (R52, R202, R238, R272) and the region placers (R359,
R360). -/
namespace Sys2Proof.Machine

/-! ### Step 1: the halt (R49, R438, R439) -/

/-- PREEMPT_REQUEST (R49): the scheduler names a workgroup; one that has not started is asked for again once it has. -/
def execPreemptRequest (wg : Nat) (s : State) : Host.Outcome State Fault Refusal :=
  match s.wg? wg with
  | none => .next s
  | some w =>
    if w.phase = .starting ∨ (w.phase = .resident ∧ ¬ s.stewardUp w.region) then .next (s.waitEvent (.preemptRequest wg))
    else .next (s.askHalt wg (w.clsize > 1 && w.cores.length ≤ 1))

/-- An instruction of the workgroup that has issued and has not completed: its answers are on their way (R439). -/
def State.issuedOpen (s : State) (key : Nat) : Bool :=
  s.fabric.any (fun f => f.wg == key && !f.posted) || s.devLoads.any (fun d => d.wg == key)

/-- Cycles from the request to the bounds of R438. -/
def abandonAfter : Nat := 12000
def haltAfter : Nat := 14000

/-- A chunk of a cpyr, or the addition to a counter, that a copy of the workgroup has begun on another device (R269, R272). -/
def State.chunkOpen (s : State) (p : Copy → Bool) : Bool :=
  s.fabric.any (fun f => (match f.op with | .atom _ _ _ _ _ _ => true | .count _ => true | _ => false) && s.copies.any (fun c => f.copy == some c.id && p c))

/-- PREEMPT_HALT (R49 steps 1 and 2, R269): the boundary is reached; copies that have not finished in time are marked for replay, once no
chunk is open. -/
def execPreemptHalt (wg : Nat) (s : State) : Host.Outcome State Fault Refusal :=
  match s.wg? wg with
  | none => .next s
  | some w =>
    if w.phase ≠ .halting ∨ s.issuedOpen wg ∨ s.matrixBusy w ∨ s.chunkOpen (Copy.of wg) then .next s
    else if s.copies.any (fun c => c.of wg && !c.replay) ∧ s.cycle < w.since + haltAfter then .next s
    else
      let stop := fun (c : Copy) => c.of wg && c.failed.isNone && !c.replay
      let s1 := (s.copies.filter stop).foldl (fun s c => s.dropFlits c.id) s
      .next (({ s1 with copies := s1.copies.map (fun c => if stop c then { c with replay := true } else c) } : State).modWg wg (fun w => { w with phase := .halted }))

/-- MEMORY_OP_ABANDON (R439): an access of a split that has not been performed in time has no effect. -/
def execMemoryOpAbandon (wg grp pos : Nat) (s : State) : Host.Outcome State Fault Refusal :=
  match ({ wg := wg, grp := grp, pos := pos } : Focus).lookup s with
  | none => .next s
  | some x =>
    if x.wg.phase ≠ .halting ∨ s.cycle < x.wg.since + abandonAfter then .next s
    else
      let here := fun (w g lane : Nat) (wi : W32) => w == wg && g == grp && x.sp.mask.getLsbD lane && wi == x.sp.wi
      .next { s with fabric := s.fabric.filter (fun f => !(!f.posted && f.ans.isNone && here f.wg f.grp f.lane f.wi)), devLoads := s.devLoads.filter (fun d => !(d.ans.isNone && here d.wg d.grp d.lane d.wi)) }

/-! ### Step 3: the image (R49, R441) -/

/-- Every visibility time of the workgroup's splits has passed, and what has none yet is held at the core. -/
def State.recordsPassed (s : State) (w : Workgroup) : Bool :=
  let held := (s.heldContribs w.key).map (·.id)
  let ok := fun (die : Nat) (sp : Split) => s.passed die sp.vis && s.passed die sp.ioVis && s.passed die sp.icVis && (sp.pend ++ sp.ioPend).all held.contains
  w.groups.all (fun g => g.table.all (fun e => match e with | some sp => ok (dieOfCore g.core) sp | none => true) && g.spill.all (ok (dieOfCore g.core)) && s.passed (dieOfCore g.core) g.goneVis && g.gonePend.all held.contains)

/-- The first page of the ranges that the steward cannot reach. -/
def State.firstBad (s : State) (src pasid : Nat) (k : Need) (rs : List (Nat × Nat)) : Option Nat :=
  rs.findSome? (fun r => (s.demandRange src pasid k (r.2 / 4096 + 2) r.1 r.2).map Prod.fst)

/-- R441, R447: a save or a restore fails, and the kernel aborts. -/
def State.imageFault (s : State) (gr : Grid) (w : Workgroup) (va kind cause sub code aux : Nat) : State :=
  let s1 := (s.useAnswer (srcSteward w.region) gr.pasid va kind).logRec { unit := w.region / 6, code := code, ten := w.ten, src := 11, uno := w.cores.getD 0 0, ctx := w.ctx, pasid := gr.pasid, va := va, aux := aux }
  { s1 with agenda := .abortReport w.key cause sub :: s1.agenda }

/-- Bytes that a steward writes at a virtual address. -/
def State.putBytes (s : State) (pasid va : Nat) (b : List Byte) : State := (s.vwrite pasid va b).1
/-- A sector of a virtual address becomes poisoned. -/
def State.putPoison (s : State) (pasid va : Nat) : State :=
  match s.xlat pasid va .wr with
  | .ok pa _ _ => s.poisonSectors pa 1
  | _ => s

/-- CONTEXT_SAVE (R49 step 3): the image, the private blocks and the records of windows are written, counts are added, and the
cores are free. -/
def execContextSave (wg : Nat) (s : State) : Host.Outcome State Fault Refusal :=
  match s.wg? wg with
  | none => .next s
  | some w =>
    match s.grid? w.grid with
    | none => .next s
    | some gr =>
      if w.phase ≠ .halted ∨ gr.ended.isSome ∨ ¬ s.stewardUp w.region ∨ ¬ s.recordsPassed w then .next s
      else
        let (b, bad) := s.image gr w
        let parts := (imageAddr gr w, b) :: privateParts gr w
        let ranges := parts.map (fun p => (p.1, p.2.length))
        let r := s.awaitAll (srcSteward w.region) gr.pasid .wr ranges
        let r1 := r.1.awaitAll srcQfe gr.pasid .wr ((statTargets gr w).map (fun e => (e.1, 4)))
        if r.2 ∨ r1.2 then .next r1.1
        else match s.firstBad (srcSteward w.region) gr.pasid .wr ranges with
          | some va => .next (s.imageFault gr w va 1 0x04 1 0x44 0)
          | none =>
            let s1 := parts.foldl (fun s p => s.putBytes gr.pasid p.1 p.2) s
            let s2 := bad.foldl (fun s o => s.putPoison gr.pasid (imageAddr gr w + o)) s1
            let s3 := w.chans.foldl (fun s c => s.writeBack gr.pasid c) s2
            let s4 := (s3.flushStats gr w).releaseArrays w
            .next (s4.modWg wg (fun w => { w with phase := .saved, wdone := false }))

/-! ### Restores (R52, R359) -/

def State.imageBytes (s : State) (gr : Grid) (w : Workgroup) (off n : Nat) : List Byte :=
  (s.vreadLatest gr.pasid (imageAddr gr w + off) n).getD (List.replicate n 0)
def State.imageField (s : State) (gr : Grid) (w : Workgroup) (off n : Nat) : Nat := leNat (s.imageBytes gr w off n)
def State.imagePoison (s : State) (gr : Grid) (w : Workgroup) (off n : Nat) : Bool := s.vpoison gr.pasid (imageAddr gr w + off) n

/-- The size of the image as its header gives it. -/
def State.imageSize (s : State) (gr : Grid) (w : Workgroup) : Nat :=
  streamerOff gr.k w.groups.length w.cores.length (s.imageField gr w 0x14 1) + 512 + round256 (32 * s.imageField gr w 0x16 2)

/-- The arrays that the image records: span index and array (R238, R239). -/
def State.recordedArrays (s : State) (gr : Grid) (w : Workgroup) : List (Nat × Nat) :=
  let o := planeOff gr.k w.groups.length w.cores.length
  (List.range (s.imageField gr w 0x14 1)).map (fun i => (s.imageField gr w (o + 25600 * i + 25348) 1, s.imageField gr w (o + 25600 * i + 25346) 1))

/-- R52: the workgroups that a restore of w brings back together; none while one of them is not saved. -/
def State.restoreSet (s : State) (w : Workgroup) : Option (List Workgroup) :=
  if w.clsize > 1 ∧ w.cores.length ≤ 1 ∧ ¬ w.alone then
    let ms := s.wgs.filter (fun o => o.grid == w.grid && o.cluster == w.cluster)
    if ms.all (fun o => o.phase == .saved) then some (sortBy (fun a b => a.rank ≤ b.rank) ms) else none
  else if w.phase = .saved then some [w] else none

/-- R52: where a member that was pre-empted alone belongs: the region of the rest of its cluster. -/
def State.homeRegion (s : State) (w : Workgroup) : Nat :=
  match s.wgs.find? (fun o => o.grid == w.grid && o.cluster == w.cluster && o.phase != .saved) with
  | some o => o.region
  | none => w.region

/-- R48, R52: the region may restore w. -/
def State.restorable (s : State) (region : Nat) (w : Workgroup) : Bool :=
  (match s.grid? w.grid with | some gr => gr.ended.isNone && (w.alone || !gr.swapping) | none => false) &&
  w.phase == .saved && s.stewardUp region && (s.steward region).ten == w.ten && (!w.alone || s.homeRegion w == region)

/-- R52, R358, R238: places for the members in rank order; `arrays` applies the test of the recorded arrays. -/
def State.fitSaved (s : State) (gr : Grid) (arrays : Bool) : List Workgroup → List (Nat × Nat) → List (Nat × CoreUse) → Option (List (Workgroup × List Spot))
  | [], _, _ => some []
  | w :: ws, taken, us =>
    let rec_ := if arrays then s.recordedArrays gr w else []
    let free := fun (i core : Nat) => rec_.all (fun a => a.1 != i || ((((s.core core).arrays.getD a.2 {}).owner).isNone && !taken.contains (core, a.2)))
    let former := fun (i core : Nat) => free i core && (!w.alone || w.cores.getD i 0 == core)
    let fit := fun ok => fitWorkgroup gr.k w.cores.length w.groups.length ok us
    match (match fit former with | some r => some r | none => fit free) with
    | none => none
    | some r =>
      let mine := rec_.map (fun a => (((r.1.map (·.core)).getD a.1 0), a.2))
      (s.fitSaved gr arrays ws (mine ++ taken) r.2).map (fun rest => (w, r.1) :: rest)

/-- A group takes its new place. -/
def Group.moveTo (g : Group) (p : Nat × Nat × Nat) : Group := { g with core := p.1, sub := p.2.1, slot := p.2.2 }

/-- The scratchpad windows, rows and planes of an image go back to the cores. -/
def State.restoreCore (s : State) (gr : Grid) (w : Workgroup) (i : Nat) (sp : Spot) : State :=
  let k := gr.k
  let win := windowOf w.cores.length k.scratch
  let so := scratchSection k w.groups.length + i * win
  let n := Nat.min win (k.scratch - i * win)
  let ao := accOff k w.groups.length + 512 * k.acc * i
  let po := planeOff k w.groups.length w.cores.length
  let scr := s.imageBytes gr w so n
  let s0 := s.claimCore sp.core gr.ten
  let recs := (List.range (s.imageField gr w 0x14 1)).map (fun j => (s.imageBytes gr w (po + 25600 * j) 25600, s.imagePoison gr w (po + 25600 * j) 25600))
  s0.modCore sp.core (fun c =>
    let c1 : Core := { c with scr := msetAll 0 c.scr sp.spBase scr, scrPoison := (List.range ((n + 31) / 32)).foldl (fun l u => if s.imagePoison gr w (so + 32 * u) (Nat.min 32 (n - 32 * u)) then insertNat (sp.spBase / 32 + u) l else l.filter (· != sp.spBase / 32 + u)) c.scrPoison }
    let c2 := (List.range k.acc).foldl (fun c r => c.setAccRow (sp.accBase + r) ((List.range 128).map (fun j => wordOff (s.imageBytes gr w (ao + 512 * r + 4 * j) 4) 0)) (s.imagePoison gr w (ao + 512 * r) 512)) c1
    (recs.filter (fun r => fieldAt r.1 25348 1 == i)).foldl (fun c r =>
      let p := Plane.ofRecord r.1 r.2
      { c with arrays := c.arrays.modify (fieldAt r.1 25346 1) (fun a => if fieldAt r.1 25345 1 = 1 then { a with owner := some w.key, live := p, queue := [] } else { a with owner := some w.key, shadow := p, queue := [] }) }) c2)

/-- R273: the copies that the streamer section records, to be replayed by the streamer of the new core. -/
def State.restoreCopies (s : State) (gr : Grid) (w : Workgroup) (cores : List Nat) : State :=
  let o := streamerOff gr.k w.groups.length w.cores.length (s.imageField gr w 0x14 1)
  let old := s.replays w.key
  let mk := fun (i : Nat) (c : Copy) =>
    let f := fun (at_ n : Nat) => s.imageField gr w (o + 0x20 + 32 * i + at_) n
    { c with core := cores.getD (w.cores.findIdx (· == c.core)) c.core, desc := f 0 8, cptr := f 8 8, rep := f 0x10 8, opf := f 0x18 1, acq := bitOf (f 0x19 1) 3, rel := bitOf (f 0x19 1) 4, scope := bitsOf (f 0x19 1) 0 3, gtag := bitsOf (f 0x1A 1) 0 4, replay := true }
  let new := (old.zipIdx.take (s.imageField gr w (o + 4) 4)).map (fun e => mk e.2 e.1)
  { s with copies := s.copies.filter (fun c => !(c.of w.key && c.replay)) ++ new }

/-- REDS_RECORDS_RESENT (R202): the contributions of the image go to their cells. -/
def State.restoreContribs (s : State) (gr : Grid) (w : Workgroup) : State :=
  let o := streamerOff gr.k w.groups.length w.cores.length (s.imageField gr w 0x14 1) + 512
  let held := (s.heldContribs w.key).zipIdx.map (fun e =>
    let f := fun (at_ n : Nat) => s.imageField gr w (o + 32 * e.2 + at_) n
    let cell := f 0 8
    let pa := if ptrSpace cell = 0 then (match s.xlat gr.pasid (cell % 2 ^ 56) .wr with | .ok pa _ _ => pa | _ => e.1.pa) else e.1.pa
    { e.1 with cell := cell, pa := pa, away := ptrSpace cell == 6 && bitsOf cell 49 11 != s.devnum, idx := BitVec.ofNat 32 (f 8 4), mod := BitVec.ofNat 3 (f 0xC 1), sgn := bitOf (f 0xC 1) 3, sz := BitVec.ofNat 3 (bitsOf (f 0xC 1) 4 3), lane := f 0xD 1, grp := f 0xE 2, val := BitVec.ofNat 64 (f 0x10 8) })
  let s1 : State := { s with contribs := s.contribs.map (fun c => (held.find? (fun h => h.id == c.id)).getD c) }
  held.foldl (fun s c => if c.away then s.resendContrib c else s.judge c) s1

/-- The workgroup comes back on its new cores, every part as the image and the private blocks give it. -/
def State.restoreOne (s : State) (gr : Grid) (w : Workgroup) (spots : List Spot) : State :=
  let k := gr.k
  let (st, s0) := s.stamp
  let places := spots.flatMap (fun sp => sp.places.map (fun p => (sp.core, p.1, p.2)))
  let block := fun (i off n : Nat) => (s.vreadLatest gr.pasid (privBlock gr w i + off) n).getD (List.replicate n 0)
  let groups := (w.groups.zip places).map (fun e =>
    let o := 256 + e.1.grpid * groupSection k
    (e.1.ofSection k (s.imageBytes gr w o (groupSection k)) (block e.1.grpid 0 480) (block e.1.grpid 1280 512) (fun off => s.imagePoison gr w (o + off) 4) s.cycle st).moveTo e.2)
  let table := block 0 1024 256
  let chans := (List.range 16).map (fun c => s.chanOf gr.pasid (fieldAt table (16 * c) 16) (w.chan c))
  let s1 := spots.zipIdx.foldl (fun s e => s.restoreCore gr w e.2 e.1) s0
  let s2 := s1.restoreCopies gr w (spots.map (·.core))
  let s3 := s2.modWg w.key (fun w => { w with phase := .resident, cores := spots.map (·.core), spBase := spots.map (·.spBase), accBase := spots.map (·.accBase), groups := groups, chans := chans, alone := false, wdone := false })
  s3.restoreContribs gr w

/-- The parts of an image whose poison is a control-state error (R461): the header, the split tables and the streamer section. -/
def State.imageControlBad (s : State) (gr : Grid) (w : Workgroup) : Bool :=
  let k := gr.k
  s.imagePoison gr w 0 32 || s.imagePoison gr w (streamerOff k w.groups.length w.cores.length (s.imageField gr w 0x14 1)) 512 ||
  w.groups.any (fun g => s.imagePoison gr w (256 + g.grpid * groupSection k + 4 * (32 * k.vregs + 320 + k.sregs + 8) + 152) 128 || s.vpoison gr.pasid (privBlock gr w g.grpid) 480) ||
  s.vpoison gr.pasid (privBlock gr w 0 + 1024) 256

/-- What a try to restore does. -/
inductive Tried where
  | no | wait (s : State) | done (s : State)

/-- RESTORE (R52): the members together, where the region has room for all and their pages are there. -/
def State.tryRestore (s : State) (region : Nat) (w : Workgroup) : Tried :=
  match s.grid? w.grid, s.restoreSet w with
  | some gr, some ws =>
    if !s.restorable region w ∨ (s.fitSaved gr false ws [] (s.regionUse region)).isNone then .no
    else
      let src := srcSteward region
      let priv := fun (w : Workgroup) => w.groups.map (fun g => (privBlock gr w g.grpid, 2048))
      let heads := ws.map (fun w => (imageAddr gr w, 256))
      let r := s.awaitAll src gr.pasid .rd heads
      let r1 := if r.2 then r else r.1.awaitAll src gr.pasid .rd (ws.flatMap (fun w => (imageAddr gr w, s.imageSize gr w) :: priv w))
      if r1.2 then .wait r1.1
      else
        let all := heads ++ ws.flatMap (fun w => (imageAddr gr w, s.imageSize gr w) :: priv w)
        match s.firstBad src gr.pasid .rd all with
        | some va => .done (s.imageFault gr w va 0 0x04 1 0x44 1)
        | none =>
          if ws.any (fun w => s.imageControlBad gr w) then .done (s.imageFault gr w (imageAddr gr w) 0 0x0F 3 0x03 5)
          else match s.fitSaved gr true ws [] (s.regionUse region) with
            | none => .no
            | some plan => .done (plan.foldl (fun s e => s.restoreOne gr e.1 e.2) s)
  | _, _ => .no

/-- RESTORE (R52). -/
def execRestore (region wg : Nat) (s : State) : Host.Outcome State Fault Refusal :=
  match s.wg? wg with
  | none => .next s
  | some w =>
    match s.tryRestore region w with
    | .no => .next s
    | .wait t => .next t
    | .done t => .next t

/-! ### Region placers (R359, R360) -/

/-- The order of the restores of a region (R46, R48): members that were pre-empted alone, images in which a wait has completed,
the others. -/
def State.restoreOrder (s : State) (region : Nat) : List Workgroup :=
  let ws := s.wgs.filter (fun w => s.restorable region w)
  ws.filter (·.alone) ++ ws.filter (fun w => !w.alone && w.wdone) ++ ws.filter (fun w => !w.alone && !w.wdone)

/-- The restores of an act in their order; true where one waits for its pages. -/
def State.restoreAll (s : State) (region : Nat) : List Nat → State × Bool
  | [] => (s, false)
  | key :: rest => match s.wg? key with
    | none => s.restoreAll region rest
    | some w => match s.tryRestore region w with
      | .no => s.restoreAll region rest
      | .wait t => (t, true)
      | .done t => t.restoreAll region rest

/-- R48: pre-empted workgroups of a grid come before its undispatched ones. -/
def State.mayPlace (s : State) (gr : Grid) : Bool :=
  gr.swapping || !s.wgs.any (fun w => w.grid == gr.id && w.phase == .saved && !w.alone)

/-- R359 step 3: back-fill, grid by grid, each with its clusters in order. -/
def State.fillGrid (region : Nat) (ctxs : List Nat) : (fuel : Nat) → State → Nat → State
  | 0, s, _ => s
  | f + 1, s, id => match s.grid? id with
    | none => s
    | some gr => match (if s.mayPlace gr then s.placeNext gr region ctxs else none) with
      | none => s
      | some s1 => State.fillGrid region (ctxs.drop gr.csize) f s1 id

/-- R359: what the placer of a region acts on: the region's resources and the grids that have joined its tenancy's list. -/
def State.placerSees (s : State) (region : Nat) : List Nat :=
  let ten := (s.steward region).ten
  [1, ten, (s.ten ten).st, boolNat (s.held.contains ten), maxNat ((s.grids.filter (fun g => g.ten == ten)).map (·.joined))] ++
  (List.range 8).map (fun i => boolNat (s.core (8 * region + i)).avail) ++ (s.wgs.filter (fun w => w.phase != .saved && w.region == region)).map (·.key)

/-- R359: the region's placer has acted in this cycle, on what it saw. -/
def State.placerActed (s : State) (region : Nat) (seen : List Nat) : State := s.modSteward region (fun k => { k with actedAt := some s.cycle, seen := seen })

/-- R359 steps 2 and 3: the next cluster of a grid whose stall is being resolved (R48); else the head; else back-fill. -/
def State.placeStep (s : State) (region ten : Nat) (ctxs : List Nat) : State :=
  let list := s.placeList ten
  match (list.filter (·.swapping)).findSome? (fun gr => s.placeNext gr region ctxs), list with
  | some t, _ => t.headCheck s ten
  | none, [] => s
  | none, hd :: rest =>
    match (if s.mayPlace hd then s.placeNext hd region ctxs else none) with
    | some t => t.headCheck s ten
    | none => if (s.steward region).reserved then s else (rest.filter (fun g => g.q != hd.q)).foldl (fun s g => s.fillGrid region ctxs 8193 g.id) s

/-- PLACER_ACTS (R359), once in a cycle, when the region's resources have changed or a grid has joined: the restores; then the
placements, unless a member that was pre-empted alone still waits. -/
def execPlacerActs (region : Nat) (ctxs : List Nat) (s : State) : Host.Outcome State Fault Refusal :=
  let ten := (s.steward region).ten
  if ¬ s.stewardUp region ∨ (s.ten ten).st ≠ 2 ∨ s.held.contains ten ∨ (s.steward region).actedAt = some s.cycle ∨ (s.steward region).seen = s.placerSees region then .next s
  else
    let r := s.restoreAll region ((s.restoreOrder region).map (·.key))
    if r.2 then .next r.1
    else
      let t := if r.1.wgs.any (fun w => w.alone && r.1.restorable region w) then r.1 else r.1.placeStep region ten ctxs
      .next (t.placerActed region (s.placerSees region))

/-- Cores of a region with no resident workgroup (R360, R484). -/
def State.idleCores (s : State) (region : Nat) : Nat :=
  ((List.range 8).filter (fun i => (s.core (8 * region + i)).avail && !s.wgs.any (fun w => w.phase != .saved && w.cores.contains (8 * region + i)))).length

/-- HEAD_AGE_RESERVE (R360). -/
def execHeadAgeReserve (ten : Nat) (s : State) : Host.Outcome State Fault Refusal :=
  let regions := (List.range 24).filter (fun r => (s.steward r).ten == ten)
  match (s.head ten).bind (·.headSince) with
  | none => .next s
  | some t =>
    if s.cycle < t + 2 ^ 20 ∨ regions.any (fun r => (s.steward r).reserved) then .next s
    else match leastBy (fun r => 8 - s.idleCores r) regions with
      | none => .next s
      | some r => .next (s.modSteward r (fun k => { k with reserved := true }))

end Sys2Proof.Machine
end

