-- ==== Sys2Proof/Machine/Queues.lean ====
section
/-! DEFINITION. Hardware queues: their state blocks (R336), packets (R338 to R341, R344 to R346), the parsing of bundles
(R131, R347 to R350, R354), dispatch slots (R466) and the kernel's control of queues (R335, R346). -/
namespace Sys2Proof.Machine

/-! ### Reads of the QFE (R447) -/

/-- Bytes of a space-0 range: they wait for their pages, and fail with 1 on a page that is missing or not permitted and with 4 on
poison. A page whose home is changing is awaited (R78). -/
def State.qfeRead (s : State) (pasid va n : Nat) : EngIO (List Byte) :=
  if va + n > 2 ^ 56 then .fail 1 va s
  else
    let r := s.await srcQfe pasid .rd va n
    if r.2 then .wait r.1
    else match s.firstBad srcQfe pasid .rd [(va, n)] with
      | some a => .fail 1 a (s.useAnswer srcQfe pasid a 0)
      | none =>
        if s.vmoves pasid va n then .wait s
        else if s.vpoison pasid va n then .fail 4 va s
        else match s.vread pasid va n with
          | some b => .ok b (s.markRead pasid va n)
          | none => .fail 6 va s

/-! ### Queue state blocks (R336) -/

def State.qfeCore (s : State) (c : Nat) : QfeCore := mget {} s.qfe c
def State.modQfe (s : State) (c : Nat) (f : QfeCore → QfeCore) : State := { s with qfe := mset {} s.qfe c (f (s.qfeCore c)) }

/-- The fields that the QFE owns, as bytes with their offsets; RDIDX comes last (R466). -/
def Queue.fields (q : Queue) : List (Nat × List Byte) :=
  [(0x0B, leBytes 1 q.st), (0x18, leBytes 4 q.nout), (0x1C, leBytes 1 q.err), (0x20, leBytes 4 q.erridx), (0x28, leBytes 8 q.waddr), (0x30, leBytes 8 q.wtgt),
   (0x80, (List.range 64).flatMap (fun i => leBytes 2 (mget 0 q.back i))), (0x14, leBytes 4 q.rdidx)]

/-- A change of a queue's fields, in the QFE's table and in the QSB. -/
def State.setQueue (s : State) (q : Nat) (f : Queue → Queue) : State :=
  let old := (s.queue q).fields
  let new := (f (s.queue q)).fields
  let s1 := s.modQueue q f
  (new.filter (fun e => !old.contains e)).foldl (fun s e =>
    let r := s.cohWrite ((s.queue q).qsb + e.1) e.2
    r.1.qfeKeep r.2) s1

/-- QUEUE_ERROR (R346). -/
def State.queueError (s : State) (q code : Nat) : State :=
  s.setQueue q (fun k => { k with st := 2, err := code, erridx := k.rdidx })

/-- QUEUE_DOORBELL (R337): only a running queue's value is tested, and one equal to RDIDX has no effect; a core that restarts
reads WRIDX afterwards (R467). -/
def execQueueDoorbell (q : Nat) (v : W64) (s : State) : Host.Outcome State Fault Refusal :=
  let k := s.queue q
  let n := v.toNat % 2 ^ 32
  let c := s.qfeCore (q / 64)
  if q ≥ 256 ∨ k.st ≠ 1 ∨ c.stopped ∨ c.restart.isSome ∨ n = k.rdidx then .next s
  else if (n + 2 ^ 32 - k.rdidx) % 2 ^ 32 > 2 ^ k.log2depth then .next (s.queueError q 1)
  else .next (s.modQueue q (fun k => { k with rung := n }))

/-! ### The next packet (R338, R339, R344) -/

/-- What names a command among those of its core: its queue, of which it is the only one; 256 for a reply. -/
def SlotCmd.key : SlotCmd → Nat
  | .signal k _ _ _ _ => k
  | .waitEnd k => k
  | .node k _ => k
  | .reply _ => 256
/-- A command of the queue is still in a slot (R466). -/
def SlotCmd.of (q : Nat) (c : SlotCmd) : Bool := c.key == q

/-- The queue's lane can take a packet. -/
def State.queueOpen (s : State) (q : Nat) : Bool :=
  let k := s.queue q
  let c := s.qfeCore (q / 64)
  q < 256 && k.st == 1 && k.rdidx != k.rung && !c.stopped && c.restart.isNone && !s.restarting && !c.slots.any (SlotCmd.of q)

/-- The address of the packet at RDIDX. -/
def Queue.packetAt (k : Queue) : Nat := k.base + 64 * (k.rdidx % 2 ^ k.log2depth)

inductive Packet where
  | idle | wait (s : State) | bad (code : Nat) (s : State) | ok (b : List Byte) (s : State)

/-- R338: a header that breaks its layout. -/
def headerBad (b : List Byte) : Nat :=
  let op := fieldAt b 0 1
  let fl := fieldAt b 1 1
  if op / 16 ≠ 0 ∨ fl ≥ 4 ∨ (bitOf fl 1 ∧ op ≠ 1) ∨ fieldAt b 2 2 ≠ 0 then 4
  else if op ≥ 7 then 2
  else 0

/-- The pool is full, counting nodes that wait in slots (R352). -/
def State.poolFull (s : State) : Bool :=
  let waiting := (List.range 4).foldl (fun n c => n + ((s.qfeCore c).slots.filter (fun k => match k with | .node _ _ => true | _ => false)).length) 0
  s.nodes.length + waiting ≥ 4096

/-- R339: the priority of an opcode in a round. -/
def opPriority (op : Nat) : Nat := if op = 0 then 7 else op

/-- R344: a packet begins a new round: its lane has had its turn in the present one, or the opcode's step is over. -/
def QfeCore.nextRound (c : QfeCore) (lane op : Nat) : Bool :=
  c.took.contains lane || opPriority op < c.step || (opPriority op == c.step && c.took.any (fun l => l > lane))
/-- R344: the core is between steps, or in the first cycle of a step of this opcode that the lane can still join. -/
def QfeCore.mayTake (c : QfeCore) (lane op now : Nat) : Bool :=
  c.ends ≤ now || (c.ends == now + 16 && opPriority op == c.step && !c.nextRound lane op)

/-- The next packet of a queue where its lane can take it. -/
def State.nextPacket (s : State) (q : Nat) : Packet :=
  if !s.queueOpen q then .idle
  else
    let k := s.queue q
    match s.qfeRead k.pasid k.packetAt 64 with
    | .wait t => .wait t
    | .fail _ _ t => .bad 3 t
    | .ok b t =>
      if headerBad b ≠ 0 then .bad (headerBad b) t
      else if bitOf (fieldAt b 1 1) 0 ∧ k.nout ≠ 0 then .idle
      else if 3 ≤ fieldAt b 0 1 ∧ s.poolFull then .idle
      else if !(s.qfeCore (q / 64)).mayTake (q % 64) (fieldAt b 0 1) s.cycle then .idle
      else .ok b t

/-- R344: the lane takes its packet in the present step, or in a new one, which lasts 16 cycles and may begin a new round. -/
def State.tookPacket (s : State) (q op : Nat) : State :=
  s.modQfe (q / 64) (fun c =>
    { c with took := if c.nextRound (q % 64) op then [q % 64] else c.took ++ [q % 64], step := opPriority op, ends := s.cycle + 16 })

/-- A packet of one opcode: its error, the wait for its page, or its effect. -/
def State.onPacket (s : State) (q op : Nat) (f : State → Queue → List Byte → State) : State :=
  match s.nextPacket q with
  | .idle => s
  | .wait t => t
  | .bad code t => t.queueError q code
  | .ok b t => if fieldAt b 0 1 ≠ op then s else f t (s.queue q) b

/-- The lane takes its packet and hands a command to a slot. -/
def State.command (s : State) (q op : Nat) (c : SlotCmd) : State := (s.tookPacket q op).modQfe (q / 64) (fun k => { k with slots := k.slots ++ [c] })

/-! ### SIGNAL, WAIT and NOP (R340) -/

/-- The counter's place: an error, a wait for its page, or the state in which it can be used. -/
def State.counterAt (s : State) (pasid va : Nat) (k : Need) : EngIO Unit :=
  if va % 8 ≠ 0 ∨ va ≥ 2 ^ 56 then .fail 6 va s
  else
    let r := s.await srcQfe pasid k va 8
    if r.2 then .wait r.1
    else match s.firstBad srcQfe pasid k [(va, 8)] with
      | some a => .fail 6 a (s.useAnswer srcQfe pasid a k.kind)
      | none => if s.vpoison pasid va 8 then .fail 6 va s else .ok () s

def execSignal (q : Nat) (s : State) : Host.Outcome State Fault Refusal :=
  .next (s.onPacket q 1 (fun t k b =>
    if !zeroBytes b 0x18 40 then t.queueError q 4
    else match t.counterAt k.pasid (fieldAt b 8 8) .wr with
      | .wait u => u
      | .fail code _ u => u.queueError q code
      | .ok _ u => u.command q 1 (.signal q (fieldAt b 8 8) (BitVec.ofNat 64 (fieldAt b 0x10 8)) (bitOf (fieldAt b 1 1) 1) u.qfeVis)))

/-- The value of a WAIT's counter. -/
def State.counterNow (s : State) (pasid va : Nat) : Nat := leNat ((s.vread pasid va 8).getD [])

def execWait (q : Nat) (s : State) : Host.Outcome State Fault Refusal :=
  .next (s.onPacket q 2 (fun t k b =>
    let a := fieldAt b 8 8
    let v := fieldAt b 0x10 8
    if k.waddr ≠ 0 then s
    else if !zeroBytes b 0x18 40 then t.queueError q 4
    else match t.counterAt k.pasid a .rd with
      | .wait u => u
      | .fail code _ u => u.queueError q code
      | .ok _ u => if u.counterNow k.pasid a ≥ v then u.command q 2 (.waitEnd q) else (u.tookPacket q 2).setQueue q (fun k => { k with waddr := a, wtgt := v })))

/-- WAIT_MET (R340). -/
def execWaitMet (q : Nat) (s : State) : Host.Outcome State Fault Refusal :=
  .next (s.onPacket q 2 (fun t k _ =>
    if k.waddr = 0 then s
    else match t.counterAt k.pasid k.waddr .rd with
      | .wait u => u
      | .fail code _ u => u.queueError q code
      | .ok _ u => if u.counterNow k.pasid k.waddr ≥ k.wtgt then u.command q 2 (.waitEnd q) else s))

/-- A packet that makes no node is taken. -/
def Queue.taken (k : Queue) : Queue := { k with rdidx := (k.rdidx + 1) % 2 ^ 32, back := mset 0 k.back (k.rdidx % 64) 0, waddr := 0, wtgt := 0 }

def execNopPacket (q : Nat) (s : State) : Host.Outcome State Fault Refusal :=
  .next (s.onPacket q 0 (fun t _ b => if !zeroBytes b 8 56 then t.queueError q 4 else (t.tookPacket q 0).setQueue q Queue.taken))

/-! ### Kernel descriptors and grid sub-launches (R130, R131, R348) -/

/-- The kernel that a sub-launch starts: its descriptor with the overrides. -/
def kernelOf (b kd : List Byte) : Kernel :=
  let ovr := fun (i : Nat) => bitOf (fieldAt b 1 1) i
  let gfl := fieldAt b 2 1
  let pick := fun (i so ko n : Nat) => if ovr i then fieldAt b so n else fieldAt kd ko n
  { codeBase := fieldAt kd 8 8, entry := BitVec.ofNat 32 (fieldAt kd 0x10 4), trap := BitVec.ofNat 32 (fieldAt kd 0x14 4), vregs := fieldAt kd 0x18 2, sregs := fieldAt kd 0x1A 2, wgsize := fieldAt kd 0x1C 4, scratch := fieldAt kd 0x20 4, acc := fieldAt kd 0x24 2, cluster := fieldAt kd 0x26 1, park := pick 3 3 0x27 1, producer := if bitOf gfl 2 then fieldAt b 0xC 2 else fieldAt kd 0x28 2, chmask := fieldAt kd 0x2A 2, priv := pick 5 0x30 0x2C 4, stack := pick 6 0x34 0x30 4, x := if ovr 0 then fieldAt b 4 4 + 2 ^ 32 * fieldAt b 0xE 2 else fieldAt kd 0x34 4 + 2 ^ 32 * fieldAt kd 0x3C 2, gy := pick 1 8 0x38 2, gz := pick 2 0xA 0x3A 2, stats := pick 7 0x38 0x40 8, zfill := bitOf (fieldAt kd 4 4) 0, swap := if ovr 4 then bitOf gfl 1 else bitOf (fieldAt kd 4 4) 1 }

/-- R130: a value outside its limits. -/
def Kernel.bad (k : Kernel) : Bool :=
  k.codeBase % 4096 != 0 || k.codeBase ≥ 2 ^ 56 || k.vregs < 8 || k.vregs > 256 || k.vregs % 8 != 0 || k.sregs < 16 || k.sregs > 256 || k.sregs % 16 != 0 ||
  k.wgsize < 32 || k.wgsize > 16384 || k.wgsize % 32 != 0 || k.scratch < 1024 || k.scratch > 8 * scrLimit || k.scratch % 256 != 0 || k.acc > accLimit ||
  k.cluster < 1 || k.cluster > 16 || k.park < 16 || k.park > 30 || k.producer ≥ k.wgsize / 32 || k.priv % 4096 != 0 || k.stack < 4096 || k.stack > 2 ^ 24 || k.stack % 4096 != 0 ||
  k.gy == 0 || k.gz == 0 || k.stats % 256 != 0
def descriptorBad (kd : List Byte) : Bool :=
  fieldAt kd 0 4 != 1 || fieldAt kd 4 4 ≥ 4 || !zeroBytes kd 0x3E 2 || !zeroBytes kd 0x48 56 || (kernelOf (List.replicate 64 0) kd).bad || (kernelOf (List.replicate 64 0) kd).x == 0

/-- R348: an override field whose bit is clear is not zero, or a reserved bit is set. -/
def gridFieldsBad (b : List Byte) : Bool :=
  let ovr := fun (i : Nat) => bitOf (fieldAt b 1 1) i
  let gfl := fieldAt b 2 1
  gfl ≥ 8 || (!ovr 0 && (fieldAt b 4 4 != 0 || fieldAt b 0xE 2 != 0)) || (!ovr 1 && fieldAt b 8 2 != 0) || (!ovr 2 && fieldAt b 0xA 2 != 0) || (!ovr 3 && fieldAt b 3 1 != 0) ||
  (!ovr 4 && bitOf gfl 1) || (!ovr 5 && fieldAt b 0x30 4 != 0) || (!ovr 6 && fieldAt b 0x34 4 != 0) || (!ovr 7 && fieldAt b 0x38 8 != 0) || (!bitOf gfl 2 && fieldAt b 0xC 2 != 0)

/-- Workgroups along x (R28). -/
def Kernel.nx (k : Kernel) : Nat := (k.x + k.wgsize - 1) / Nat.max k.wgsize 1

/-! ### Parsing (R347 to R350, R354) -/

/-- The end of a parse: the wait for a page, or the node with its status. -/
inductive Parsed where
  | wait (s : State) | done (s : State) (n : Node)

def Node.refuse (n : Node) (status sub : Nat) : Node := { n with st := .running, subs := [], tiles := [], status := status, statSub := sub }

/-- A registered view descriptor and rows within it (R349, R351). -/
def State.viewAt (s : State) (pasid p : Nat) : Option View := s.views.find? (fun v => v.ptr == p && v.space == pasid)
def State.viewRows (s : State) (pasid p row n : Nat) : Bool := match s.viewAt pasid p with | some v => v.rowsOk row n | none => false

/-- R349 kind 2: a logical core of the tenancy, the count and the alignment of the list. -/
def State.programOk (s : State) (ten : Nat) (b : List Byte) : Bool :=
  let core := fieldAt b 2 2
  let n := fieldAt b 4 4
  core < 192 && (s.steward (regionOfCore core)).ten == ten && 1 ≤ n && n ≤ 4096 && fieldAt b 8 8 % 128 == 0 && fieldAt b 8 8 < 2 ^ 56 && zeroBytes b 1 1 && zeroBytes b 0x10 48

/-- One sub-launch: 0, or the status that refuses the node. -/
def State.parseSub (s : State) (n : Node) (b : List Byte) : EngIO (Nat × SubRun) :=
  match fieldAt b 0 1 with
  | 1 =>
    if gridFieldsBad b then .ok (2, { bytes := b }) s
    else
      let p := fieldAt b 0x10 8
      if p % 256 ≠ 0 then .ok (3, { bytes := b }) s
      else match s.qfeRead n.pasid p 256 with
        | .wait t => .wait t
        | .fail _ _ t => .ok (3, { bytes := b }) t
        | .ok kd t =>
          let k := kernelOf b kd
          if descriptorBad kd then .ok (3, { bytes := b }) t
          else if k.bad then .ok (2, { bytes := b }) t
          else if k.nx = 0 ∨ k.nx ≥ 2 ^ 31 ∨ k.nx % k.cluster ≠ 0 then .ok (3, { bytes := b }) t
          else .ok (0, { bytes := b, kd := kd }) t
  | 2 => .ok (if s.programOk n.ten b then 0 else 2, { bytes := b }) s
  | 3 => .ok (if zeroBytes b 1 7 && zeroBytes b 0x18 40 && s.viewRows n.pasid (fieldAt b 8 8) (fieldAt b 0x10 4) (fieldAt b 0x14 4) then 0 else 2, { bytes := b }) s
  | 4 => .ok (if zeroBytes b 1 7 && zeroBytes b 0x18 40 then 0 else 2, { bytes := b }) s
  | _ => .ok (2, { bytes := b }) s

/-- Sub-launches in ascending index; the first that fails names the status. -/
def State.parseSubs (s : State) (n : Node) : (i : Nat) → List (List Byte) → Parsed
  | _, [] => .done s n
  | i, b :: bs => match s.parseSub n b with
    | .wait t => .wait t
    | .fail _ _ t => .done t (n.refuse 2 i)
    | .ok (st, r) t => if st ≠ 0 then .done t (n.refuse st i) else State.parseSubs t { n with subs := n.subs ++ [r] } (i + 1) bs

/-- R350, R351: a tile operand that breaks its fields. -/
def State.tileBad (s : State) (n : Node) (b : List Byte) : Bool :=
  let kind := fieldAt b 0 1
  let p := fieldAt b 8 8
  let oa := fieldAt b 0x10 8
  let ob := fieldAt b 0x18 8
  kind ≥ 4 || fieldAt b 1 1 ≥ 4 || !zeroBytes b 2 6 || (kind != 2 && ob != 0) ||
  (kind == 2 && (fieldAt b 1 1 != 1 || !s.viewRows n.pasid p oa ob)) || (kind == 3 && (p != 0 || oa ≥ (s.ten n.ten).nlens)) || (kind == 1 && p ≥ 2 ^ 56)

/-- A bundle record (R347). -/
def State.parseBundle (s : State) (n : Node) (p : Nat) : Parsed :=
  if p % 64 ≠ 0 then .done s (n.refuse 1 0xFF)
  else match s.qfeRead n.pasid p 576 with
    | .wait t => .wait t
    | .fail _ _ t => .done t (n.refuse 1 0xFF)
    | .ok b t =>
      let ns := fieldAt b 0 1
      let nt := fieldAt b 1 1
      let vt := fieldAt b 8 8
      if ns = 0 ∨ ns > 4 ∨ nt > 8 ∨ ¬ zeroBytes b 2 6 ∨ ¬ zeroBytes b 0x10 48 ∨ vt % 128 ≠ 0 ∨ vt ≥ 2 ^ 56 ∨ ¬ zeroBytes b (0x40 + 64 * ns) (64 * (4 - ns)) ∨ ¬ zeroBytes b (0x140 + 32 * nt) (32 * (8 - nt)) then .done t (n.refuse 2 0xFF)
      else match t.parseSubs { n with vtab := vt } 0 ((List.range ns).map (fun i => (b.drop (0x40 + 64 * i)).take 64)) with
        | .wait u => .wait u
        | .done u n1 =>
          let tiles := (List.range nt).map (fun i => (b.drop (0x140 + 32 * i)).take 32)
          if n1.status ≠ 0 then .done u n1
          else match tiles.findIdx? (fun x => u.tileBad n1 x) with
            | some i => .done u (n1.refuse 2 (0x10 + i))
            | none => .done u { n1 with tiles := (tiles.zipIdx.filter (fun x => fieldAt x.1 0 1 != 0)).map (fun x => { idx := x.2, bytes := x.1 }) }

/-- R342: predecessor entries; none where one has the other form. -/
def predEntries (spawned : Bool) (b : List Byte) : Option (List Nat) :=
  let es := (List.range 4).map (fun i => fieldAt b (8 + 2 * i) 2)
  let ok := fun (e : Nat) => e == 0 || (if spawned then bitOf e 15 && bitsOf e 12 3 == 0 else !bitOf e 15 && bitsOf e 6 9 == 0 && bitsOf e 0 6 != 0)
  if es.all ok then some ((es.filter (· != 0)).map (fun e => if spawned then e % 4096 else e % 64)) else none

/-- The node of a packet that makes one (R341, R354); its number and its predecessors are settled as it enters the pool. -/
def State.parsePacket (s : State) (ten pasid prio : Nat) (spawned : Bool) (b : List Byte) : Parsed :=
  let op := fieldAt b 0 1
  let body := fieldAt b 0x10 8
  let a0 := fieldAt b 0x30 4
  let a1 := fieldAt b 0x34 4
  let n : Node := { num := 0, st := .pending, ten := ten, pasid := pasid, prio := prio, q := none, root := 0, weight := 0, preds := [], tag := fieldAt b 4 4, sigaddr := fieldAt b 0x18 8, sigval := fieldAt b 0x20 8, resaddr := fieldAt b 0x28 8 }
  match predEntries spawned b with
  | none => .done s (n.refuse 1 0xFF)
  | some ps =>
    let n1 : Node := { n with preds := ps }
    if !zeroBytes b 0x38 8 ∨ n.sigaddr % 8 ≠ 0 ∨ n.sigaddr ≥ 2 ^ 56 ∨ n.resaddr % 32 ≠ 0 ∨ n.resaddr ≥ 2 ^ 56 then .done s (n1.refuse 1 0xFF)
    else if op = 3 then
      if a1 ≠ 0 ∨ a0 ≥ 2 ^ 16 then .done s (n1.refuse 2 0)
      else s.parseSubs n1 0 [leBytes 2 2 ++ leBytes 2 a0 ++ leBytes 4 1 ++ leBytes 8 body ++ List.replicate 48 0]
    else if op = 4 then s.parseSubs n1 0 [leBytes 8 3 ++ leBytes 8 body ++ leBytes 4 a0 ++ leBytes 4 a1 ++ List.replicate 40 0]
    else if a0 ≠ 0 ∨ a1 ≠ 0 then .done s (n1.refuse 1 0xFF)
    else s.parseBundle n1 body

/-- A packet that makes a node: the node goes to a dispatch slot with the number that is wanted. -/
def State.makeNode (s : State) (q op num : Nat) : State :=
  s.onPacket q op (fun t k b => match t.parsePacket k.ten k.pasid k.prio false b with
    | .wait u => u
    | .done u n => u.command q op (.node q { n with num := num, q := some (q, k.rdidx), weight := if op = 5 then 2 ^ 32 else 0 }))

/-- R341. -/
def execCopy (q num : Nat) (s : State) : Host.Outcome State Fault Refusal := .next (s.makeNode q 3 num)
/-- R341. -/
def execView (q num : Nat) (s : State) : Host.Outcome State Fault Refusal := .next (s.makeNode q 4 num)
/-- R355. -/
def execSpawnRoot (q num : Nat) (s : State) : Host.Outcome State Fault Refusal := .next (s.makeNode q 5 num)
/-- R341. -/
def execLaunch (q num : Nat) (s : State) : Host.Outcome State Fault Refusal := .next (s.makeNode q 6 num)

/-! ### Dispatch slots (R345, R352, R466) -/

/-- The first node number from n on that no node holds. -/
def freeNode (held : List Nat) : (fuel n : Nat) → Nat
  | 0, n => n % 4096
  | f + 1, n => if held.contains (n % 4096) then freeNode held f (n + 1) else n % 4096
def State.nodeNumber (s : State) (want : Nat) : Nat := freeNode (s.nodes.map (·.num)) s.nodes.length want

/-- R342, R355: a queue's node enters the pool; BACK gives its predecessors that are still live. -/
def State.enterNode (s : State) (q : Nat) (n : Node) : State :=
  let k := s.queue q
  let num := s.nodeNumber n.num
  let preds := n.preds.filterMap (fun d =>
    let e := mget 0 k.back ((k.rdidx + 64 - d) % 64)
    if bitOf e 15 then some (e % 4096) else none)
  let (s1, n1) := if n.weight = 0 then (s, n) else
    let (id, s1) := s.fresh
    (({ s1 with roots := s1.roots ++ [{ id := id, q := q, ten := n.ten, pasid := n.pasid, prio := n.prio, tag := n.tag, sigaddr := n.sigaddr, sigval := n.sigval, resaddr := n.resaddr }] } : State), { n with root := id, sigaddr := 0, resaddr := 0 })
  let s2 : State := { s1 with nodes := s1.nodes ++ [{ n1 with num := num, preds := preds }] }
  s2.setQueue q (fun k => { k with nout := k.nout + 1, back := mset 0 k.back (k.rdidx % 64) (0x8000 + num), rdidx := (k.rdidx + 1) % 2 ^ 32 })

/-- What one step of a reply command does: nothing yet, a part, or the last part. -/
inductive ReplyAt where
  | stay (s : State)
  | on (r : Reply) (s : State)
  | ended (s : State)

/-- A reply command (R474, R232): RESULT, then STATUS, then 1 to the counter at CNTR, each when what came before is visible. -/
def State.replyPart (s : State) (r : Reply) : ReplyAt :=
  if !s.allPassed r.vis then .stay s
  else
    let put := fun (off : Nat) (bs : List Byte) =>
      let a := s.await srcQfe r.pasid .wr (r.ptr + off) bs.length
      if a.2 then ReplyAt.stay a.1
      else
        let w := s.qfeWrite r.pasid (r.ptr + off) 3 bs
        .on { r with phase := r.phase + 1, vis := w.2 } w.1
    match r.phase with
    | 0 => put 0x10 (leBytes 8 r.result)
    | 1 => put 0xC (leBytes 4 r.status)
    | _ =>
      let c := leNat ((s.vread r.pasid (r.ptr + 0x18) 8).getD [])
      if c = 0 then .ended s
      else match s.counterAt r.pasid c .wr with
        | .wait t => .stay t
        | .fail _ _ t => .ended (t.discarded r.pasid c 4)
        | .ok _ t => match t.vupdate r.pasid c 8 .wr (.add 1) with
          | some w => .ended w.1
          | none => .ended (t.discarded r.pasid c 4)

/-- R474: the record of a reply that has been made. A record whose root has completed goes with its last reply. -/
def State.replied (s : State) (r : Reply) : State :=
  { s with journal := (s.journal.map (fun k => if some k.req = r.req then { k with blocks := k.blocks.erase (r.pasid, r.ptr) } else k)).filter (fun k => !(k.freed && k.st == 2 && k.blocks == [])) }

/-- A SIGNAL's write: its counter takes VALUE, or VALUE is added (R340). A counter whose page has gone is logged (R447). -/
def State.signalWrite (s : State) (pasid a : Nat) (v : W64) (store : Bool) : State :=
  let r := if store then (let w := s.vwrite pasid a (leBytes 8 v.toNat); if w.2.2 then some (w.1, w.2.1) else none) else s.vupdate pasid a 8 .wr (.add v.toNat)
  match r with
  | some w => w.1.qfeKeep w.2
  | none => s.discarded pasid a 4

/-- The effects of an accepted command, the QSB's or the journal's last; none while it cannot go on. The number is the
command's place in its core's slots. -/
def State.slotCommand (s : State) (qc i : Nat) (c : SlotCmd) : State :=
  let gone : State := s.modQfe qc (fun k => { k with slots := k.slots.eraseIdx i })
  match c with
  | .signal q a v store vis => if s.allPassed vis then (gone.signalWrite (s.queue q).pasid a v store).setQueue q Queue.taken else s
  | .waitEnd q => gone.setQueue q Queue.taken
  | .node q n => gone.enterNode q n
  | .reply r => match s.replyPart r with
    | .stay t => t
    | .on r1 t => t.modQfe qc (fun k => { k with slots := k.slots.modify i (fun _ => .reply r1) })
    | .ended t => (t.modQfe qc (fun k => { k with slots := k.slots.eraseIdx i })).replied r

/-- The command at a place of a core's slots goes on. -/
def State.slotAdvance (s : State) (qc i : Nat) : State :=
  match (s.qfeCore qc).slots[i]? with
  | some c => s.slotCommand qc i c
  | none => s

/-- DISPATCH_SLOT_COMMAND (R466): the first accepted command of a queue, or the first reply, that can go on. -/
def execDispatchSlotCommand (qc : SlotAt) (s : State) : Host.Outcome State Fault Refusal :=
  match (List.range (s.qfeCore qc.core).slots.length).find? (fun i => ((s.qfeCore qc.core).slots[i]?.map SlotCmd.key) == some qc.key && s.slotAdvance qc.core i != s) with
  | some i => .next (s.slotAdvance qc.core i)
  | none => .next s

/-! ### The kernel's control of queues (R335, R346) -/

/-- A queue as its QSB gives it (R467). -/
def State.loadQueue (s : State) (k : Queue) : Queue :=
  let b := s.cohRead k.qsb 256
  { k with base := fieldAt b 0 8, log2depth := fieldAt b 8 1, prio := fieldAt b 9 1, ten := fieldAt b 0xA 1, st := fieldAt b 0xB 1, pasid := fieldAt b 0xC 4, rung := fieldAt b 0x10 4, rdidx := fieldAt b 0x14 4, nout := fieldAt b 0x18 4, err := fieldAt b 0x1C 1, erridx := fieldAt b 0x20 4, waddr := fieldAt b 0x28 8, wtgt := fieldAt b 0x30 8, back := (List.range 64).foldl (fun m i => mset 0 m i (fieldAt b (0x80 + 2 * i) 2)) [] }

/-- KERNEL_QUEUE_CONTROL (R335, R346). A queue is created with an empty QSB, and only a queue in error or stopped is
restarted. -/
def execKernelQueueControl (q : Nat) (ctl : QueueCtl) (s : State) : Host.Outcome State Fault Refusal :=
  let k := s.queue q
  match ctl with
  | .create base depth prio ten pasid qsb =>
    if q ≥ 256 ∨ k.st ≠ 0 ∨ k.nout ≠ 0 ∨ base % 4096 ≠ 0 ∨ depth < 4 ∨ depth > 16 ∨ prio > 3 ∨ ten > 15 ∨ qsb % 256 ≠ 0 then .next s
    else
      let n : Queue := { qsb := qsb, base := base, log2depth := depth, prio := prio, ten := ten, st := 1, pasid := pasid }
      let s1 := s.hubWrite qsb (leBytes 8 base ++ leBytes 1 depth ++ leBytes 1 prio ++ leBytes 1 ten ++ leBytes 1 1 ++ leBytes 4 pasid ++ List.replicate 240 0)
      .next (s1.modQueue q (fun _ => n))
  | .destroy => if k.st = 0 ∨ k.nout ≠ 0 then .next s else .next ((s.setQueue q (fun k => { k with st := 0 })).modQueue q (fun _ => {}))
  | .disable => if k.st = 0 then .next s else .next (s.setQueue q (fun k => { k with st := 0 }))
  | .stop => if k.st = 1 then .next (s.setQueue q (fun k => { k with st := 3 })) else .next s
  | .restart => if k.st = 2 ∨ k.st = 3 then .next (s.setQueue q (fun k => { k with st := 1, err := 0, erridx := 0, rung := fieldAt (s.cohRead k.qsb 256) 0x10 4 })) else .next s

end Sys2Proof.Machine
end

