-- ==== Sys2Proof/Machine/Lens.lean ====
section
/-! DEFINITION. The Lens arbiter: slot tables, references, fills, drains and evictions (R396 to R398, R471, R472). -/
namespace Sys2Proof.Machine

/-! ### Slot records (R396) -/

/-- The address of a slot's record. -/
def State.slotAt (s : State) (ten slot : Nat) : Nat := (s.ten ten).lens + 64 * slot
def State.slotBytes (s : State) (ten slot : Nat) : List Byte :=
  (s.vreadLatest (s.ten ten).lensPasid (s.slotAt ten slot) 64).getD (List.replicate 64 0)
def State.slotField (s : State) (ten slot off n : Nat) : Nat := fieldAt (s.slotBytes ten slot) off n
def State.slotSt (s : State) (ten slot : Nat) : Nat := s.slotField ten slot 0 1
def State.slotRefs (s : State) (ten slot : Nat) : Nat := s.slotField ten slot 4 4
/-- A write of the arbiter to a record. -/
def State.slotPut (s : State) (ten slot off n v : Nat) : State :=
  (s.vwrite (s.ten ten).lensPasid (s.slotAt ten slot + off) (leBytes n v)).1

def State.lensRun? (s : State) (ten slot : Nat) : Option LensRun := s.lensRuns.find? (fun r => r.ten == ten && r.slot == slot)
def State.modRun (s : State) (ten slot : Nat) (f : LensRun → LensRun) : State :=
  { s with lensRuns := s.lensRuns.map (fun r => if r.ten = ten ∧ r.slot = slot then f r else r) }
def State.endRun (s : State) (ten slot : Nat) : State :=
  { s with lensRuns := s.lensRuns.filter (fun r => !(r.ten == ten && r.slot == slot)) }

/-- The record's page is there, is awaited, or is missing. -/
inductive SlotPage where
  | ready (s : State) | wait (s : State) | missing (s : State)
def State.slotPage (s : State) (ten slot : Nat) : SlotPage :=
  let pasid := (s.ten ten).lensPasid
  match s.demand srcQfe pasid (s.slotAt ten slot % 2 ^ 56) .rdwr with
  | .ok pa at_ _ => if s.homeMoves (s.forwarded pa) then .wait s else .ready (s.markPte at_ false)
  | .wait => .wait (s.askPage srcQfe pasid (s.slotAt ten slot % 2 ^ 56) 2)
  | _ => .missing (s.useAnswer srcQfe pasid (s.slotAt ten slot % 2 ^ 56) 2)

/-! ### Runs of sub-launch records -/

/-- A record of kind 2 or 4 that can run (R349, R396). -/
def State.lensOk (s : State) (ten : Nat) (b : List Byte) : Bool :=
  (fieldAt b 0 1 == 2 && s.programOk ten b) || (fieldAt b 0 1 == 4 && zeroBytes b 1 7 && zeroBytes b 0x18 40)

/-- The arbiter starts the record at a pointer; one that cannot be read or run has failed. None while its page is awaited. -/
def State.startRun (s : State) (ten slot ptr : Nat) (draining repl : Bool) : EngIO Unit :=
  let run : LensRun := { ten := ten, slot := slot, draining := draining, repl := repl }
  match s.qfeRead (s.ten ten).lensPasid ptr 64 with
  | .wait t => .wait t
  | .fail _ _ t => .ok () { t.endRun ten slot with lensRuns := (t.endRun ten slot).lensRuns ++ [{ run with failed := true }] }
  | .ok b t => .ok () { t.endRun ten slot with lensRuns := (t.endRun ten slot).lensRuns ++ [{ run with bytes := b, failed := !t.lensOk ten b }] }

/-- A copy of the run is in flight. -/
def State.lensCopying (s : State) (r : LensRun) : Bool := s.copies.any (fun c => c.owner == .lens r.ten r.slot)

/-- COPY_PROGRAM_NEXT for the arbiter's program: its next descriptor starts. -/
def State.lensNext (s : State) (r : LensRun) : State :=
  if s.lensCopying r ∨ r.failed ∨ fieldAt r.bytes 0 1 ≠ 2 ∨ r.pos ≥ fieldAt r.bytes 4 4 then s
  else
    let core := fieldAt r.bytes 2 2
    let pasid := (s.ten r.ten).lensPasid
    let desc := fieldAt r.bytes 8 8 + 128 * r.pos
    match s.readDesc core pasid r.ten (lensJob r.ten r.slot) (desc % 2 ^ 56) with
    | (s1, none) => s1
    | (s1, some d) =>
      let (id, s2) := s1.fresh
      let c := Copy.ofBytes id (.lens r.ten r.slot) core pasid desc 8 false false 0 (match d with | .ok b => b | .error _ => [])
      let s3 : State := ({ s2 with copies := s2.copies ++ [c] } : State).modRun r.ten r.slot (fun k => { k with pos := k.pos + 1 })
      match d with
      | .error (code, a) => s3.failCopy c code 4 a
      | .ok b => if (c.programFault b).isSome then s3.failCopy c 0xA 4 desc else s3

/-- Everything that the run started has ended, and is visible. -/
def State.runOver (s : State) (r : LensRun) : Bool :=
  !r.failed && !s.lensCopying r && s.allPassed r.vis && (if fieldAt r.bytes 0 1 = 2 then r.pos ≥ fieldAt r.bytes 4 4 else r.hostDone)

/-! ### The events of a slot (R397) -/

/-- How many references a node has still to take on a slot. -/
def Node.owes (n : Node) (slot : Nat) : Nat :=
  (n.tiles.filter (fun t => fieldAt t.bytes 0 1 == 3 && fieldAt t.bytes 0x10 8 == slot)).length - (n.lens.filter (· == slot)).length

/-- A node whose Lens operand fails (R472): SUB names the operand. -/
def Node.lensFailed (n : Node) (slot : Nat) : Node :=
  let t := ((n.tiles.find? (fun t => fieldAt t.bytes 0 1 == 3 && fieldAt t.bytes 0x10 8 == slot)).map (·.idx)).getD 0
  { n with st := .running, subs := [], status := 6, statSub := 0x10 + t, detail := slot }

/-- The reference is in the slot's record and on the node. -/
def State.takeRef (s : State) (ten slot node : Nat) : State :=
  (s.slotPut ten slot 4 4 ((s.slotRefs ten slot + 1) % 2 ^ 32)).modNode node (fun n => { n with lens := n.lens ++ [slot] })

/-- LENS_PROMOTION (R397): a HELD node takes a reference; an empty slot starts its fill. -/
def execLensPromotion (ten slot node : Nat) (s : State) : Host.Outcome State Fault Refusal :=
  match s.node? node with
  | none => .next s
  | some n =>
    if n.st ≠ .held ∨ n.ten ≠ ten ∨ n.owes slot = 0 then .next s
    else match s.slotPage ten slot with
      | .wait t => .next (t.waitEvent (.lensPromotion ten slot node))
      | .missing t => .next (t.modNode node (fun n => n.lensFailed slot))
      | .ready t =>
        match t.slotSt ten slot with
        | 0 =>
          match t.startRun ten slot (t.slotField ten slot 0x18 8) false false with
          | .wait u => .next (u.waitEvent (.lensPromotion ten slot node))
          | .fail _ _ u => .next u
          | .ok _ u => .next ((u.takeRef ten slot node).slotPut ten slot 0 1 1)
        | 3 => .next ((t.takeRef ten slot node).modRun ten slot (fun r => { r with back := true }))
        | _ => .next (t.takeRef ten slot node)

/-- Eviction of a ready slot with no references: a drain where WB = 1, else the slot is empty at once. -/
def State.evictSlot (s : State) (ten slot : Nat) : EngIO Unit :=
  if s.slotSt ten slot ≠ 2 ∨ s.slotRefs ten slot ≠ 0 then .ok () s
  else if bitOf (s.slotField ten slot 1 1) 1 then
    match s.startRun ten slot (s.slotField ten slot 0x20 8) true false with
    | .ok _ t => .ok () (t.slotPut ten slot 0 1 3)
    | r => r
  else .ok () (s.slotPut ten slot 0 1 0)

/-- An eviction reaches a slot; it is applied once this cycle's promotions have been (R397). -/
def State.evictLater (s : State) (ten slot : Nat) : State := { s with evictions := s.evictions ++ [(ten, slot, s.cycle)] }

/-- LENS_REFERENCE_DROP (R397): a node that retires drops a reference; the last one of a slot without KEEP evicts it. -/
def execLensReferenceDrop (ten slot node : Nat) (s : State) : Host.Outcome State Fault Refusal :=
  match s.node? node with
  | none => .next s
  | some n =>
    if n.st ≠ .running ∨ n.phase < 2 ∨ n.ten ≠ ten ∨ ¬ n.lens.contains slot then .next s
    else match s.slotPage ten slot with
      | .wait t => .next t
      | .missing t => .next (t.modNode node (fun n => { n with lens := n.lens.erase slot }))
      | .ready t =>
        let u := (t.slotPut ten slot 4 4 (t.slotRefs ten slot - 1)).modNode node (fun n => { n with lens := n.lens.erase slot })
        .next (if u.slotSt ten slot = 2 ∧ u.slotRefs ten slot = 0 ∧ ¬ bitOf (u.slotField ten slot 1 1) 0 then u.evictLater ten slot else u)

/-- LENS_EVICTION (R397): it reaches the slot, and after the promotions of its cycle it is applied: refused while a reference
is held, ignored in the other states. -/
def execLensEviction (ten slot : Nat) (s : State) : Host.Outcome State Fault Refusal :=
  match s.evictions.find? (fun e => e.1 == ten && e.2.1 == slot && e.2.2 < s.cycle) with
  | none => .next (s.evictLater ten slot)
  | some e =>
    let done := fun (t : State) => ({ t with evictions := t.evictions.erase e } : State)
    match s.slotPage ten slot with
    | .wait t => .next (t.waitEvent (.lensEviction ten slot))
    | .missing t => .next (done t)
    | .ready t => match t.evictSlot ten slot with
      | .ok _ u => .next (done u)
      | .wait u => .next (u.waitEvent (.lensEviction ten slot))
      | .fail _ _ u => .next (done u)

/-- LENS_FILL_COMPLETE (R397): the fill goes on to its next descriptor, or its end makes the slot ready. -/
def execLensFillComplete (ten slot : Nat) (s : State) : Host.Outcome State Fault Refusal :=
  match s.lensRun? ten slot with
  | none => .next s
  | some r =>
    if r.draining then .next s
    else if s.runOver r then
      match s.slotPage ten slot with
      | .wait t => .next t
      | .missing t => .next (t.endRun ten slot)
      | .ready t =>
        let t1 := t.slotPut ten slot 0x30 8 ((t.slotField ten slot 0x30 8 + 1) % 2 ^ 64)
        let fl := t1.slotField ten slot 1 1
        .next (((t1.slotPut ten slot 1 1 (fl - (if bitOf fl 2 then 4 else 0))).slotPut ten slot 0 1 2).endRun ten slot)
    else .next (s.lensNext r)

/-- LENS_FILL_FAIL (R472): the replica is tried once; then the holders retire with status 0x6 and the slot is empty. -/
def execLensFillFail (ten slot : Nat) (s : State) : Host.Outcome State Fault Refusal :=
  match s.lensRun? ten slot with
  | none => .next s
  | some r =>
    if r.draining ∨ ¬ r.failed ∨ s.lensCopying r then .next s
    else
      match s.slotPage ten slot with
      | .wait t => .next t
      | p =>
        let t := match p with | .ready t => t | .wait t => t | .missing t => t
        let repl := t.slotField ten slot 0x28 8
        if repl ≠ 0 ∧ ¬ r.repl then
          match t.startRun ten slot repl false true with
          | .ok _ u => .next u
          | .wait u => .next u
          | .fail _ _ u => .next u
        else
          let holders := t.nodes.filter (fun n => n.ten == ten && n.lens.contains slot)
          let fl := t.slotField ten slot 1 1
          let t1 := ((t.slotPut ten slot 1 1 (fl ||| 4)).slotPut ten slot 4 4 0).slotPut ten slot 0 1 0
          let t2 := holders.foldl (fun s n => s.modNode n.num (fun n =>
            let k : Node := { n with lens := n.lens.filter (· != slot) }
            if n.st = .held then k.lensFailed slot else k)) t1
          .next ((t2.endRun ten slot).logRec { unit := 4, code := 0x55, ten := ten, src := 8, aux := slot + (if r.repl then 2 ^ 16 else 0) })

/-- LENS_DRAIN_COMPLETE (R397, R398). -/
def execLensDrainComplete (ten slot : Nat) (s : State) : Host.Outcome State Fault Refusal :=
  match s.lensRun? ten slot with
  | none => .next s
  | some r =>
    if ¬ r.draining then .next s
    else if s.runOver r ∨ (r.failed ∧ ¬ s.lensCopying r) then
      match s.slotPage ten slot with
      | .wait t => .next t
      | .missing t => .next (t.endRun ten slot)
      | .ready t => .next ((t.slotPut ten slot 0 1 (if r.back then 2 else 0)).endRun ten slot)
    else .next (s.lensNext r)

end Sys2Proof.Machine
end

