-- ==== Sys2Proof/Machine/Pool.lean ====
section
/-! DEFINITION. The ready pool: predecessors and tile operands (R351, R352), dispatch (R353, R356, R357, R368), completion (R354,
R355), spawned nodes (R234) and host functions (R405). -/
namespace Sys2Proof.Machine

/-! ### View blocks that the QFE waits for (R296, R349, R351) -/

/-- The requester that a node's checks at another device go under. -/
def nodeTag (node i : Nat) : Nat := 16 * node + i

/-- A request for the blocks: at their engines, or a posted message to the device that holds the master. -/
def State.askBlocks (s : State) (tag : Nat) (v : View) (ms : List Nat) : State :=
  if v.mdev % 2048 = s.devnum then s.requestBlocks v ms
  else
    let (id, s1) := s.fresh
    { s1 with fabric := s1.fabric ++ [{ id := id, wg := 0, grp := tag, lane := 32, wi := 0, ptr := v.awayPtr (ms.headD 0), op := .store [], since := s1.cycle, posted := true }] }

/-- The blocks' states: 1 fresh, 2 found faulted by a refresh that ended after the request, else neither (R288). None while
another device has not answered. -/
def State.askStates (s : State) (tag since : Nat) (v : View) (ms : List Nat) : State × Option (List Nat) :=
  if v.mdev % 2048 = s.devnum then
    (s, some (ms.map (fun m => if s.viewFresh v m then 1 else if s.viewFaulted v m && mget 0 v.faults m > since then 2 else 0)))
  else
    let ptr := v.awayPtr (ms.headD 0)
    match s.fabric.find? (fun f => f.wg == 0 && f.grp == tag && f.ptr == ptr && !f.posted) with
    | none =>
      let (id, s1) := s.fresh
      ({ s1 with fabric := s1.fabric ++ [{ id := id, wg := 0, grp := tag, lane := 32, wi := 0, ptr := ptr, op := .load ms.length, since := s1.cycle, posted := false }] }, none)
    | some f => match f.ans with
      | none => (s, none)
      | some (.ok b _) => ({ s with fabric := s.fabric.filter (fun g => g.id != f.id) }, some (ms.zipIdx.map (fun e => (b.getD e.2 0).toNat)))
      | some _ => ({ s with fabric := s.fabric.filter (fun g => g.id != f.id) }, some (ms.map (fun _ => 0)))

/-- How a range of view blocks stands: all fresh, a block found faulted, or neither yet. -/
inductive Range where
  | fresh | faulted (m : Nat) | open_
deriving DecidableEq, Repr

def State.rangeState (s : State) (tag since : Nat) (v : View) (ms : List Nat) : State × Range :=
  match s.askStates tag since v ms with
  | (t, none) => (t, .open_)
  | (t, some st) =>
    if st.contains 0 then (t, .open_)
    else match firstBlock ms st (· == 2) with
      | some m => (t, .faulted m)
      | none => (t, .fresh)

/-! ### PENDING and HELD (R351, R352) -/

/-- A node becomes READY, or is HELD while it has tile operands. -/
def State.readyNode (s : State) (node : Nat) : State :=
  let (t, s1) := s.stamp
  s1.modNode node (fun n => { n with st := .ready, readyAt := t })

/-- What a tile operand asks for as its node becomes HELD. -/
def State.askTile (s : State) (n : Node) (i : Nat) (t : TileOp) : State :=
  match fieldAt t.bytes 0 1 with
  | 2 =>
    let (st, s1) := s.stamp
    let s2 := s1.modNode n.num (fun k => { k with tiles := k.tiles.modify i (fun t => { t with since := st }) })
    match s.viewAt n.pasid (fieldAt t.bytes 8 8) with
    | some v =>
      let ms := v.blocks (fieldAt t.bytes 0x10 8) (fieldAt t.bytes 0x18 8)
      s2.askBlocks (nodeTag n.num i) v (if v.mdev % 2048 = s.devnum then ms.filter (fun m => !s.viewFresh v m) else ms)
    | none => s2
  | 3 => { s with agenda := s.agenda ++ [.lensPromotion n.ten (fieldAt t.bytes 0x10 8) n.num] }
  | _ => s.modNode n.num (fun k => { k with tiles := k.tiles.modify i (fun t => { t with met := true }) })

/-- PREDECESSORS_RETIRED (R352). -/
def execPredecessorsRetired (node : Nat) (s : State) : Host.Outcome State Fault Refusal :=
  match s.node? node with
  | none => .next s
  | some n =>
    if n.st ≠ .pending ∨ n.preds ≠ [] then .next s
    else if n.tiles = [] then .next (s.readyNode node)
    else .next (n.tiles.zipIdx.foldl (fun s t => s.askTile n t.2 t.1) (s.modNode node (fun n => { n with st := .held })))

/-- One tile operand tested: met, failed with a status, or open. -/
def State.testTile (s : State) (n : Node) (i : Nat) (t : TileOp) : State :=
  if t.met then s
  else
    let met := fun (s : State) => s.modNode n.num (fun k => { k with tiles := k.tiles.modify i (fun t => { t with met := true }) })
    match fieldAt t.bytes 0 1 with
    | 2 => match s.viewAt n.pasid (fieldAt t.bytes 8 8) with
      | none => s
      | some v => match s.rangeState (nodeTag n.num i) t.since v (v.blocks (fieldAt t.bytes 0x10 8) (fieldAt t.bytes 0x18 8)) with
        | (u, .open_) => u
        | (u, .fresh) => met u
        | (u, .faulted m) => u.modNode n.num (fun k => if k.st = .held then { k with st := .running, subs := [], status := 5, statSub := 0x10 + t.idx, detail := m % 2 ^ 32 + v.vidx * 2 ^ 32 } else k)
    | 3 => if n.lens.contains (fieldAt t.bytes 0x10 8) ∧ n.owes (fieldAt t.bytes 0x10 8) = 0 ∧ s.slotSt n.ten (fieldAt t.bytes 0x10 8) = 2 then met s else s
    | _ => met s

/-- TILE_OPERANDS_MET (R351). -/
def execTileOperandsMet (node : Nat) (s : State) : Host.Outcome State Fault Refusal :=
  match s.node? node with
  | none => .next s
  | some n =>
    if n.st ≠ .held then .next s
    else
      let s1 := n.tiles.zipIdx.foldl (fun s t => s.testTile n t.2 t.1) s
      match s1.node? node with
      | some k => .next (if k.st = .held ∧ k.tiles.all (·.met) then s1.readyNode node else s1)
      | none => .next s1

/-! ### Dispatch (R353) -/

/-- The view table of a grid sub-launch: the bundle's, or the kernel descriptor's VIEWS (R278). -/
def State.viewTable (s : State) (n : Node) (r : SubRun) : EngIO (List Nat) :=
  match s.qfeRead n.pasid (if n.vtab = 0 then fieldAt r.bytes 0x10 8 + 0x80 else n.vtab) 128 with
  | .ok b t => .ok ((List.range 16).map (fun i => fieldAt b (8 * i) 8)) t
  | .wait t => .wait t
  | .fail c a t => .fail c a t
/-- The argument block (R368). -/
def State.argWords (s : State) (n : Node) (r : SubRun) : EngIO (List W32) :=
  let p := fieldAt r.bytes 0x18 8
  if p = 0 then .ok (List.replicate 8 0) s
  else match s.qfeRead n.pasid p 32 with
    | .ok b t => .ok ((List.range 8).map (fun i => BitVec.ofNat 32 (fieldAt b (4 * i) 4))) t
    | .wait t => .wait t
    | .fail c a t => .fail c a t

/-- The hardware queue of a node: a spawned node's is its root's (R353). -/
def State.nodeQueue (s : State) (n : Node) : Nat :=
  match n.q with | some (q, _) => q | none => ((s.roots.find? (fun r => r.id == n.root)).map (·.q)).getD 0

/-- The grid of a sub-launch, under a number that its place in the list gives. -/
def gridOf (n : Node) (q i id joined : Nat) (r : SubRun) (views : List Nat) (args : List W32) : Grid :=
  let k := kernelOf r.bytes r.kd
  { id := id, node := n.num, sub := i, ten := n.ten, pasid := n.pasid, q := q, k := k, views := views, argsPtr := fieldAt r.bytes 0x18 8, args := args, pb := fieldAt r.bytes 0x20 8, save := fieldAt r.bytes 0x28 8, nx := k.nx, span := (spanOf k (createdGroups k 0)).getD 1, joined := joined }

/-- The grids of a node, PLACEMENT_CHECK included (R357); the status and SUB that refuse it (R354): a bundle's view table is the
bundle's own. -/
def State.planGrids (s : State) (n : Node) : (i : Nat) → List SubRun → EngIO (List Grid × Option (Nat × Nat))
  | _, [] => .ok ([], none) s
  | i, r :: rs =>
    if fieldAt r.bytes 0 1 ≠ 1 then State.planGrids s n (i + 1) rs
    else match s.viewTable n r with
      | .wait t => .wait t
      | .fail _ _ t => .ok ([], some (2, if n.vtab = 0 then i else 0xFF)) t
      | .ok views t => match t.argWords n r with
        | .wait u => .wait u
        | .fail _ _ u => .ok ([], some (2, i)) u
        | .ok args u =>
          let g := gridOf n (u.nodeQueue n) i (u.nextId + i) (u.seq + i) r views args
          if !g.placeable then .ok ([], some (4, i)) u
          else match State.planGrids u n (i + 1) rs with
            | .ok (gs, bad) v => .ok (g :: gs, bad) v
            | x => x

/-- The bytes of a statistics record at the start (R105). -/
def recordBytes (g : Grid) : List Byte := leBytes 4 1 ++ leBytes 4 g.total ++ List.replicate (0x1038 + 4 * g.total) 0
def recordRange (g : Grid) : List (Nat × Nat) := if g.k.stats = 0 then [] else [(g.k.stats, 0x1040 + 4 * g.total)]

/-- A grid joins its tenancy's placement list, its record written (R105, R356). -/
def State.joinGrid (s : State) (g : Grid) : State :=
  let r := if g.k.stats = 0 then (s, []) else s.qfeWrite g.pasid g.k.stats 1 (recordBytes g)
  { r.1 with grids := r.1.grids ++ [{ g with vis := r.2 }] }

/-- A sub-launch that is not a grid starts at its engine. -/
def State.startSub (s : State) (n : Node) (i : Nat) (r : SubRun) : State :=
  match fieldAt r.bytes 0 1 with
  | 2 => s.progNext n.num i
  | 3 =>
    let (st, s1) := s.stamp
    let s2 := s1.modNode n.num (fun k => { k with subs := k.subs.modify i (fun r => { r with pos := st }) })
    match s.viewAt n.pasid (fieldAt r.bytes 8 8) with
    | some v => s2.askBlocks (nodeTag n.num (8 + i)) v (v.blocks (fieldAt r.bytes 0x10 4) (fieldAt r.bytes 0x14 4))
    | none => s2
  | _ => s

/-- R353: the READY node of highest priority, the first among equals. -/
def State.dispatchNode (s : State) : Option Node :=
  leastBy (fun n => (3 - n.prio) * 2 ^ 64 + n.readyAt) (s.nodes.filter (fun n => n.st == .ready))

/-- DISPATCH (R353): every sub-launch is accepted, or the node is refused; then each begins. -/
def execDispatch (s : State) : Host.Outcome State Fault Refusal :=
  match s.dispatchNode with
  | none => .next s
  | some n =>
    if s.cycle < s.dispatchAt then .next s
    else match s.planGrids n 0 n.subs with
      | .wait t => .next t
      | .fail _ _ t => .next t
      | .ok (gs, bad) t =>
        let t1 : State := { t with dispatchAt := t.cycle + 16 }
        match bad with
        | some (status, sub) => .next (t1.modNode n.num (fun n => n.refuse status sub))
        | none =>
          let r := t1.awaitAll srcQfe n.pasid .wr (gs.flatMap recordRange)
          if r.2 then .next { r.1 with dispatchAt := s.dispatchAt }
          else
            let t2 : State := { r.1 with nextId := r.1.nextId + 4, seq := r.1.seq + 4 }
            let t3 := t2.modNode n.num (fun n => { n with st := .running, subs := n.subs.map (fun r => { r with started := true }) })
            .next (n.subs.zipIdx.foldl (fun s r => s.startSub n r.2 r.1) (gs.foldl State.joinGrid t3))

/-! ### Completion (R354, R355) -/

/-- Sub-launches that the QFE looks after itself: a program between descriptors, and the blocks of a view refresh. -/
def State.pollSub (s : State) (n : Node) (i : Nat) (r : SubRun) : State :=
  if r.done ∨ ¬ r.started then s
  else match fieldAt r.bytes 0 1 with
    | 1 => match s.grids.find? (fun g => g.node == n.num && g.sub == i && g.closing) with
      | some g => if s.allPassed g.vis then s.finishGrid g else s
      | none => s
    | 2 => if s.copies.any (fun c => c.owner == .prog n.num i) then s else s.progNext n.num i
    | 3 => match s.viewAt n.pasid (fieldAt r.bytes 8 8) with
      | none => s
      | some v => match s.rangeState (nodeTag n.num (8 + i)) r.pos v (v.blocks (fieldAt r.bytes 0x10 4) (fieldAt r.bytes 0x14 4)) with
        | (t, .open_) => t
        | (t, .fresh) => t.subDone n.num i 0 0 0
        | (t, .faulted m) => t.subDone n.num i 5 0 (m % 2 ^ 32 + v.vidx * 2 ^ 32)
    | _ => s

/-- R354: the result record. -/
def resultBytes (status tag sub cause detail : Nat) : List Byte :=
  leBytes 4 status ++ leBytes 4 tag ++ leBytes 1 sub ++ leBytes 1 cause ++ List.replicate 6 0 ++ leBytes 8 detail ++ List.replicate 8 0

/-- A result record written where its address is well formed; none while its page is awaited. -/
def State.putResult (s : State) (pasid a : Nat) (b : List Byte) : State × Option (Map Nat) :=
  if a = 0 then (s, some [])
  else if a % 32 ≠ 0 ∨ a ≥ 2 ^ 56 then (s.discarded pasid a 3, some [])
  else
    let r := s.await srcQfe pasid .wr a 32
    if r.2 then (r.1, none)
    else
      let w := s.qfeWrite pasid a 3 b
      (w.1, some w.2)

/-- SIGVAL added at SIGADDR; none while its page is awaited. -/
def State.addSignal (s : State) (pasid a v : Nat) : Option State × State :=
  if a = 0 then (some s, s)
  else if a % 8 ≠ 0 ∨ a ≥ 2 ^ 56 then (some (s.discarded pasid a 4), s)
  else
    let r := s.await srcQfe pasid .wr a 8
    if r.2 then (none, r.1)
    else match s.vupdate pasid a 8 .wr (.add v) with
      | some w => (some (w.1.qfeKeep w.2), s)
      | none => (some (s.discarded pasid a 4), s)

/-- R352: a pending successor of a node that has retired: free of it, or cancelled with status 0xB. -/
def Node.afterPred (n : Node) (num status : Nat) : Node :=
  if n.st ≠ .pending ∨ ¬ n.preds.contains num then n
  else if status = 0 then { n with preds := n.preds.filter (· != num) }
  else n.refuse 0xB 0xFF

/-- R412: the records of a root that has completed are freed, each once its blocks have their replies. -/
def State.freeCalls (s : State) (root : Nat) : State :=
  { s with journal := (s.journal.map (fun r => if r.root = root then { r with freed := true } else r)).filter (fun r => !(r.freed && r.st == 2 && r.blocks == [])) }

/-- Retirement: successors, the queue's NOUT and BACK, the root's count (R234, R345, R352). -/
def State.retireNode (s : State) (n : Node) : State :=
  let s1 : State := { s with nodes := (s.nodes.filter (fun k => k.num != n.num)).map (fun k => k.afterPred n.num n.status) }
  let s2 := match n.q with
    | some (q, idx) => s1.setQueue q (fun k => { k with nout := k.nout - 1, back := if mget 0 k.back (idx % 64) = 0x8000 + n.num then mset 0 k.back (idx % 64) n.num else k.back })
    | none => s1
  let ended := s2.roots.any (fun r => r.id == n.root && r.count + n.weight ≥ 2 ^ 32)
  let s3 : State := { s2 with roots := (s2.roots.map (fun r => if r.id = n.root then { r with count := r.count + n.weight, status := if n.q.isSome then n.status else r.status, statSub := if n.q.isSome then n.statSub else r.statSub, cause := if n.q.isSome then n.cause else r.cause, detail := if n.q.isSome then n.detail else r.detail } else r)).filter (fun r => r.count < 2 ^ 32) }
  if n.root = 0 then s3.freeCalls (2 * n.num) else if ended then s3.freeCalls (2 * n.root + 1) else s3

/-- The root that a node completes as it retires. -/
def State.lastOf (s : State) (n : Node) : Option Root := s.roots.find? (fun r => r.id == n.root && r.count + n.weight ≥ 2 ^ 32)

/-- The status that a root's record gives: its first node's. -/
def rootRecord (r : Root) (n : Node) : List Byte :=
  if n.q.isSome then resultBytes n.status r.tag n.statSub n.cause n.detail else resultBytes r.status r.tag r.statSub r.cause r.detail

/-- The steps of R354 once every sub-launch has completed: the record when their writes are visible; the signal, a release of the
QFE's (R25), when the record is and whatever the QFE wrote before it; the references of the Lens; retirement, which for the last node of a root waits for the root's own record and signal. -/
def State.completeNode (s : State) (n : Node) : State :=
  if !s.allPassed n.vis then s
  else
    let set := fun (t : State) (ph : Nat) (v : Map Nat) => t.modNode n.num (fun k => { k with phase := ph, vis := v })
    match n.phase with
    | 0 => match s.putResult n.pasid n.resaddr (resultBytes n.status n.tag n.statSub n.cause n.detail) with
      | (t, none) => t
      | (t, some v) => set t 1 (visJoin v t.qfeVis)
    | 1 => match s.addSignal n.pasid n.sigaddr n.sigval with
      | (none, t) => t
      | (some t, _) => set t 2 []
    | 2 =>
      if n.lens ≠ [] then s
      else match s.lastOf n with
        | none => s.retireNode n
        | some r => match s.putResult n.pasid r.resaddr (rootRecord r n) with
          | (t, none) => t
          | (t, some v) => set t 3 (visJoin v t.qfeVis)
    | _ => match s.lastOf n with
      | none => s.retireNode n
      | some r => match s.addSignal n.pasid r.sigaddr r.sigval with
        | (none, t) => t
        | (some t, _) => t.retireNode n

/-- NODE_COMPLETE (R354). -/
def execNodeComplete (node : Nat) (s : State) : Host.Outcome State Fault Refusal :=
  match s.node? node with
  | none => .next s
  | some n =>
    if n.st ≠ .running then .next s
    else if n.subs.all (·.done) then .next (s.completeNode n)
    else .next (n.subs.zipIdx.foldl (fun s r => s.pollSub n r.2 r.1) s)

/-- HOST_FUNCTION_REPORT (R405, R471): a node's sub-launch, or from number 4096 on the run of a Lens slot. -/
def execHostFunctionReport (node sub : Nat) (ok : Bool) (s : State) : Host.Outcome State Fault Refusal :=
  if node ≥ 4096 then
    .next (s.modRun (node / 4096 - 1) (node % 4096) (fun r => if fieldAt r.bytes 0 1 = 4 ∧ ¬ r.failed ∧ ¬ r.hostDone then (if ok then { r with hostDone := true } else { r with failed := true }) else r))
  else match s.node? node with
    | none => .next s
    | some n => match n.subs[sub]? with
      | some r => if n.st = .running ∧ fieldAt r.bytes 0 1 = 4 ∧ r.started ∧ ¬ r.done then .next (s.subDone node sub (if ok then 0 else 9) 0 0) else .next s
      | none => .next s

/-! ### spawn (R234) -/

/-- The child enters the pool with its share, or the reason why it does not. -/
def Ctx.spawnChild (x : Ctx) (s : State) (share : Nat) (b : List Byte) (bad : Bool) : EngIO Nat :=
  match s.node? x.gr.node with
  | none => .ok 0xFFFFFFFF s
  | some n =>
    match s.roots.find? (fun r => r.id == n.root) with
    | none => .ok 0xFFFFFFFF s
    | some r =>
      if share = 0 ∨ share ≥ n.weight then .ok 0xFFFFFFFF s
      else if s.poolFull then .ok 0xFFFFFFFE s
      else match (if bad ∨ fieldAt b 0 1 ≠ 6 ∨ headerBad b ≠ 0 then Parsed.done s ({ num := 0, st := .running, ten := r.ten, pasid := r.pasid, prio := r.prio, q := none, root := r.id, weight := 0, preds := [], tag := fieldAt b 4 4, sigaddr := fieldAt b 0x18 8, sigval := fieldAt b 0x20 8, resaddr := fieldAt b 0x28 8, status := 1 } : Node) else s.parsePacket r.ten r.pasid r.prio true b) with
        | .wait t => .wait t
        | .done t c =>
          let (v, t1) := t.freeVal
          let num := t1.nodeNumber v.toNat
          let preds := c.preds.filter (fun p => t1.nodes.any (fun k => k.num == p && k.root == r.id))
          let t2 := t1.modNode n.num (fun k => { k with weight := k.weight - share })
          .ok num { t2 with nodes := t2.nodes ++ [{ c with num := num, root := r.id, weight := share, preds := preds }] }

/-- SPAWN (R234): the packet's pointer is checked as a lane's; the release completes before the child enters. -/
def execSpawn (w : FormE) (s : State) : Host.Outcome State Fault Refusal :=
  issueWith (.spawn w) w.com [(w.a, 2), (w.b, 1)] [] s (fun x s =>
    match x.lead w.com with
    | none => s.advance x
    | some lane =>
      let p := x.g.readSrc lane (src64Of w.a)
      let share := x.g.readSrc lane (src32Of w.b)
      x.settlePlan s (x.planLanes { spaces := [0], width := 64, align := 64 } .rd false none [] s [(lane, p)]) (fun l =>
        x.withRelease s w.rel w.scope.toNat (fun s => match l with
          | [] => s
          | q :: _ =>
            match x.descBytes s 64 q with
            | (t, none) => t.holdSplit x
            | (t, some (b, bad)) => match x.spawnChild (t.markLeaves l false) share b bad with
              | .wait t => t.holdSplit x
              | .fail _ _ t => t.holdSplit x
              | .ok r t => t.doneWith x (fun g => g.writeAll (lanesOf (x.active w.com)) w.d (BitVec.ofNat 64 r)))))

end Sys2Proof.Machine
end

