-- ==== Sys2Proof/Machine/Prism.lean ====
section
/-! DEFINITION. The Prism engines: refreshes of master blocks (R281 to R287, R456) with the layouts of R279 and the conversions
of R283. -/
namespace Sys2Proof.Machine

/-! ### The elements of a view block (R279, R280) -/

/-- An element of a master block that belongs to a view: its slot in the block, view row and column. -/
def View.slots (v : View) (m : Nat) : List (Nat × Nat × Nat) :=
  let base := 4096 * (v.block0 + m)
  (List.range (4096 / v.es)).filterMap (fun j =>
    let a := base + j * v.es
    if a < v.mbase then none
    else
      let d := a - v.mbase
      let r := d / Nat.max v.mstride 1
      let c := d % Nat.max v.mstride 1 / v.es
      if v.row0 ≤ r ∧ r < v.row0 + v.vrows ∧ v.colLo ≤ c ∧ c < v.colHi then some (j, r - v.row0, c) else none)

/-- The linear position of an element (R279); `per` view elements to a unit of the stride. -/
def View.position (v : View) (i j : Nat) : Nat :=
  let t := if v.layout = 2 then 32 else 64
  let unit := fun (stride : Nat) => match v.vfmt with | 1 => 2 * stride | 5 => stride / 2 | 6 => stride / 2 | _ => stride
  match v.layout with
  | 0 => i * unit v.vstride + j
  | 1 => j * unit v.vstride + i
  | _ => (i / t * (v.cols / t) + j / t) * t ^ 2 + i % t * t + j % t

/-! ### Conversions (R283) -/

def View.fmt (v : View) : Fmt := match v.mfmt with | 5 => bf16 | 6 => fp16 | 7 => fp32 | _ => fp64

/-- The value of a slot of the snapshot. -/
def View.value (v : View) (snap : List Byte) (j : Nat) : FVal := v.fmt.decode v.ftz (fieldAt snap (j * v.es) v.es)

/-- An element in INT8. -/
def int8Of (x : FVal) : Nat × MarkCount :=
  match x with
  | .nan _ => (0, { nan := 1 })
  | .inf n => (if n then 0x80 else 0x7F, { sat := 1 })
  | .fin n m e =>
    let q := (quantise 0 n (m * 2 ^ e.toNat) (2 ^ (-e).toNat) 0).1
    if n then (if q > 128 then (0x80, { sat := 1 }) else (wrapNat 8 (-(q : Int)), {}))
    else (if q > 127 then (0x7F, { sat := 1 }) else (q, {}))

/-- An element in BF16 or FP16. -/
def View.narrow (v : View) (f : Fmt) (x : FVal) : Nat × MarkCount :=
  let r := f.round 0 v.ftz x
  let ovf := r.2 &&& fOF != 0
  let out := if ovf && v.sat then f.withSign x.sign (f.infBits - 1) else r.1
  (out, { sat := if ovf && v.sat then 1 else 0, flush := if v.ftz && !x.isZero && out % f.signBit == 0 then 1 else 0, nan := if x.isNaN then 1 else 0 })

/-- The element codes of a view block by linear position, its scale bytes by address, and the counts. -/
def View.convert (v : View) (snap : List Byte) (m : Nat) : List (Nat × Nat) × List (Nat × Byte) × MarkCount :=
  let slots := v.slots m
  if v.vfmt ≤ 1 then
    let blocks := (slots.filter (fun e => e.2.2 % 32 == 0)).map (fun e => (e, slots.filter (fun k => k.2.1 == e.2.1 && k.2.2 / 32 == e.2.2 / 32)))
    let rs := blocks.map (fun b =>
      let xs := b.2.map (fun e => v.value snap e.1)
      let k := chooseScale xs
      let cs := xs.map (markerEncode (v.vfmt == 0) k)
      ((b.2.zip cs).map (fun e => (v.position e.1.2.1 e.1.2.2, e.2.1)), (v.sbase + b.1.2.1 * (v.cols / 32) + b.1.2.2 / 32, BitVec.ofNat 8 k), { markSum (cs.map Prod.snd) with nan := if k = 0xFF then 1 else 0 }))
    (rs.flatMap (·.1), rs.map (·.2.1), markSum (rs.map (·.2.2)))
  else
    let rs := slots.map (fun e =>
      let x := v.value snap e.1
      (v.position e.2.1 e.2.2, if v.vfmt = 2 then int8Of x else v.narrow (if v.vfmt = 5 then bf16 else fp16) x))
    (rs.map (fun r => (r.1, r.2.1)), [], markSum (rs.map (·.2.2)))

/-- Consecutive bytes as runs. -/
def runsOf : List (Nat × Byte) → List (Nat × List Byte)
  | [] => []
  | (a, b) :: rest => match runsOf rest with
    | (c, bs) :: more => if c = a + 1 then (a, b :: bs) :: more else (a, [b]) :: (c, bs) :: more
    | [] => [(a, [b])]
def sortBytes (l : List (Nat × Byte)) : List (Nat × Byte) := sortBy (fun a b => a.1 ≤ b.1) l

/-- One write of step 5: bytes in a row, or one half of a byte, whose other half belongs to another element (R279). -/
inductive ViewPut where
  | run (a : Nat) (bs : List Byte)
  | half (a : Nat) (high : Bool) (code : Nat)
deriving DecidableEq, Repr

def runPuts (l : List (Nat × Byte)) : List ViewPut := (runsOf (sortBytes l)).map (fun r => .run r.1 r.2)

/-- The M4 bytes of elements by linear position: those with both elements, then the halves. -/
def nibblePuts (base : Nat) (els : List (Nat × Nat)) : List ViewPut :=
  let addrs := (els.map (fun e => e.1 / 2)).foldl (fun l a => insertNat a l) []
  let code := fun (n : Nat) => (els.find? (fun e => e.1 == n)).map (fun e => e.2 % 16)
  let both := addrs.filterMap (fun a => match code (2 * a), code (2 * a + 1) with
    | some x, some y => some (base + a, BitVec.ofNat 8 (x + 16 * y))
    | _, _ => none)
  let one := addrs.filterMap (fun a => match code (2 * a), code (2 * a + 1) with
    | some x, none => some (.half (base + a) false x)
    | none, some y => some (.half (base + a) true y)
    | _, _ => none)
  runPuts both ++ one

/-- The writes of step 5 in their order: the view's bytes, then its scale bytes. An edge view copies its master bytes (R298). -/
def View.writes (v : View) (snap : List Byte) (m : Nat) : List ViewPut × MarkCount :=
  if v.edge then
    let bs := (v.slots m).flatMap (fun e => (List.range v.es).map (fun i => (v.vbase + e.2.1 * v.vstride + (e.2.2 - v.col0) * v.es + i, snap.getD (e.1 * v.es + i) 0)))
    (runPuts bs, {})
  else
    let (els, scales, cnt) := v.convert snap m
    let puts := match v.vfmt with
      | 1 => nibblePuts v.vbase els
      | 5 | 6 => runPuts (els.flatMap (fun e => [(v.vbase + 2 * e.1, BitVec.ofNat 8 e.2), (v.vbase + 2 * e.1 + 1, BitVec.ofNat 8 (e.2 / 256))]))
      | _ => runPuts (els.map (fun e => (v.vbase + e.1, BitVec.ofNat 8 e.2)))
    (puts ++ runPuts scales, cnt)

/-! ### The engine's own accesses -/

/-- The engine as an agent that reads and writes at pointers (R25, R447). -/
def Refresh.agent (r : Refresh) (v : View) (key : Nat) : Copy :=
  { id := r.id, owner := .prism (4 * r.die + r.eng) key, core := 0, pasid := v.pasid, desc := 0, opf := 0, acq := false, rel := false, scope := 0, src := 0, dst := 0, n0 := 0, n1 := 0, n2 := 0, ctl := 0, ss1 := 0, ss2 := 0, ds1 := 0, ds2 := 0, cptr := 0, cval := 0, idx := 0, stg := 0, stgsz := 0, vis := r.vis }

def State.setRefresh (s : State) (r : Refresh) : State := { s with refreshes := s.refreshes.map (fun k => if k.id = r.id then r else k) }
def State.modView (s : State) (id : Nat) (f : View → View) : State := { s with views := s.views.map (fun v => if v.id = id then f v else v) }

/-- The workgroup through which an edge view's pointer is read: its owner; once that has retired, another of its cluster, for
which the view stays (R298). -/
def State.viewOwner (s : State) (v : View) : Option Nat :=
  let mates := s.wgs.filter (fun w => w.ten == v.ten && v.home == some (w.grid, w.cluster))
  match mates.find? (fun w => w.ctx == v.owner) with
  | some w => some w.key
  | none => mates.head?.map (·.key)

/-- An engine's update of a word in the view's space, through its die's L2: done, waiting for the page, or failed. -/
def State.prismWord (s : State) (r : Refresh) (v : View) (va n : Nat) (op : StoreOp) : EngIO (Map Nat) :=
  let src := 2000 + 4 * r.die + r.eng
  match s.demand src v.pasid (va % 2 ^ 56) .wr with
  | .wait => .wait (s.askPage src v.pasid (va % 2 ^ 56) 1)
  | .ok pa at_ _ => match (s.markPte at_ true).update (some r.die) pa n op with
    | (t, w) => .ok w t
  | _ => .fail 1 va (s.useAnswer src v.pasid (va % 2 ^ 56) 1)

/-- The pages of the tag entry and of the statistics record are there, or are asked for; true while one is awaited. -/
def State.prismPages (s : State) (r : Refresh) (v : View) (m : Nat) (counts : Bool) : State × Bool :=
  s.awaitAll (2000 + 4 * r.die + r.eng) v.pasid .wr ((v.tags + 8 * m, 8) :: (if counts then [(v.stats, 16)] else []))

/-- Saturating counts of the view's statistics record (R285): saturated, flushed, NaN and faulted; lost where its page is
missing (R447). -/
def State.addCounts (s : State) (r : Refresh) (v : View) (cs : List Nat) : State :=
  (cs.zipIdx.filter (fun c => c.1 != 0)).foldl (fun s c => match s.prismWord r v (v.stats + 4 * c.2) 4 (.addSat c.1) with
    | .ok _ t => t
    | .wait t => t
    | .fail _ a t => t.logRec { unit := r.die, code := 0x15, ten := v.ten, src := 3, uno := r.eng, pasid := v.pasid, va := a, aux := 6 }) s

/-- The next view of the block. -/
def State.nextView (s : State) (r : Refresh) : State := (s.dropFlits r.id).setRefresh { r with left := r.left.drop 1, run := 0, vis := [] }

/-- The refresh of a view block has ended: splits that wait on the view look again (VSYNC_RECHECK). -/
def State.viewEnded (s : State) (v : View) (m : Nat) (faulted : Bool) : State :=
  let (t, s1) := s.stamp
  (s1.modView v.id (fun k => { k with ends := mset 0 k.ends m t, faults := if faulted then mset 0 k.faults m t else k.faults })).wakeBlk (.view v.id)

/-- VIEW_BLOCK_FAULT (R287, R456): F is set where the tag entry can be written. -/
def State.faultView (s : State) (r : Refresh) (v : View) (m reason : Nat) : State :=
  let p := s.prismPages r v m true
  if p.2 then p.1
  else match s.prismWord r v (v.tags + 8 * m) 8 (.setIn (2 ^ 62) (2 ^ 62)) with
  | .wait t => t
  | x =>
    let (t, why) := match x with | .ok _ t => (t, reason) | .fail _ _ t => (t, 4) | .wait t => (t, reason)
    let rec_ : LogRec := { unit := r.die, code := 0x30, ten := v.ten, src := 3, uno := r.eng, pasid := v.pasid, va := 4096 * (v.block0 + m), pa := r.pa, aux := m % 2 ^ 32 + why * 2 ^ 32 + v.vidx * 2 ^ 40 }
    ((((t.logRec rec_).addCounts r v [0, 0, 0, 1]).viewEnded v m true).nextView r)

/-! ### The events (R282) -/

/-- PRISM_REFRESH_START (R282 step 1): an idle engine takes the first block of its queue, once no refresh of that block runs
anywhere (R284). -/
def execPrismRefreshStart (die eng : Nat) (s : State) : Host.Outcome State Fault Refusal :=
  let q := mget [] s.prismQ (4 * die + eng)
  if s.refreshes.any (fun r => r.die == die && r.eng == eng) then .next s
  else match q with
    | [] => .next s
    | pa :: rest =>
      if s.refreshes.any (fun r => r.pa / 4096 == pa / 4096) then .next s
      else
      let (id, s1) := s.fresh
      .next { s1 with prismQ := mset [] s1.prismQ (4 * die + eng) rest, masters := s1.masters.map (fun k => if k.pa = pa then { k with queued := false } else k), refreshes := s1.refreshes ++ [{ id := id, die := die, eng := eng, pa := pa, since := s1.cycle }] }

/-- The block as its engine reads it through the L2 of its die, which asks for its region (R77, R325); none while a line of it
has yet to come. Writes to it are held meanwhile. -/
def State.readBlock (s : State) (r : Refresh) (k : Master) : State × Option (List Byte) :=
  let pa := r.pa / 4096 * 4096
  let ten := ((k.deps.head?).bind (fun d => s.views.find? (fun v => v.id == d.1))).elim 0xFF (·.ten)
  match s.place pa with
  | .line => s.l2Read r.die ten (engineBuffer r.id) ((s.steward (6 * r.die)).lease) 34 pa 4096
  | .wait => (s.askRegion pa true, none)
  | _ => (s, some (s.cohLatest pa 4096))

/-- The snapshot: its time, the bytes as of that time, and the views in ascending VIDX. -/
def State.takeSnapshot (s : State) (r : Refresh) (k : Master) (bytes : List Byte) : State :=
  let t := s.clock r.die
  let idx := fun (d : Nat × Nat) => match s.views.find? (fun v => v.id == d.1) with | some v => v.vidx | none => 8
  let left := sortBy (fun a b => idx a ≤ idx b) k.deps
  let s1 : State := { s with masters := s.masters.map (fun m => if m.pa = k.pa then { m with snap := t } else m) }
  (s1.l2Used (engineBuffer r.id)).setRefresh { r with snap := some (t, bytes, s.poisoned (r.pa / 4096 * 4096) 4096), left := left }

/-- The master block as the view's address space gives it, its page asked for where it is missing (R447, R456 reason 0x2). -/
def State.masterMapped (s : State) (r : Refresh) (v : View) (m : Nat) : EngIO Bool :=
  let src := 2000 + 4 * r.die + r.eng
  let va := 4096 * (v.block0 + m)
  match s.demand src v.pasid va .rd with
  | .ok p at_ _ => .ok (p / 4096 == r.pa / 4096) (s.markPte at_ false)
  | .wait => .wait (s.askPage src v.pasid va 0)
  | .bad _ => .ok false (s.useAnswer src v.pasid va 0)
  | .malformed _ => .ok false s

/-- One half of a byte of a view (R279): at its home in one operation, or at another device in two atomics of its word. -/
def State.engHalf (s : State) (c : Copy) (p : Nat) (high : Bool) (code : Nat) : EngIO Copy :=
  let put := fun (x : Nat) => if high then 16 * x else x
  match s.engAt c .wr p with
  | .wait s1 => .wait s1
  | .fail e s1 => .fail e p s1
  | .ok pl => match pl with
    | .mem pa at_ => match (s.markPte at_ true).update (some c.die) pa 1 (.setIn (put 15) (put code)) with
      | (s1, v) => .ok { c with vis := visJoin c.vis v } s1
    | .peer =>
      let at_ := p / 4 * 4
      let lift := fun (x : Nat) => x * 2 ^ (8 * (p % 4))
      let send := fun (s : State) (mod : BitVec 3) (sgn : Bool) (x : Nat) => s.copyFlit c at_ (.atom false mod sgn 2 (BitVec.ofNat 64 x) 0)
      match send s 7 false (2 ^ 32 - 1 - lift (put 15)) with
      | (s1, none) => .wait s1
      | (s1, some (.ok _ _)) => match send s1 7 true (lift (put code)) with
        | (s2, none) => .wait s2
        | (s2, some (.ok _ _)) => .ok c (s2.dropFlits c.id)
        | (s2, some a) => .fail (ansCode a) p s2
      | (s1, some a) => .fail (ansCode a) p s1
    | .dev _ _ _ =>
      let (x, s1) := s.freeVal
      s1.engWrite c p [((BitVec.ofNat 8 ((x.toNat ||| put 15) ^^^ put 15 ||| put code)), false)]
    | _ => .ok c s

/-- One view of the block: a run of its bytes, then its tag as a release, then its counts. -/
def State.refreshView (s : State) (r : Refresh) (v : View) (m t : Nat) (snap : List Byte) : State :=
  match (if v.edge then s.viewOwner v else some 0) with
  | none => s.faultView r v m 3
  | some key =>
    let c := r.agent v key
    let (ws, cnt) := v.writes snap m
    match ws[r.run]? with
    | some w => match (match w with | .run a bs => s.engWrite c a (bs.map (fun b => (b, false))) | .half a high x => s.engHalf c a high x) with
      | .ok c1 s1 => s1.setRefresh { r with run := r.run + 1, vis := c1.vis }
      | .wait s1 => s1
      | .fail _ _ s1 => s1.faultView r v m 3
    | none =>
      let p := s.prismPages r v m (cnt.sat + cnt.flush + cnt.nan != 0)
      if !s.allPassed r.vis then s
      else if p.2 then p.1
      else match s.prismWord r v (v.tags + 8 * m) 8 (.setIn (2 ^ 64 - 1) (2 ^ 63 + t % 2 ^ 48)) with
        | .wait s1 => s1
        | .fail _ _ s1 => s1.faultView r v m 4
        | .ok _ s1 => ((s1.addCounts r v [cnt.sat, cnt.flush, cnt.nan]).viewEnded v m false).nextView r

/-- PRISM_SNAPSHOT (R282 to R287): the snapshot once the clock has come to WT, then the views one after another. -/
def execPrismSnapshot (die eng : Nat) (s : State) : Host.Outcome State Fault Refusal :=
  match s.refreshes.find? (fun r => r.die == die && r.eng == eng) with
  | none => .next s
  | some r =>
    match s.masters.find? (fun k => k.pa == r.pa) with
    | none => .next { s with refreshes := s.refreshes.filter (fun k => k.id != r.id) }
    | some k =>
      match r.snap, r.left with
      | none, _ => if s.clock die < k.wt then .next s else .next (match s.readBlock r k with | (t, some b) => t.takeSnapshot r k b | (t, none) => t)
      | some _, [] => .next ({ s with refreshes := s.refreshes.filter (fun k => k.id != r.id) } : State)
      | some (t, bytes, bad), (id, m) :: _ =>
        match s.views.find? (fun v => v.id == id) with
        | none => .next (s.nextView r)
        | some v =>
          if r.run = 0 ∧ bad then .next (s.faultView r v m 1)
          else if r.run ≠ 0 then .next (s.refreshView r v m t bytes)
          else match s.masterMapped r v m with
            | .wait u => .next u
            | .ok false u => .next (u.faultView r v m 2)
            | .ok true u => .next (u.refreshView r v m t bytes)
            | .fail _ _ u => .next u

end Sys2Proof.Machine
end

