-- ==== Sys2Proof/Machine/Services.lean ====
section
/-! DEFINITION. The call journal and its replies (R412, R473, R474), the services of R411, the registration of views (R277, R280,
R281, R297) and attestation reports (R408, R413). -/
namespace Sys2Proof.Machine

/-! ### The call journal (R412) -/

/-- Records of one tenancy that the journal holds. -/
def journalRoom : Nat := 65536

def State.call? (s : State) (req : Nat) : Option JRec := s.journal.find? (fun r => r.req == req)
def State.modCall (s : State) (req : Nat) (f : JRec → JRec) : State :=
  { s with journal := s.journal.map (fun r => if r.req = req then f r else r) }

/-- R474: a reply command goes to a slot of the first QFE core that runs. -/
def State.hand (s : State) (r : Reply) : State :=
  match (List.range 4).find? (fun c => !(s.qfeCore c).stopped) with
  | some c => s.modQfe c (fun k => { k with slots := k.slots ++ [.reply r] })
  | none => s

/-- R412 step 3: the record is done. -/
def State.callDone (s : State) (req status result : Nat) : State :=
  s.modCall req (fun r => { r with st := 2, status := status, result := result })

/-- What a service finds as it turns to a request. -/
inductive Taken where
  /-- Not its request, or one that is over. -/
  | no
  /-- The block's page is awaited. -/
  | wait (s : State)
  /-- Answered without being performed. -/
  | ended (s : State)
  /-- The in-progress record of the call to be performed. -/
  | call (r : JRec) (s : State)

/-- R412 steps 1 and 2: a request that is in progress goes on; a queued one is looked up by its CALLID. A request whose block
cannot be read is refused, as is one that finds the journal full; neither is recorded. -/
def State.takeCall (s : State) (req : Nat) (mine : Nat → Bool) : Taken :=
  match s.call? req with
  | some r => if r.st = 1 ∧ mine r.svc then .call r s else .no
  | none => match s.services.find? (fun q => q.id == req && q.queued) with
    | none => .no
    | some q =>
      let drop := fun (t : State) => ({ t with services := t.services.filter (fun k => k.id != req) } : State)
      match s.qfeRead q.pasid (q.ptr % 2 ^ 56) 64 with
      | .wait t => .wait t
      | .fail _ _ t => .ended ((drop t).hand { pasid := q.pasid, ptr := q.ptr % 2 ^ 56, status := 2, result := 0 })
      | .ok b t =>
        let svc := fieldAt b 8 2
        if !mine svc then .no
        else
          let blk := (q.pasid, q.ptr % 2 ^ 56)
          match s.journal.find? (fun r => r.ten == q.ten && r.callid == fieldAt b 0 8) with
          | some r => .ended ((drop t).modCall r.req (fun r => { r with blocks := r.blocks ++ [blk] }))
          | none =>
            if (s.journal.filter (fun r => r.ten == q.ten)).length ≥ journalRoom then .ended ((drop t).hand { pasid := blk.1, ptr := blk.2, status := 2, result := 0 })
            else
              let r : JRec := { ten := q.ten, callid := fieldAt b 0 8, req := req, root := q.root, svc := svc, pasid := q.pasid, args := (List.range 4).map (fun i => fieldAt b (0x20 + 8 * i) 8), ctx := q.ctx, blocks := [blk] }
              .call r { drop t with journal := t.journal ++ [r] }

/-- What a service makes of a call: its STATUS and RESULT, or the wait for a page. -/
inductive Served where
  | wait (s : State)
  | done (status result : Nat) (s : State)

/-- A service's work on a request; the event comes again while a page is awaited. -/
def State.serve (s : State) (req : Nat) (mine : Nat → Bool) (again : Instr) (f : State → JRec → Served) : State :=
  match s.takeCall req mine with
  | .no => s
  | .wait t => t.waitEvent again
  | .ended t => t
  | .call r t => match f t r with
    | .wait u => u.waitEvent again
    | .done status result u => u.callDone req status result

def JRec.arg (r : JRec) (i : Nat) : Nat := r.args.getD i 0

/-- A range that the service reads in the caller's space. -/
def State.callRead (s : State) (r : JRec) (a n : Nat) (f : List Byte → State → Served) : Served :=
  if a + n > 2 ^ 56 then .done 2 0 s
  else match s.qfeRead r.pasid a n with
    | .wait t => .wait t
    | .fail _ _ t => .done 2 0 t
    | .ok b t => f b t

/-- A range that the service writes: the pages of all of it are there before anything is written. -/
def State.callWrite (s : State) (pasid a n : Nat) (f : State → Served) : Served :=
  if a + n > 2 ^ 56 then .done 2 0 s
  else
    let w := s.await srcQfe pasid .wr a n
    if w.2 then .wait w.1
    else match s.firstBad srcQfe pasid .wr [(a, n)] with
      | some x => .done 2 0 (s.useAnswer srcQfe pasid x 1)
      | none => f s

/-! ### View registration (R275 to R277) -/

/-- A run of bytes by pointer. -/
abbrev Run := Nat × Nat
def Run.hits (a b : Run) : Bool := a.2 != 0 && b.2 != 0 && a.1 < b.1 + b.2 && b.1 < a.1 + a.2
def runsHit (a b : List Run) : Bool := a.any (fun x => b.any (fun y => Run.hits x y))

/-- Bits of a view element. -/
def View.elemBits (v : View) : Nat := if v.edge then 8 * v.es else match v.vfmt with | 1 => 4 | 5 => 16 | 6 => 16 | _ => 8

/-- The element bytes of a view. -/
def View.elemRuns (v : View) : List Run :=
  if v.layout = 0 then
    let n := if v.edge then v.vcols * v.es else v.cols * v.elemBits / 8
    (List.range v.vrows).map (fun i => (v.vbase + i * v.vstride, n))
  else if v.layout = 1 then (List.range v.cols).map (fun j => (v.vbase + j * v.vstride, (v.vrows * v.elemBits + 7) / 8))
  else [(v.vbase, v.vrows * v.cols * v.elemBits / 8)]

/-- The four parts of a view: element bytes, scale array, tag table and statistics record. -/
def View.parts (v : View) : List (List Run) :=
  [v.elemRuns, if v.vfmt ≤ 1 && !v.edge then [(v.sbase, v.vrows * (v.cols / 32))] else [], [(v.tags, 8 * v.count)], [(v.stats, 16)]]
def View.masterRuns (v : View) : List Run := (List.range v.rows).map (fun r => (v.mbase + r * v.mstride, v.cols * v.es))

/-- Two views' runs lie in one space: the same PASID, or for space 3 the same cluster. -/
def View.near (v u : View) (a : Run) : Bool := if ptrSpace a.1 = 3 then v.home == u.home else v.pasid == u.pasid

/-- R277: the parts overlap one another, the master or another view. -/
def View.overlaps (v : View) (others : List View) : Bool :=
  let ps := v.parts
  let own := (List.range 4).any (fun i => (List.range i).any (fun j => runsHit (ps.getD i []) (ps.getD j [])))
  let other := fun (u : View) => ps.any (fun a => u.parts.any (fun b => runsHit (a.filter (fun r => v.near u r)) b))
  own || ps.any (fun p => runsHit p v.masterRuns) || others.any other

/-- R275, R276: limits, alignments and reserved bits of the descriptor. -/
def View.fieldsOk (v : View) (b : List Byte) : Bool :=
  let unit := 32 * v.es
  let away := fun (p : Nat) => ptrFormed p && (ptrSpace p == 0 || ptrSpace p == 6)
  5 ≤ v.mfmt && v.mfmt ≤ 8 && v.mbase < 2 ^ 56 && v.mbase % unit == 0 && v.mstride % unit == 0 && v.cols * v.es ≤ v.mstride &&
  1 ≤ v.rows && v.rows ≤ 2 ^ 24 && v.mbase + v.rows * v.mstride ≤ 2 ^ 56 && 32 ≤ v.cols && v.cols ≤ 2 ^ 20 && v.cols % 32 == 0 && 1 ≤ v.vrows && v.row0 + v.vrows ≤ v.rows &&
  (if v.edge then ptrFormed v.vbase && ptrSpace v.vbase == 3 else away v.vbase) &&
  (if v.vfmt ≤ 1 && !v.edge then away v.sbase else v.sbase == 0) && v.tags % 8 == 0 && v.tags < 2 ^ 56 && v.stats % 16 == 0 && v.stats < 2 ^ 56 &&
  bitsOf v.ctl 19 13 == 0 && !bitOf v.ctl 15 && (!v.sat || v.vfmt == 5 || v.vfmt == 6) && v.policy != 3 && v.scope ≤ 5 &&
  v.mdev < 2048 && v.vidx < 8 && zeroBytes b 0x57 1 && v.pasid < 2 ^ 20 && zeroBytes b 0x60 32

/-- R277: what an edge view and any other view must satisfy. -/
def View.kindOk (v : View) (running : Bool) : Bool :=
  let t := if v.layout = 2 then 32 else 64
  let far := ptrSpace v.vbase == 6 || ptrSpace v.sbase == 6
  if v.edge then v.vfmt == v.mfmt && v.layout == 0 && v.scope == 2 && 1 ≤ v.vcols && v.col0 + v.vcols ≤ v.cols && running && v.vcols * v.es ≤ v.vstride
  else
    [0, 1, 2, 5, 6].contains v.vfmt && (if far then 4 else 3) ≤ v.scope && v.col0 == 0 && v.vcols == 0 && v.owner == 0 &&
    (match v.layout with
      | 0 => v.cols * v.elemBits ≤ 8 * v.vstride
      | 1 => v.vrows * v.elemBits ≤ 8 * v.vstride && v.vrows * v.elemBits % 8 == 0
      | _ => v.vstride == 0 && v.vrows % t == 0 && v.cols % t == 0)

/-- The physical addresses of the master blocks of a view; none where one does not translate to HBM. -/
def State.masterPas (s : State) (v : View) : Option (List Nat) :=
  (List.range v.count).foldr (fun m acc => match acc, s.xlat v.pasid (4096 * (v.block0 + m)) .rd with
    | some l, .ok pa _ _ => match paKind pa with | .hbm _ => some (pa / 4096 * 4096 :: l) | _ => none
    | _, _ => none) (some [])

/-- Master blocks that each die tracks. -/
def masterRoom : Nat := 131072

/-- R277: a die's master table has no room for the new blocks. -/
def State.tableFull (s : State) (pas : List Nat) : Bool :=
  let new := (pas.filter (fun p => !s.masters.any (fun k => k.pa == p))).eraseDups
  (List.range 4).any (fun d => (s.masters.filter (fun k => k.die == d)).length + (new.filter (fun p => paKind p == .hbm d)).length > masterRoom)

/-- The latest visibility time of the writes that a die's lines of a block hold. -/
def State.blockWts (s : State) (pa : Nat) : Nat := (s.lines.filter (fun l => l.addr / 32 == pa / 4096)).foldl (fun t l => Nat.max t l.wts) 0

/-- R281: a view block depends on its master block, tracked from now on with the writes that its lines hold. -/
def State.track (s : State) (v : View) (m pa : Nat) : State :=
  if s.masters.any (fun k => k.pa == pa) then { s with masters := s.masters.map (fun k => if k.pa = pa then { k with deps := k.deps ++ [(v.id, m)] } else k) }
  else match paKind pa with
    | .hbm d => { s with masters := s.masters ++ [{ die := d, pa := pa, wt := s.blockWts pa, deps := [(v.id, m)] }] }
    | _ => s

/-- R277, R280: the descriptor, the tag table and the statistics record are written, the blocks tracked, and each is refreshed. -/
def State.enterView (s : State) (r : JRec) (v : View) (b : List Byte) (pas : List Nat) : State :=
  let s1 := (s.vwrite v.pasid v.tags (List.replicate (8 * v.count) 0)).1
  let s2 := (s1.vwrite v.pasid v.stats (List.replicate 16 0)).1
  let s3 := (s2.vwrite r.pasid v.ptr b).1
  let s4 : State := { s3 with views := s3.views ++ [v] }
  (pas.zipIdx.foldl (fun s e => s.track v e.2 e.1) s4).requestBlocks v (List.range v.count)

/-- VIEW_REGISTER (R277). A descriptor of a view whose master lies on another device is written for the use of this device's
programs; the tracking is that device's. -/
def State.registerView (s : State) (r : JRec) : Served :=
  s.callRead r (r.arg 0) 128 (fun b s =>
    let (id, s1) := s.fresh
    let v0 := View.ofBytes id (r.arg 1) r.pasid r.ten b
    let owner := s.wgs.find? (fun w => w.ten == r.ten && w.ctx == v0.owner && w.phase != .starting)
    let v : View := { v0 with home := if v0.edge then owner.map (fun w => (w.grid, w.cluster)) else none }
    let here := v.mdev == s.devnum
    if r.arg 1 % 128 ≠ 0 ∨ r.arg 1 ≥ 2 ^ 56 ∨ ¬ v.fieldsOk b ∨ ¬ v.kindOk owner.isSome then .done 2 0 s
    else if ¬ here then s.callWrite r.pasid v.ptr 128 (fun s => .done 1 0 (s.vwrite r.pasid v.ptr b).1)
    else if v.overlaps s.views ∨ s.views.any (fun u => u.ptr == v.ptr && u.space == v.space) ∨ (s.views.filter (fun u => u.pasid == v.pasid && u.mbase == v.mbase)).length ≥ 8 then .done 2 0 s
    else
      let w := s1.await srcQfe v.pasid .rd (4096 * v.block0) (4096 * v.count)
      if w.2 then .wait w.1
      else match s1.masterPas v with
        | none => .done 2 0 s
        | some pas =>
          if s1.tableFull pas then .done 2 0 s
          else s1.callWrite v.pasid v.tags (8 * v.count) (fun s => s.callWrite v.pasid v.stats 16 (fun s => s.callWrite r.pasid v.ptr 128 (fun s => .done 1 0 (s.enterView r v b pas)))))

/-- VIEW_REGISTER (R411, R277). -/
def execViewRegister (call : Nat) (s : State) : Host.Outcome State Fault Refusal :=
  .next (s.serve call (· == 1) (.viewRegister call) State.registerView)

/-- VIEW_DEREGISTER (R411, R297): the descriptor's view ends; an address without a view is refused. -/
def execViewDeregister (call : Nat) (s : State) : Host.Outcome State Fault Refusal :=
  .next (s.serve call (· == 2) (.viewDeregister call) (fun s r => match s.viewAt r.pasid (r.arg 0) with
    | some v => .done 1 0 (s.dropView v)
    | none => .done 2 0 s))

/-! ### IAT entries (R393, R411) -/

/-- The fields of an entry together. -/
def iatEntry (va pasid val ten kind : Nat) : Nat := 2 ^ 72 * va + 2 ^ 52 * pasid + 2 ^ 20 * val + 8 * ten + 2 * kind + 1

/-- IAT_ALLOCATE (R411): an invalid entry, the first from the wanted number on; refused when R393 is broken or none is free. -/
def execIatAllocate (call entry : Nat) (s : State) : Host.Outcome State Fault Refusal :=
  .next (s.serve call (· == 3) (.iatAllocate call entry) (fun s r =>
    let e := iatEntry (r.arg 1) (if r.arg 0 = 2 then 0 else r.pasid) (r.arg 2) r.ten (r.arg 0)
    let free := fun (n : Nat) => !bitOf (mget 0 s.iat n).toNat 0
    if r.arg 0 ≥ 3 ∨ r.arg 1 ≥ 2 ^ 56 ∨ r.arg 2 ≥ 2 ^ 32 ∨ iatBad e then .done 2 0 s
    else match ((List.range 4096).map (fun i => (entry + i) % 4096)).find? free with
      | none => .done 2 0 s
      | some n => .done 1 n { s with iat := mset 0 s.iat n (BitVec.ofNat 128 e) }))

/-- IAT_FREE (R411): an entry of the caller's tenancy. -/
def execIatFree (call : Nat) (s : State) : Host.Outcome State Fault Refusal :=
  .next (s.serve call (· == 4) (.iatFree call) (fun s r =>
    let e := (mget 0 s.iat (r.arg 0)).toNat
    if r.arg 0 ≥ 4096 ∨ ¬ bitOf e 0 ∨ iatTen e ≠ r.ten then .done 2 0 s else .done 1 0 { s with iat := mset 0 s.iat (r.arg 0) 0 }))

/-! ### Lens slots, the journal and attestation (R411 to R413) -/

/-- LENS_EVICT (R411, R397): RESULT 1 when a ready slot is refused for its references. -/
def execLensEvict (call : Nat) (s : State) : Host.Outcome State Fault Refusal :=
  .next (s.serve call (· == 5) (.lensEvict call) (fun s r =>
    let slot := r.arg 0
    if slot ≥ (s.ten r.ten).nlens then .done 2 0 s
    else match s.slotPage r.ten slot with
      | .wait t => .wait t
      | .missing t => .done 2 0 t
      | .ready t =>
        if t.slotSt r.ten slot = 2 ∧ t.slotRefs r.ten slot ≠ 0 then .done 1 1 t
        else match t.evictSlot r.ten slot with
          | .wait u => .wait u
          | .ok _ u => .done 1 0 u
          | .fail _ _ u => .done 1 0 u))

/-- R412: what a query of a CALLID tells. -/
def State.queryBytes (s : State) (ten callid : Nat) : List Byte :=
  match s.journal.find? (fun r => r.ten == ten && r.callid == callid) with
  | none => List.replicate 16 0
  | some r => if r.st = 2 then leBytes 4 2 ++ leBytes 4 r.status ++ leBytes 8 r.result else leBytes 4 1 ++ List.replicate 12 0

/-- JOURNAL_QUERY (R412). -/
def execJournalQuery (call : Nat) (s : State) : Host.Outcome State Fault Refusal :=
  .next (s.serve call (· == 6) (.journalQuery call) (fun s r =>
    s.callWrite r.pasid (r.arg 1) 16 (fun s => .done 1 0 (s.vwrite r.pasid (r.arg 1) (s.queryBytes r.ten (r.arg 0))).1)))

/-- Bytes brought to a length. -/
def fitBytes (n : Nat) (l : List Byte) : List Byte := (l ++ List.replicate n 0).take n

/-- R408: a tenancy's entry of the partition map. -/
def Tenancy.bytes (t : Tenancy) : List Byte :=
  leBytes 1 t.st ++ List.replicate 3 0 ++ leBytes 4 t.regions ++ leBytes 4 t.slices ++ leBytes 2 t.vmid ++ List.replicate 2 0 ++ leBytes 8 t.lens ++ leBytes 4 t.lensPasid ++ leBytes 4 t.nlens ++ leBytes 32 t.queues ++
  fitBytes 64 (t.carve.flatMap (fun c => leBytes 8 c.1 ++ leBytes 8 c.2)) ++ leBytes 8 t.dbgt ++ leBytes 4 t.ndbgt ++ List.replicate 4 0 ++
  (List.range 16).flatMap (fun i => leBytes 2 (t.funcs.getD i 0xFFFF)) ++ List.replicate 80 0

/-- R413: the report on a tenancy. -/
def State.report (s : State) (ten : Nat) (nonce : List Byte) : List Byte :=
  let slot := fun (i : Nat) => mget {} s.fw i
  let fw := (List.range 8).flatMap (fun i => match (slot i).loaded with
    | some (v, img) => leBytes 4 v ++ leBytes 4 0 ++ sha256 img
    | none => List.replicate 40 0)
  let body := leBytes 4 1 ++ leBytes 2 ten ++ leBytes 2 s.devnum ++ leBytes 8 s.restarts ++ fitBytes 32 nonce ++ leBytes 8 s.fuse ++ (List.range 8).flatMap (fun i => leBytes 1 (slot i).minSvn) ++
    sha256 (s.ten ten).bytes ++ List.replicate 32 0 ++ fw
  body ++ fitBytes 64 (Config.signature body)

/-- ATTEST (R411, R413). -/
def execAttest (call : Nat) (s : State) : Host.Outcome State Fault Refusal :=
  .next (s.serve call (· == 7) (.attest call) (fun s r =>
    s.callRead r (r.arg 0) 32 (fun nonce s => s.callWrite r.pasid (r.arg 1) 512 (fun s => .done 1 0 (s.vwrite r.pasid (r.arg 1) (s.report r.ten nonce)).1))))

/-! ### Replies and restarts (R473, R474) -/

/-- A request that no service of R411 serves: STATUS 3 for an unknown number; one of the kernel's own ends with a STATUS and a
RESULT that the spec does not give. -/
def State.otherCall (s : State) (r : JRec) : Served :=
  if r.svc < 0x100 then .done 3 0 s
  else
    let (a, s1) := s.freeVal
    let (b, s2) := s1.freeVal
    .done (1 + a.toNat % 2) b.toNat s2

def otherSvc (n : Nat) : Bool := n == 0 || 8 ≤ n

/-- A reply command of the record is held in a slot. -/
def State.replyHeld (s : State) (req : Nat) : Bool :=
  (List.range 4).any (fun c => (s.qfeCore c).slots.any (fun k => match k with | .reply r => r.req == some req | _ => false))

/-- The reply command of a done record goes to a slot. -/
def State.issueReply (s : State) (req : Nat) : State :=
  match s.call? req with
  | some r => match r.blocks with
    | blk :: _ => if r.st = 2 ∧ ¬ s.replyHeld req then s.hand { pasid := blk.1, ptr := blk.2, status := r.status, result := r.result, req := some req } else s
    | [] => s
  | none => s

/-- The slot that holds the reply of a record goes on with it. -/
def State.advanceReply (s : State) (req : Nat) : State :=
  let at_ := (List.range 4).findSome? (fun c => ((s.qfeCore c).slots.findIdx? (fun k => match k with | .reply r => r.req == some req | _ => false)).map (fun i => (c, i)))
  match at_ with
  | some (c, i) => s.slotAdvance c i
  | none => s

/-- SERVICE_REPLY (R474): a reply command for a done record, carried out as far as it can go now. A request of a number without
a service of R411 is answered here. -/
def execServiceReply (call : Nat) (s : State) : Host.Outcome State Fault Refusal :=
  let t := s.serve call otherSvc (.serviceReply call) State.otherCall
  .next ((t.issueReply call).advanceReply call)

/-- The event that serves a record. -/
def serviceEvent (svc req : Nat) : Instr :=
  match svc with
  | 1 => .viewRegister req
  | 2 => .viewDeregister req
  | 3 => .iatAllocate req 0
  | 4 => .iatFree req
  | 5 => .lensEvict req
  | 6 => .journalQuery req
  | 7 => .attest req
  | _ => .serviceReply req

/-- The request that a service event serves. -/
def servedBy (i : Instr) : Option Nat :=
  match i with
  | .viewRegister r => some r
  | .viewDeregister r => some r
  | .iatAllocate r _ => some r
  | .iatFree r => some r
  | .lensEvict r => some r
  | .journalQuery r => some r
  | .attest r => some r
  | .serviceReply r => some r
  | _ => none

/-- SERVICE_RESTART (R473, R474): the in-progress records of the service are completed before a new request is taken, and done
records without a reply get theirs. -/
def execServiceRestart (svc : Nat) (s : State) : Host.Outcome State Fault Refusal :=
  let mine := s.journal.filter (fun r => r.svc == svc)
  let go := (mine.filter (fun r => r.st == 1)).map (fun r => serviceEvent svc r.req)
  let back := (mine.filter (fun r => r.st == 2 && r.blocks != [])).map (fun r => Instr.serviceReply r.req)
  let s1 := s.logRec { unit := 4, code := 0x56, src := 12, aux := svc }
  .next { s1 with agenda := go ++ back ++ s1.agenda, waiting := s1.waiting.filter (fun i => !(mine.any (fun r => r.st == 1 && servedBy i == some r.req))) }

end Sys2Proof.Machine
end

