-- ==== Sys2Proof/Machine/Io.lean ====
section
/-! DEFINITION. PCI Express: endpoint requests with their checks (R328, R382, R383, R385, R392), page requests of endpoints
(R384), the external host's window (R416), and the configuration and training of ports (R379, R386, R469). -/
namespace Sys2Proof.Machine

/-! ### Endpoint requests (R382, R383, R385) -/

/-- The bit of the AER uncorrectable status that Unsupported Request, and a poisoned TLP, sets (PRESUMED: the bus's own
numbering, log entry 33). -/
def aerUnsupported : Nat := 2 ^ 20
def aerPoisoned : Nat := 2 ^ 12

/-- R469: code 0x52. -/
def State.logPcie (s : State) (rid status : Nat) : State :=
  s.logRec { unit := 4, code := 0x52, src := 10, aux := rid % 2 ^ 16 + 2 ^ 16 * (status % 2 ^ 32) }
/-- R382: a request is refused with Unsupported Request and logged. -/
def State.unsupported (s : State) (rid : Nat) : State :=
  ({ s with answers := .unsupported rid :: s.answers } : State).logPcie rid aerUnsupported

/-- A physical address lies in a tenancy's carve-out. -/
def State.inCarve (s : State) (ten pa n : Nat) : Bool := (s.ten ten).carve.any (fun c => c.1 ≤ pa && pa + n ≤ c.1 + c.2)

/-- R382: the PASID of a request; none when it breaks the rules. -/
def State.reqPasid (s : State) (f : Fn) (p : Option Nat) : Option Nat :=
  match p with
  | some p => if mget 0 s.pasidTen p = (match f.ten with | some t => t + 1 | none => 0) then some p else none
  | none => f.defPasid

/-- R385: an interface under TDISP reaches its tenancy's carve-out in RUN alone, over its IDE stream. -/
def State.tdispOk (s : State) (f : Fn) (r : DmaReq) (pa n : Nat) : Bool :=
  match f.ten with
  | some t => !s.inCarve t pa n || f.tdisp == 4 || (f.tdisp == 2 && s.ide.contains (f.port, some f.rid) && r.selIde)
  | none => true

/-- R383: a translated request of a function. -/
def State.translatedOk (s : State) (f : Fn) (pa n : Nat) : Bool :=
  f.ats && !f.refused && ((match f.ten with | some t => s.inCarve t pa n | none => false) || f.grants.any (fun g => g.1 ≤ pa && pa + n ≤ g.1 + g.2))

/-- The outcome of a request's checks for the bytes of one page. -/
inductive DmaAt where
  | ok (pa : Nat) (s : State)
  | bad (s : State)

/-- One page's part of a request. -/
def State.dmaPage (s : State) (f : Fn) (r : DmaReq) (k : Need) (a n : Nat) : DmaAt :=
  let reach := fun (s : State) (pa : Nat) => match paKind pa with
    | .reg => DmaAt.bad s
    | _ => if s.tdispOk f r pa n then .ok pa s else .bad s
  if r.translated then (if s.translatedOk f a n then reach s (s.forwarded a) else .bad s)
  else match s.reqPasid f r.pasid with
    | none => .bad s
    | some p => match s.xlat p a k with
      | .ok pa at_ _ => reach (s.markPte at_ k.writes) pa
      | .malformed e => .bad (s.logRec { unit := 4, code := 0x06, src := 10, pasid := p, va := a, aux := e })
      | _ => .bad s

/-- The physical pieces of a request, page by page; none with the state in which it was refused. -/
def State.dmaPieces (s : State) (f : Fn) (r : DmaReq) (k : Need) : (fuel a n : Nat) → State × Option (List (Nat × Nat))
  | 0, _, _ => (s, some [])
  | fuel + 1, a, n =>
    if n = 0 then (s, some [])
    else
      let len := Nat.min n (4096 - a % 4096)
      match s.dmaPage f r k a len with
      | .bad t => (t, none)
      | .ok pa t => match State.dmaPieces t f r k fuel (a + len) (n - len) with
        | (u, some l) => (u, some ((pa, len) :: l))
        | (u, none) => (u, none)

/-- R78, R282, R451: the home of an address cannot take an access now. -/
def State.homeBlocked (s : State) (pa : Nat) (wr : Bool) : Bool := s.homeMoves (s.forwarded pa) || (wr && s.refreshing (s.forwarded pa))

/-- R328: a write of the port has yet to be performed at its home. -/
def State.portOpen (s : State) (port : Nat) : Bool :=
  (mget [] s.portVis port).any (fun e => s.storeQ.any (fun q => 16 + q.id == e.1 && q.vis.isNone))

/-- A write of an agent of the hub at a physical address: a home's line, a device, or an unpopulated address (R73). What only
the device writes of a registered view stays (R5). -/
def State.hubPut (s : State) (pa : Nat) (bs : List Byte) : State × Map Nat :=
  match s.kindOf pa with
  | .hole => (s.logRec { unit := 4, code := 0x40, src := 10, pa := pa, aux := 1 }, [])
  | .pcie p => (s.toDevice p pa bs, [])
  | _ => s.cohWrite pa (s.programBytes pa (s.cohLatest pa bs.length) bs)

/-- A read of an agent of the hub: its bytes, none when they are poisoned (R73, R461). What a device returns is free. -/
def State.hubGet (s : State) (pa n : Nat) : State × Option (List Byte) :=
  match s.kindOf pa with
  | .hole => (s.logRec { unit := 4, code := 0x40, src := 10, pa := pa, aux := 0 }, none)
  | .pcie p =>
    if s.contained p pa then (s, none)
    else ({ s with free := s.free + n }, some ((List.range n).map (fun i => (Config.freeValue (s.free + i)).extractLsb' 0 8)))
  | _ => (s, if s.poisoned pa n then none else some (s.cohRead pa n))

/-- R392: the address lies in the arrival window. -/
def inArrivalWindow (a : Nat) : Bool := 0xE9F00000 ≤ a && a < 0xE9F01000

/-- R392: a write to the arrival window is an interrupt message. -/
def msiOf (r : DmaReq) : Msi := { rid := r.rid, port := r.port, off := r.addr - 0xE9F00000, len := r.bytes.length, data := BitVec.ofNat 32 (leNat (r.bytes.take 4)) }
def State.msiEvent (s : State) (m : Msi) : Instr :=
  match iatKind (mget 0 s.iat (m.data.toNat % 4096)).toNat with
  | 1 => .iatCounterAdd m
  | 2 => .iatKernelInterrupt m
  | _ => .iatBarrierArrival m

/-- The write is performed at its homes; its visibility times enter the port's record (R328). Poison that the request carries goes
with its bytes (R469). -/
def State.dmaPut (s : State) (r : DmaReq) (l : List (Nat × Nat)) : State :=
  let w := l.foldl (fun (acc : State × Map Nat × List Byte) p =>
    let (t, v) := acc.1.hubPut p.1 (acc.2.2.take p.2)
    (if r.poisoned then t.poisonSectors p.1 p.2 else t, visJoin acc.2.1 v, acc.2.2.drop p.2)) (s, mget [] s.portVis r.port, r.bytes)
  let s1 : State := { w.1 with portVis := mset [] w.1.portVis r.port w.2.1 }
  if r.poisoned then s1.logPcie r.rid aerPoisoned else s1

/-- R378: the largest payload of a write, the largest read request, and the requests that a port has outstanding. A larger request is
refused as one that breaks the rules is (log entry 77). -/
def maxPayload : Nat := 512
def maxRead : Nat := 4096
def maxOutstanding : Nat := 4096

/-- ENDPOINT_DMA_WRITE (R328, R378, R382, R383, R385). -/
def execEndpointDmaWrite (req : DmaReq) (s : State) : Host.Outcome State Fault Refusal :=
  match s.fn? req.rid with
  | none => .next (s.unsupported req.rid)
  | some f =>
    if s.fnCut req.rid then .next s
    else if req.bytes.length > maxPayload then .next (s.unsupported req.rid)
    else if ¬ req.translated ∧ inArrivalWindow req.addr then .next { s with agenda := s.msiEvent (msiOf req) :: s.agenda }
    else if s.waiting.any (dmaOf req.port) ∨ s.portOpen req.port then .next (s.waitEvent (.endpointDmaWrite req))
    else match s.dmaPieces f req .wr (req.bytes.length / 4096 + 2) req.addr req.bytes.length with
      | (t, none) => .next (t.unsupported req.rid)
      | (t, some l) => if l.any (fun p => s.homeBlocked p.1 true) then .next (s.waitEvent (.endpointDmaWrite req)) else .next (t.dmaPut req l)

/-- A read request of a port that waits. -/
def readOf (port : Nat) (i : Instr) : Bool := match i with | .endpointDmaRead r => r.port == port | _ => false

/-- ENDPOINT_DMA_READ (R378, R382, R462): the data, or a completion with EP on poison. The length is that of the request's bytes. -/
def execEndpointDmaRead (req : DmaReq) (s : State) : Host.Outcome State Fault Refusal :=
  match s.fn? req.rid with
  | none => .next (s.unsupported req.rid)
  | some f =>
    if s.fnCut req.rid then .next s
    else if req.bytes.length > maxRead ∨ (¬ req.translated ∧ inArrivalWindow req.addr) then .next (s.unsupported req.rid)
    else if (s.waiting.filter (readOf req.port)).length ≥ maxOutstanding then .next s
    else if s.waiting.any (dmaOf req.port) ∨ s.portOpen req.port then .next (s.waitEvent (.endpointDmaRead req))
    else match s.dmaPieces f req .rd (req.bytes.length / 4096 + 2) req.addr req.bytes.length with
      | (t, none) => .next (t.unsupported req.rid)
      | (t, some l) =>
        if l.any (fun p => s.homeBlocked p.1 false) then .next (s.waitEvent (.endpointDmaRead req))
        else
          let r := l.foldl (fun (acc : State × Option (List Byte)) p =>
            let (u, b) := acc.1.hubGet p.1 p.2
            (u, match acc.2, b with | some x, some y => some (x ++ y) | _, _ => none)) (t, some [])
          .next { r.1 with answers := (match r.2 with | some b => .data b | none => .poisoned req.bytes.length) :: r.1.answers }

/-- ATS_TRANSLATION_REQUEST (R382, R383): the page's place, size and permissions; execute is clear. -/
def execAtsTranslationRequest (rid : Nat) (pasid : Option Nat) (va : Nat) (s : State) : Host.Outcome State Fault Refusal :=
  match s.fn? rid with
  | none => .next (s.unsupported rid)
  | some f =>
    if s.fnCut rid then .next s
    else if !f.ats || (pasid.isNone && inArrivalWindow va) then .next (s.unsupported rid)
    else match s.reqPasid f pasid with
      | none => .next (s.unsupported rid)
      | some p =>
        let none_ : HostAns := .translation rid 0 4096 false false
        let give := fun (t : State) (a : HostAns) => ({ t with answers := a :: t.answers } : State)
        if inArrivalWindow va then .next (give s none_)
        else match s.walk p va with
          | .leaf e _ pa _ => let n := s.pageSize p va e; .next (give s (.translation rid (s.forwarded pa / n * n) n (bitOf e 60) (bitOf e 61)))
          | .malformed e _ => .next (give (s.logRec { unit := 4, code := 0x06, src := 10, pasid := p, va := va, aux := e }) none_)
          | .missing => .next (give s none_)

/-- PAGE_REQUEST_MESSAGE (R384). -/
def execPageRequestMessage (rid pasid va : Nat) (write : Bool) (s : State) : Host.Outcome State Fault Refusal :=
  match s.fn? rid with
  | none => .next (s.unsupported rid)
  | some f =>
    if s.fnCut rid then .next s
    else if (s.reqPasid f (some pasid)).isNone then .next (s.unsupported rid)
    else if (s.epReqs.filter (fun q => q.src == rid)).length ≥ f.alloc ∨ s.epReqs.length ≥ 4096 then
      .next (({ s with answers := .pageFailure rid (va / 4096) :: s.answers } : State).logPcie rid 0)
    else .next { s with epReqs := s.epReqs ++ [{ src := rid, pasid := pasid, page := va / 4096, kind := if write then 1 else 0 }] }

/-! ### The external host's window (R380, R416) -/

/-- R380: the function that the external host sees: its base class and the sizes of its two BARs. -/
def endpointClass : Nat := 0x12
def bar0Bytes : Nat := 65536
def bar2Bytes : Nat := 2 ^ 30

/-- R416: the recovery mailbox as BAR0 shows it: CMD, STATUS and LEN from 0, image data from 0x100, every other byte zero. -/
def State.bar0 (s : State) (off n : Nat) : List Byte :=
  let head := fun (a : Nat) => (leBytes 4 (s.recMbox.getD (a / 4) 0)).getD (a % 4) 0
  (List.range n).map (fun i => let a := off + i; if a < 12 then head a else if 0x100 ≤ a then s.recImage.getD (a - 0x100) 0 else 0)

/-- A host's write of the mailbox: CMD and LEN take whole words, image bytes are kept; STATUS is the Trust Anchor's (log entry 78). -/
def State.bar0Write (s : State) (off : Nat) (bs : List Byte) : State :=
  if off = 0 ∧ bs.length = 4 then { s with recMbox := s.recMbox.set 0 (leNat bs) }
  else if off = 8 ∧ bs.length = 4 then { s with recMbox := s.recMbox.set 2 (leNat bs) }
  else if 0x100 ≤ off then { s with recImage := let d := s.recImage ++ List.replicate (off - 0x100 + bs.length - s.recImage.length) 0; splice d (off - 0x100) bs }
  else s

/-- BAR2_WINDOW_ACCESS (R380, R416), and the external host's accesses to BAR0: BAR2 reads as all ones while the window is closed and
is HBM once it is open. A read has the length of bs. -/
def execBar2WindowAccess (off : BarAt) (write : Bool) (bs : List Byte) (s : State) : Host.Outcome State Fault Refusal :=
  let pa := s.epwin / 2 ^ 30 * 2 ^ 30 + off.off
  let give := fun (t : State) (a : HostAns) => ({ t with answers := a :: t.answers } : State)
  if off.bar = 0 then (if !s.endpointMode || off.off + bs.length > bar0Bytes then .next s else if write then .next (s.bar0Write off.off bs) else .next (give s (.data (s.bar0 off.off bs.length))))
  else if off.bar ≠ 2 ∨ !s.endpointMode || off.off + bs.length > bar2Bytes then .next s
  else if !bitOf s.epwin 0 then .next (if write then s else give s (.data (List.replicate bs.length 0xFF)))
  else if s.homeBlocked pa write ∨ s.homeBlocked (pa + bs.length - 1) write then .next (s.waitEvent (.bar2WindowAccess off write bs))
  else if write then .next (s.hubPut pa bs).1
  else match s.hubGet pa bs.length with
    | (t, some b) => .next (give t (.data b))
    | (t, none) => .next (give t (.poisoned bs.length))

/-! ### Ports (R379, R380, R386) -/

/-- The register of a port after a write: BIF and LOCK while LOCK is clear, a reserved BIF ignored. -/
def pcfgAfter (old v : W32) : W32 :=
  if old.getLsbD 3 then old
  else (old &&& 0x10#32) ||| (v &&& 8#32) ||| (if (v &&& 7#32).toNat ≥ 6 then old &&& 7#32 else v &&& 7#32)

/-- PCFG_WRITE (R379). -/
def execPcfgWrite (port : Nat) (v : W32) (s : State) : Host.Outcome State Fault Refusal :=
  if port ≥ 8 then .next s else .next { s with pcfg := mset 0 s.pcfg port (pcfgAfter (mget 0 s.pcfg port) v) }

/-- Links of a port under a bifurcation. -/
def linksOf (n : Nat) : Nat := match n with | 0 => 1 | 1 => 2 | 2 => 4 | 3 => 8 | 4 => 16 | _ => 3

/-- R379: the first lane and the width of link k, on the lowest lanes that remain after the links before it. -/
def lanesOfLink (cut k : Nat) : Nat × Nat :=
  match cut with
  | 0 => (0, 16)
  | 5 => if k = 0 then (0, 8) else (4 + 4 * k, 4)
  | n => let w := 16 / 2 ^ n; (w * k, w)

/-- R469, R478, R484: a port's spare lane takes the place of a failed one; with none left the lane stays. -/
def State.useSpareLane (s : State) (port lane : Nat) : State :=
  if s.laneSpare.contains port then s.logRec { unit := 4, code := 0x5B, sev := 2, src := 10, aux := 6 + 256 * lane }
  else ({ s with laneSpare := insertNat port s.laneSpare } : State).logRec { unit := 4, code := 0x54, src := 10, aux := port + 256 * lane }

/-- R386: a Type 3 memory device's link trains as CXL, its range over 1, 2, 4 or 8 links; any other trains as PCI Express. -/
def Link.trained (l : Link) (offer : LinkOffer) (ok : Bool) : Link :=
  match offer with
  | .pcie base size => { l with up := ok, cxl := false, base := base, size := size, ways := 1, pos := 0 }
  | .cache base size => { l with up := ok, cxl := false, base := base, size := size, ways := 1, pos := 0 }
  | .mem base size ways pos => { l with up := ok && [1, 2, 4, 8].contains ways && pos < ways && base % 4096 == 0 && paKind base == .cxl && paKind (base + size - 1) == .cxl, cxl := true, base := base, size := size, ways := ways, pos := pos }

/-- R380: an endpoint's one link has no device below it. -/
def Link.endpoint (l : Link) (ok : Bool) : Link := { l with up := ok, cxl := false, base := 0, size := 0 }

/-- LINK_TRAINING (R379, R380, R386): a new bifurcation takes effect when every link of the port is down. The port's spare lane
replaces a failed lane of the link. A contained link stays down (R470). -/
def execLinkTraining (port link : Nat) (badLane : Option Nat) (offer : LinkOffer) (ok : Bool) (s : State) : Host.Outcome State Fault Refusal :=
  let ep := port == 7 && s.endpointMode
  let mine := s.links.filter (fun l => l.port == port)
  let s0 : State := if mine.any (·.up) ∨ ep then s else { s with bifurc := mset 0 s.bifurc port ((mget 0 s.pcfg port).toNat % 8), links := s.links.filter (fun l => l.port != port || l.link < linksOf ((mget 0 s.pcfg port).toNat % 8)) }
  let cut := if ep then 0 else mget 0 s0.bifurc port
  let lanes := lanesOfLink cut link
  let old := s0.links.find? (fun l => l.port == port && l.link == link)
  if port ≥ 8 ∨ link ≥ linksOf cut ∨ (old.map (·.contained)).getD false then .next s
  else
    let s1 := match badLane with | some l => if lanes.1 ≤ l ∧ l < lanes.1 + lanes.2 then s0.useSpareLane port l else s0 | none => s0
    let l0 : Link := { old.getD { port := port, link := link, up := false, cxl := false } with first := lanes.1, width := lanes.2 }
    let new := if ep then l0.endpoint ok else l0.trained offer ok
    .next { s1 with links := s1.links.filter (fun l => !(l.port == port && l.link == link)) ++ [new] }

end Sys2Proof.Machine
end

