-- ==== Sys2Proof/Machine/Lanes.lean ====
section
/-! DEFINITION. Class 0: exchange and combination of lanes (R137, R154 to R159). -/
namespace Sys2Proof.Machine

/-- Results of an exchange: every lane's source is read before any result is written (R137). -/
def Ctx.exchange (x : Ctx) (s : State) (w : FormL) (from_ : Nat → Nat) : State :=
  let wide := tyBits w.ty = 64
  x.acrossLanes s (fun g =>
    x.commit s w.d wide ((lanesOf (x.active w.com)).map (fun l => (l, BitVec.ofNat 64 (g.readSrc (from_ l) { opnd := w.a, ty := none, wide := wide }), (0 : Flags)))))

/-- R154: the partner of a lane under an exchange mode. -/
def qxchPartner (m : BitVec 4) (l : Nat) : Nat :=
  let q := l / 4 * 4
  let i := l % 4
  match m.toNat with
  | 0 => q + (i ^^^ 1) | 1 => q + (i ^^^ 2) | 2 => q + (i + 1) % 4 | 3 => q + (i + 3) % 4 | k => q + (k - 4) % 4

def execQxch (w : FormL) (s : State) : Host.Outcome State Fault Refusal :=
  issueWith (.qxch w) w.com [(w.a, if tyBits w.ty = 64 then 2 else 1)] [] s (fun x t => x.exchange t w (qxchPartner w.com.mod))

/-- R155: the source lane of shfl. -/
def shflLane (m : BitVec 4) (l b : Nat) : Nat :=
  match m.toNat with
  | 0 => b % 32 | 1 => if b > l then l else l - b | 2 => if l + b > 31 then l else l + b | _ => l ^^^ (b % 32)

def execShfl (w : FormL) (s : State) : Host.Outcome State Fault Refusal :=
  issueWith (.shfl w) w.com [(w.a, if tyBits w.ty = 64 then 2 else 1), (w.b, 1)] [] s (fun x t =>
    x.exchange t w (fun l => shflLane w.com.mod l (x.g.readSrc l (src32Of w.b))))

/-- R156. -/
def execVote (w : FormL) (s : State) : Host.Outcome State Fault Refusal :=
  issueWith (.vote w) w.com [] [w.a.index] s (fun x t =>
    let set := x.real w.com
    let p := x.g.pred w.a.index &&& set
    if set = 0 then t.advance x
    else if w.com.mod.toNat % 4 = 2 then
      match w.d with
      | .reg .s _ i => t.doneWith x (fun g => g.writeS i.toNat false (p.zeroExtend 64))
      | _ => x.commit t w.d false ((lanesOf set).map (fun l => (l, p.zeroExtend 64, (0 : Flags))))
    else
      let v := if w.com.mod.toNat % 4 = 0 then p != 0 else p == set
      if w.com.mod.getLsbD 2 then t.doneWith x (fun g => g.setCond w.d.index v)
      else t.doneWith x (fun g => g.setPred w.d.index set (if v then BitVec.allOnes 32 else 0)))

/-- R157: the operation and its identity at a type. -/
def combine (op : Nat) (ty : BitVec 4) (a b : Nat) : Nat :=
  match op with
  | 0 => lowBits (tyBits ty) (a + b)
  | 1 => if valTy ty b < valTy ty a then b else a
  | 2 => if valTy ty a < valTy ty b then b else a
  | 3 => a &&& b
  | 4 => a ||| b
  | _ => a ^^^ b
def identityOf (op : Nat) (ty : BitVec 4) : Nat :=
  match op with
  | 1 => wrapNat (tyBits ty) (hiTy ty)
  | 2 => wrapNat (tyBits ty) (loTy ty)
  | 3 => 2 ^ tyBits ty - 1
  | _ => 0

/-- R158: prefixes over the active lanes that are no helpers, in ascending order. -/
def scanList (op : Nat) (ty : BitVec 4) (excl : Bool) : Nat → List (Nat × Nat) → List (Nat × Nat)
  | _, [] => []
  | acc, (l, v) :: rest =>
    let nxt := combine op ty acc v
    (l, if excl then acc else nxt) :: scanList op ty excl nxt rest

def execScan (w : FormL) (s : State) : Host.Outcome State Fault Refusal :=
  let op := w.com.mod.toNat % 8
  issueWith (.scan w) w.com [(w.a, if tyBits w.ty = 64 then 2 else 1)] [] s (fun x t =>
    let vs := (lanesOf (x.real w.com)).map (fun l => (l, x.g.readSrc l (srcOf w.a w.ty)))
    let rs := scanList op w.ty (w.com.mod.getLsbD 3) (identityOf op w.ty) vs
    if vs = [] then t.advance x
    else x.commit t w.d (tyBits w.ty = 64) (rs.map (fun r => (r.1, extendTy w.ty r.2, (0 : Flags)))))

/-- R159: one result over the active lanes that are no helpers. -/
def execGred (w : FormL) (s : State) : Host.Outcome State Fault Refusal :=
  let op := w.com.mod.toNat % 8
  issueWith (.gred w) w.com [(w.a, if tyBits w.ty = 64 then 2 else 1)] [] s (fun x t =>
    let ls := lanesOf (x.real w.com)
    let r := extendTy w.ty ((ls.map (fun l => x.g.readSrc l (srcOf w.a w.ty))).foldl (combine op w.ty) (identityOf op w.ty))
    if ls = [] then t.advance x
    else match w.d with
      | .reg .s _ i => t.doneWith x (fun g => g.writeS i.toNat (tyBits w.ty = 64) r)
      | _ => x.commit t w.d (tyBits w.ty = 64) (ls.map (fun l => (l, r, (0 : Flags)))))

end Sys2Proof.Machine
end

