-- ==== Sys2Proof/Machine/Upkeep.lean ====
section
/-! DEFINITION. Page requests (R384, R445), shootdowns (R448, R449), migrations with forwarding (R450 to R452), storage errors
(R442, R456, R459, R460) and the on-package registers (R5, R7). -/
namespace Sys2Proof.Machine

/-! ### Page requests (R445) -/

/-- The permission that an access kind of a page request needs. -/
def needOf (kind : Nat) : Need := match kind with | 1 => .wr | 2 => .rdwr | 3 => .exec | _ => .rd

/-- A core's request for a page: sent when the leaf or its permission is missing and the queue has room. -/
def State.coreAsk (s : State) (core pasid va kind : Nat) : State :=
  match s.demand core pasid (va % 2 ^ 56) (needOf kind) with
  | .wait => s.askPage core pasid (va % 2 ^ 56) kind
  | _ => s

/-- CORE_PAGE_REQUEST (R445). -/
def execCorePageRequest (core pasid va kind : Nat) (s : State) : Host.Outcome State Fault Refusal :=
  if core ≥ 192 ∨ kind > 3 then .next s else .next (s.coreAsk core pasid va kind)

/-- PAGE_REQUEST_RESEND (R445): the same request again, once the queue that was full may have room. -/
def execPageRequestResend (core pasid va kind : Nat) (s : State) : Host.Outcome State Fault Refusal :=
  if core ≥ 192 ∨ kind > 3 then .next s else .next (s.coreAsk core pasid va kind)

/-- PAGE_REQUEST_ANSWER (R384, R445): Success ends the request, whose checks then run again; Invalid stands until they have seen
it. An endpoint's request for a page that is already valid is answered with Success. -/
def execPageRequestAnswer (endpoint : Bool) (idx : Nat) (ok : Bool) (s : State) : Host.Outcome State Fault Refusal :=
  if endpoint then
    match s.epReqs[idx]? with
    | none => .next s
    | some q =>
      let valid := match s.xlat q.pasid (4096 * q.page) (needOf q.kind) with | .ok _ _ _ => true | _ => false
      .next { s with epReqs := s.epReqs.eraseIdx idx, answers := .pageResponse q.src q.page (ok || valid) :: s.answers }
  else
    match s.coreReqs[idx]? with
    | none => .next s
    | some q =>
      if q.ans.isSome then .next s
      else .next ({ s with coreReqs := if ok then s.coreReqs.eraseIdx idx else s.coreReqs.modify idx (fun q => { q with ans := some false }) } : State).retryWaiting

/-! ### Pins (R448) -/

/-- The runs of source, destination and index list that a copy has passed, and those that it has still to reach, in space 0;
with the FSPC of each. -/
def Copy.runs (c : Copy) (left : Bool) : List (Nat × Run) :=
  let rows := (List.range (c.n1 * c.n2)).filterMap (fun i =>
    let lo := if left then Nat.max (i * c.n0) c.moved else i * c.n0
    let hi := if left then (i + 1) * c.n0 else Nat.min ((i + 1) * c.n0) c.moved
    if lo < hi then some (lo, hi - lo) else none)
  let src := if c.gathers || ptrSpace c.src != 0 then [] else rows.map (fun r => (0, (c.srcAt r.1 none, r.2)))
  let dst := if ptrSpace c.dst != 0 then [] else rows.map (fun r => (1, (c.dstAt r.1, r.2)))
  let idx := if !c.gathers || ptrSpace c.idx != 0 then [] else rows.map (fun r => (2, (c.idx + (c.at r.1).2.1 * c.idxBytes, c.idxBytes)))
  src ++ dst ++ idx

/-- R448: what of the copy's pages lies in a range and is still pinned: translated, and not yet finished with. The answer is the
FSPC. -/
def Copy.pinned (c : Copy) (lo hi : Nat) : Option Nat :=
  let inside := fun (r : Run) => r.1 < hi && lo < r.1 + r.2
  if ptrSpace c.desc = 0 ∧ lo ≤ c.desc ∧ c.desc < hi then some 4
  else [0, 1, 2].find? (fun k => (c.runs false).any (fun e => e.1 == k && inside e.2) && (c.runs true).any (fun e => e.1 == k && inside e.2))

/-! ### Shootdowns (R448, R449) -/

/-- The range of a shootdown. -/
def Shoot.lo (h : Shoot) : Nat := if h.all then 0 else h.va
def Shoot.hi (h : Shoot) : Nat := if h.all then 2 ^ 56 else h.va + (match h.sz with | 0 => 4096 | 1 => 65536 | 2 => 2 ^ 21 | _ => 2 ^ 30)

/-- SHOOTDOWN_START (R448, R449): the model keeps no translation; functions with ATS for the PASID are asked. -/
def execShootdownStart (v : W64) (s : State) : Host.Outcome State Fault Refusal :=
  if s.shoot.busy then .next s
  else
    let n := v.toNat
    let p := s.shoot.pasid
    let h : Shoot := { pasid := p, va := bitsOf n 12 44 * 4096, sz := bitsOf n 7 2, all := bitOf n 6, mig := bitOf n 5, busy := true, since := s.cycle, mark := s.nextId }
    .next { s with shoot := h, functions := s.functions.map (fun f => if f.ats ∧ ¬ f.refused ∧ (s.reqPasid f (some p)).isSome then { f with atsWait := true } else f) }

/-- ATS_INVALIDATE_COMPLETION (R449). -/
def execAtsInvalidateCompletion (rid : Nat) (s : State) : Host.Outcome State Fault Refusal :=
  .next { s with functions := s.functions.map (fun f => if f.rid = rid then { f with atsWait := false } else f) }

/-- ATS_TIMEOUT (R449). -/
def execAtsTimeout (rid : Nat) (s : State) : Host.Outcome State Fault Refusal :=
  match s.fn? rid with
  | none => .next s
  | some f =>
    if ¬ s.shoot.busy ∨ ¬ f.atsWait ∨ s.cycle < s.shoot.since + 2 ^ 24 then .next s
    else
      let s1 : State := { s with shoot := { s.shoot with atsto := true }, functions := s.functions.map (fun f => if f.rid = rid then { f with atsWait := false, refused := true } else f) }
      .next (s1.logRec { unit := 4, code := 0x18, sev := 2, ten := f.ten.getD 0xFF, src := 10, pasid := s.shoot.pasid, va := s.shoot.va, aux := rid })

/-- The copy pins a page of the shootdown's range. -/
def State.shotPin (s : State) (c : Copy) : Option Nat :=
  if c.pasid = s.shoot.pasid ∧ ¬ c.replay ∧ c.failed.isNone then c.pinned s.shoot.lo s.shoot.hi else none

/-- COPY_ABANDON (R449), once no chunk of a cpyr is open (R269). -/
def execCopyAbandon (id : Nat) (s : State) : Host.Outcome State Fault Refusal :=
  match s.copy? id with
  | none => .next s
  | some c =>
    if ¬ s.shoot.busy ∨ s.shoot.mig ∨ s.cycle < s.shoot.since + 4096 then .next s
    else if s.chunkOpen (fun k => k.id == id) then .next s
    else match s.shotPin c with
      | none => .next s
      | some fspc =>
        let c1 : Copy := { c with replay := true, abandons := c.abandons + 1, inRow := if c.rep = c.repAt then c.inRow + 1 else 1, repAt := c.rep }
        let w := c.wg? s
        let s1 := ({ s.setCopy c1 with shoot := { s.shoot with abandon := Nat.min (s.shoot.abandon + 1) 0xFFFF } } : State).logRec { unit := c.die, code := 0x14, ten := (w.map (·.ten)).getD 0xFF, src := c.logSrc, uno := c.logUnit, ctx := (w.map (·.ctx)).getD 0xFFFFFFFF, pasid := c.pasid, va := s.shoot.va, aux := c1.abandons }
        .next (if c1.inRow ≥ 16 then s1.failCopy c1 7 fspc s.shoot.va else s1)

/-- A page of the shootdown's range now leads into the new range of a forwarding entry. -/
def State.shotMoves (s : State) (f : Forward) : Bool :=
  s.shoot.all || (match s.walk s.shoot.pasid s.shoot.va with | .leaf _ _ pa _ => f.dst ≤ pa && pa < f.dst + f.size | _ => false)

/-- SHOOTDOWN_COMPLETE (R449): functions have answered, earlier accesses are complete, no copy pins the range and the writes of
the abandoned ones are visible. -/
def execShootdownComplete (s : State) : Host.Outcome State Fault Refusal :=
  let early := s.storeQ.any (fun q => q.id < s.shoot.mark) || s.posted.any (fun p => p.id < s.shoot.mark) || s.devLoads.any (fun d => d.id < s.shoot.mark && d.ans.isNone)
  let copies := !s.shoot.mig && s.copies.any (fun c => (s.shotPin c).isSome || (c.replay && c.pasid == s.shoot.pasid && !s.copyVisible c))
  if ¬ s.shoot.busy ∨ s.functions.any (·.atsWait) ∨ early ∨ copies then .next s
  else .next { s with shoot := { s.shoot with busy := false }, forwards := s.forwards.map (fun f => if s.shoot.mig ∧ s.shotMoves f then { f with shot := true, mark := s.nextId } else f) }

/-! ### Migrations (R450 to R452) -/

def migSize (msz : Nat) : Nat := match msz with | 0 => 4096 | 1 => 65536 | _ => 2 ^ 21

/-- Ranges meet. -/
def rangesMeet (a n b m : Nat) : Bool := n != 0 && m != 0 && a < b + m && b < a + n

/-- R450: the reason for which a migration is refused, 0 for none. -/
def State.migrationBad (s : State) (src dst size msz : Nat) : Nat :=
  let kernelRange := fun (pa : Nat) => (List.range 16).all (fun t => !(s.ten t).carve.any (fun c => rangesMeet c.1 c.2 pa size))
  let same := (List.range 16).any (fun t => s.inCarve t src size && s.inCarve t dst size)
  let state : Nat → Bool × Bool := fun pa => match paKind pa with | .hbm _ => let r := s.region (hbmRegion pa); (r.compute, r.moving) | _ => (false, false)
  if msz ≥ 3 then 3
  else if s.forwards.length ≥ 64 then 1
  else if !(same || kernelRange dst) || state dst != state src then 2
  else if s.forwards.any (fun f => rangesMeet f.src f.size src size || rangesMeet f.dst f.size src size || rangesMeet f.src f.size dst size || rangesMeet f.dst f.size dst size) ∨ rangesMeet src size dst size then 3
  else 0

/-- MIGRATION_GO (R450, R451): a write of the register sets MSZ, and GO starts a migration or is refused with an MSTAT. The
register takes no write while a migration is in progress. -/
def execMigrationGo (v : W32) (s : State) : Host.Outcome State Fault Refusal :=
  let msz := v.toNat % 4
  let m : Migr := { s.mig with msz := msz }
  if s.mig.busy then .next s
  else if ¬ v.getLsbD 31 then .next { s with mig := m }
  else
    let size := migSize msz
    let src := s.mig.src / size * size
    let dst := s.mig.dst / size * size
    let bad := s.migrationBad src dst size msz
    if bad ≠ 0 then .next (({ s with mig := { m with mstat := bad } } : State).logRec { unit := 4, code := 0x43, ten := s.tenAt src, src := 6, pa := src, aux := bad })
    else .next { s with mig := { m with src := src, dst := dst, busy := true, mstat := 0 } }

/-- The addresses that a migration moves. -/
def movedPa (src dst size pa : Nat) : Nat := if src ≤ pa ∧ pa < src + size then dst + (pa - src) else pa

/-- Nothing is open for the lines of a range, and their leases and writes have passed. -/
def State.rangeQuiet (s : State) (a n : Nat) : Bool :=
  let inside := fun (ln : Nat) => a / 128 ≤ ln && 128 * ln < a + n
  s.homes.all (fun h => !inside h.addr || (h.busy.isNone && h.queue == [])) && s.msgs.all (fun m => !inside m.addr) && s.lines.all (fun l => !inside l.addr || (l.st.stable && s.linePassed l))

/-- The lines of a range are recalled: their bytes are in memory and no agent holds them. -/
def State.recallRange (s : State) (a n : Nat) : State :=
  let inside := fun (ln : Nat) => a / 128 ≤ ln && 128 * ln < a + n
  let s1 := (s.lines.filter (fun l => inside l.addr && l.st.owns)).foldl (fun s l => s.rawWrite (128 * l.addr) l.latest) s
  { s1 with lines := s1.lines.filter (fun l => !inside l.addr), homes := s1.homes.filter (fun h => !inside h.addr), l1 := s1.l1.filter (fun c => !inside c.addr) }

/-- R451 step 2: the bytes with their poison. -/
def State.moveData (s : State) (src dst size : Nat) : State :=
  let s1 := s.rawWrite dst (s.rawRead src size)
  let bad := (s.poison.filter (fun x => src / 32 ≤ x && x < (src + size) / 32)).map (fun x => dst / 32 + (x - src / 32))
  let rest := s1.poison.filter (fun x => !(dst / 32 ≤ x && x < (dst + size) / 32))
  { s1 with poison := bad.foldl (fun l x => insertNat x l) rest }

/-- The blocks that a workgroup's splits have written under edge views, and the records of its windows, under their new addresses. -/
def Workgroup.moveNames (mv : Nat → Nat) (w : Workgroup) : Workgroup :=
  let f := fun (sp : Split) => { sp with halo := sp.halo.map (fun b => mv (4096 * b) / 4096) }
  { w with groups := w.groups.map (fun g => { g with table := g.table.map (Option.map f), spill := g.spill.map f }), chans := w.chans.map (fun c => { c with pa := mv c.pa }) }

/-- R451 step 4: master-table entries, their places in the engines' queues, and what else names an address of the range. -/
def State.moveNames (s : State) (src dst size : Nat) : State :=
  let mv := movedPa src dst size
  let dieOf := fun (pa : Nat) (d : Nat) => match paKind pa with | .hbm d => d | _ => d
  let ms := s.masters.map (fun k => if mv k.pa = k.pa then k else { k with pa := mv k.pa, die := dieOf (mv k.pa) k.die })
  let goes := (ms.filter (fun k => k.queued && dst ≤ k.pa && k.pa < dst + size)).map (fun k => (4 * k.die + bitsOf k.pa 12 2, k.pa))
  let q0 := (s.prismQ.map (fun e => (e.1, e.2.filter (fun p => mv p == p)))).filter (fun e => e.2 != [])
  let q1 := goes.foldl (fun q e => mset [] q e.1 (mget [] q e.1 ++ [e.2])) q0
  let s1 : State := { s with masters := ms, prismQ := q1, refreshes := s.refreshes.map (fun r => { r with pa := mv r.pa }), contribs := s.contribs.map (fun c => { c with pa := mv c.pa }), wgs := s.wgs.map (Workgroup.moveNames mv) }
  s1.wakeCounter (fun r => match r with | .pa a => mv a != a | _ => false)

/-- MIGRATION_COMPLETE (R451). -/
def execMigrationComplete (s : State) : Host.Outcome State Fault Refusal :=
  let m := s.mig
  let size := migSize m.msz
  if ¬ m.busy ∨ ¬ s.rangeQuiet m.src size ∨ ¬ s.rangeQuiet m.dst size then .next s
  else
    let bad := s.poison.any (fun x => m.src / 32 ≤ x && x < (m.src + size) / 32)
    let s1 := (((s.recallRange m.src size).recallRange m.dst size).moveData m.src m.dst size).moveNames m.src m.dst size
    let s2 : State := { s1 with mig := { m with busy := false, mstat := if bad then 4 else 0 }, forwards := s1.forwards ++ [{ src := m.src, dst := m.dst, size := size }] }
    let s3 := if bad then s2.logRec { unit := 4, code := 0x43, ten := s.tenAt m.src, src := 6, pa := m.src, aux := 4 } else s2
    .next ((s3.storeQ.filter (fun q => m.src ≤ q.pa && q.pa < m.src + size)).foldl (fun s q => s.replay q) s3).retryWaiting

/-- A copy from before the shootdown still pins a page of the moved range. -/
def State.forwardPinned (s : State) (f : Forward) : Bool :=
  s.copies.any (fun c => c.id < f.mark && !c.replay && (c.runs true ++ [(4, (c.desc, 128))]).any (fun e =>
    ptrSpace e.2.1 == 0 && (List.range ((e.2.1 % 4096 + e.2.2 + 4095) / 4096)).any (fun i => match s.walk c.pasid (e.2.1 + 4096 * i) with
      | .leaf _ _ pa _ => (f.src ≤ pa && pa < f.src + f.size) || (f.dst ≤ pa && pa < f.dst + f.size)
      | _ => false)))

/-- FORWARDING_REMOVED (R452). -/
def execForwardingRemoved (idx : Nat) (s : State) : Host.Outcome State Fault Refusal :=
  match s.forwards[idx]? with
  | none => .next s
  | some f => if ¬ f.shot ∨ s.forwardPinned f then .next s else .next { s with forwards := s.forwards.eraseIdx idx }

/-! ### Storage errors (R456, R459) -/

/-- R459: a correction is counted; its time serves the wear test of R484. -/
def State.corrected (s : State) (unit : Nat) : State :=
  let t := (mget [] s.ceTimes unit).filter (fun t => s.cycle < t + 2 ^ 32)
  ({ s with ceTimes := mset [] s.ceTimes unit (t ++ [s.cycle]) } : State).modLog unit (fun l => { l with cecnt := Nat.min (l.cecnt + 1) (2 ^ 64 - 1) })

/-- R456 reason 0x5: the entry of a master block is rebuilt, and the view blocks that depend on it are faulted. -/
def State.rebuildMaster (s : State) (k : Master) : State :=
  let r : Refresh := { id := 0, die := k.die, eng := bitsOf k.pa 12 2, pa := k.pa, since := s.cycle }
  let s1 := k.deps.foldl (fun s d => match s.views.find? (fun v => v.id == d.1) with | some v => s.faultView r v d.2 5 | none => s) s
  let s2 : State := { s1 with masters := s1.masters.map (fun m => if m.pa = k.pa then { m with wt := s.clock k.die, snap := 0 } else m) }
  s2.queueMaster k

/-- R455, reason 8: ERR is set, and the other fields hold a value that nothing constrains (log entry 6). -/
def BarObj.lose (v : Nat) (o : BarObj) : BarObj × Nat := ({ BarObj.ofNat v with err := true }, (o.fail 8).2)

/-- R459: an uncorrectable error at its place. -/
def State.uncorrectable (s : State) (unit : Nat) (p : EccAt) : State :=
  let log := fun (s : State) (id src uno : Nat) (w : Option Workgroup) (pa : Nat) =>
    s.logRec { unit := unit, code := 0x02, ten := (w.map (·.ten)).getD 0xFF, src := src, uno := uno, ctx := (w.map (·.ctx)).getD 0xFFFFFFFF, pa := pa, aux := id }
  match p with
  | .register wg grp tier idx lane =>
    let w := s.wg? wg
    let core := ((w.bind (fun w => w.groups[grp]?)).map (·.core)).getD 0
    let key := match tier with | 0 => regKey lane .v idx | 1 => regKey lane .o idx | 2 => regKey lane .h idx | 3 => 0x10000 + idx | _ => 0x20000 + idx
    log (s.modGrp wg grp (fun g => { g with rpoison := insertNat key g.rpoison })) (Nat.min (tier + 1) 4) 1 core w 0
  | .control core wg id =>
    match s.wg? wg with
    | none => s
    | some w =>
      let s1 := s.logRec { unit := unit, code := 0x03, ten := w.ten, src := 1, uno := core, ctx := w.ctx, aux := id }
      let s2 := if s.wornOut.contains { kind := .core, unit := core / 48, idx := core } then s1.modCore core (fun c => { c with avail := false }) else s1
      { s2 with agenda := .abortReport wg 0xF 3 :: s2.agenda }
  | .scratch core off => log (s.modCore core (fun c => { c with scrPoison := insertNat (off / 32) c.scrPoison })) 0x08 1 core none 0
  | .barrier wg bid => log ((s.freeVal.2.freeVal.2).barUpdate { wg := wg, win := bid / 64, id := bid % 64 } (BarObj.lose (s.freeVal.1.toNat + 2 ^ 64 * s.freeVal.2.freeVal.1.toNat))) 0x09 5 (((s.wg? wg).map (fun w => w.cores.getD (bid / 64) 0)).getD 0) (s.wg? wg) 0
  | .accRow core row => log (s.modCore core (fun c => { c with accPoison := insertNat row c.accPoison })) 0x0A 4 core none 0
  | .plane core arr live => log (s.modCore core (fun c => { c with arrays := c.arrays.modify arr (fun a => if live then { a with live := { a.live with poison := true } } else { a with shadow := { a.shadow with poison := true } }) })) 0x0B 4 core none 0
  | .l1 core line => log { s with l1 := s.l1.filter (fun l => !(l.core == core && l.addr == line)) } 0x0C 1 core none (128 * line)
  | .icache core block => log { s with icache := s.icache.filter (fun b => !(b.core == core && b.addr == block)) } 0x0D 1 core none (128 * block)
  | .l2data agent pa => log (s.poisonSectors pa 1) 0x0E 6 (s.sliceOf agent (match s.line? agent (pa / 128) with | some l => l.ten | none => s.tenAt pa) pa) none pa
  | .l2tag agent line =>
    match s.line? agent line with
    | none => s
    | some l =>
      let s1 := if l.st.owns then
          let h := s.home line
          (s.removeOwner agent line).setHome { h with owner := none, st := if h.sharers = [] then .i else .s }
        else s.dropLine agent line
      log s1 0x0F 6 0 none (128 * line)
  | .hbm pa => log (s.poisonSectors pa 1) 0x10 7 0 none pa
  | .master _ pa => match s.masters.find? (fun k => k.pa == pa / 4096 * 4096) with
    | some k => log (s.rebuildMaster k) 0x11 6 0 none pa
    | none => s

/-- ECC_ERROR (R459). -/
def execEccError (unit : Nat) (corrected : Bool) (place : EccAt) (s : State) : Host.Outcome State Fault Refusal :=
  .next (if corrected then s.corrected unit else s.uncorrectable unit place)

/-- R460, R421: the destination field of a word, as trapval names a register. -/
def destName (w : W96) : Nat :=
  let d := (w.extractLsb' 20 14).toNat
  bitsOf d 11 2 + 256 * (d % 256)

/-- PIPELINE_PARITY (R460): the instruction is issued again twice; a third failure traps. -/
def execPipelineParity (wg grp pos pipe times : Nat) (s : State) : Host.Outcome State Fault Refusal :=
  match ({ wg := wg, grp := grp, pos := pos } : Focus).lookup s with
  | none => .next s
  | some x =>
    if times < 3 ∨ x.sp.phase ≠ .ready then .next s
    else
      let word : W96 := BitVec.ofNat 96 (leNat ((s.vread x.gr.pasid (codeAddr x.gr.k.codeBase x.sp.wi) 12).getD []))
      let s1 := s.logRec { unit := x.die, code := 0x04, ten := x.wg.ten, src := 1, uno := x.g.core, ctx := x.wg.ctx, pasid := x.gr.pasid, aux := pipe }
      .next (s1.takeTrap x { cause := 0x0F, sub := 3, lane := x.trapLane (wordCommon word), val := BitVec.ofNat 64 (destName word) })

/-! ### Registers (R5, R7) -/

/-- LOG_COUNTER_READ_CLEAR (R442): a read of LOST or CECNT returns the counter, which is then zero. -/
def execLogCounterReadClear (unit off : Nat) (s : State) : Host.Outcome State Fault Refusal :=
  if unit > 4 then .next s
  else if off = 0x0C then .next (({ s with answers := .data (leBytes 4 (s.log unit).lost) :: s.answers } : State).modLog unit (fun l => { l with lost := 0 }))
  else if off = 0x18 then .next (({ s with answers := .data (leBytes 8 (s.log unit).cecnt) :: s.answers } : State).modLog unit (fun l => { l with cecnt := 0 }))
  else .next s

/-- Bytes of a write laid over a field at an address. -/
def mergeField (old : List Byte) (at_ addr : Nat) (bs : List Byte) : List Byte := overlay at_ old addr bs

/-- An inbound window entry as bytes (R418). -/
def Window.bytes (w : Window) : List Byte :=
  leBytes 2 w.peer ++ leBytes 1 w.ten ++ leBytes 1 (boolNat w.v + 2 * boolNat w.rd + 4 * boolNat w.w) ++ leBytes 4 w.pasid ++ leBytes 8 w.base ++ leBytes 8 w.size ++ leBytes 8 w.va
def Window.ofBytes (b : List Byte) : Window :=
  { peer := fieldAt b 0 2 % 2 ^ 11, ten := fieldAt b 2 1, v := bitOf (fieldAt b 3 1) 0, rd := bitOf (fieldAt b 3 1) 1, w := bitOf (fieldAt b 3 1) 2, pasid := fieldAt b 4 4 % 2 ^ 20, base := fieldAt b 8 8, size := fieldAt b 0x10 8, va := fieldAt b 0x18 8 }

/-- The writable fields of the blocks whose writes have no row of their own: lease control, watchdog bounds, IAT entries, inbound
windows, logs, the shootdown's PASID, migration addresses, arbiters' journals and the mailbox's ARG. -/
def State.setReg (s : State) (addr : Nat) (bs : List Byte) : State :=
  let o := addr - 0xF000000000000
  let put := fun (at_ : Nat) (old : List Byte) => mergeField old at_ o bs
  if addr < 0xF000000000000 then s
  else if 0x20000 ≤ o ∧ o < 0x30000 then
    let i := (o - 0x20000) / 16
    let n := leNat (put (0x20000 + 16 * i) (leBytes 16 (mget 0 s.iat i).toNat))
    { s with iat := mset 0 s.iat i (BitVec.ofNat 128 (n - 2 ^ 7 * bitsOf n 7 13)) }
  else if 0x30000 ≤ o ∧ o < 0x30004 then (if s.shoot.busy then s else { s with shoot := { s.shoot with pasid := leNat (put 0x30000 (leBytes 4 s.shoot.pasid)) % 2 ^ 20 } })
  else if 0x30040 ≤ o ∧ o < 0x30048 then (if s.mig.busy then s else { s with mig := { s.mig with src := leNat (put 0x30040 (leBytes 8 s.mig.src)) } })
  else if 0x30048 ≤ o ∧ o < 0x30050 then (if s.mig.busy then s else { s with mig := { s.mig with dst := leNat (put 0x30048 (leBytes 8 s.mig.dst)) } })
  else if 0x40000 ≤ o ∧ o < 0x41800 then
    let n := (o - 0x40000) / 0x100
    let v := leNat (put (0x40000 + 0x100 * n) (leBytes 4 (s.steward n).lease)) % 128
    if o % 0x100 ≥ 4 ∨ v = 0 ∨ v > 64 then s else s.modSteward n (fun k => { k with lease := v })
  else if 0x50000 ≤ o ∧ o < 0x50140 then
    let u := (o - 0x50000) / 0x40
    let l := s.log u
    let b := put (0x50000 + 0x40 * u) (leBytes 8 l.base ++ leBytes 1 l.log2n ++ leBytes 1 l.vec ++ List.replicate 10 0 ++ leBytes 4 l.tail)
    s.modLog u (fun l => { l with base := fieldAt b 0 8 / 4096 * 4096, log2n := fieldAt b 8 1, vec := fieldAt b 9 1, tail := fieldAt b 0x14 4 })
  else if 0x60000 ≤ o ∧ o < 0x60400 then
    let w := (o - 0x60000) / 0x20
    let d := mget {} s.watchdogs w
    let b := put (0x60000 + 0x20 * w) (leBytes 2 d.nextMin ++ leBytes 2 d.nextMax)
    if o % 0x20 ≥ 4 ∨ (4 ≤ w ∧ w < 8) then s else { s with watchdogs := mset {} s.watchdogs w { d with nextMin := fieldAt b 0 2, nextMax := fieldAt b 2 2 } }
  else if 0x70008 ≤ o ∧ o < 0x70010 then { s with mbox := { s.mbox with arg := leNat (put 0x70008 (leBytes 8 s.mbox.arg)) } }
  else if 0x90000 ≤ o ∧ o < 0x90100 then
    let d := (o - 0x90000) / 0x40
    let a := mget {} s.arbiters d
    let b := put (0x90000 + 0x40 * d + 8) (leBytes 8 a.base ++ leBytes 8 a.size)
    { s with arbiters := mset {} s.arbiters d { a with base := fieldAt b 0 8 / 4096 * 4096, size := fieldAt b 8 8 / 4096 * 4096 } }
  else if 0xA0000 ≤ o ∧ o < 0xA0800 then
    let i := (o - 0xA0000) / 32
    { s with windows := mset {} s.windows i (Window.ofBytes (put (0xA0000 + 32 * i) (mget {} s.windows i).bytes)) }
  else s

/-- R408: the header of the partition map and an entry of it, as its read-only copy shows them. -/
def State.mapHeader (s : State) : List Byte := leBytes 1 s.l2mode ++ leBytes 1 0 ++ leBytes 2 s.devnum ++ List.replicate 4 0 ++ leBytes 8 s.restarts ++ List.replicate 240 0
/-- R407: SSTAT as it reads: 2 while the kernel restart or a termination holds the region's tenancy (log entry 80). -/
def State.sstatRead (s : State) (n : Nat) : Nat :=
  let t := (s.steward n).ten
  if (s.steward n).sstat = 0 ∧ t < 16 ∧ 3 ≤ (s.ten t).st then 2 else (s.steward n).sstat

/-- The register block that holds an offset of the on-package range, with its first offset and its bytes: fields with access code WO, and
what is no field, as zero (R5, R7; R379, R416, R337, R393, R448, R450, R407, R442, R465, R409, R408, R481, R418). -/
def State.regBlock (s : State) (o : Nat) : Nat × List Byte :=
  let z := fun (n : Nat) => List.replicate n (0 : Byte)
  let row := fun (base size : Nat) (f : Nat → List Byte) => let i := (o - base) / size; (base + size * i, f i)
  if 0x1000 ≤ o ∧ o < 0x1800 then row 0x1000 0x100 (fun p => leBytes 4 (mget 0 s.pcfg p).toNat)
  else if 0x1800 ≤ o ∧ o < 0x1808 then (0x1800, leBytes 8 s.epwin)
  else if 0x20000 ≤ o ∧ o < 0x30000 then row 0x20000 16 (fun i => leBytes 16 (mget 0 s.iat i).toNat)
  else if 0x30000 ≤ o ∧ o < 0x30040 then (0x30000, leBytes 4 s.shoot.pasid ++ z 12 ++ leBytes 4 (65536 * s.shoot.abandon + 2 * boolNat s.shoot.atsto + boolNat s.shoot.busy))
  else if 0x30040 ≤ o ∧ o < 0x30058 then (0x30040, leBytes 8 s.mig.src ++ leBytes 8 s.mig.dst ++ leBytes 4 (2 ^ 30 * boolNat s.mig.busy + 2 ^ 24 * s.mig.mstat + s.mig.msz))
  else if 0x40000 ≤ o ∧ o < 0x41800 then row 0x40000 0x100 (fun n => leBytes 4 (s.steward n).lease ++ z 4 ++ leBytes 4 (s.sstatRead n + 256 * (s.steward n).sites + 65536 * (s.steward n).ten))
  else if 0x50000 ≤ o ∧ o < 0x50140 then row 0x50000 0x40 (fun u => let l := s.log u; leBytes 8 l.base ++ leBytes 1 l.log2n ++ leBytes 1 l.vec ++ z 2 ++ leBytes 4 l.lost ++ leBytes 4 l.head ++ leBytes 4 l.tail ++ leBytes 8 l.cecnt)
  else if 0x60000 ≤ o ∧ o < 0x60400 then row 0x60000 0x20 (fun w => let d := mget {} s.watchdogs w; if 4 ≤ w ∧ w < 8 then [] else leBytes 2 d.nextMin ++ leBytes 2 d.nextMax ++ z 12 ++ leBytes 2 d.restarts ++ leBytes 1 d.cause)
  else if 0x70000 ≤ o ∧ o < 0x70010 then (0x70000, leBytes 4 s.mbox.cmd ++ leBytes 4 s.mbox.status ++ leBytes 8 s.mbox.arg)
  else if 0x80000 ≤ o ∧ o < 0x81100 then row 0x80000 0x100 (fun i => if i = 0 then s.mapHeader else (s.ten (i - 1)).bytes)
  else if 0x90000 ≤ o ∧ o < 0x90100 then row 0x90000 0x40 (fun d => let a := mget {} s.arbiters d; leBytes 1 a.mode ++ z 7 ++ leBytes 8 a.base ++ leBytes 8 a.size ++ leBytes 8 a.seq ++ leBytes 1 (boolNat a.ovf + 2 * boolNat a.div) ++ z 7 ++ leBytes 8 a.divseq)
  else if 0xA0000 ≤ o ∧ o < 0xA0800 then row 0xA0000 32 (fun i => (mget {} s.windows i).bytes)
  else (o, [])

/-- Bytes of the registers at an address. -/
def State.readReg (s : State) (addr n : Nat) : List Byte :=
  (List.range n).map (fun i => if addr < 0xF000000000000 then 0 else let o := addr - 0xF000000000000 + i; let b := s.regBlock o; b.2.getD (o - b.1) 0)

/-- R5: what a read clears: the fields with access code RC, LOST and CECNT of the logs (R442). -/
def State.clearRead (s : State) (addr n : Nat) : State :=
  let o := addr - 0xF000000000000
  let hit := fun (a k : Nat) => 0xF000000000000 ≤ addr && o < a + k && a < o + n
  (List.range 5).foldl (fun s u => s.modLog u (fun l => { l with lost := if hit (0x5000C + 0x40 * u) 4 then 0 else l.lost, cecnt := if hit (0x50018 + 0x40 * u) 8 then 0 else l.cecnt })) s

/-- REGISTER_WRITE (R5, R7): a write sets the fields that software may set; without a value, a read returns the fields, and zero for
what may only be written or is no field. -/
def execRegisterWrite (addr len : Nat) (v : Option W64) (s : State) : Host.Outcome State Fault Refusal :=
  let n := Nat.min len 8
  match v with
  | some v => .next (s.setReg addr (leBytes n v.toNat))
  | none => .next { s.clearRead addr n with answers := .data (s.readReg addr n) :: s.answers }

end Sys2Proof.Machine
end

