-- ==== Sys2Proof/Machine/Trust.lean ====
section
/-! DEFINITION. The Trust Anchor: its mailbox and the partition map (R408 to R410, R476), attestation (R413), firmware and boot
(R414, R415), device interfaces (R385), the management port (R419), set-up of the device (R416, R417) and cold reset (R66). -/
namespace Sys2Proof.Machine

/-! ### The mailbox (R409) -/

/-- One command of the mailbox: ignored while one is in progress; done, or refused with nothing changed. -/
def State.mail (s : State) (cmd : Nat) (f : State → Option State) : State :=
  if s.mbox.status = 0 then s
  else match f s with
    | some t => { t with mbox := { t.mbox with cmd := cmd, status := 1 } }
    | none => { s with mbox := { s.mbox with cmd := cmd, status := 2 } }

/-- The first free entry of the map from a number on. -/
def State.freeEntry (s : State) (n : Nat) : Option Nat := ((List.range 16).map (fun i => (n + i) % 16)).find? (fun t => (s.ten t).st == 0)

/-- CREATE (R409): a free entry with a fresh key. -/
def execCreate (entry key : Nat) (s : State) : Host.Outcome State Fault Refusal :=
  .next (s.mail 1 (fun s => (s.freeEntry entry).map (fun t => s.modTen t (fun _ => { st := 1, key := some key }))))

/-! ### Proposed entries (R408, R409) -/

def Tenancy.ofBytes (old : Tenancy) (b : List Byte) : Tenancy :=
  { old with regions := fieldAt b 4 4, slices := fieldAt b 8 4, vmid := fieldAt b 0xC 2, lens := fieldAt b 0x10 8, lensPasid := fieldAt b 0x18 4, nlens := fieldAt b 0x1C 4, queues := fieldAt b 0x20 32, carve := (List.range 4).map (fun i => (fieldAt b (0x40 + 16 * i) 8, fieldAt b (0x48 + 16 * i) 8)), dbgt := fieldAt b 0x80 8, ndbgt := fieldAt b 0x88 4, funcs := (List.range 16).map (fun i => fieldAt b (0x90 + 2 * i) 2) }

/-- R408: the reserved bytes are zero and the fields within their limits. -/
def entryOk (b : List Byte) : Bool :=
  let t := Tenancy.ofBytes {} b
  let slice := fun (d : Nat) => let x := fieldAt b (8 + d) 1; x < 128 && bitsOf x 4 3 ≤ 4 && x % 16 % 2 ^ bitsOf x 4 3 == 0
  let plain := fun (pa : Nat) => match paKind pa with | .hbm _ => true | .cxl => true | _ => false
  zeroBytes b 1 3 && zeroBytes b 0xE 2 && zeroBytes b 0x8C 4 && zeroBytes b 0xB0 80 && t.regions < 2 ^ 24 && (List.range 4).all slice && t.nlens ≤ 4096 && t.lensPasid < 2 ^ 20 &&
  t.carve.all (fun c => c.1 % 2 ^ 21 == 0 && c.2 % 2 ^ 21 == 0 && (c.2 == 0 || (plain c.1 && plain (c.1 + c.2 - 1))))

/-- STAGE (R409): the entry at ARG is recorded for a tenancy that is configuring or running; number 16 and above stands for the
header, whose first byte proposes L2MODE. -/
def execStage (ten : Nat) (s : State) : Host.Outcome State Fault Refusal :=
  .next (s.mail 2 (fun s =>
    if ten ≥ 16 then
      let m := fieldAt (s.cohRead s.mbox.arg 1) 0 1
      if m ≤ 1 then some { s with stagedMode := some m } else none
    else
      let b := s.cohRead s.mbox.arg 256
      if ((s.ten ten).st = 1 ∨ (s.ten ten).st = 2) ∧ entryOk b ∧ ¬ s.poisoned s.mbox.arg 256 then some { s with staged := mput s.staged ten (Tenancy.ofBytes (s.ten ten) b) } else none))

/-! ### COMMIT (R410) -/

/-- The map with every staged entry applied. -/
def State.proposed (s : State) (t : Nat) : Tenancy :=
  match s.staged.find? (fun e => e.1 == t) with | some (_, x) => { x with st := 2, key := (s.ten t).key } | none => s.ten t

/-- R408: no region, slice, queue, carve-out byte or function belongs to two tenancies. -/
def disjointTens (a b : Tenancy) : Bool :=
  a.regions &&& b.regions == 0 && a.queues &&& b.queues == 0 && !a.funcs.any (fun f => f != 0xFFFF && b.funcs.contains f) &&
  !a.carve.any (fun c => b.carve.any (fun d => rangesMeet c.1 c.2 d.1 d.2)) &&
  !(List.range 4).any (fun d => (a.sliceSet d).any (fun x => (b.sliceSet d).contains x))

def State.newMode (s : State) : Nat := s.stagedMode.getD s.l2mode
/-- R408, R409: the proposed map breaks no rule, and no staged entry names a tenancy in the wrong state. A tenancy that is still
configuring, with nothing staged, holds nothing. -/
def State.mapOk (s : State) : Bool :=
  s.staged.all (fun e => (s.ten e.1).st == 1 || (s.ten e.1).st == 2) &&
  (List.range 16).all (fun t => (List.range t).all (fun u => (s.proposed t).st ≤ 1 || (s.proposed u).st ≤ 1 || disjointTens (s.proposed t) (s.proposed u)))

/-- The owner of a region under the proposed map, 0xFF for none. -/
def State.newOwner (s : State) (n : Nat) : Nat := ((List.range 16).find? (fun t => (s.proposed t).st != 0 && bitOf (s.proposed t).regions n)).getD 0xFF
def State.movedRegions (s : State) : List Nat := (List.range 24).filter (fun n => (s.steward n).ten != s.newOwner n)

/-- R66, R410 step 3: a region's cores are cleared. -/
def State.clearCores (s : State) (n : Nat) : State :=
  (List.range 8).foldl (fun s i => s.modCore (8 * n + i) (fun c => { c with scr := [], scrPoison := [], acc := [], accPoison := [], mops := [], arrays := [{}, {}], lastTen := none })) s

/-- A byte that a staged entry grants and its tenancy did not have. -/
def State.newlyGranted (s : State) (pa : Nat) : Bool :=
  s.staged.any (fun e => e.2.carve.any (fun c => c.1 ≤ pa && pa < c.1 + c.2) && !(s.ten e.1).carve.any (fun c => c.1 ≤ pa && pa < c.1 + c.2))

/-- R410 step 4: the bytes newly granted read as zero. -/
def State.zeroGranted (s : State) : State :=
  let gone := fun (ln : Nat) => s.newlyGranted (128 * ln)
  { s with mem := s.mem.filter (fun c => !s.newlyGranted c.1), poison := s.poison.filter (fun x => !s.newlyGranted (32 * x)), lines := s.lines.filter (fun l => !gone l.addr), homes := s.homes.filter (fun h => !gone h.addr), msgs := s.msgs.filter (fun m => !gone m.addr), l1 := s.l1.filter (fun l => !gone l.addr) }

/-- R72: every L2 is written back and invalidated. -/
def State.flushAll (s : State) : State :=
  let s1 := (s.lines.filter (fun l => l.st.owns)).foldl (fun s l => s.rawWrite (128 * l.addr) l.latest) s
  { s1 with lines := [], homes := [], l1 := [] }
def State.allQuiet (s : State) : Bool :=
  s.homes.all (fun h => h.busy.isNone && h.queue == []) && s.msgs == [] && s.lines.all (fun l => l.st.stable && s.linePassed l)

/-- R410 steps 3 to 7, once no workgroup is left on a region that moves. -/
def State.applyCommit (s : State) : State :=
  let moved := s.movedRegions
  let s1 := (moved.foldl State.clearCores s).zeroGranted
  let s2 := if s.newMode = s.l2mode then s1 else s1.flushAll
  let give := fun (s2 : State) (n : Nat) =>
    let t := s.newOwner n
    let again := s.staged.any (fun e => bitOf e.2.regions n)
    s2.modSteward n (fun k => { k with ten := t, reserved := if moved.contains n then false else k.reserved, sstat := if again || k.sstat == 1 then 0 else k.sstat, restarts := if again && k.sstat == 3 then [] else k.restarts, downUntil := if again && k.sstat == 3 then none else k.downUntil })
  let s3 := (List.range 24).foldl give s2
  let s4 := s.staged.foldl (fun t e => t.modTen e.1 (fun _ => s.proposed e.1)) s3
  let owner := fun (rid : Nat) => (List.range 16).find? (fun t => (s4.ten t).st != 0 && rid != 0xFFFF && (s4.ten t).funcs.contains rid)
  { s4 with l2mode := s.newMode, staged := [], stagedMode := none, held := [], functions := s4.functions.map (fun f => { f with ten := owner f.rid }) }

/-- COMMIT (R410). While workgroups are pre-empted, and then while the stewards of regions that move clear their cores with SSTAT 1, the
command is busy, and the event comes again. -/
def execCommit (s : State) : Host.Outcome State Fault Refusal :=
  let busy := s.mbox.cmd == 3 && s.mbox.status == 0
  if s.mbox.status = 0 ∧ ¬ busy then .next s
  else if ¬ s.mapOk then .next { s with held := [], mbox := { s.mbox with cmd := 3, status := 2 } }
  else
    let moved := s.movedRegions
    let on := s.wgs.filter (fun w => w.phase != .saved && moved.contains w.region)
    let quiet := s.newMode = s.l2mode ∨ s.allQuiet
    let idle := moved.filter (fun n => (s.steward n).sstat == 0)
    if on = [] ∧ quiet ∧ idle = [] then .next { s.applyCommit with mbox := { s.mbox with cmd := 3, status := 1 } }
    else
      let tens := (s.staged.map Prod.fst) ++ (moved.map (fun n => (s.steward n).ten))
      let s1 := on.foldl (fun s w => s.askHalt w.key false) { s with held := tens.eraseDups, mbox := { s.mbox with cmd := 3, status := 0 } }
      let s2 := if on = [] ∧ quiet then idle.foldl (fun s n => s.modSteward n (fun k => { k with sstat := 1 })) s1 else s1
      .next (s2.waitEvent .commit)

/-! ### The end of a tenancy (R409, R476) -/

/-- Everything of a tenancy stops without images, records or signals, and its cores are cleared. -/
def State.dropTenancy (s : State) (t : Nat) : State :=
  let keys := (s.wgs.filter (fun w => w.ten == t)).map (·.key)
  let nums := (s.nodes.filter (fun n => n.ten == t)).map (·.num)
  let calls := (s.journal.filter (fun r => r.ten == t)).map (fun r => some r.req)
  let qs := (List.range 256).filter (fun q => (s.queue q).ten == t && (s.queue q).st != 0)
  let own : Copy → Bool := fun c => match c.owner with | .wg k _ => keys.contains k | .prog n _ => nums.contains n | .lens x _ => x == t | .prism _ _ => false
  let cmd : SlotCmd → Bool := fun c => match c with | .reply r => r.req.isSome && calls.contains r.req | _ => qs.any (fun q => c.of q)
  let copyIds := (s.copies.filter own).map (fun c => some c.id)
  let s1 := (s.views.filter (fun v => v.ten == t)).foldl State.dropView s
  let s2 := qs.foldl (fun s q => s.setQueue q (fun k => { k with st := 0, nout := 0, waddr := 0, wtgt := 0 })) s1
  let s3 : State := { s2 with wgs := s2.wgs.filter (fun w => w.ten != t), grids := s2.grids.filter (fun g => g.ten != t), nodes := s2.nodes.filter (fun n => n.ten != t), roots := s2.roots.filter (fun r => r.ten != t), copies := s2.copies.filter (fun c => !own c), fabric := s2.fabric.filter (fun f => f.posted || (!keys.contains f.wg && !(f.copy.isSome && copyIds.contains f.copy))), devLoads := s2.devLoads.filter (fun d => !keys.contains d.wg), contribs := s2.contribs.filter (fun c => c.atHome || c.peer.isSome || !keys.contains c.wg), services := s2.services.filter (fun r => r.ten != t), journal := s2.journal.filter (fun r => r.ten != t), lensRuns := s2.lensRuns.filter (fun r => r.ten != t), qfe := s2.qfe.map (fun e => (e.1, { e.2 with slots := e.2.slots.filter (fun c => !cmd c) })) }
  ((List.range 24).filter (fun n => (s.steward n).ten == t)).foldl (fun s n => (s.clearCores n).modSteward n (fun k => { k with reserved := false })) s3

/-- R476 steps 1 to 4. -/
def State.terminate (s : State) (t : Nat) : State := (s.dropTenancy t).modTen t (fun e => { e with st := 4, key := none })

/-- DESTROY (R409): the tenancy's regions and functions are released and its entry is free. -/
def execDestroy (ten : Nat) (s : State) : Host.Outcome State Fault Refusal :=
  .next (s.mail 4 (fun s =>
    if ten ≥ 16 ∨ (s.ten ten).st = 0 ∨ (s.ten ten).st = 3 then none
    else
      let s1 := s.dropTenancy ten
      let s2 := ((List.range 24).filter (fun n => (s.steward n).ten == ten)).foldl (fun s n => s.modSteward n (fun k => { k with ten := 0xFF })) s1
      let s3 : State := { s2 with staged := mdel s2.staged ten, ide := s2.ide.filter (fun e => match e.2 with | some rid => !s2.functions.any (fun f => f.rid == rid && f.ten == some ten) | none => true), functions := s2.functions.map (fun f => if f.ten = some ten then { f with ten := none, tdisp := 4 } else f) }
      some (s3.modTen ten (fun _ => {}))))

/-! ### Reports, firmware and interfaces (R385, R413 to R415) -/

/-- REPORT (R409, R413): the report is written at ARG. The command names no nonce, so that field is free. -/
def execReport (ten : Nat) (s : State) : Host.Outcome State Fault Refusal :=
  .next (s.mail 5 (fun s =>
    if ten ≥ 16 ∨ (s.ten ten).st = 0 then none
    else
      let nonce := (List.range 4).flatMap (fun i => leBytes 8 (Config.freeValue (s.free + i)).toNat)
      some (({ s with free := s.free + 4 } : State).hubPut s.mbox.arg (s.report ten nonce)).1))

/-- R414: the checks of an image in a slot. -/
def imageOk (old : FwSlot) (svn : Nat) (sigOk : Bool) : Bool := sigOk && old.minSvn ≤ svn

/-- A checked image takes the place of the slot's only one (R415). -/
def State.writeSlot (s : State) (slot : Nat) (image : List Byte) (ver svn : Nat) : State :=
  { s with fw := mset {} s.fw slot { mget {} s.fw slot with ver := ver, svn := svn, image := image, sigOk := true } }

/-- FWUPD (R415). -/
def execFwupd (slot : Nat) (image : List Byte) (ver svn : Nat) (sigOk : Bool) (s : State) : Host.Outcome State Fault Refusal :=
  .next (s.mail 6 (fun s => if slot < 8 ∧ imageOk (mget {} s.fw slot) svn sigOk then some (s.writeSlot slot image ver svn) else none))

/-- R385: the selective streams of a port. -/
def maxStreams : Nat := 8

/-- IDEKEY (R385): a port's link stream gets its keys; or a function of the tenancy gets one of the port's 8 selective streams, and its
interface is bound to the tenancy, in RUN or locked. -/
def execIdekey (rid : Option Nat) (port ten : Nat) (run : Bool) (s : State) : Host.Outcome State Fault Refusal :=
  .next (s.mail 7 (fun s =>
    let keyed : State := { s with ide := if s.ide.contains (port, rid) then s.ide else (port, rid) :: s.ide }
    match rid with
    | none => if port < 8 then some keyed else none
    | some r =>
      if s.functions.any (fun f => f.rid == r && f.port == port && f.ten == some ten) && (s.ide.contains (port, rid) || (s.ide.filter (fun e => e.1 == port && e.2.isSome)).length < maxStreams) then
        some { keyed with functions := s.functions.map (fun f => if f.rid = r then { f with tdisp := if run then 2 else 1 } else f) }
      else none))

/-- The order in which boot loads the slots (R414). -/
def bootOrder : List Nat := [0, 5, 7, 1, 4, 3, 6, 2]

/-- R414: each slot is checked, measured and started; the first that fails stops boot. -/
def State.runBoot (s : State) : List Nat → State
  | [] => { s with booted := true, bootFail := none }
  | k :: ks =>
    let f := mget {} s.fw k
    if imageOk f f.svn f.sigOk then State.runBoot { s with fw := mset {} s.fw k { f with loaded := some (f.ver, f.image) } } ks
    else { s with booted := false, bootFail := some k }

/-! ### The management port (R416, R419) -/

/-- READ_TELEMETRY (R419): the temperature and the power that the sensors give, and whether the power is at the limit. -/
def execReadTelemetry (temp watts : Nat) (s : State) : Host.Outcome State Fault Refusal :=
  .next { s with telemetry := [temp, watts, boolNat (s.power ≤ watts)] }

/-- SET_POWER_LIMIT (R419). -/
def execSetPowerLimit (watts : Nat) (s : State) : Host.Outcome State Fault Refusal :=
  if 600 ≤ watts ∧ watts ≤ 2800 then .next { s with power := watts } else .next s

/-- READ_BOOT_STATUS (R419): whether boot has ended, and the slot that stopped it, 0xFF for none. -/
def execReadBootStatus (s : State) : Host.Outcome State Fault Refusal :=
  .next { s with telemetry := [boolNat s.booted, s.bootFail.getD 0xFF] }

/-- READ_CERT_CHAIN (R413, R419). -/
def execReadCertChain (s : State) : Host.Outcome State Fault Refusal := .next { s with answers := .data Config.certChain :: s.answers }

/-- RECOVERY_LOAD (R415, R416, R419): an image that passes the checks of boot is written, and a boot that waits goes on. The
mailbox keeps the command, its status and the length. -/
def execRecoveryLoad (slot : Nat) (image : List Byte) (ver svn : Nat) (sigOk : Bool) (s : State) : Host.Outcome State Fault Refusal :=
  let ok := slot < 8 ∧ imageOk (mget {} s.fw slot) svn sigOk
  let s1 : State := { s with recMbox := [5, if ok then 1 else 2, image.length], recImage := image }
  if ¬ ok then .next s1
  else
    let s2 := s1.writeSlot slot image ver svn
    .next (if s.bootFail.isSome then s2.runBoot (bootOrder.dropWhile (fun k => some k != s.bootFail)) else s2)

/-- SET_DEVNUM (R417): once per cold reset, before a link carries traffic. -/
def execSetDevnum (n : Nat) (s : State) : Host.Outcome State Fault Refusal :=
  if s.devnumSet ∨ n > 1151 ∨ s.effUp ≠ [] then .next s else .next { s with devnum := n, devnumSet := true }

/-- EPWIN_WRITE (R416): the base, in HBM, and the enable bit together. -/
def execEpwinWrite (v : W64) (s : State) : Host.Outcome State Fault Refusal :=
  if v.toNat ≥ 2 ^ 40 then .next s else .next { s with epwin := v.toNat / 2 ^ 30 * 2 ^ 30 + v.toNat % 2 }

/-- LINK_AUTHENTICATION (R417): Effeop ports are numbered as in R464. -/
def execLinkAuthentication (port : Nat) (ok : Bool) (s : State) : Host.Outcome State Fault Refusal :=
  if port < 0x10 ∨ port > 0x21 ∨ ¬ s.devnumSet then .next s
  else if ok then .next { s with effAuth := insertNat port s.effAuth, effUp := insertNat port s.effUp }
  else .next { s with effAuth := s.effAuth.filter (· != port), effUp := s.effUp.filter (· != port) }

/-! ### Cold reset (R66, R414, R484) -/

/-- COLD_RESET: what the package's flash, fuses and straps hold stays, as does what memory holds; boot follows. -/
def execColdReset (s : State) : Host.Outcome State Fault Refusal :=
  let sites := s.stewards.filterMap (fun e => if e.2.sites = 0 then none else some (e.1, ({ sites := e.2.sites } : Steward)))
  let cores := s.cores.filterMap (fun e => if e.2.spare ∨ ¬ e.2.avail then some (e.1, ({ spare := e.2.spare, avail := e.2.avail } : Core)) else none)
  let fw := s.fw.map (fun e => (e.1, { e.2 with loaded := none }))
  let r : State := { State.reset with mem := s.mem, poison := s.poison, free := s.free, fw := fw, fuse := s.fuse, pcfg := mset 0 [] 7 (mget 0 s.pcfg 7 &&& 0x10#32), substs := s.substs, wornOut := s.wornOut, stewards := sites, cores := cores }
  .next (r.runBoot bootOrder)

end Sys2Proof.Machine
end

