-- ==== Sys2Proof/Machine/System.lean ====
section
/-! DEFINITION. When the system goes wrong: watchdogs with the restarts of QFE cores and stewards (R465, R467, R468), root-port errors
and containment (R469, R470), the kernel restart (R475, R477), Effeop ports and routes (R478 to R480), the event arbiters
(R481 to R483) and spares (R484). -/
namespace Sys2Proof.Machine

/-! ### Watchdogs (R465, R467, R468) -/

def State.watchdog (s : State) (w : Nat) : Watchdog := mget {} s.watchdogs w
def State.modWatchdog (s : State) (w : Nat) (f : Watchdog → Watchdog) : State := { s with watchdogs := mset {} s.watchdogs w (f (s.watchdog w)) }

/-- Restarts within the last 2^32 cycles, with this one. -/
def State.lately (s : State) (l : List Nat) : List Nat := l.filter (fun t => s.cycle < t + 2 ^ 32) ++ [s.cycle]

/-- R467: restart of QFE core w. Its duration is free within 2^22 cycles; the eighth restart in the window stops it for good. -/
def State.restartQfe (s : State) (w cause : Nat) : State :=
  let times := s.lately (s.qfeCore w).times
  let dead := times.length ≥ 8
  let s1 := s.logRec { unit := 4, code := 0x50, sev := if dead then 2 else 1, src := 8, uno := w, aux := w + 256 * cause }
  if dead then
    let s2 := s1.modQfe w (fun c => { c with stopped := true, restart := none, times := times })
    ((List.range 64).filter (fun i => (s2.queue (64 * w + i)).st == 1)).foldl (fun s i => s.queueError (64 * w + i) 5) s2
  else
    let (v, s2) := s1.freeVal
    (s2.modQfe w (fun c => { c with restart := some (s.cycle + v.toNat % 2 ^ 22), times := times, took := [], step := 0 })).waitEvent (.watchdogExpiry w false)

/-- R467 steps 3 and 4: the running queues are read from their QSBs, WRIDX with them, and the core goes on. -/
def State.resumeQueue (s : State) (q : Nat) : State :=
  let s1 := s.modQueue q s.loadQueue
  let k := s1.queue q
  if (k.rung + 2 ^ 32 - k.rdidx) % 2 ^ 32 > 2 ^ k.log2depth then s1.queueError q 1 else s1
def State.resumeQfe (s : State) (w : Nat) : State :=
  ((List.range 64).filter (fun i => (s.queue (64 * w + i)).st == 1)).foldl (fun s i => s.resumeQueue (64 * w + i)) (s.modQfe w (fun c => { c with restart := none }))

/-- R468: the grids with a workgroup on a failed region end with status 0xA. -/
def State.endRegion (s : State) (n : Nat) : State :=
  let hit := s.grids.filter (fun g => !g.closing && (g.ended == some (0xA, 0, 0) || s.wgs.any (fun w => w.grid == g.id && w.phase != .saved && w.region == n)))
  hit.foldl (fun s g => match s.grid? g.id with | some gr => s.abortGrid gr (0xA, 0, 0) (.watchdogExpiry (8 + n) false) | none => s) s

/-- R468: restart of the steward of region n; the third in the window fails the region. -/
def State.restartSteward (s : State) (n : Nat) : State :=
  let times := s.lately (s.steward n).restarts
  let dead := times.length ≥ 3
  let s1 := s.logRec { unit := 4, code := 0x51, sev := if dead then 2 else 1, ten := (s.steward n).ten, src := 11, uno := 8 * n, aux := n + 256 * times.length }
  if dead then (s1.modSteward n (fun k => { k with sstat := 3, restarts := times, downUntil := none })).endRegion n
  else
    let (v, s2) := s1.freeVal
    (s2.modSteward n (fun k => { k with restarts := times, downUntil := some (s.cycle + v.toNat % 2 ^ 22) })).waitEvent (.watchdogExpiry (8 + n) false)

/-- A restart of the watched firmware: the window begins again. -/
def State.restartFw (s : State) (w cause : Nat) : State :=
  let s1 := s.modWatchdog w (fun d => { d with cause := cause, restarts := Nat.min (d.restarts + 1) 0xFFFF, kicked := s.cycle })
  if w < 4 then s1.restartQfe w cause else if 8 ≤ w ∧ w < 32 then s1.restartSteward (w - 8) else s1

/-- WATCHDOG_KICK (R465): a kick before WMIN restarts the firmware; new bounds take effect. -/
def execWatchdogKick (w : Nat) (s : State) : Host.Outcome State Fault Refusal :=
  let d := s.watchdog w
  let s1 := s.modWatchdog w (fun d => { d with kicked := s.cycle, wmax := d.nextMax, wmin := d.nextMin })
  if w ≥ 32 ∨ (4 ≤ w ∧ w < 8) then .next s
  else if s.cycle < d.kicked + 1024 * d.wmin ∨ d.wmax ≤ d.wmin then .next (s1.restartFw w 1)
  else .next s1

/-- WATCHDOG_EXPIRY (R465, R467, R468): no kick by WMAX, or an uncorrectable error in the firmware's memory; and the end of a restart
that is in progress. -/
def execWatchdogExpiry (w : Nat) (fwError : Bool) (s : State) : Host.Outcome State Fault Refusal :=
  let d := s.watchdog w
  let again : State := if s.waiting.contains (.watchdogExpiry w fwError) then s else s.waitEvent (.watchdogExpiry w fwError)
  if w ≥ 32 ∨ (4 ≤ w ∧ w < 8) then .next s
  else match (if w < 4 then (s.qfeCore w).restart else (s.steward (w - 8)).downUntil) with
    | some t =>
      if s.cycle < t then .next again
      else if w ≥ 8 then .next (s.modSteward (w - 8) (fun k => { k with downUntil := none, seen := [] }))
      else if (s.qfeCore w).slots ≠ [] then .next again
      else .next (s.resumeQfe w)
    | none =>
      if w < 4 ∧ (s.qfeCore w).stopped then .next s
      else if w ≥ 8 ∧ (s.steward (w - 8)).sstat = 3 then .next (s.endRegion (w - 8))
      else if fwError then .next (s.restartFw w 3)
      else if s.cycle > d.kicked + 1024 * d.wmax then .next (s.restartFw w 2)
      else .next s

/-! ### Root ports (R469, R470) -/

/-- A lane's device load completes with poison. -/
def State.poisonLoad (s : State) (id : Nat) : State :=
  { s with devLoads := s.devLoads.map (fun d => if d.id = id ∧ d.ans.isNone then { d with ans := some none } else d) }

/-- R470: the link is held down; its posted writes are discarded and its outstanding requests complete with poison. -/
def State.contain (s : State) (port link : Nat) : State :=
  let s1 : State := { s with links := s.links.map (fun l => if l.port = port ∧ l.link = link then { l with up := false, contained := true } else l) }
  let lost := s1.posted.filter (fun p => s1.contained p.port p.pa)
  let s2 : State := { s1 with posted := s1.posted.filter (fun p => !s1.contained p.port p.pa), devLoads := s1.devLoads.map (fun d => if s1.contained d.port d.pa ∧ d.ans.isNone then { d with ans := some none } else d), copies := s1.copies.map (fun c => { c with pend := c.pend.filter (fun i => !lost.any (fun p => p.id == i)) }) }
  let s3 := lost.foldl (fun s p => s.settle p.wg p.grp p.id 0) s2
  s3.logRec { unit := 4, code := 0x53, sev := 2, src := 10, aux := port + 16 * link }

/-- ROOT_PORT_ERROR (R469). -/
def execRootPortError (port link rid : Nat) (status : W32) (err : PortErr) (s : State) : Host.Outcome State Fault Refusal :=
  match err with
  | .correctable => .next (s.corrected 4)
  | .loadFails pend => .next ((s.poisonLoad pend).logPcie rid status.toNat)
  | .poisonedWrite req => .next { s with agenda := .endpointDmaWrite { req with poisoned := true } :: s.agenda }
  | .fatal => .next (s.contain port link)

/-- COMPLETION_TIMEOUT (R469). -/
def execCompletionTimeout (port _link rid : Nat) (status : W32) (pend : Nat) (s : State) : Host.Outcome State Fault Refusal :=
  if s.devLoads.any (fun d => d.id == pend && d.port == port && d.ans.isNone && d.since + 2 ^ 26 ≤ s.cycle) then .next ((s.poisonLoad pend).logPcie rid status.toNat) else .next s

/-- CONTAINMENT_RELEASE (R470): the link may train again, and its functions are enumerated anew. -/
def execContainmentRelease (port link : Nat) (s : State) : Host.Outcome State Fault Refusal :=
  .next { s with links := s.links.map (fun l => if l.port = port ∧ l.link = link then { l with contained := false } else l), functions := s.functions.map (fun f => if f.port = port ∧ f.link = link then { f with refused := false, atsWait := false } else f) }

/-! ### The kernel restart (R475, R477) -/

/-- The tenancy in whose carve-out an address lies. -/
def State.carveOwner (s : State) (pa : Nat) : Option Nat := (List.range 16).find? (fun t => (s.ten t).st != 0 && s.inCarve t pa 1)

/-- R477 steps 3 to 5. -/
def State.finishRestart (s : State) (hashOk : Bool) : State :=
  let frozen := (List.range 16).filter (fun t => (s.ten t).st == 3)
  let images := fun (t : Nat) => (s.wgs.filter (fun w => w.ten == t)).filterMap (fun w => (s.grid? w.grid).map (fun gr => sha256 (s.imageBytes gr w 0 (s.imageSize gr w))))
  let s1 : State := { s with restarting := false, restarts := s.restarts + 1, fw := let f := mget {} s.fw 2; mset {} s.fw 2 { f with loaded := some (f.ver, f.image) } }
  let s2 := frozen.foldl (fun s2 t => s2.modTen t (fun e => { e with hashes := sha256 e.bytes :: images t })) s1
  let s3 := frozen.foldl (fun s t => if hashOk then s.modTen t (fun e => { e with st := 2 }) else s.terminate t) s2
  ((List.range 256).filter (fun q => (s3.queue q).st == 1)).foldl State.resumeQueue s3

/-- SYSTEM_LINE_UNCORRECTABLE (R475 to R477): a clean line is dropped, and the next access fetches it again. A dirty line of a
tenancy terminates it; any other dirty line restarts the kernel, for which every
resident workgroup is pre-empted first. hashOk is the outcome of the comparison of step 4. -/
def execSystemLineUncorrectable (pa : Nat) (hashOk : Bool) (s : State) : Host.Outcome State Fault Refusal :=
  let ln := pa / 128
  let lost := match s.line? 4 ln with
    | some l => if l.st.owns then (let h := s.home ln; (s.removeOwner 4 ln).setHome { h with owner := none, st := if h.sharers = [] then .i else .s }) else s.dropLine 4 ln
    | none => s
  let clean := match s.line? 4 ln with | some l => l.st == .s || l.st == .e | none => false
  if clean && !s.restarting then .next lost
  else match s.carveOwner pa with
  | some t => .next ((lost.logRec { unit := 4, code := 0x57, sev := 2, ten := t, src := 12, pa := pa, aux := 0 }).terminate t)
  | none =>
    let s1 : State := if s.restarting then s else
      let r := lost.logRec { unit := 4, code := 0x57, sev := 2, src := 12, pa := pa, aux := 1 }
      { r with restarting := true, tens := r.tens.map (fun e => if e.2.st = 2 then (e.1, { e.2 with st := 3 }) else e) }
    let on := s1.wgs.filter (fun w => w.phase != .saved && (s1.ten w.ten).st == 3)
    if on = [] then .next (s1.finishRestart hashOk)
    else .next ((on.foldl (fun s w => s.askHalt w.key false) s1).waitEvent (.systemLineUncorrectable pa hashOk))

/-! ### Effeop ports and routes (R478 to R480) -/

/-- LANE_RETRAIN (R478). -/
def execLaneRetrain (port lane : Nat) (s : State) : Host.Outcome State Fault Refusal :=
  if port < 8 ∨ (0x10 ≤ port ∧ port ≤ 0x21) then .next (s.useSpareLane port lane) else .next s

/-- PORT_DOWN_REROUTE (R479): the lanes move to the remaining ports of each route through the port. -/
def execPortDownReroute (port : Nat) (s : State) : Host.Outcome State Fault Refusal :=
  let s1 : State := { s with effUp := s.effUp.filter (· != port) }
  let hit := s.routes.filter (fun r => r.2.contains port)
  let log := fun (s : State) (d sev : Nat) => s.logRec { unit := 4, code := 0x58, sev := sev, src := 6, aux := port + 256 * d }
  if hit = [] then .next (log s1 0 1) else .next (hit.foldl (fun s r => log s r.1 (if s1.unreachable r.1 then 2 else 1)) s1)

/-- ROUTE_LOST (R480): outstanding loads and returning atomics return poison. -/
def execRouteLost (dev : Nat) (s : State) : Host.Outcome State Fault Refusal :=
  let returns : PeerOp → Bool := fun op => match op with | .load _ => true | .atom r _ _ _ _ _ => r | _ => false
  let s1 : State := { s with routes := mput s.routes dev [], fabric := s.fabric.map (fun f => if bitsOf f.ptr 49 11 = dev ∧ f.vis.isNone ∧ f.ans.isNone ∧ returns f.op then { f with ans := some .poison } else f) }
  .next (s1.logRec { unit := 4, code := 0x58, sev := 2, src := 6, aux := 256 * dev })

/-! ### Event arbiters (R481 to R483) -/

def State.arbiter (s : State) (d : Nat) : Arbiter := mget {} s.arbiters d
def State.modArbiter (s : State) (d : Nat) (f : Arbiter → Arbiter) : State := { s with arbiters := mset {} s.arbiters d (f (s.arbiter d)) }

/-- ARBITER_MODE_WRITE (R481): only while no kernel runs on the die. -/
def execArbiterModeWrite (die mode : Nat) (s : State) : Host.Outcome State Fault Refusal :=
  if die ≥ 4 ∨ mode > 2 ∨ s.wgs.any (fun w => w.phase != .saved && w.cores.any (fun c => dieOfCore c == die)) then .next s
  else .next (s.modArbiter die (fun a => { mode := mode, base := a.base, size := a.size }))

/-- Record i of a journal: KIND, SRC and TGT (R482). -/
def State.journalAt (s : State) (a : Arbiter) (i : Nat) : Nat × Nat × Nat :=
  let b := s.cohRead (a.base + 16 * i) 16
  (fieldAt b 0 1, fieldAt b 4 4, fieldAt b 8 8)

/-- R26: an event that the arbiter has passed acts next; an arrival is told from one that has yet to reach the arbiter. -/
def State.passOn (s : State) (evs : List Instr) : State :=
  let arrives := fun (i : Instr) => match i with | .space6AccessArrival _ _ _ _ => true | .iatBarrierArrival _ => true | .iatCounterAdd _ => true | _ => false
  { s with agenda := evs ++ s.agenda, ordered := s.ordered ++ evs.filter arrives }

/-- R483: the held event that the next record names, if one is held, and so on with the record after it. -/
def State.release (s : State) (die : Nat) : (fuel : Nat) → State
  | 0 => s
  | f + 1 =>
    let a := s.arbiter die
    match a.held.find? (fun h => a.recNo < a.size / 16 && (h.1, h.2.1 % 2 ^ 32, h.2.2.1 % 2 ^ 64) == s.journalAt a a.recNo) with
    | none => s.modArbiter die (fun a => { a with waitSince := if a.held = [] then none else a.waitSince })
    | some h =>
      let s1 := s.modArbiter die (fun a => { a with held := a.held.erase h, recNo := a.recNo + 1, seq := a.seq + 1, waitSince := some s.cycle })
      State.release (s1.passOn [h.2.2.2]) die f

/-- R483: replay ends with DIV, and every held event is applied. -/
def State.diverge (s : State) (die : Nat) : State :=
  let a := s.arbiter die
  let s1 := s.modArbiter die (fun a => { a with mode := 0, div := true, divseq := a.seq, held := [], waitSince := none, seq := a.seq + a.held.length })
  (s1.passOn (a.held.map (·.2.2.2))).logRec { unit := 4, code := 0x59, src := 6, uno := die, aux := a.seq }

/-- NONDETERMINISTIC_EVENT (R26, R482, R483): numbered and applied; in capture its record is written first; in replay it is held until
its record comes. -/
def execNondeterministicEvent (die kind src tgt : Nat) (ev : Instr) (s : State) : Host.Outcome State Fault Refusal :=
  let a := s.arbiter die
  let go := fun (s : State) => (s.modArbiter die (fun a => { a with seq := a.seq + 1 })).passOn [ev]
  match a.mode with
  | 0 => .next (go s)
  | 1 =>
    if 16 * (a.seq + 1) > a.size then .next (go (s.modArbiter die (fun a => { a with mode := 0, ovf := true })))
    else .next (go (s.hubWrite (a.base + 16 * a.seq) (leBytes 1 kind ++ leBytes 3 0 ++ leBytes 4 src ++ leBytes 8 tgt)))
  | _ =>
    let left := (List.range (a.size / 16 - a.recNo)).map (fun i => s.journalAt a (a.recNo + i))
    let held := a.held ++ [(kind, src, tgt, ev)]
    let s1 := s.modArbiter die (fun a => { a with held := held, waitSince := some (a.waitSince.getD s.cycle) })
    let name := (kind, src % 2 ^ 32, tgt % 2 ^ 64)
    if (left.filter (· == name)).length < (held.filter (fun h => (h.1, h.2.1 % 2 ^ 32, h.2.2.1 % 2 ^ 64) == name)).length then .next (s1.diverge die)
    else .next (s1.release die (held.length + 1))

/-- REPLAY_DIVERGENCE (R483): the next record has stayed unmatched for 2^24 cycles while an event is held. -/
def execReplayDivergence (die : Nat) (s : State) : Host.Outcome State Fault Refusal :=
  let a := s.arbiter die
  match a.waitSince with
  | some t => if a.mode = 2 ∧ a.held ≠ [] ∧ t + 2 ^ 24 ≤ s.cycle then .next (s.diverge die) else .next s
  | none => .next s

/-! ### Spares (R484) -/

/-- The structure exists: a logical core is on its own die (R13), and a slice is one of a die's 16 (R71). -/
def Subst.real (x : Subst) : Bool :=
  match x.kind with
  | .core => x.idx < 192 && x.unit == dieOfCore x.idx
  | .hart => x.idx < 32
  | .l2way => x.unit < 4 && x.idx < 16
  | _ => true

def kindNo (k : SpareKind) : Nat := match k with | .core => 1 | .hart => 2 | .l2way => 3 | .row => 4 | .channel => 5 | .lane => 6

/-- A spare of the kind is left for a structure. The unit is the die of a core or an L2 slice, the bank of a row, the stack of a
channel and the port of a lane. -/
def State.spareLeft (s : State) (x : Subst) : Bool :=
  let used := s.substs ++ s.worn
  let n := fun (p : Subst → Bool) => (used.filter (fun y => y.kind == x.kind && p y)).length
  match x.kind with
  | .core => n (fun y => y.unit == x.unit) < 4
  | .hart => n (fun _ => true) < 2
  | .l2way => n (fun y => y.unit == x.unit && y.idx == x.idx) < 1
  | .row => n (fun y => y.unit == x.unit) < Config.repairRows
  | .channel => n (fun y => y.unit == x.unit) < 1
  | .lane => !s.laneSpare.contains x.unit && n (fun y => y.unit == x.unit) < 1

def State.logSpare (s : State) (code sev : Nat) (x : Subst) : State :=
  s.logRec { unit := 4, code := code, sev := sev, src := 12, aux := kindNo x.kind + 256 * (x.idx % 2 ^ 16) }

/-- WEAR_THRESHOLD (R484): a spare is scheduled, or none is left. -/
def execWearThreshold (kind : SpareKind) (unit idx : Nat) (s : State) : Host.Outcome State Fault Refusal :=
  let x : Subst := { kind := kind, unit := unit, idx := idx }
  if s.worn.contains x ∨ ¬ x.real then .next s
  else if s.spareLeft x then .next { s with worn := s.worn ++ [x] }
  else .next ({ s with wornOut := if s.wornOut.contains x then s.wornOut else s.wornOut ++ [x] }.logSpare 0x5B 2 x)

/-- The spare is in use, and the substitution is recorded. -/
def State.spareTaken (s : State) (x : Subst) : State :=
  ({ s with worn := s.worn.erase x, substs := s.substs ++ [x] } : State).logSpare 0x5A 1 x

/-- R13, R407: the logical core lies on a spare site, whose storage is clear. -/
def State.moveSite (s : State) (core : Nat) : State :=
  let n := regionOfCore core
  (s.modCore core (fun c => { spare := true, avail := c.avail })).modSteward n (fun k => { k with sites := k.sites ||| 2 ^ (core % 8) })

/-- SPARE_SUBSTITUTION (R484), at the time that its kind allows: for a core and an L2 way a context boundary, which pre-emption or
write-back brings about. -/
def execSpareSubstitution (kind : SpareKind) (unit idx : Nat) (s : State) : Host.Outcome State Fault Refusal :=
  let x : Subst := { kind := kind, unit := unit, idx := idx }
  if ¬ s.worn.contains x ∨ ¬ x.real then .next s
  else match kind with
    | .core =>
      let on := s.wgs.filter (fun w => w.phase != .saved && w.cores.contains idx)
      if on = [] then .next ((s.spareTaken x).moveSite idx) else .next (on.foldl (fun s w => s.askHalt w.key (w.clsize > 1 && w.cores.length ≤ 1)) s)
    | .l2way =>
      let mine := s.lines.filter (fun l => l.agent == unit && s.sliceOf unit l.ten (128 * l.addr) == idx)
      let dirty := mine.filter (fun l => l.st == .m || l.st == .o)
      if mine.any (fun l => s.wgs.any (fun w => w.phase != .saved && w.ten == l.ten)) then .next s
      else if dirty = [] then .next (s.spareTaken x)
      else .next { s with agenda := (dirty.filter (fun l => !l.leaving)).map (fun l => if l.st = .m then Instr.putm l.agent l.addr else Instr.puto l.agent l.addr) ++ s.agenda }
    | .hart => .next ((s.spareTaken x).modHart idx (fun h => { h with spare := true }))
    | .lane => .next (({ s with laneSpare := insertNat unit s.laneSpare } : State).spareTaken x)
    | _ => .next (s.spareTaken x)

end Sys2Proof.Machine
end

