-- ==== Sys2Proof/Machine/Dispatch.lean ====
section
/-! DEFINITION. What each instruction does: one arm per constructor, each one direct call of its meaning. -/
namespace Sys2Proof.Machine

/-- The effect of one instruction or step on the machine. -/
def exec (i : Instr) (s : State) : Host.Outcome State Fault Refusal :=
  match i with
  | .mov w => Sys2Proof.Machine.execMov w s
  | .movi w => Sys2Proof.Machine.execMovi w s
  | .movs w => Sys2Proof.Machine.execMovs w s
  | .sset w => Sys2Proof.Machine.execSset w s
  | .movg w => Sys2Proof.Machine.execMovg w s
  | .iadd w => Sys2Proof.Machine.execIadd w s
  | .iaddImm w => Sys2Proof.Machine.execIaddImm w s
  | .isub w => Sys2Proof.Machine.execIsub w s
  | .isubImm w => Sys2Proof.Machine.execIsubImm w s
  | .imul w => Sys2Proof.Machine.execImul w s
  | .imulImm w => Sys2Proof.Machine.execImulImm w s
  | .imulh w => Sys2Proof.Machine.execImulh w s
  | .imad w => Sys2Proof.Machine.execImad w s
  | .idiv w => Sys2Proof.Machine.execIdiv w s
  | .irem w => Sys2Proof.Machine.execIrem w s
  | .imin w => Sys2Proof.Machine.execImin w s
  | .imax w => Sys2Proof.Machine.execImax w s
  | .iabs w => Sys2Proof.Machine.execIabs w s
  | .ineg w => Sys2Proof.Machine.execIneg w s
  | .and w => Sys2Proof.Machine.execAnd w s
  | .andImm w => Sys2Proof.Machine.execAndImm w s
  | .or w => Sys2Proof.Machine.execOr w s
  | .orImm w => Sys2Proof.Machine.execOrImm w s
  | .xor w => Sys2Proof.Machine.execXor w s
  | .xorImm w => Sys2Proof.Machine.execXorImm w s
  | .andn w => Sys2Proof.Machine.execAndn w s
  | .not w => Sys2Proof.Machine.execNot w s
  | .shl w => Sys2Proof.Machine.execShl w s
  | .shlImm w => Sys2Proof.Machine.execShlImm w s
  | .shr w => Sys2Proof.Machine.execShr w s
  | .shrImm w => Sys2Proof.Machine.execShrImm w s
  | .sar w => Sys2Proof.Machine.execSar w s
  | .sarImm w => Sys2Proof.Machine.execSarImm w s
  | .rotl w => Sys2Proof.Machine.execRotl w s
  | .rotlImm w => Sys2Proof.Machine.execRotlImm w s
  | .popc w => Sys2Proof.Machine.execPopc w s
  | .clz w => Sys2Proof.Machine.execClz w s
  | .ctz w => Sys2Proof.Machine.execCtz w s
  | .brev w => Sys2Proof.Machine.execBrev w s
  | .bfx w => Sys2Proof.Machine.execBfx w s
  | .bfi w => Sys2Proof.Machine.execBfi w s
  | .sel w => Sys2Proof.Machine.execSel w s
  | .icmp w => Sys2Proof.Machine.execIcmp w s
  | .icmpImm w => Sys2Proof.Machine.execIcmpImm w s
  | .plog w => Sys2Proof.Machine.execPlog w s
  | .lea w => Sys2Proof.Machine.execLea w s
  | .ptag w => Sys2Proof.Machine.execPtag w s
  | .qxch w => Sys2Proof.Machine.execQxch w s
  | .shfl w => Sys2Proof.Machine.execShfl w s
  | .vote w => Sys2Proof.Machine.execVote w s
  | .scan w => Sys2Proof.Machine.execScan w s
  | .gred w => Sys2Proof.Machine.execGred w s
  | .fadd w => Sys2Proof.Machine.execFadd w s
  | .faddImm w => Sys2Proof.Machine.execFaddImm w s
  | .fsub w => Sys2Proof.Machine.execFsub w s
  | .fmul w => Sys2Proof.Machine.execFmul w s
  | .fmulImm w => Sys2Proof.Machine.execFmulImm w s
  | .ffma w => Sys2Proof.Machine.execFfma w s
  | .fmin w => Sys2Proof.Machine.execFmin w s
  | .fmax w => Sys2Proof.Machine.execFmax w s
  | .fcmp w => Sys2Proof.Machine.execFcmp w s
  | .fclass w => Sys2Proof.Machine.execFclass w s
  | .fdiv w => Sys2Proof.Machine.execFdiv w s
  | .fsqrt w => Sys2Proof.Machine.execFsqrt w s
  | .frcp w => Sys2Proof.Machine.execFrcp w s
  | .frsq w => Sys2Proof.Machine.execFrsq w s
  | .frnd w => Sys2Proof.Machine.execFrnd w s
  | .fldx w => Sys2Proof.Machine.execFldx w s
  | .cvt w => Sys2Proof.Machine.execCvt w s
  | .cvtm w => Sys2Proof.Machine.execCvtm w s
  | .cvtx w => Sys2Proof.Machine.execCvtx w s
  | .fpack w => Sys2Proof.Machine.execFpack w s
  | .funpk w => Sys2Proof.Machine.execFunpk w s
  | .fexp2 w => Sys2Proof.Machine.execFexp2 w s
  | .flog2 w => Sys2Proof.Machine.execFlog2 w s
  | .ftanh w => Sys2Proof.Machine.execFtanh w s
  | .frred w => Sys2Proof.Machine.execFrred w s
  | .fsin w => Sys2Proof.Machine.execFsin w s
  | .fcos w => Sys2Proof.Machine.execFcos w s
  | .ld w => Sys2Proof.Machine.execLd w s
  | .st w => Sys2Proof.Machine.execSt w s
  | .pfch w => Sys2Proof.Machine.execPfch w s
  | .cfls w => Sys2Proof.Machine.execCfls w s
  | .cinv w => Sys2Proof.Machine.execCinv w s
  | .icinv w => Sys2Proof.Machine.execIcinv w s
  | .csync w => Sys2Proof.Machine.execCsync w s
  | .fence w => Sys2Proof.Machine.execFence w s
  | .atom w => Sys2Proof.Machine.execAtom w s
  | .red w => Sys2Proof.Machine.execRed w s
  | .reds w => Sys2Proof.Machine.execReds w s
  | .binit w => Sys2Proof.Machine.execBinit w s
  | .barr w => Sys2Proof.Machine.execBarr w s
  | .barw w => Sys2Proof.Machine.execBarw w s
  | .bwait w => Sys2Proof.Machine.execBwait w s
  | .bexp w => Sys2Proof.Machine.execBexp w s
  | .bqry w => Sys2Proof.Machine.execBqry w s
  | .cntadd w => Sys2Proof.Machine.execCntadd w s
  | .cntwait w => Sys2Proof.Machine.execCntwait w s
  | .chbind w => Sys2Proof.Machine.execChbind w s
  | .chstat w => Sys2Proof.Machine.execChstat w s
  | .mlds w => Sys2Proof.Machine.execMlds w s
  | .mswp w => Sys2Proof.Machine.execMswp w s
  | .mma w => Sys2Proof.Machine.execMma w s
  | .accz w => Sys2Proof.Machine.execAccz w s
  | .mwin w => Sys2Proof.Machine.execMwin w s
  | .ldacc w => Sys2Proof.Machine.execLdacc w s
  | .stacc w => Sys2Proof.Machine.execStacc w s
  | .accq w => Sys2Proof.Machine.execAccq w s
  | .vsync w => Sys2Proof.Machine.execVsync w s
  | .vchk w => Sys2Proof.Machine.execVchk w s
  | .vreq w => Sys2Proof.Machine.execVreq w s
  | .bra w => Sys2Proof.Machine.execBra w s
  | .brp w => Sys2Proof.Machine.execBrp w s
  | .brc w => Sys2Proof.Machine.execBrc w s
  | .jmp w => Sys2Proof.Machine.execJmp w s
  | .call w => Sys2Proof.Machine.execCall w s
  | .calli w => Sys2Proof.Machine.execCalli w s
  | .ret w => Sys2Proof.Machine.execRet w s
  | .loop w => Sys2Proof.Machine.execLoop w s
  | .exit w => Sys2Proof.Machine.execExit w s
  | .nop w => Sys2Proof.Machine.execNop w s
  | .ssync w => Sys2Proof.Machine.execSsync w s
  | .yield w => Sys2Proof.Machine.execYield w s
  | .sleep w => Sys2Proof.Machine.execSleep w s
  | .trap w => Sys2Proof.Machine.execTrap w s
  | .brk w => Sys2Proof.Machine.execBrk w s
  | .syscall w => Sys2Proof.Machine.execSyscall w s
  | .getlt w => Sys2Proof.Machine.execGetlt w s
  | .spawn w => Sys2Proof.Machine.execSpawn w s
  | .dbell w => Sys2Proof.Machine.execDbell w s
  | .cpy w => Sys2Proof.Machine.execCpy w s
  | .cpyr w => Sys2Proof.Machine.execCpyr w s
  | .cpyg w => Sys2Proof.Machine.execCpyg w s
  | .rotation wg grp => Sys2Proof.Machine.execRotation wg grp s
  | .immediateSwap wg grp => Sys2Proof.Machine.execImmediateSwap wg grp s
  | .sleepExpires wg grp spilled pos => Sys2Proof.Machine.execSleepExpires wg grp spilled pos s
  | .leaseClockTick die => Sys2Proof.Machine.execLeaseClockTick die s
  | .releaseWaitEnds wg grp pos => Sys2Proof.Machine.execReleaseWaitEnds wg grp pos s
  | .groupRetire wg grp => Sys2Proof.Machine.execGroupRetire wg grp s
  | .trapEntry wg grp pos => Sys2Proof.Machine.execTrapEntry wg grp pos s
  | .abortReport wg cause sub => Sys2Proof.Machine.execAbortReport wg cause sub s
  | .stallDetected grid => Sys2Proof.Machine.execStallDetected grid s
  | .preemptRequest wg => Sys2Proof.Machine.execPreemptRequest wg s
  | .preemptHalt wg => Sys2Proof.Machine.execPreemptHalt wg s
  | .memoryOpAbandon wg grp pos => Sys2Proof.Machine.execMemoryOpAbandon wg grp pos s
  | .contextSave wg => Sys2Proof.Machine.execContextSave wg s
  | .imageUpdate wg upd => Sys2Proof.Machine.execImageUpdate wg upd s
  | .restore region wg => Sys2Proof.Machine.execRestore region wg s
  | .placerActs region ctxs => Sys2Proof.Machine.execPlacerActs region ctxs s
  | .headAgeReserve ten => Sys2Proof.Machine.execHeadAgeReserve ten s
  | .groupCreate wg grp => Sys2Proof.Machine.execGroupCreate wg grp s
  | .queueDoorbell q v => Sys2Proof.Machine.execQueueDoorbell q v s
  | .signal q => Sys2Proof.Machine.execSignal q s
  | .wait q => Sys2Proof.Machine.execWait q s
  | .waitMet q => Sys2Proof.Machine.execWaitMet q s
  | .nopPacket q => Sys2Proof.Machine.execNopPacket q s
  | .copy q num => Sys2Proof.Machine.execCopy q num s
  | .view q num => Sys2Proof.Machine.execView q num s
  | .spawnRoot q num => Sys2Proof.Machine.execSpawnRoot q num s
  | .launch q num => Sys2Proof.Machine.execLaunch q num s
  | .predecessorsRetired node => Sys2Proof.Machine.execPredecessorsRetired node s
  | .tileOperandsMet node => Sys2Proof.Machine.execTileOperandsMet node s
  | .dispatch => Sys2Proof.Machine.execDispatch s
  | .nodeComplete node => Sys2Proof.Machine.execNodeComplete node s
  | .segmentCount id => Sys2Proof.Machine.execSegmentCount id s
  | .copyComplete id => Sys2Proof.Machine.execCopyComplete id s
  | .cpyrChunkApply id => Sys2Proof.Machine.execCpyrChunkApply id s
  | .copyFail id code fspc addr => Sys2Proof.Machine.execCopyFail id code fspc addr s
  | .l2LoadRequest die core line => Sys2Proof.Machine.execL2LoadRequest die core line s
  | .l2Write id => Sys2Proof.Machine.execL2Write id s
  | .prismRefreshStart die eng => Sys2Proof.Machine.execPrismRefreshStart die eng s
  | .prismSnapshot die eng => Sys2Proof.Machine.execPrismSnapshot die eng s
  | .viewRegister call => Sys2Proof.Machine.execViewRegister call s
  | .viewDeregister call => Sys2Proof.Machine.execViewDeregister call s
  | .iatAllocate call entry => Sys2Proof.Machine.execIatAllocate call entry s
  | .iatFree call => Sys2Proof.Machine.execIatFree call s
  | .lensEvict call => Sys2Proof.Machine.execLensEvict call s
  | .journalQuery call => Sys2Proof.Machine.execJournalQuery call s
  | .attest call => Sys2Proof.Machine.execAttest call s
  | .serviceReply call => Sys2Proof.Machine.execServiceReply call s
  | .syscallResend id => Sys2Proof.Machine.execSyscallResend id s
  | .commit => Sys2Proof.Machine.execCommit s
  | .readBootStatus => Sys2Proof.Machine.execReadBootStatus s
  | .readCertChain => Sys2Proof.Machine.execReadCertChain s
  | .coldReset => Sys2Proof.Machine.execColdReset s
  | .endpointDmaWrite req => Sys2Proof.Machine.execEndpointDmaWrite req s
  | .iatBarrierArrival msi => Sys2Proof.Machine.execIatBarrierArrival msi s
  | .iatCounterAdd msi => Sys2Proof.Machine.execIatCounterAdd msi s
  | .iatKernelInterrupt msi => Sys2Proof.Machine.execIatKernelInterrupt msi s
  | .corePageRequest core pasid va kind => Sys2Proof.Machine.execCorePageRequest core pasid va kind s
  | .pageRequestResend core pasid va kind => Sys2Proof.Machine.execPageRequestResend core pasid va kind s
  | .pageRequestAnswer endpoint idx ok => Sys2Proof.Machine.execPageRequestAnswer endpoint idx ok s
  | .atsTimeout rid => Sys2Proof.Machine.execAtsTimeout rid s
  | .copyAbandon id => Sys2Proof.Machine.execCopyAbandon id s
  | .shootdownComplete => Sys2Proof.Machine.execShootdownComplete s
  | .migrationComplete => Sys2Proof.Machine.execMigrationComplete s
  | .forwardingRemoved idx => Sys2Proof.Machine.execForwardingRemoved idx s
  | .gets agent line => Sys2Proof.Machine.execGets agent line s
  | .getm agent line => Sys2Proof.Machine.execGetm agent line s
  | .upg agent line => Sys2Proof.Machine.execUpg agent line s
  | .putm agent line => Sys2Proof.Machine.execPutm agent line s
  | .puto agent line => Sys2Proof.Machine.execPuto agent line s
  | .pute agent line => Sys2Proof.Machine.execPute agent line s
  | .inv agent line => Sys2Proof.Machine.execInv agent line s
  | .invack agent line => Sys2Proof.Machine.execInvack agent line s
  | .fwds agent line => Sys2Proof.Machine.execFwds agent line s
  | .fwdm agent line => Sys2Proof.Machine.execFwdm agent line s
  | .data agent line => Sys2Proof.Machine.execData agent line s
  | .grant agent line => Sys2Proof.Machine.execGrant agent line s
  | .done agent line => Sys2Proof.Machine.execDone agent line s
  | .putack agent line => Sys2Proof.Machine.execPutack agent line s
  | .putstale agent line => Sys2Proof.Machine.execPutstale agent line s
  | .homeRequestTimeout line => Sys2Proof.Machine.execHomeRequestTimeout line s
  | .ownershipTransfer region => Sys2Proof.Machine.execOwnershipTransfer region s
  | .transferComplete region => Sys2Proof.Machine.execTransferComplete region s
  | .ownershipHoldExpires region => Sys2Proof.Machine.execOwnershipHoldExpires region s
  | .space6AccessArrival src lane off op => Sys2Proof.Machine.execSpace6AccessArrival src lane off op s
  | .space6Ack id ans => Sys2Proof.Machine.execSpace6Ack id ans s
  | .space6StoreLost id => Sys2Proof.Machine.execSpace6StoreLost id s
  | .lensPromotion ten slot node => Sys2Proof.Machine.execLensPromotion ten slot node s
  | .lensReferenceDrop ten slot node => Sys2Proof.Machine.execLensReferenceDrop ten slot node s
  | .lensFillComplete ten slot => Sys2Proof.Machine.execLensFillComplete ten slot s
  | .lensFillFail ten slot => Sys2Proof.Machine.execLensFillFail ten slot s
  | .lensDrainComplete ten slot => Sys2Proof.Machine.execLensDrainComplete ten slot s
  | .lensEviction ten slot => Sys2Proof.Machine.execLensEviction ten slot s
  | .doorbellWriteOut idx => Sys2Proof.Machine.execDoorbellWriteOut idx s
  | .icinvAck id cache => Sys2Proof.Machine.execIcinvAck id cache s
  | .redsContributionArrival id => Sys2Proof.Machine.execRedsContributionArrival id s
  | .redsResend id => Sys2Proof.Machine.execRedsResend id s
  | .completionWindowRetest wg ch => Sys2Proof.Machine.execCompletionWindowRetest wg ch s
  | .submissionFullRetest wg ch => Sys2Proof.Machine.execSubmissionFullRetest wg ch s
  | .passStart core arr => Sys2Proof.Machine.execPassStart core arr s
  | .mmaRetire core op => Sys2Proof.Machine.execMmaRetire core op s
  | .planeLoadComplete core arr => Sys2Proof.Machine.execPlaneLoadComplete core arr s
  | .watchdogExpiry w fwError => Sys2Proof.Machine.execWatchdogExpiry w fwError s
  | .dispatchSlotCommand qc => Sys2Proof.Machine.execDispatchSlotCommand qc s
  | .nondeterministicEvent die kind src tgt ev => Sys2Proof.Machine.execNondeterministicEvent die kind src tgt ev s
  | .replayDivergence die => Sys2Proof.Machine.execReplayDivergence die s
  | .unassignedOpcode w => Sys2Proof.Machine.execUnassignedOpcode w s
  | .accumulatorOperationRetire core op => Sys2Proof.Machine.execAccumulatorOperationRetire core op s
  | .ineligibleSplitRequeue wg grp pos => Sys2Proof.Machine.execIneligibleSplitRequeue wg grp pos s
  | .logCounterReadClear unit off => Sys2Proof.Machine.execLogCounterReadClear unit off s
  | .create entry key => Sys2Proof.Machine.execCreate entry key s
  | .stage ten => Sys2Proof.Machine.execStage ten s
  | .destroy ten => Sys2Proof.Machine.execDestroy ten s
  | .report ten => Sys2Proof.Machine.execReport ten s
  | .fwupd slot image ver svn sigOk => Sys2Proof.Machine.execFwupd slot image ver svn sigOk s
  | .idekey rid port ten run => Sys2Proof.Machine.execIdekey rid port ten run s
  | .readTelemetry temp watts => Sys2Proof.Machine.execReadTelemetry temp watts s
  | .setPowerLimit watts => Sys2Proof.Machine.execSetPowerLimit watts s
  | .recoveryLoad slot image ver svn sigOk => Sys2Proof.Machine.execRecoveryLoad slot image ver svn sigOk s
  | .setDevnum n => Sys2Proof.Machine.execSetDevnum n s
  | .epwinWrite v => Sys2Proof.Machine.execEpwinWrite v s
  | .pcfgWrite port v => Sys2Proof.Machine.execPcfgWrite port v s
  | .linkTraining port link badLane offer ok => Sys2Proof.Machine.execLinkTraining port link badLane offer ok s
  | .atsTranslationRequest rid pasid va => Sys2Proof.Machine.execAtsTranslationRequest rid pasid va s
  | .pageRequestMessage rid pasid va write => Sys2Proof.Machine.execPageRequestMessage rid pasid va write s
  | .shootdownStart v => Sys2Proof.Machine.execShootdownStart v s
  | .atsInvalidateCompletion rid => Sys2Proof.Machine.execAtsInvalidateCompletion rid s
  | .migrationGo v => Sys2Proof.Machine.execMigrationGo v s
  | .linkRetryExhausted agent => Sys2Proof.Machine.execLinkRetryExhausted agent s
  | .flitRejectReplay id => Sys2Proof.Machine.execFlitRejectReplay id s
  | .mailboxWordArrival src wg loff word => Sys2Proof.Machine.execMailboxWordArrival src wg loff word s
  | .linkAuthentication port ok => Sys2Proof.Machine.execLinkAuthentication port ok s
  | .laneRetrain port lane => Sys2Proof.Machine.execLaneRetrain port lane s
  | .portDownReroute port => Sys2Proof.Machine.execPortDownReroute port s
  | .routeLost dev => Sys2Proof.Machine.execRouteLost dev s
  | .watchdogKick w => Sys2Proof.Machine.execWatchdogKick w s
  | .rootPortError port link rid status err => Sys2Proof.Machine.execRootPortError port link rid status err s
  | .completionTimeout port link rid status pend => Sys2Proof.Machine.execCompletionTimeout port link rid status pend s
  | .serviceRestart svc => Sys2Proof.Machine.execServiceRestart svc s
  | .systemLineUncorrectable pa hashOk => Sys2Proof.Machine.execSystemLineUncorrectable pa hashOk s
  | .arbiterModeWrite die mode => Sys2Proof.Machine.execArbiterModeWrite die mode s
  | .wearThreshold kind unit idx => Sys2Proof.Machine.execWearThreshold kind unit idx s
  | .spareSubstitution kind unit idx => Sys2Proof.Machine.execSpareSubstitution kind unit idx s
  | .eccError unit corrected place => Sys2Proof.Machine.execEccError unit corrected place s
  | .pipelineParity wg grp pos pipe times => Sys2Proof.Machine.execPipelineParity wg grp pos pipe times s
  | .registerWrite addr len v => Sys2Proof.Machine.execRegisterWrite addr len v s
  | .hostFunctionReport node sub ok => Sys2Proof.Machine.execHostFunctionReport node sub ok s
  | .endpointDmaRead req => Sys2Proof.Machine.execEndpointDmaRead req s
  | .bar2WindowAccess off write bs => Sys2Proof.Machine.execBar2WindowAccess off write bs s
  | .kernelQueueControl q ctl => Sys2Proof.Machine.execKernelQueueControl q ctl s
  | .containmentRelease port link => Sys2Proof.Machine.execContainmentRelease port link s

end Sys2Proof.Machine
end

