-- ==== Sys2Proof/Machine/Auto.lean ====
section
/-! DEFINITION. The part's own events: the first that can act now (log entry 1). An event that waits for a page or for its place in
a replayed order does not come of itself. -/
namespace Sys2Proof.Machine

/-! ### Splits and channels -/

/-- A cycle in which a channel that a split is parked on is tested again: every 4,096 cycles of the park (R388, R389). -/
def State.retestNow (s : State) (w : Workgroup) (ch : Nat) (why : Why) : Bool :=
  let here := fun (sp : Split) => sp.phase == .parked && sp.why == why && sp.blk == .chan ch && sp.parkAt < s.cycle && (s.cycle - sp.parkAt) % 4096 == 0
  w.groups.any (fun g => g.table.any (fun e => match e with | some sp => here sp | none => false) || g.spill.any here)

/-- The events of one group's splits (R44, R229, R314, R362, R424); a rotation comes at the end of its cycle. -/
def State.groupEvents (w : Workgroup) (gi : Nat) (g : Group) : List Instr :=
  (List.range 8).flatMap (fun p => match g.table[p]? with
    | some (some sp) => (match sp.phase, sp.why with
      | .waiting, .sleep => [.sleepExpires w.key gi false p]
      | .waiting, .trapEntry => [.trapEntry w.key gi p]
      | .waiting, .release => [.releaseWaitEnds w.key gi p]
      | .ready, _ => if sp.inel ≥ 16 then [.ineligibleSplitRequeue w.key gi p] else []
      | _, _ => [])
    | _ => []) ++
  (List.range g.spill.length).map (fun p => Instr.sleepExpires w.key gi true p) ++
  (if g.spill = [] then [] else [.immediateSwap w.key gi])

/-- The events of one workgroup. -/
def State.wgEvents (s : State) (w : Workgroup) : List Instr :=
  let gs := w.groups.zipIdx
  match w.phase with
  | .saved => []
  | .halted => [.contextSave w.key]
  | .starting => gs.map (fun e => .groupCreate w.key e.2)
  | p =>
    gs.flatMap (fun e => State.groupEvents w e.2 e.1) ++
    (List.range 16).flatMap (fun c => match (w.chan c).v, (w.chan c).kind with
      | true, 1 => if s.retestNow w c .pushFull then [.submissionFullRetest w.key c] else []
      | true, 3 => if s.retestNow w c .pushFull then [.submissionFullRetest w.key c] else []
      | true, 2 => if s.retestNow w c .popEmpty then [.completionWindowRetest w.key c] else []
      | _, _ => []) ++
    (gs.filter (fun e => !e.1.started)).map (fun e => .groupCreate w.key e.2) ++
    (if p = .halting then
      (if s.cycle < w.since + abandonAfter then [] else gs.flatMap (fun e => (List.range 8).map (fun p => Instr.memoryOpAbandon w.key e.2 p))) ++ [.preemptHalt w.key]
    else (gs.filter (fun e => e.1.started && !e.1.retired && e.1.live == 0)).map (fun e => .groupRetire w.key e.2))

/-- The events of a core's arrays and accumulator operations (R245, R251, R257, R241). -/
def coreEvents (n : Nat) (c : Core) : List Instr :=
  (List.range c.arrays.length).flatMap (fun i => match (c.array i).queue with
    | .load _ _ _ :: _ => [.planeLoadComplete n i]
    | .quarter _ _ _ :: _ => [.passStart n i]
    | _ => []) ++
  c.mops.map (fun m => if m.mma.isSome then .mmaRetire n m.id else .accumulatorOperationRetire n m.id)

/-! ### Memory -/

/-- The event of a message. -/
def Msg.event (m : Msg) : Instr :=
  match m.kind with
  | .gets => .gets (.agent m.agent) m.addr
  | .getm => .getm (.agent m.agent) m.addr
  | .upg => .upg m.agent m.addr
  | .putm => .putm m.agent m.addr
  | .puto => .puto m.agent m.addr
  | .pute => .pute m.agent m.addr
  | .inv => .inv m.agent m.addr
  | .invack => .invack m.agent m.addr
  | .fwds => .fwds m.agent m.addr
  | .fwdm => .fwdm m.agent m.addr
  | .data => .data m.agent m.addr
  | .grant => .grant m.agent m.addr
  | .done => .done m.agent m.addr
  | .putack => .putack m.agent m.addr
  | .putstale => .putstale m.agent m.addr

/-- The events of a region of HBM (R78, R324). -/
def State.regionEvents (s : State) (n : Nat) (r : Region) : List Instr :=
  if r.moving then .transferComplete n :: (s.homes.filter (fun h => lineIn n h.addr && h.owner.isSome)).map (fun h => .homeRequestTimeout h.addr)
  else if r.holdUntil ≠ 0 then [.ownershipHoldExpires n]
  else if r.wanted then [.ownershipTransfer n]
  else []

/-- The events of stores, lines, regions and what waits for answers in memory. -/
def State.memoryEvents (s : State) : List Instr :=
  s.storeQ.map (fun q => .l2Write q.id) ++
  s.msgs.map Msg.event ++
  s.homes.flatMap (fun h => (match h.queue with | m :: _ => [m.event] | [] => []) ++ (if h.busy.isSome then [.homeRequestTimeout h.addr] else [])) ++
  s.regions.flatMap (fun e => s.regionEvents e.1 e.2) ++
  s.icreqs.flatMap (fun r => match r.left with | c :: _ => [.icinvAck r.id c] | [] => []) ++
  (s.contribs.filter (fun c => c.atHome || (s.wg? c.wg).all (fun w => w.phase != .saved))).map (fun c => if c.atHome then .redsContributionArrival c.id else .redsResend c.id) ++
  (s.fabric.filter (·.posted)).map (fun f => .space6StoreLost f.id) ++
  (List.range s.proxy.length).map (fun i => .doorbellWriteOut i)

/-! ### Engines -/

def State.copyEvents (s : State) : List Instr :=
  s.copies.flatMap (fun c => match c.failed with
    | some (code, fspc, a) => [.copyFail c.id code fspc (BitVec.ofNat 64 a)]
    | none => [.segmentCount c.id, .cpyrChunkApply c.id, .copyComplete c.id] ++ (if s.shoot.busy then [.copyAbandon c.id] else []))

def State.prismEvents (s : State) : List Instr :=
  s.refreshes.map (fun r => .prismSnapshot r.die r.eng) ++ s.prismQ.map (fun e => .prismRefreshStart (e.1 / 4) (e.1 % 4))

def State.lensEvents (s : State) : List Instr :=
  s.lensRuns.flatMap (fun r => if r.draining then [.lensDrainComplete r.ten r.slot] else if r.failed then [.lensFillFail r.ten r.slot] else [.lensFillComplete r.ten r.slot])

/-! ### Queues and the pool -/

/-- A free number for what the spec lets an event choose freely (log entry 8). -/
def State.anyNumber (s : State) (who : Nat) : Nat := (Config.freeValue (2 ^ 80 * (1 + who) + s.cycle)).toNat

/-- The event of a queue's next packet. -/
def State.packetEvent (s : State) (q : Nat) : Option (Nat × Instr) :=
  match s.nextPacket q with
  | .idle => none
  | .wait _ => some (0, .nopPacket q)
  | .bad _ _ => some (0, .nopPacket q)
  | .ok b _ =>
    let n := s.anyNumber q % 4096
    match fieldAt b 0 1 with
    | 0 => some (0, .nopPacket q)
    | 1 => some (1, .signal q)
    | 2 => some (2, if (s.queue q).waddr = 0 then .wait q else .waitMet q)
    | 3 => some (3, .copy q n)
    | 4 => some (4, .view q n)
    | 5 => some (5, .spawnRoot q n)
    | _ => some (6, .launch q n)

/-- R344: the order in which the lanes of a core take their packets: this round before the next, by priority and lane. -/
def State.packetEvents (s : State) (qc : Nat) : List Instr :=
  let c := s.qfeCore qc
  let key := fun (lane op : Nat) =>
    let later := c.nextRound lane op
    65536 * boolNat later + 256 * opPriority op + lane
  let all := (s.queues.filter (fun e => e.1 / 64 == qc)).filterMap (fun e => (s.packetEvent e.1).map (fun p => (key (e.1 % 64) p.1, p.2)))
  (sortBy (fun a b => a.1 ≤ b.1) all).map Prod.snd

def State.nodeEvents (s : State) : List Instr :=
  (s.nodes.filter (fun n => n.st == .pending)).map (fun n => .predecessorsRetired n.num) ++
  (s.nodes.filter (fun n => n.st == .held)).map (fun n => .tileOperandsMet n.num) ++
  (s.nodes.filter (fun n => n.st == .running)).flatMap (fun n => .nodeComplete n.num :: (if n.phase ≥ 2 then n.lens.map (fun k => .lensReferenceDrop n.ten k n.num) else [])) ++
  (if s.dispatchNode.isSome then [.dispatch] else [])

/-- R44, R359: at the end of a cycle the groups whose counter has run out rotate, since they see its merges and divergences, and the
stewards of regions that have workgroups to bring back or to place act, in ascending order, since they see all that it retired. -/
def State.lateEvents (s : State) : List Instr :=
  s.wgs.flatMap (fun w => if w.phase = .resident ∨ w.phase = .halting then (w.groups.zipIdx.filter (fun e => e.1.rot ≥ 16384)).map (fun e => .rotation w.key e.2) else []) ++
  (s.stewards.filter (fun e => e.1 < 24 && (s.placeList e.2.ten != [] || s.wgs.any (fun w => w.ten == e.2.ten && w.phase == .saved)))).map (fun e => .placerActs e.1 [])
def State.stewardEvents (s : State) : List Instr :=
  (s.tens.filter (fun e => (s.head e.1).isSome)).map (fun e => .headAgeReserve e.1) ++
  s.grids.map (fun g => .stallDetected g.id)

/-- The service events of requests and of records (R411, R412, R474). -/
def State.callEvent (s : State) (req svc : Nat) : List Instr :=
  if s.waiting.any (fun i => servedBy i == some req) then [] else [match serviceEvent svc req with | .iatAllocate r _ => .iatAllocate r (s.anyNumber (2 ^ 20 + req) % 4096) | i => i]
def State.serviceEvents (s : State) : List Instr :=
  s.services.flatMap (fun q => if !q.queued then [.syscallResend q.id] else match s.vread q.pasid (q.ptr % 2 ^ 56) 64 with
    | some b => s.callEvent q.id (fieldAt b 8 2)
    | none => s.callEvent q.id 0) ++
  s.journal.flatMap (fun r => if r.st = 1 then s.callEvent r.req r.svc else if r.blocks = [] ∨ s.replyHeld r.req then [] else [.serviceReply r.req]) ++
  s.qfe.flatMap (fun e => (e.2.slots.map SlotCmd.key).eraseDups.map (fun k => .dispatchSlotCommand ⟨e.1, k⟩))

/-! ### The kernel's registers and the arbiters -/

def State.upkeepEvents (s : State) : List Instr :=
  (if s.shoot.busy then (s.functions.filter (·.atsWait)).map (fun f => .atsTimeout f.rid) ++ [.shootdownComplete] else []) ++
  (if s.mig.busy then [.migrationComplete] else []) ++
  (List.range s.forwards.length).map (fun i => .forwardingRemoved i) ++
  (s.worn.filter (fun x => x.kind != .lane && x.kind != .hart)).map (fun x => .spareSubstitution x.kind x.unit x.idx) ++
  s.arbiters.flatMap (fun e => if e.2.held = [] then [] else [.replayDivergence e.1])

/-- Every event that may come of itself, in the order in which the model tries them. -/
def State.candidates (s : State) : List Instr :=
  s.memoryEvents ++ s.copyEvents ++ s.prismEvents ++ s.lensEvents ++ s.cores.flatMap (fun e => coreEvents e.1 e.2) ++ s.wgs.flatMap s.wgEvents ++
  s.serviceEvents ++ (List.range 4).flatMap s.packetEvents ++ s.nodeEvents ++ s.upkeepEvents ++ s.stewardEvents

/-- The event is held by an arbiter in replay (R483). -/
def State.heldBack (s : State) (i : Instr) : Bool := s.arbiters.any (fun e => e.2.held.any (fun h => h.2.2.2 == i))

/-- What an event makes of the state, if it changes anything but counters. -/
def State.after (s : State) (i : Instr) : Option State :=
  match exec i s with
  | .next t => if ({ t with free := s.free, seq := s.seq, nextId := s.nextId } : State) = s then none else some t
  | _ => none

/-- The event can act now. -/
def State.isDue (s : State) (i : Instr) : Bool := !s.waiting.contains i && !s.heldBack i && (s.after i).isSome

/-- R26, R344, R482: the node that a command of a core's slots puts into the pool: its die, its queue and its number. -/
def State.entryName (s : State) (qc key : Nat) : Option (Nat × Nat × Nat) :=
  match (s.qfeCore qc).slots.find? (SlotCmd.of key) with
  | some (.node q n) => some ((((s.stewards.find? (fun e => e.2.ten == n.ten)).map Prod.fst).getD 0) / 6, q, s.nodeNumber n.num)
  | _ => none

/-- R26: an event whose order is not determined passes its die's arbiter. -/
def State.numbered (s : State) (i : Instr) : Instr :=
  match i, s.after i with
  | .copyComplete id, some t => match s.copy? id with
    | some c => if (t.copy? id).isNone then .nondeterministicEvent (dieOfCore c.core) 2 c.core c.cptr i else i
    | none => i
  | .dispatchSlotCommand qc, some _ => match s.entryName qc.core qc.key with
    | some e => .nondeterministicEvent e.1 4 e.2.1 e.2.2 i
    | none => i
  | _, _ => i

/-- The next event that comes of itself. -/
def State.due (s : State) : Option Instr := (s.candidates.find? s.isDue).map s.numbered

/-! ### Ineligible splits (R362, R363) -/

/-- The presented splits that no pick of this cycle has tried or that could not pair. -/
def State.untried (s : State) : List Focus :=
  s.wgs.flatMap (fun w => if w.phase = .resident then
      w.groups.zipIdx.flatMap (fun e => (e.1.readyAt.filter (fun p => p.2.mAt.isSome && p.2.held != some s.cycle && !p.2.iss)).map (fun p => ({ wg := w.key, grp := e.2, pos := p.1 } : Focus)))
    else [])

/-- R363: the scoreboard, an interlock or its pipe would hold the split's next instruction in this cycle. -/
def State.wouldHold (s : State) (f : Focus) : Bool :=
  let heldIn := fun (t : State) => match f.lookup t with | some x => x.sp.held == some s.cycle | none => false
  match ({ s with picked := [] } : State).issue f with
  | .run i t => match exec i t with | .next u => heldIn u | _ => false
  | .stop u => heldIn u

/-- R362: a split that nothing has tried in this cycle is ineligible in it where its next instruction would be held. -/
def State.markIdle (s : State) : State :=
  (s.untried.filter s.wouldHold).foldl (fun t f => t.modSplit f (fun sp => { sp with held := some s.cycle })) s

/-! ### Spill areas (R37, R67, R229) -/

/-- A group's spill entries and sleep words go to its private block where they have changed; a page that cannot take them yet is
tried again after the next cycle. -/
def State.spillGroup (s : State) (w : Workgroup) (gr : Grid) (gi : Nat) (g : Group) : State :=
  if g.spill = [] ∧ g.spillMem = [] then s
  else
    let b := g.spillBytes
    if b = g.spillMem ∨ s.vmoves gr.pasid (privBlock gr w g.grpid) b.length then s
    else match s.vwrite gr.pasid (privBlock gr w g.grpid) b with
      | (t, _, true) => t.modGrp w.key gi (fun g => { g with spillMem := if g.spill = [] then [] else b })
      | (_, _, false) => s

/-- The spill areas of the groups that have cores. -/
def State.spillOut (s : State) : State :=
  s.wgs.foldl (fun t w => match s.grid? w.grid with
    | some gr => if w.phase = .resident ∨ w.phase = .halting then w.groups.zipIdx.foldl (fun t e => t.spillGroup w gr e.2 e.1) t else t
    | none => t) s

/-- What ends a cycle in which nothing more happens. -/
def State.passCycle (s : State) : State := s.markIdle.elapse.spillOut

/-- The next event of a cycle in which nothing else is left to do. -/
def State.dueLate (s : State) : Option Instr := s.lateEvents.find? s.isDue

end Sys2Proof.Machine
end

