-- ==== Sys2Proof/Machine/Step.lean ====
section
/-! DEFINITION. One step of the machine, and the state whose next step runs a given word. -/
namespace Sys2Proof.Machine

/-- One step (log entry 1): the first input or follow-up on the agenda; else the first event of the part's own that is
due; else the oldest eligible split issues its next instruction; else a region's placer acts; else one cycle passes. -/
def step (s : State) : Host.Outcome State Fault Refusal :=
  match s.agenda with
  | i :: rest => exec i { s with agenda := rest }
  | [] =>
    match s.due with
    | some i => exec i s
    | none =>
      match s.pick with
      | none =>
        match s.dueLate with
        | some i => exec i s
        | none => .next s.passCycle
      | some f =>
        match s.issue f with
        | .run i t => exec i t
        | .stop t => .next t

/-- s with a word placed where the next step fetches (log entry 5): a loaded kernel's first instruction, presented by
the only split of a resident workgroup. The words of this part are 96 bits, whatever nbits says. -/
def State.withFetchWord (s : State) (_nbits w : Nat) : State := s.boot w

end Sys2Proof.Machine
end

