-- ==== Sys2Proof/Safety.lean ====
section
/-! DEFINITION. What a safe run is: every step answers a next state, and the storage keeps its canonical form. -/
namespace Sys2Proof

/-- The machine goes on for n steps from s: no fault and no refusal. -/
def safeFor (n : Nat) (s : Machine.State) : Prop := ∃ t, core.run n s = .next t

/-- Memory as a list of cells: addresses rise, and no cell holds what an unlisted address reads as (log entry 4). -/
def Memory.wf (m : List Host.Cell) : Bool := Machine.mwf 0#8 m

/-- What every step keeps: the five lease clocks (R14), memory in canonical form, and the limits of the registers that the management
port sets (R417, R419). -/
structure Machine.State.Inv (s : Machine.State) : Prop where
  mem : Memory.wf s.mem = true
  clocks : s.clocks.length = 5
  devnum : s.devnum ≤ 1151
  power : 600 ≤ s.power ∧ s.power ≤ 2800

end Sys2Proof
end

