-- ==== Sys2Proof/Claims.lean ====
section
/-! DEFINITION. The terms in which the statements speak: an instruction that issues, the lanes and registers that its
result reaches, and what stays as it was. -/
namespace Sys2Proof.Claims
open Sys2Proof.Machine

/-! ### An instruction that issues -/

/-- R40: the state in which an instruction's own effect begins: under J = 1 the splits that wait at the same word index
and depth have merged into the issuing one. -/
def merged (c : Common) (s : State) (x : Ctx) : State :=
  if c.j && !x.sp.woken then ({ s with seq := s.seq + 1 } : State).modGrp x.foc.wg x.foc.grp (fun g => g.jMerge x.foc.pos s.seq) else s

/-- A ready split presents i in s, i is legal under the kernel's allocation, and no register of its group is poisoned.
t and y are the state and the split's surroundings after the merge of R40: with J = 0, t is s. -/
def Issues (i : Instr) (c : Common) (s t : State) (y : Ctx) : Prop :=
  ∃ x, s.ctx? = some x ∧ x.sp.phase = .ready ∧ i.illegal x.alloc = none ∧ t = merged c s x ∧ x.foc.lookup t = some y ∧ y.g.rpoison = []

/-- R110: no lane of the split executes, or the condition of a group-wide instruction does not hold. -/
def Off (c : Common) (y : Ctx) : Prop := if c.u then y.gwOn c = false else y.active c = 0

/-- R57: the registers of a lane's own files, by tier and index. -/
def InFile (t : Tier) (k : Nat) : Prop := match t with | .v => k < 256 | .o => k < 8 | .h => k < 2 | .s => False

/-- R60, R133: what a register of a lane reads as once the lane's result v has gone to D: the destination register or
pair, low word first; the hold file, which takes a result that goes to tier v or o or to a channel; else as before. -/
def wrote (g : Group) (lane : Nat) (d : Opnd) (wide : Bool) (v : W64) (t : Tier) (k : Nat) : W32 :=
  let lo := v.extractLsb' 0 32
  let hi := v.extractLsb' 32 32
  let held := fun (two : Bool) => if two then (if k = 0 then lo else hi) else if k = 0 then lo else g.reg lane .h 0
  match d with
  | .chan _ _ => if t = .h then held false else g.reg lane t k
  | .reg t0 _ i =>
    if t = t0 ∧ k = i.toNat then lo
    else if wide = true ∧ t = t0 ∧ k = i.toNat + 1 then hi
    else if t = .h ∧ (t0 = .v ∨ t0 = .o) then held wide
    else g.reg lane t k

/-- The change of a group whose executing lanes (those of act) get results and flags in D, a lane register or a channel:
nothing but those lanes' registers and their fstat flags changes (R60, R86, R133). -/
structure LanesGet (d : Opnd) (wide : Bool) (act : BitVec 32) (r : Nat → W64 × Flags) (g h : Group) : Prop where
  rest : h = { g with regs := h.regs, fstat := h.fstat, rpoison := h.rpoison }
  clean : g.rpoison = [] → h.rpoison = []
  regs : ∀ l < 32, ∀ t k, InFile t k → h.reg l t k = if act.getLsbD l then wrote g l d wide (r l).1 t k else g.reg l t k
  flags : ∀ l < 32, mget 0 h.fstat l = if act.getLsbD l then mget 0 g.fstat l ||| (r l).2.zeroExtend 32 else mget 0 g.fstat l

/-- The change of a group that gets a result in an s register or pair, and flags in some lanes: nothing but that
register or pair and those flags changes. -/
structure GroupGets (i : Nat) (wide : Bool) (v : W64) (act : BitVec 32) (fl : Nat → Flags) (g h : Group) : Prop where
  rest : h = { g with sregs := h.sregs, fstat := h.fstat, rpoison := h.rpoison }
  clean : g.rpoison = [] → h.rpoison = []
  sregs : ∀ k, h.reg 0 .s k = if k = i then v.extractLsb' 0 32 else if wide = true ∧ k = i + 1 then v.extractLsb' 32 32 else g.reg 0 .s k
  flags : ∀ l < 32, mget 0 h.fstat l = if act.getLsbD l then mget 0 g.fstat l ||| (fl l).zeroExtend 32 else mget 0 g.fstat l

/-- R87: no flag of the lane's result is enabled in its fstat. -/
def Quiet (g : Group) (lane : Nat) (fl : Flags) : Prop := g.helper.getLsbD lane = false → fl &&& (mget 0 g.fstat lane).extractLsb' 8 5 = 0

/-- How many words each channel source takes: one for each executing lane that is no helper (R116). -/
def takers (c : Common) (y : Ctx) : List Nat := lanesOf (y.real c)

/-- The state after the words have left their channels (R116, R218). -/
def popped (y : Ctx) (t : State) (offs : List (Nat × Nat)) : State := offs.foldl (fun s o => y.chanPop s o.1 o.2) (t.waitDone y)

/-- The words of lanes that are no helpers have been pushed to a channel in lane order (R116). -/
def Pushed (y : Ctx) (t : State) (ch : Nat) (vs : List W32) (u : State) : Prop :=
  if vs = [] then u = t else ((y.foc.lookup t).getD y).chanPush t ch vs = .ok u

/-- The rules common to every instruction that computes a result in each executing lane, or once for the group under
U = 1, from the values of its sources (R60, R86, R87, R110, R111, R116, R133). P relates the state, the surroundings, the
lane and its sources' values to the lane's result and flags. -/
def Computes (i : Instr) (c : Common) (d : Opnd) (wide : Bool) (srcs : List Src)
    (P : State → Ctx → Nat → List Nat → W64 → Flags → Prop) : Prop :=
  ∀ s t y, Issues i c s t y →
    (Off c y → exec i s = .next (t.advance y)) ∧
    (¬ Off c y → c.u = true → ∃ v fl, P t y (lowestLane y.sp.mask) (srcs.map (y.g.readSrc 0)) v fl ∧
      (Quiet y.g (lowestLane y.sp.mask) fl → ∃ f, exec i s = .next (t.doneWith y f) ∧
        ∀ g, GroupGets d.index wide v (laneBit (lowestLane y.sp.mask)) (fun _ => fl) g (f g))) ∧
    (¬ Off c y → c.u = false → ∀ ws offs, y.takeWords t (takers c y).length srcs [] [] = .ok (ws, offs) →
      ∃ r : Nat → W64 × Flags,
        (∀ l ∈ lanesOf (y.active c), P t y l (laneSources y.g l ((takers c y).findIdx? (· == l)) srcs ws) (r l).1 (r l).2) ∧
        ((∀ l ∈ lanesOf (y.active c), Quiet y.g l (r l).2) →
          match d with
          | .reg .s _ k => ∃ f, ∃ l ∈ lanesOf (y.active c), exec i s = .next (({ popped y t offs with free := (popped y t offs).free + 1 } : State).doneWith y f) ∧
              ∀ g, GroupGets k.toNat wide (r l).1 (y.active c) (fun l => (r l).2) g (f g)
          | .reg _ _ _ => ∃ f, exec i s = .next ((popped y t offs).doneWith y f) ∧ ∀ g, LanesGet d wide (y.active c) r g (f g)
          | .chan _ ch => ∀ u, Pushed y (popped y t offs) ch.toNat ((takers c y).map (fun l => (r l).1.extractLsb' 0 32)) u →
              ∃ f, exec i s = .next (u.doneWith y f) ∧ ∀ g, LanesGet d false (y.active c) r g (f g)))

/-! ### Integer results -/

/-- R79: a value of a type stands in its register or pair, sign-extended for a signed type and zero-extended else. -/
def Stands (ty : BitVec 4) (r : Int) (v : W64) : Prop :=
  if isSignedTy ty then v.toNat < 2 ^ (if tyBits ty = 64 then 64 else 32) ∧ sextInt (if tyBits ty = 64 then 64 else 32) v.toNat = r
  else (v.toNat : Int) = r

/-- R143: an exact result is stored in the type: clamped to its limits under SAT, else modulo 2^w. -/
def IntResult (ty : BitVec 4) (sat : Bool) (exact : Int) (v : W64) (fl : Flags) : Prop :=
  fl = 0 ∧ ∃ r : Int, loTy ty ≤ r ∧ r ≤ hiTy ty ∧
    (if sat then r = max (loTy ty) (min exact (hiTy ty)) else ((2 ^ tyBits ty : Nat) : Int) ∣ r - exact) ∧ Stands ty r v

/-- A result of w bits, w the type's width, given bit by bit, with zeros above them. -/
def BitResult (ty : BitVec 4) (bit : Nat → Bool) (v : W64) (fl : Flags) : Prop :=
  fl = 0 ∧ v.toNat < 2 ^ tyBits ty ∧ ∀ k < tyBits ty, bitOf v.toNat k = bit k

/-- The value of source n of a list under a type (R79). -/
def arg (ty : BitVec 4) (vs : List Nat) (n : Nat) : Int := valTy ty (vs.getD n 0)
/-- Source n of a list as bits. -/
def raw (vs : List Nat) (n : Nat) : Nat := vs.getD n 0

/-- An integer instruction of form L, its sources, and its exact result from their values (R143). -/
def IntL (i : FormL → Instr) (srcs : FormL → List Opnd) (exact : BitVec 4 → (Nat → Int) → Int → Prop) : Prop :=
  ∀ w, Computes (i w) w.com w.d (tyBits w.ty = 64) ((srcs w).map (fun o => srcOf o w.ty))
    (fun _ _ _ vs v fl => ∃ x, exact w.ty (arg w.ty vs) x ∧ IntResult w.ty (w.com.mod.getLsbD 3) x v fl)
/-- The same in form I, where the immediate under the type is the second operand (R120). -/
def IntI (i : FormI → Instr) (exact : Int → Int → Int) : Prop :=
  ∀ w, Computes (i w) w.com w.d (tyBits w.ty = 64) [srcOf w.a w.ty]
    (fun _ _ _ vs v fl => IntResult w.ty (w.com.mod.getLsbD 3) (exact (arg w.ty vs 0) (valTy w.ty (immValue w.ty w.imm))) v fl)

/-- A bitwise instruction of form L (R145). -/
def BitL (i : FormL → Instr) (srcs : FormL → List Src) (bit : BitVec 4 → (Nat → Nat) → Nat → Bool) : Prop :=
  ∀ w, Computes (i w) w.com w.d (tyBits w.ty = 64) (srcs w) (fun _ _ _ vs v fl => BitResult w.ty (bit w.ty (raw vs)) v fl)
/-- A bitwise instruction of form I: the first source and the immediate's value. -/
def BitI (i : FormI → Instr) (bit : BitVec 4 → Nat → Nat → Nat → Bool) : Prop :=
  ∀ w, Computes (i w) w.com w.d (tyBits w.ty = 64) [srcOf w.a w.ty] (fun _ _ _ vs v fl => BitResult w.ty (bit w.ty (raw vs 0) (immValue w.ty w.imm)) v fl)
/-- A count of form L, in one register whatever the type (R147). -/
def CountL (i : FormL → Instr) (count : Nat → Nat → Nat → Prop) : Prop :=
  ∀ w, Computes (i w) w.com w.d false [srcOf w.a w.ty] (fun _ _ _ vs v fl => fl = 0 ∧ count (tyBits w.ty) (raw vs 0) v.toNat)

/-- R146: bit k of a shifted or rotated word of w bits, for any amount n. -/
def shlBit (w a n k : Nat) : Bool := n ≤ k && bitOf a (k - n)
def shrBit (w a n k : Nat) : Bool := k + n < w && bitOf a (k + n)
def sarBit (w a n k : Nat) : Bool := bitOf a (min (k + n) (w - 1))
def rotlBit (w a n k : Nat) : Bool := bitOf a ((k + (w - n % w)) % w)

/-- R148: the length of a control word's field, cut at the width; 0 where the field is empty. -/
def fieldLen (w ctl : Nat) : Nat := if ctl % 256 ≥ w then 0 else min (ctl / 256 % 256) (w - ctl % 256)
def bfxBit (ty : BitVec 4) (a ctl k : Nat) : Bool :=
  let n := fieldLen (tyBits ty) ctl
  if k < n then bitOf a (ctl % 256 + k) else n != 0 && isSignedTy ty && bitOf a (ctl % 256 + n - 1)
def bfiBit (w a b ctl k : Nat) : Bool :=
  if ctl % 256 ≤ k ∧ k < ctl % 256 + fieldLen w ctl then bitOf b (k - ctl % 256) else bitOf a k

/-! ### Predicate results -/

/-- The change of a group whose executing lanes get a bit of predicate n, and flags: p0 takes none (R59, R86). -/
structure PredGets (n : Nat) (act : BitVec 32) (bit : Nat → Bool) (fl : Nat → Flags) (g h : Group) : Prop where
  rest : h = { g with preds := h.preds, fstat := h.fstat, rpoison := h.rpoison }
  clean : g.rpoison = [] → h.rpoison = []
  preds : ∀ p < 8, ∀ l < 32, (h.pred p).getLsbD l = if p = n ∧ n ≠ 0 ∧ act.getLsbD l then bit l else (g.pred p).getLsbD l
  flags : ∀ l < 32, mget 0 h.fstat l = if act.getLsbD l then mget 0 g.fstat l ||| (fl l).zeroExtend 32 else mget 0 g.fstat l

/-- The change of a group that gets condition n, and flags in one lane: c0 takes none (R59). -/
structure CondGets (n : Nat) (b : Bool) (lane : Nat) (fl : Flags) (g h : Group) : Prop where
  rest : h = { g with conds := h.conds, fstat := h.fstat }
  conds : ∀ c < 8, h.cond c = if c = n ∧ n ≠ 0 then b else g.cond c
  flags : ∀ l < 32, mget 0 h.fstat l = if l = lane then mget 0 g.fstat l ||| fl.zeroExtend 32 else mget 0 g.fstat l

/-- The rules common to the compares: a bit of predicate D for each executing lane, or condition D under U = 1, from the
values of the sources (R59, R86, R150, R170). -/
def Compares (i : Instr) (c : Common) (n : Nat) (srcs : List Src) (P : List Nat → Bool → Flags → Prop) : Prop :=
  ∀ s t y, Issues i c s t y →
    (c.u = true → y.gwOn c = false → exec i s = .next (t.advance y)) ∧
    (c.u = true → y.gwOn c = true → ∃ b fl, P (srcs.map (y.g.readSrc 0)) b fl ∧ (Quiet y.g (lowestLane y.sp.mask) fl →
      ∃ f, exec i s = .next (t.doneWith y f) ∧ ∀ g, CondGets n b (lowestLane y.sp.mask) fl g (f g))) ∧
    (c.u = false → ∃ r : Nat → Bool × Flags, (∀ l ∈ lanesOf (y.active c), P (srcs.map (y.g.readSrc l)) (r l).1 (r l).2) ∧
      ((∀ l ∈ lanesOf (y.active c), Quiet y.g l (r l).2) →
        ∃ f, exec i s = .next (t.doneWith y f) ∧ ∀ g, PredGets n (y.active c) (fun l => (r l).1) (fun l => (r l).2) g (f g)))

/-- R150: the condition that MOD names. -/
def Relation (m : BitVec 4) (a b : Int) (r : Bool) : Prop :=
  (m = 0 → (r = true ↔ a = b)) ∧ (m = 1 → (r = true ↔ a ≠ b)) ∧ (m = 2 → (r = true ↔ a < b)) ∧ (m = 3 → (r = true ↔ a ≤ b)) ∧
  (m = 4 → (r = true ↔ b < a)) ∧ (m = 5 → (r = true ↔ b ≤ a))

/-- R151: the entry of plog's table that three bits name. -/
def tableBit (fn : BitVec 12) (a b c : Bool) : Bool := fn.getLsbD (4 * a.toNat + 2 * b.toNat + c.toNat)

/-! ### Moves and addresses -/

/-- A source field of one lane read whole, without modifiers. -/
def whole (y : Ctx) (lane : Nat) (o : Opnd) (wide : Bool) : Nat := y.g.readSrc lane { opnd := o, ty := none, wide := wide }

/-- R120, R140: the immediate as it stands in D: a pattern cut to the type's width and extended as R79 says; 64-bit
integers and bits extend the sign of IMM; f64 takes an FP32 pattern of the same value. -/
def ImmStands (ty : BitVec 4) (imm : BitVec 34) (v : W64) : Prop :=
  if ty = tyF64 then
    match fp32.decode false (imm.toNat % 2 ^ 32), fp64.decode false v.toNat with
    | .fin n m e, .fin n' m' e' => n = n' ∧ (m : Rat) * 2 ^ e = m' * 2 ^ e'
    | .inf n, .inf n' => n = n'
    | .nan q, .nan q' => q = q' ∧ v.toNat % 2 ^ 52 = imm.toNat % 2 ^ 23 * 2 ^ 29 ∧ bitOf v.toNat 63 = bitOf imm.toNat 31
    | _, _ => False
  else if tyBits ty = 64 then v = imm.signExtend 64
  else Stands ty (valTy ty (imm.toNat % 2 ^ tyBits ty)) v

/-- R29, R126: what a special register reads as in one lane of the issuing split. -/
def SpecialReads (t : State) (y : Ctx) (n lane x : Nat) : Prop :=
  (n = 0x00 → x = lane) ∧ (n = 0x01 → x = lane / 4) ∧ (n = 0x02 → x = y.g.grpid) ∧ (n = 0x03 → x = y.wg.ctx) ∧ (n = 0x04 → x = y.gr.k.wgsize) ∧
  (n = 0x05 → x = if y.wg.cores.length > 1 then y.win else y.wg.rank) ∧ (n = 0x06 → x = y.wg.clsize) ∧
  (n = 0x07 → x = y.wg.x) ∧ (n = 0x08 → x = y.wg.y) ∧ (n = 0x09 → x = y.wg.z) ∧ (n = 0x0A → x = y.foc.pos) ∧
  (n = 0x0B → x = y.sp.mask.toNat) ∧ (n = 0x0C → x = y.sp.depth.toNat) ∧ (n = 0x0D → x = t.clock y.die) ∧
  (n = 0x0E → x = (mget 0 y.g.fstat lane).toNat) ∧ (n = 0x0F → x = (mget 0 y.g.tcause lane).toNat) ∧ (n = 0x10 → x = (mget 0 y.g.twi lane).toNat) ∧
  (n = 0x11 → x = (mget 0 y.g.tval lane).toNat) ∧ (n = 0x12 → x = y.g.abase) ∧ (n = 0x13 → x = y.g.alimit) ∧ (n = 0x14 → x = y.g.core)

/-- R141, R428: the change of a group whose executing lanes write their special register n: fstat keeps bits 12:8 and 4:0,
trapcause bits 23, 20:16, 15:8 and 7:0, trapwi and trapval the whole source. -/
structure SpecialSet (n : Nat) (act : BitVec 32) (v : Nat → Nat) (g h : Group) : Prop where
  rest : h = { g with fstat := h.fstat, tcause := h.tcause, twi := h.twi, tval := h.tval }
  fstat : ∀ l < 32, mget 0 h.fstat l = if n = 0x0E ∧ act.getLsbD l then BitVec.ofNat 32 (v l) &&& 0x1F1F#32 else mget 0 g.fstat l
  tcause : ∀ l < 32, mget 0 h.tcause l = if n = 0x0F ∧ act.getLsbD l then BitVec.ofNat 32 (v l) &&& 0x9FFFFF#32 else mget 0 g.tcause l
  twi : ∀ l < 32, mget 0 h.twi l = if n = 0x10 ∧ act.getLsbD l then BitVec.ofNat 32 (v l) else mget 0 g.twi l
  tval : ∀ l < 32, mget 0 h.tval l = if n = 0x11 ∧ act.getLsbD l then BitVec.ofNat 64 (v l) else mget 0 g.tval l

/-- R152: the address that lea forms: base, scaled index and offset, modulo 2^64, or modulo 2^60 with the base's tag kept. -/
def LeaSum (w : FormL) (a b r : Nat) : Prop :=
  let i : Int := if w.fn.getLsbD 11 then 0 else (if w.com.mod.getLsbD 2 then (BitVec.ofNat 32 b).toInt else (b : Int)) * (2 ^ (w.com.mod.toNat % 4) : Nat)
  let x : Int := (a : Int) + i + (w.fn.extractLsb' 0 11).toInt
  if w.com.mod.getLsbD 3 then r / 2 ^ 60 = a / 2 ^ 60 ∧ r < 2 ^ 64 ∧ ((2 ^ 60 : Nat) : Int) ∣ (r : Int) - x else r < 2 ^ 64 ∧ ((2 ^ 64 : Nat) : Int) ∣ (r : Int) - x

/-- R153: the pointer that ptag makes of a pointer that passes the first two rows of R54, with the group's block of R67. -/
def PtagIs (y : Ctx) (lane a r : Nat) : Prop :=
  if a / 2 ^ 60 = 1 then
    r = (privBlock y.gr y.wg y.g.grpid + 4096 + a % 2 ^ 32 / 16 * 512 + 16 * lane + a % 16) % 2 ^ 64
  else if a / 2 ^ 60 = 2 then r = (3 * 2 ^ 60 + (if y.wg.cores.length > 1 then y.win else y.wg.rank) * 2 ^ 56 + a % 2 ^ 21) % 2 ^ 64
  else r = a

/-! ### Lanes exchanged and combined -/

/-- R137: the surroundings in which a lane outside the split is read: the group without what another pick of the same cycle wrote. -/
def found (y : Ctx) (t : State) : Ctx := { y with g := y.earlier t }

/-- R154: the partner of a lane in its quad. -/
def partner (m lane : Nat) : Nat :=
  let i := lane % 4
  4 * (lane / 4) + (if m = 0 then i ^^^ 1 else if m = 1 then i ^^^ 2 else if m = 2 then (i + 1) % 4 else if m = 3 then (i + 3) % 4 else m - 4)

/-- R155: the lane that shfl reads. -/
def shflFrom (m lane b : Nat) : Nat :=
  if m = 0 then b % 32 else if m = 1 then (if b ≤ lane then lane - b else lane) else if m = 2 then (if lane + b ≤ 31 then lane + b else lane) else lane ^^^ (b % 32)

/-- An instruction whose executing lanes each get one value in D, and no flag. A D of tier s takes one of the values. -/
def LanesTake (i : Instr) (s t : State) (y : Ctx) (d : Opnd) (wide : Bool) (m : BitVec 32) (v : Nat → W64) : Prop :=
  match d with
  | .reg .s _ k => ∃ f, ∃ l ∈ lanesOf m, exec i s = .next (({ t with free := t.free + 1 } : State).doneWith y f) ∧
      ∀ g, GroupGets k.toNat wide (v l) 0 (fun _ => 0) g (f g)
  | _ => ∃ f, exec i s = .next (t.doneWith y f) ∧ ∀ g, LanesGet d wide m (fun l => (v l, 0)) g (f g)

/-- R157: the operation that MOD[2:0] names, on the values of the type. -/
def Combines (op : Nat) (ty : BitVec 4) (a b r : Nat) : Prop :=
  r < 2 ^ tyBits ty ∧
  (op = 0 → r = (a + b) % 2 ^ tyBits ty) ∧ (op = 1 → (r = a ∨ r = b) ∧ valTy ty r ≤ valTy ty a ∧ valTy ty r ≤ valTy ty b) ∧
  (op = 2 → (r = a ∨ r = b) ∧ valTy ty a ≤ valTy ty r ∧ valTy ty b ≤ valTy ty r) ∧
  (op = 3 → ∀ k < tyBits ty, bitOf r k = (bitOf a k && bitOf b k)) ∧ (op = 4 → ∀ k < tyBits ty, bitOf r k = (bitOf a k || bitOf b k)) ∧
  (op = 5 → ∀ k < tyBits ty, bitOf r k = (bitOf a k ^^ bitOf b k))

/-- R157: the identity of an operation at a type. -/
def Identity (op : Nat) (ty : BitVec 4) (r : Nat) : Prop :=
  r < 2 ^ tyBits ty ∧ (op = 0 ∨ op = 4 ∨ op = 5 → r = 0) ∧ (op = 1 → valTy ty r = hiTy ty) ∧ (op = 2 → valTy ty r = loTy ty) ∧ (op = 3 → r = 2 ^ tyBits ty - 1)

/-- R158: the accumulator after each lane of a list, from one before its first lane. -/
def Accumulates (op : Nat) (ty : BitVec 4) (a : Nat → Nat) : Nat → List Nat → (Nat → Nat) → Prop
  | _, [], _ => True
  | acc, l :: ls, after => Combines op ty acc (a l) (after l) ∧ Accumulates op ty a (after l) ls after

/-- The lane before a lane in a list, if any. -/
def before? (l : Nat) : List Nat → Option Nat
  | a :: b :: ls => if b = l then some a else before? l (b :: ls)
  | _ => none

/-! ### Floating point (R81 to R86, R168 to R174) -/

/-- The exact value of a finite number. -/
def ratOf : FVal → Rat
  | .fin n m e => (if n then -1 else 1) * (m : Rat) * (2 : Rat) ^ e
  | _ => 0
def isFin : FVal → Bool | .fin _ _ _ => true | _ => false

/-- R83: the canonical NaN with some flags. -/
def NaNGiven (f : Fmt) (nv : Bool) (v : W64) (fl : Flags) : Prop := v.toNat = f.nanBits ∧ fl = flagIf nv fNV
/-- An infinity of a sign, with some flags. -/
def InfGiven (f : Fmt) (neg : Bool) (fl0 : Flags) (v : W64) (fl : Flags) : Prop := v.toNat = f.withSign neg f.infBits ∧ fl = fl0
/-- R168: an exact finite value rounded as MOD says; under SAT an overflow to infinity becomes the largest finite number,
with OF and NX still raised. -/
def Rounded (c : Common) (f : Fmt) (z : FVal) (v : W64) (fl : Flags) : Prop :=
  let r := f.round (c.mod.toNat % 4) (c.mod.getLsbD 2) z
  fl = r.2 ∧ v.toNat = if c.mod.getLsbD 3 = true ∧ fl &&& fOF ≠ 0 ∧ r.1 % f.signBit = f.infBits then r.1 - 1 else r.1

/-- R168: z is the exact sum of two finite terms, with the sign that IEEE 754 gives an exact zero. -/
def SumOf (rm : Nat) (a b z : FVal) : Prop :=
  isFin z = true ∧ ratOf z = ratOf a + ratOf b ∧
  (ratOf z = 0 → z.sign = if ratOf a = 0 ∧ ratOf b = 0 ∧ a.sign = b.sign then a.sign else decide (rm = 2))
/-- z is the exact product of two finite factors, with the sign of the product. -/
def ProductOf (a b z : FVal) : Prop := isFin z = true ∧ ratOf z = ratOf a * ratOf b ∧ z.sign = (a.sign != b.sign)

/-- R83, R168: the result of a sum of two terms; nv: an earlier part of the operation was invalid. -/
def SumGiven (c : Common) (f : Fmt) (nv : Bool) (a b : FVal) (v : W64) (fl : Flags) : Prop :=
  if a.isNaN || b.isNaN then NaNGiven f (nv || a.isSNaN || b.isSNaN) v fl
  else if a.isInf && b.isInf then (if a.sign = b.sign then InfGiven f a.sign 0 v fl else NaNGiven f true v fl)
  else if a.isInf then InfGiven f a.sign 0 v fl
  else if b.isInf then InfGiven f b.sign 0 v fl
  else ∃ z, SumOf (c.mod.toNat % 4) a b z ∧ Rounded c f z v fl

/-- R83, R168: the result of a product. -/
def ProductGiven (c : Common) (f : Fmt) (a b : FVal) (v : W64) (fl : Flags) : Prop :=
  if a.isNaN || b.isNaN then NaNGiven f (a.isSNaN || b.isSNaN) v fl
  else if (a.isInf && b.isZero) || (a.isZero && b.isInf) then NaNGiven f true v fl
  else if a.isInf || b.isInf then InfGiven f (a.sign != b.sign) 0 v fl
  else ∃ z, ProductOf a b z ∧ Rounded c f z v fl

/-- R83, R168: the result of a fused multiply-add: the product is not rounded. -/
def FusedGiven (c : Common) (f : Fmt) (a b d : FVal) (v : W64) (fl : Flags) : Prop :=
  if a.isNaN || b.isNaN then NaNGiven f (a.isSNaN || b.isSNaN || d.isSNaN) v fl
  else if (a.isInf && b.isZero) || (a.isZero && b.isInf) then NaNGiven f true v fl
  else if a.isInf || b.isInf then SumGiven c f false (.inf (a.sign != b.sign)) d v fl
  else ∃ z, ProductOf a b z ∧ SumGiven c f false z d v fl

/-- A floating-point instruction of form L: P relates the format and the decoded sources, whose subnormals read as zero
under FTZ, to the result and its flags. -/
def FloatL (i : FormL → Instr) (srcs : FormL → List Opnd) (P : FormL → Fmt → (Nat → FVal) → W64 → Flags → Prop) : Prop :=
  ∀ w, Computes (i w) w.com w.d (tyBits w.ty = 64) ((srcs w).map (fun o => srcOf o w.ty))
    (fun _ _ _ vs v fl => P w (fmtOf w.ty) (fun n => (fmtOf w.ty).decode (w.com.mod.getLsbD 2) (vs.getD n 0)) v fl)
/-- The same in form I: the immediate under the type is the second source (R120). -/
def FloatI (i : FormI → Instr) (P : FormI → Fmt → FVal → FVal → W64 → Flags → Prop) : Prop :=
  ∀ w, Computes (i w) w.com w.d (tyBits w.ty = 64) [srcOf w.a w.ty]
    (fun _ _ _ vs v fl => P w (fmtOf w.ty) ((fmtOf w.ty).decode (w.com.mod.getLsbD 2) (vs.getD 0 0)) ((fmtOf w.ty).decode (w.com.mod.getLsbD 2) (immValue w.ty w.imm)) v fl)

/-- R169: a lies before b where -0 lies below +0. -/
def Before (a b : FVal) : Prop :=
  (a = .inf true ∧ b ≠ .inf true) ∨ (b = .inf false ∧ a ≠ .inf false) ∨
  (isFin a = true ∧ isFin b = true ∧ (ratOf a < ratOf b ∨ (ratOf a = 0 ∧ ratOf b = 0 ∧ a.sign = true ∧ b.sign = false)))
/-- The bits v hold the same value as x in a format: equal sign and magnitude, or the canonical NaN. -/
def SameValue (f : Fmt) (x : FVal) (v : W64) : Prop :=
  match x with
  | .nan _ => v.toNat = f.nanBits
  | .inf n => v.toNat = f.withSign n f.infBits
  | .fin n _ _ => isFin (f.decode false v.toNat) = true ∧ (f.decode false v.toNat).sign = n ∧ ratOf (f.decode false v.toNat) = ratOf x
/-- R169: minimumNumber and maximumNumber, by an order. -/
def PickOf (before : FVal → FVal → Prop) (f : Fmt) (a b : FVal) (v : W64) (fl : Flags) : Prop :=
  fl = flagIf (a.isSNaN || b.isSNaN) fNV ∧
  (a.isNaN = true → SameValue f b v) ∧ (b.isNaN = true → a.isNaN = false → SameValue f a v) ∧
  (a.isNaN = false → b.isNaN = false → (SameValue f a v ∨ SameValue f b v) ∧ (before a b → SameValue f a v) ∧ (before b a → SameValue f b v))

/-- R170: the outcome and the flags of a floating-point compare: +0 and -0 are equal. -/
def FloatRelation (cond : Nat) (a b : FVal) (r : Bool) (fl : Flags) : Prop :=
  let un := a.isNaN || b.isNaN
  let lt := fun (x y : FVal) => un = false ∧ ((x = .inf true ∧ y ≠ .inf true) ∨ (y = .inf false ∧ x ≠ .inf false) ∨ (isFin x = true ∧ isFin y = true ∧ ratOf x < ratOf y))
  let eq := un = false ∧ ¬ lt a b ∧ ¬ lt b a
  fl = flagIf (if 2 ≤ cond ∧ cond ≤ 5 then un else a.isSNaN || b.isSNaN) fNV ∧
  (cond = 0 → (r = true ↔ eq)) ∧ (cond = 1 → (r = true ↔ ¬ eq)) ∧ (cond = 2 → (r = true ↔ lt a b)) ∧ (cond = 3 → (r = true ↔ un = false ∧ ¬ lt b a)) ∧
  (cond = 4 → (r = true ↔ lt b a)) ∧ (cond = 5 → (r = true ↔ un = false ∧ ¬ lt a b)) ∧ (cond = 6 → r = un) ∧ (cond = 7 → r = !un)

/-- R171: the bit of a class, from the bits of a number. -/
def ClassIs (f : Fmt) (bits k : Nat) : Prop :=
  let neg := bitOf bits (f.ew + f.fw)
  let ex := bits / 2 ^ f.fw % 2 ^ f.ew
  let fr := bits % 2 ^ f.fw
  if ex = 2 ^ f.ew - 1 then k = (if fr = 0 then (if neg then 0 else 7) else if fr < 2 ^ (f.fw - 1) then 8 else 9)
  else if ex = 0 then k = (if fr = 0 then (if neg then 3 else 4) else if neg then 2 else 5)
  else k = if neg then 1 else 6

/-- R172: the result of a division. -/
def QuotientGiven (c : Common) (f : Fmt) (a b : FVal) (v : W64) (fl : Flags) : Prop :=
  let sg := a.sign != b.sign
  if a.isNaN || b.isNaN then NaNGiven f (a.isSNaN || b.isSNaN) v fl
  else if (a.isInf && b.isInf) || (a.isZero && b.isZero) then NaNGiven f true v fl
  else if a.isInf then InfGiven f sg 0 v fl
  else if b.isInf then v.toNat = f.withSign sg 0 ∧ fl = 0
  else if b.isZero then InfGiven f sg fDZ v fl
  else ∃ n d : Nat, d ≠ 0 ∧ (if sg then -1 else 1) * (n : Rat) / d = ratOf a / ratOf b ∧
    let r := f.roundRat (c.mod.toNat % 4) (c.mod.getLsbD 2) sg n d
    fl = r.2 ∧ v.toNat = if c.mod.getLsbD 3 = true ∧ fl &&& fOF ≠ 0 ∧ r.1 % f.signBit = f.infBits then r.1 - 1 else r.1

/-- R172: the result of a square root: that of rounding a number z that has the root's leading bits, two more than the
format holds, and below them a one exactly where the root has a rest: z rounds in every mode as the root does. -/
def RootGiven (c : Common) (f : Fmt) (a : FVal) (v : W64) (fl : Flags) : Prop :=
  if a.isNaN then NaNGiven f a.isSNaN v fl
  else if a = .inf false then InfGiven f false 0 v fl
  else if a.isZero then v.toNat = f.withSign a.sign 0 ∧ fl = 0
  else if a.sign then NaNGiven f true v fl
  else ∃ (r : Nat) (q : Int), 2 ^ (f.fw + 2) ≤ r ∧ ((r : Rat) * 2 ^ q) * ((r : Rat) * 2 ^ q) ≤ ratOf a ∧ ratOf a < (((r : Rat) + 1) * 2 ^ q) * (((r : Rat) + 1) * 2 ^ q) ∧
    let s := f.round (c.mod.toNat % 4) (c.mod.getLsbD 2) (.fin false (2 * r + (if ((r : Rat) * 2 ^ q) * ((r : Rat) * 2 ^ q) = ratOf a then 0 else 1)) (q - 1))
    fl = s.2 ∧ v.toNat = s.1

/-- R84, R173: k is the integer that a number rounds to in a mode. -/
def IntegralOf (rm : Nat) (x : Rat) (k : Int) : Prop :=
  (rm = 0 → x - 1 / 2 ≤ k ∧ (k : Rat) ≤ x + 1 / 2 ∧ ((k : Rat) = x - 1 / 2 ∨ (k : Rat) = x + 1 / 2 → k % 2 = 0)) ∧
  (rm = 1 → if 0 ≤ x then (k : Rat) ≤ x ∧ x < k + 1 else x ≤ k ∧ (k : Rat) - 1 < x) ∧
  (rm = 2 → (k : Rat) ≤ x ∧ x < k + 1) ∧ (rm = 3 → x ≤ k ∧ (k : Rat) - 1 < x)

/-- R84, R85: a positive number num/den with its sign, rounded to a format: the finite result is the nearest number of the
format in the direction of the mode, a tie going to even bits; NX says that it differs. An overflow, which lies beyond the
largest finite number, gives what the mode's row of R84 says, with OF and NX. -/
def CorrectlyRounded (f : Fmt) (rm : Nat) (neg : Bool) (num den : Nat) (bits : Nat) (fl : Flags) : Prop :=
  let x : Rat := (if neg then -1 else 1) * (num : Rat) / den
  let isNum := fun (b : Nat) => b < 2 ^ f.width ∧ isFin (f.decode false b) = true
  let val := fun (b : Nat) => ratOf (f.decode false b)
  if fl &&& fOF = 0 then
    isNum bits ∧ (f.decode false bits).sign = neg ∧ (fl &&& fNX = 0 ↔ val bits = x) ∧
    ∀ b, isNum b →
      (rm = 0 → (val bits - x).abs ≤ (val b - x).abs ∧ (val b ≠ val bits → (val b - x).abs = (val bits - x).abs → bits % 2 = 0)) ∧
      (rm = 1 → (val bits).abs ≤ x.abs ∧ ((val b).abs ≤ x.abs → (val b).abs ≤ (val bits).abs)) ∧
      (rm = 2 → val bits ≤ x ∧ (val b ≤ x → val b ≤ val bits)) ∧
      (rm = 3 → x ≤ val bits ∧ (x ≤ val b → val bits ≤ val b))
  else
    fl = fOF ||| fNX ∧ val (f.infBits - 1) < x.abs ∧
    bits = f.withSign neg (if rm = 0 ∨ (rm = 2 ∧ neg = true) ∨ (rm = 3 ∧ neg = false) then f.infBits else f.infBits - 1)

/-! ### Functions (R175 to R178) -/

/-- A function of one source of form L. -/
def FunctionL (i : FormL → Instr) (P : FormL → Fmt → FVal → W64 → Flags → Prop) : Prop :=
  ∀ w, Computes (i w) w.com w.d (tyBits w.ty = 64) [srcOf w.a w.ty]
    (fun _ _ _ vs v fl => P w (fmtOf w.ty) ((fmtOf w.ty).decode (w.com.mod.getLsbD 2) (vs.getD 0 0)) v fl)
/-- An exact result: a number of the format with no flag. -/
def Exactly (f : Fmt) (x : Rat) (v : W64) (fl : Flags) : Prop := isFin (f.decode false v.toNat) = true ∧ ratOf (f.decode false v.toNat) = x ∧ fl = 0
/-- The largest exponent of a format, and the least power of two that it holds, or under FTZ holds as a normal number. -/
def emax (f : Fmt) : Int := f.bias
def eleast (f : Fmt) (ftz : Bool) : Int := if ftz then f.emin else f.emin - f.fw
/-- The turn left of an angle: t less its nearest integer, ties to even (R178). -/
def TurnLeft (a : FVal) (t : Rat) : Prop := ∃ k, IntegralOf 0 (ratOf a) k ∧ t = ratOf a - k
/-- The results that R176 and R178 fix for every function of class 2. -/
def FixedResults (i : Nat) (f : Fmt) (ftz : Bool) (a : FVal) (v : W64) (fl : Flags) : Prop :=
  (a.isNaN = true → NaNGiven f a.isSNaN v fl) ∧
  (i = 0 → (a.isZero = true → InfGiven f a.sign fDZ v fl) ∧ (a.isInf = true → v.toNat = f.withSign a.sign 0 ∧ fl = 0) ∧
    (∀ m : Int, isFin a = true → (ratOf a).abs = 2 ^ m → eleast f ftz ≤ -m → -m ≤ emax f → Exactly f (1 / ratOf a) v fl) ∧
    (isFin a = true → a.isZero = false → (ratOf a).abs < 2 ^ (-(emax f) - 1) → InfGiven f a.sign (fOF ||| fNX) v fl)) ∧
  (i = 1 → (a.isZero = true → InfGiven f a.sign fDZ v fl) ∧ (a.isNaN = false → a.isZero = false → a.sign = true → NaNGiven f true v fl) ∧
    (a = .inf false → v = 0 ∧ fl = 0) ∧ (∀ m : Int, isFin a = true → ratOf a = 2 ^ (2 * m) → Exactly f (2 ^ (-m)) v fl)) ∧
  (i = 2 → (a = .inf true → v = 0 ∧ fl = 0) ∧ (a = .inf false → InfGiven f false 0 v fl) ∧ (a.isZero = true → Exactly f 1 v fl) ∧
    (∀ m : Int, isFin a = true → ratOf a = m → eleast f ftz ≤ m → m ≤ emax f → Exactly f (2 ^ m) v fl) ∧
    (isFin a = true → (emax f : Rat) + 1 ≤ ratOf a → InfGiven f false (fOF ||| fNX) v fl)) ∧
  (i = 3 → (a.isZero = true → InfGiven f true fDZ v fl) ∧ (a.isNaN = false → a.isZero = false → a.sign = true → NaNGiven f true v fl) ∧
    (a = .inf false → InfGiven f false 0 v fl) ∧ (∀ m : Int, isFin a = true → ratOf a = 2 ^ m → Exactly f m v fl)) ∧
  (i = 4 → (a.isInf = true → Exactly f (if a.sign then -1 else 1) v fl) ∧ (a.isZero = true → v.toNat = f.withSign a.sign 0 ∧ fl = 0) ∧
    (isFin a = true → isFin (f.decode false v.toNat) = true ∧ (ratOf (f.decode false v.toNat)).abs ≤ 1)) ∧
  (i = 5 → (a.isInf = true → NaNGiven f true v fl) ∧ (isFin a = true → (TurnLeft a 0 → v.toNat = f.withSign a.sign 0 ∧ fl = 0) ∧
    (TurnLeft a (1 / 2) ∨ TurnLeft a (-1 / 2) → v = 0 ∧ fl = 0) ∧ (TurnLeft a (1 / 4) → Exactly f 1 v fl) ∧ (TurnLeft a (-1 / 4) → Exactly f (-1) v fl))) ∧
  (i = 6 → (a.isInf = true → NaNGiven f true v fl) ∧ (isFin a = true → (TurnLeft a 0 → Exactly f 1 v fl) ∧
    (TurnLeft a (1 / 2) ∨ TurnLeft a (-1 / 2) → Exactly f (-1) v fl) ∧ (TurnLeft a (1 / 4) ∨ TurnLeft a (-1 / 4) → v = 0 ∧ fl = 0)))

/-- R177: what the text of frred fixes without the value of pi: the special inputs; else NX, and a multiple of 2^-40 of at
most half a turn, rounded to f32. -/
def TurnsGiven (a : FVal) (v : W64) (fl : Flags) : Prop :=
  if a.isNaN || a.isInf then NaNGiven fp32 (a.isSNaN || a.isInf) v fl
  else if a.isZero then v.toNat = fp32.withSign a.sign 0 ∧ fl = 0
  else fl = fNX ∧ ∃ g : Int, g.natAbs ≤ 2 ^ 39 ∧ v.toNat = if g = 0 then 0 else (fp32.round 0 false (.fin (g < 0) g.natAbs (-40))).1

/-! ### Conversions and marker formats (R88 to R95, R179 to R182) -/

/-- R92, R179: cvt between binary and integer types. -/
def ConvertGiven (w : FormL) (a : Nat) (v : W64) (fl : Flags) : Prop :=
  let rm := w.com.mod.toNat % 4
  let f := fmtOf w.ty
  if isFloatTy w.ty2 then
    let x := (fmtOf w.ty2).decode (w.com.mod.getLsbD 2) a
    if isFloatTy w.ty then
      (if x.isNaN then NaNGiven f x.isSNaN v fl else if x.isInf then InfGiven f x.sign 0 v fl else Rounded w.com f x v fl)
    else
      ∃ r : Int, Stands w.ty r v ∧
        (if x.isNaN then r = 0 ∧ fl = fNV
        else if x.isInf then r = (if x.sign then loTy w.ty else hiTy w.ty) ∧ fl = fNV
        else ∃ k, IntegralOf rm (ratOf x) k ∧
          (if k > hiTy w.ty then r = hiTy w.ty ∧ fl = fNV else if k < loTy w.ty then r = loTy w.ty ∧ fl = fNV
          else r = k ∧ fl = flagIf (decide ((k : Rat) ≠ ratOf x)) fNX))
  else if isFloatTy w.ty then
    let z := valTy w.ty2 a
    let r := f.roundRat rm false (z < 0) z.natAbs 1
    fl = r.2 ∧ v.toNat = if w.com.mod.getLsbD 3 = true ∧ fl &&& fOF ≠ 0 ∧ r.1 % f.signBit = f.infBits then r.1 - 1 else r.1
  else IntResult w.ty (w.com.mod.getLsbD 3) (valTy w.ty2 a) v fl

/-- R88: the magnitude of a marker code; q6: M8, else M4. -/
def markerMag (q6 : Bool) (c : Nat) : Rat :=
  let Q := if q6 then 6 else 2
  if c = 0 then 0
  else
    let q := Nat.log2 c
    if q = 0 then 1 / 10 ^ (Q + 1)
    else
      let F := c % 2 ^ (q - 1)
      (1 + 9 * (F : Rat) / 2 ^ (q - 1)) * (if bitOf c (q - 1) then 1 / 10 ^ (Q + 1 - q) else 10 ^ (Q - q))
/-- R91, R95, R181: a marker element decoded with its scale byte. -/
def MarkerGiven (w : FormL) (a k : Nat) (v : W64) (fl : Flags) : Prop :=
  let q6 := decide (w.ty2 = tyM8)
  let c := if q6 then a % 128 else a % 8
  let f := fmtOf w.ty
  if k % 256 = 0xFF then v.toNat = f.nanBits ∧ fl = 0
  else ∃ num den : Nat, den ≠ 0 ∧ (num : Rat) / den = markerMag q6 c * 2 ^ ((k % 256 : Nat) - 127 : Int) ∧
    v.toNat = (f.roundRat (w.com.mod.toNat % 4) (w.com.mod.getLsbD 2) (c != 0 && bitOf a (if q6 then 7 else 3)) num den).1 ∧
    fl = (f.roundRat (w.com.mod.toNat % 4) (w.com.mod.getLsbD 2) (c != 0 && bitOf a (if q6 then 7 else 3)) num den).2

/-- R93: the scale byte of a block of values. -/
def ScaleOf (xs : List FVal) (k : Nat) : Prop :=
  if xs.any (fun x => x.isNaN || x.isInf) then k = 0xFF
  else if xs.all (fun x => x.isZero) then k = 127
  else ∃ x ∈ xs, (∀ z ∈ xs, (ratOf z).abs ≤ (ratOf x).abs) ∧ ∃ ea : Int, (2 : Rat) ^ ea ≤ (ratOf x).abs ∧ (ratOf x).abs < 2 ^ (ea + 1) ∧
    (k : Int) = max 0 (min 254 ((if (ratOf x).abs < 5 / 4 * 2 ^ ea then ea - 3 else ea - 2) + 127))
/-- R94: the code of a value under a scale byte: the nearest magnitude, a tie to the even code and of two odd codes to the
smaller magnitude, with the sign of x unless it is zero. -/
def CodeOf (q6 : Bool) (k : Nat) (x : FVal) (el : Nat) : Prop :=
  if k = 0xFF then el = 0
  else
    let n := if q6 then 128 else 8
    let a := (ratOf x).abs / 2 ^ ((k : Int) - 127)
    ∃ c < n, el = (if c = 0 then 0 else c + if x.sign then n else 0) ∧
      ∀ b < n, (markerMag q6 c - a).abs ≤ (markerMag q6 b - a).abs ∧
        (b ≠ c → (markerMag q6 b - a).abs = (markerMag q6 c - a).abs → c % 2 = 0 ∨ (b % 2 = 1 ∧ markerMag q6 c < markerMag q6 b))
/-- R94, R180: what a block adds to the counts of its tensor: saturations, flushes and one NaN. -/
def BlockCounts (q6 : Bool) (k : Nat) (xs : List FVal) (c : MarkCount) : Prop :=
  let top : Rat := if q6 then 10 ^ 5 else 10
  c.nan = (if k = 0xFF then 1 else 0) ∧
  c.sat = (if k = 0xFF then 0 else (xs.filter (fun x => decide (top < (ratOf x).abs / 2 ^ ((k : Int) - 127)))).length) ∧
  ∃ el : FVal → Nat, (∀ x ∈ xs, CodeOf q6 k x (el x)) ∧
    c.flush = if k = 0xFF then 0 else (xs.filter (fun x => !x.isZero && el x == 0)).length

end Sys2Proof.Claims
end

