-- ==== Sys2Proof/ClaimsFlow.lean ====
section
/-! DEFINITION. The terms of the statements about control flow, memory and the instructions that a split performs once. -/
namespace Sys2Proof.Claims
open Sys2Proof.Machine

/-! ### Where lanes go (R39, R222 to R226) -/

/-- R123, R222: the target of a form-K word at a word index. -/
def target (w : FormK) (wi : W32) : W32 := if w.kind = 1 then w.off else wi + w.off

/-- The order of targets: by word index, then by depth (R39, R225). -/
def below (a b : W32 × BitVec 16) : Prop := a.1.toNat < b.1.toNat ∨ (a.1 = b.1 ∧ a.2.toNat < b.2.toNat)

/-- The splits that stand where a split was and where there was none, in the order of R39: the split's own entry, then
entries that were free from the lowest up, then the end of the spill area. -/
def came (pos : Nat) (g h : Group) : List Split :=
  (h.table.getD pos none).toList ++
  ((List.range 8).filter (fun p => p != pos && (g.table.getD p none).isNone)).filterMap (fun p => h.table.getD p none) ++
  h.spill.drop g.spill.length

/-- R39: the issuing split's lanes have gone each to its goal, a word index with a depth: one split for each goal, lowest
first, with the earlier split's record; free entries fill from the lowest up and only then the spill area grows; no other
split and no register changes. -/
structure Placed (y : Ctx) (goal : Nat → W32 × BitVec 16) (g h : Group) : Prop where
  rest : h = { g with table := h.table, spill := h.spill, swaps := h.swaps, changed := h.changed }
  stay : ∀ p sp, p ≠ y.foc.pos → g.table[p]? = some (some sp) → h.table[p]? = some (some sp)
  spill : h.spill.take g.spill.length = g.spill
  order : (came y.foc.pos g h).Pairwise (fun a b => below (a.wi, a.depth) (b.wi, b.depth))
  each : ∀ sp ∈ came y.foc.pos g h, ∃ l ∈ lanesOf y.sp.mask, goal l = (sp.wi, sp.depth) ∧
    (∀ k < 32, sp.mask.getLsbD k = (y.sp.mask.getLsbD k && goal k == goal l)) ∧
    sp = { y.sp.advance with wi := sp.wi, depth := sp.depth, mask := sp.mask, age := sp.age, qAt := sp.qAt, mAt := sp.mAt, inel := sp.inel, held := sp.held }
  all : ∀ l ∈ lanesOf y.sp.mask, ∃ sp ∈ came y.foc.pos g h, sp.mask.getLsbD l = true
  lowest : ∀ p q, p < q → q < 8 → g.table.getD p none = none → g.table.getD q none = none → h.table.getD p none = none → h.table.getD q none = none
  full : g.spill.length < h.spill.length → ∀ p < 8, (h.table.getD p none).isSome = true
  young : ∀ sp ∈ (came y.foc.pos g h).tail, sp.age = 0

/-- The goal of lanes that take a branch and of those that do not. -/
def goals (y : Ctx) (act : BitVec 32) (tgt : Nat → W32) (dep : BitVec 16) (l : Nat) : W32 × BitVec 16 :=
  if act.getLsbD l then (tgt l, dep) else (y.sp.wi + 1, y.sp.depth)

/-- A split whose lanes a transfer places: a table of eight entries, and some lane. -/
def Splittable (y : Ctx) : Prop := y.g.table.length = 8 ∧ y.sp.mask ≠ 0

/-- A transfer that may divide the split and writes no register. -/
def Transfers (i : Instr) (s t : State) (y : Ctx) (goal : Nat → W32 × BitVec 16) : Prop :=
  ∃ h, exec i s = .next (({ t with seq := t.seq + 1 } : State).modGrp y.foc.wg y.foc.grp h) ∧ Placed y goal y.g (h y.g)

/-- The same for a transfer that first writes a lane register of the executing lanes. -/
def Links (i : Instr) (s t : State) (y : Ctx) (d : Opnd) (act : BitVec 32) (v : Nat → W32) (goal : Nat → W32 × BitVec 16) : Prop :=
  ∃ h g, exec i s = .next (({ t with seq := t.seq + 1 } : State).modGrp y.foc.wg y.foc.grp h) ∧
    LanesGet d false act (fun l => ((v l).zeroExtend 64, 0)) y.g g ∧ Placed y goal g (h y.g)

/-- The lane's 32-bit source, whole. -/
def word32 (y : Ctx) (lane : Nat) (o : Opnd) : W32 := BitVec.ofNat 32 (whole y lane o false)
/-- The lane's 64-bit source, whole. -/
def word64 (y : Ctx) (lane : Nat) (o : Opnd) : W64 := BitVec.ofNat 64 (whole y lane o true)

/-! ### Waiting and leaving -/

/-- The splits of a group. -/
def splits (g : Group) : List Split := g.table.filterMap id ++ g.spill
/-- The lanes that some split of a list holds. -/
def held (l : Nat) (sps : List Split) : Bool := sps.any (fun sp => sp.mask.getLsbD l)
/-- R41: a split that waits at an ssync at a word index and depth. -/
def atSsync (wi : W32) (dep : BitVec 16) (sp : Split) : Prop := sp.phase = .waiting ∧ sp.why = .ssync ∧ sp.wi = wi ∧ sp.depth = dep
/-- The state in which a split waits for a reason, as R36 has it: its record, its lanes and its word index stay. -/
def waitsFor (t : State) (y : Ctx) (why : Why) (blk : Blk) (timer : Nat) : State :=
  (t.blockSplit y .waiting why blk).modSplit y.foc (fun sp => { sp with timer := timer })

/-- R423: the lane that a trap names which no single lane decides. -/
def NamedLane (y : Ctx) (c : Common) (l : Nat) : Prop :=
  y.real c ≠ 0 → l ∈ lanesOf (y.real c) ∧ ∀ k ∈ lanesOf (y.real c), l ≤ k


/-! ### Lanes' memory accesses (R121, R122, R188, R189, R310 to R314) -/

/-- R121: the addresses of the lanes that make an access: under U = 1 one, when the condition holds; else of each active
lane that is no helper. -/
def ptrs (y : Ctx) (w : FormM) (noIdx : Bool) : List (Nat × Nat) :=
  (if w.com.u then (if y.gwOn w.com then [lowestLane y.sp.mask] else []) else lanesOf (y.real w.com)).map (fun l =>
    (l, memAddr w (word64 y l w.a) (if noIdx || w.com.mod.getLsbD 3 then 0 else word32 y l w.b)))

/-- R422 step 4: every lane passes its checks, and each goes to its place. -/
def LanesPass (y : Ctx) (t : State) (u : PtrUse) (k : Need) (ps : List (Nat × Nat)) (plan : List LanePlan) : Prop :=
  plan.map (fun p => (p.lane, p.ptr)) = ps ∧ ∀ p ∈ plan, y.laneCheck t u k p.lane p.ptr = .ok p.res

/-- n bytes of a line from a byte address in it. -/
def ofLine (d : List Byte) (pa n : Nat) : List Byte := (d.drop (pa % 128)).take n

/-- R21, R70: the L1 of a core has room for a line: the state itself, or the state without one of its 2,048 copies. A
requester without an L1 always has room. -/
def RoomMade (who : Nat) (v w : State) : Prop :=
  if 192 ≤ who ∨ (v.l1.filter (fun c => c.core == who)).length < 2048 then w = v
  else ∃ c ∈ v.l1, c.core = who ∧ w = { v with l1 := v.l1.erase c, free := v.free + 1 }

/-- R313, R314: the L2 has served a line to a requester, which keeps it with its grant: one that ends within the lease, and
before the next write becomes visible. -/
def Served (t : State) (die who lease : Nat) (l : Line) (u : State) : Prop :=
  ∃ k v, t.clock die ≤ k ∧ k ≤ t.clock die + lease ∧ (∀ w ∈ l.writes, t.clock die < w.vis → k < w.vis) ∧
    RoomMade who { t.setLine { l with rts := max l.rts k } with seq := t.seq + 1, l1 := t.l1.filter (fun c => !(c.core == who && c.addr == l.addr)) } v ∧
    u = { v with l1 := v.l1 ++ [{ core := who, addr := l.addr, data := l.seen (t.clock die), grant := k, at_ := t.seq }] }

/-- n bytes, at most 16, that no rule states: free values (log entry 6). -/
def openBytes (k n : Nat) : List Byte := (leBytes 8 (Config.freeValue k).toNat ++ leBytes 8 (Config.freeValue (k + 1)).toNat).take n

/-- What one lane's load of n bytes reads, by the place that its address names, and the state after it: scratchpad bytes;
the core's copy of a line within its lease, or the line of its tenancy as visible at its die now; at a home the line as served
without a lease; each under the lane's own earlier writes; the completion of a device load or of an access to another device,
when it has come. A member that has retired, and a device page, give bytes that no rule states. -/
def LaneReads (y : Ctx) (n : Nat) (s : State) (p : LanePlan) (u : State) (b : List Byte) : Prop :=
  match p.res with
  | .scr key win off => u = s ∧ ∃ w, s.wg? key = some w ∧ b = s.scrRead w win off n
  | .line pa _ => y.ownAtomic s p.lane pa n = false ∧
      ((∃ c, y.l1Hit s (pa / 128) = some c ∧ u = s ∧ b = y.ownWrites s p.lane pa (ofLine c.data pa n)) ∨
       (y.l1Hit s (pa / 128) = none ∧ ∃ l, s.line? y.die (pa / 128) = some l ∧ l.serves = true ∧ l.hits y.wg.ten = true ∧
        Served s y.die y.g.core (s.leaseOf y.g.core) l u ∧ b = y.ownWrites u p.lane pa (ofLine (l.seen (s.clock y.die)) pa n)))
  | .direct pa _ _ => y.ownAtomic s p.lane pa n = false ∧
      let kept := s.l1.find? (fun c => c.core == laneBuffer y.wg.key y.foc.grp p.lane && c.addr == pa / 128)
      ((∃ c, kept = some c ∧ u = s ∧ b = y.ownWrites s p.lane pa (ofLine c.data pa n)) ∨
       (kept = none ∧ ∃ l, s.line? (homeDie pa) (pa / 128) = some l ∧ l.serves = true ∧
        Served s (homeDie pa) (laneBuffer y.wg.key y.foc.grp p.lane) 0 l u ∧ b = y.ownWrites u p.lane pa (ofLine (l.seen (s.clock (homeDie pa))) pa n)))
  | .device _ pa _ => ∃ d, s.devLoads.find? (fun d => d.wg == y.wg.key && d.grp == y.foc.grp && d.lane == p.lane && d.wi == y.sp.wi && d.pa == pa) = some d ∧
      ((d.ans = some (some b) ∧ u = s) ∨ (d.ans = none ∧ b = openBytes s.free n ∧ u = { s with free := s.free + 2 }))
  | .peer dev _ => u = s ∧ s.unreachable dev = false ∧ y.ownPeer s p.lane p.ptr (.load n) = false ∧
      ∃ f fl, s.fabric.find? (fun f => f.wg == y.wg.key && f.grp == y.foc.grp && f.lane == p.lane && f.wi == y.sp.wi && f.ptr == p.ptr && !f.posted && f.copy.isNone) = some f ∧ f.ans = some (.ok b fl)
  | _ => b = openBytes s.free n ∧ u = { s with free := s.free + 2 }

/-- The lanes in order, each reading in the state that the one before it leaves. -/
def LanesRead (y : Ctx) (n : Nat) : State → List LanePlan → State → (Nat → List Byte) → Prop
  | s, [], u, _ => u = s
  | s, p :: ps, u, b => ∃ s1 c, LaneReads y n s p s1 c ∧ b p.lane = c ∧ LanesRead y n s1 ps u b

/-- R188: the register image of the bytes of a load: signed sizes of 1 and 2 bytes extend their sign to 32 bits. -/
def LoadImage (w : FormM) (b : List Byte) (v : Nat) : Prop :=
  if w.sgn then v < 2 ^ 32 ∧ sextInt 32 v = sextInt (8 * 2 ^ w.sz.toNat) (leNat b) else v = leNat b

/-- R187, R188: what a register of a lane reads as once 1 to 16 bytes have gone to D; 16 bytes move the hold file as two
pairs in order. -/
def wroteRun (g : Group) (lane : Nat) (d : Opnd) (sz : BitVec 3) (v : Nat) (t : Tier) (k : Nat) : W32 :=
  if sz = 4 then
    match d with
    | .chan _ _ => g.reg lane t k
    | .reg t0 _ i =>
      if t = t0 ∧ i.toNat ≤ k ∧ k < i.toNat + 4 then BitVec.ofNat 32 (v / 2 ^ (32 * (k - i.toNat)))
      else if t = .h ∧ (t0 = .v ∨ t0 = .o) then BitVec.ofNat 32 (v / 2 ^ (64 + 32 * k)) else g.reg lane t k
  else wrote g lane d (sz = 3) (BitVec.ofNat 64 v) t k

/-- The change of a group whose lanes of act get the bytes of a load or the old value of an atomic, with flags. -/
structure LanesLoad (d : Opnd) (sz : BitVec 3) (act : BitVec 32) (r : Nat → Nat × Flags) (g h : Group) : Prop where
  rest : h = { g with regs := h.regs, fstat := h.fstat, rpoison := h.rpoison }
  regs : ∀ l < 32, ∀ t k, InFile t k → h.reg l t k = if act.getLsbD l then wroteRun g l d sz (r l).1 t k else g.reg l t k
  flags : ∀ l < 32, mget 0 h.fstat l = if act.getLsbD l then mget 0 g.fstat l ||| (r l).2.zeroExtend 32 else mget 0 g.fstat l

/-- The same into s registers once. -/
structure GroupLoads (i : Nat) (sz : BitVec 3) (v : Nat) (act : BitVec 32) (fl : Nat → Flags) (g h : Group) : Prop where
  rest : h = { g with sregs := h.sregs, fstat := h.fstat, rpoison := h.rpoison }
  sregs : ∀ k, h.reg 0 .s k = if i ≤ k ∧ k < i + runLength sz then BitVec.ofNat 32 (v / 2 ^ (32 * (k - i))) else g.reg 0 .s k
  flags : ∀ l < 32, mget 0 h.fstat l = if act.getLsbD l then mget 0 g.fstat l ||| (fl l).zeroExtend 32 else mget 0 g.fstat l

/-- R314: an acquire of the split is stamped. -/
def stamped (y : Ctx) (acq : Bool) (t : State) : State :=
  if acq then ({ t with seq := t.seq + 1 } : State).modSplit y.foc (fun sp => { sp with acqAt := t.seq }) else t

/-- The end of a memory instruction with results: D takes them, in the s tier one of them, and an acquire is stamped. -/
def Returns (i : Instr) (s u : State) (y : Ctx) (w : FormM) (act : BitVec 32) (r : Nat → Nat × Flags) : Prop :=
  match w.d with
  | .reg .s _ k => ∃ f, ∃ l ∈ lanesOf act, exec i s = .next (stamped y (w.ord.getLsbD 0) (({ u with free := u.free + 1 } : State).doneWith y f)) ∧
      ∀ g, GroupLoads k.toNat w.sz (r l).1 act (fun l => (r l).2) g (f g)
  | _ => ∃ f, exec i s = .next (stamped y (w.ord.getLsbD 0) (u.doneWith y f)) ∧ ∀ g, LanesLoad w.d w.sz act r g (f g)

/-- The lanes whose D a memory instruction writes: under U = 1 one, for the group. -/
def takersOf (y : Ctx) (w : FormM) : BitVec 32 := if w.com.u then laneBit (lowestLane y.sp.mask) else y.active w.com

/-- The answers that the instruction awaited have been used. -/
def answersUsed (y : Ctx) (u : State) : State :=
  { u with fabric := u.fabric.filter (fun f => !(f.wg == y.wg.key && f.grp == y.foc.grp && f.wi == y.sp.wi && !f.posted && f.copy.isNone && y.sp.mask.getLsbD f.lane)), devLoads := u.devLoads.filter (fun d => !(d.wg == y.wg.key && d.grp == y.foc.grp && d.wi == y.sp.wi && y.sp.mask.getLsbD d.lane)) }

/-- R186, R195, R299: nothing that a release of a scope awaits is open. -/
def Free (t : State) (y : Ctx) (rel : Bool) (scope : Nat) : Prop :=
  rel = true → y.sp.pend = [] ∧ t.passed y.die y.sp.vis = true ∧ (2 ≤ scope → t.haloDone y.wg.ctx y.sp.halo = true)

/-- No lane's place is on another device. -/
def NearBy (plan : List LanePlan) : Prop := ∀ p ∈ plan, match p.res with | .peer _ _ => False | _ => True

/-- No lane's place is on another device, a device page or a member that has retired. -/
def OnPart (plan : List LanePlan) : Prop := ∀ p ∈ plan, match p.res with | .peer _ _ => False | .device _ _ _ => False | .gone => False | _ => True

/-- No access to another device of this instruction is on its way. -/
def NoFlits (y : Ctx) (t : State) : Prop :=
  ∀ f ∈ t.fabric, ¬ (f.wg = y.wg.key ∧ f.grp = y.foc.grp ∧ f.wi = y.sp.wi ∧ f.posted = false ∧ f.copy = none ∧ y.sp.mask.getLsbD f.lane = true)

/-- R332, R446: a lane whose place is on another device has its answer, and no write of its own to those bytes is on its way
(R305): the access was permitted there. -/
def Answered (y : Ctx) (n : Nat) (t : State) (p : LanePlan) (fl : Flags) (b : List Byte) : Prop :=
  match p.res with
  | .peer dev _ => t.unreachable dev = false ∧ y.ownPeer t p.lane p.ptr (.load n) = false ∧ ∃ f, t.fabric.find? (fun f => f.wg == y.wg.key && f.grp == y.foc.grp && f.lane == p.lane && f.wi == y.sp.wi && f.ptr == p.ptr && !f.posted && f.copy.isNone) = some f ∧ f.ans = some (.ok b fl)
  | _ => fl = 0 ∧ b = []

/-- R187, R189: the bytes that a store of n bytes writes: the registers from D on, low byte first. -/
def dataBytes (y : Ctx) (lane : Nat) (o : Opnd) (n : Nat) : List Byte :=
  match o with
  | .chan _ _ => []
  | .reg t _ i => (List.range n).map (fun j => (y.g.reg lane t (i.toNat + j / 4)).extractLsb' (8 * (j % 4)) 8)

/-! ### Read-modify-writes (R101, R197 to R202) -/

/-- R101: the sum of an atomic floating-point add. -/
def AtomicSum (f : Fmt) (ftz : Bool) (old b new : Nat) (fl : Flags) : Prop :=
  let x := f.decode ftz old
  let z := f.decode ftz b
  if x.isNaN || z.isNaN || (x.isInf && z.isInf && x.sign != z.sign) then new = f.nanBits ∧ fl = fNV
  else if x.isInf then new = f.withSign x.sign f.infBits ∧ fl = 0
  else if z.isInf then new = f.withSign z.sign f.infBits ∧ fl = 0
  else ∃ t, SumOf 0 x z t ∧ new = (f.round 0 ftz t).1 ∧ fl = (f.round 0 ftz t).2

/-- R197: the new value of an operation on w bits, and its flags. -/
def AtomicGives (mod : BitVec 3) (sgn : Bool) (sz : BitVec 3) (old b cmp new : Nat) (fl : Flags) : Prop :=
  let w := 8 * 2 ^ sz.toNat
  let val := fun (x : Nat) => if sgn then sextInt w x else (x : Int)
  (mod = 0 → sgn = false → new = (old + b) % 2 ^ w ∧ fl = 0) ∧
  (mod = 4 → sgn = false → fl = 0 ∧ ∀ k, bitOf new k = (bitOf old k ^^ bitOf b k)) ∧
  (mod = 0 ∨ mod = 4 → sgn = true → AtomicSum (if sz = 3 then fp64 else fp32) (mod = 4) old b new fl) ∧
  (mod = 1 → fl = 0 ∧ (new = old ∨ new = b) ∧ val new ≤ val old ∧ val new ≤ val b) ∧
  (mod = 2 → fl = 0 ∧ (new = old ∨ new = b) ∧ val old ≤ val new ∧ val b ≤ val new) ∧
  (mod = 3 → fl = 0 ∧ new = if sgn = true ∧ old ≠ cmp then old else b) ∧
  (mod = 7 → fl = 0 ∧ ∀ k, bitOf new k = if sgn then bitOf old k || bitOf b k else bitOf old k && bitOf b k)

/-- The data operand of an atomic, and the compare value of `.cas` above it (R197). -/
def runOf (y : Ctx) (lane : Nat) (o : Opnd) (first n : Nat) : Nat := y.g.readRun lane o first n

/-- R198, R313: an operation of n bytes at a line that a die holds: the new bytes, but for those that the device alone
writes, get a visibility time, which the record of the split takes. -/
def AtLine (y : Ctx) (s : State) (die lane pa n : Nat) (new : Nat → Prop) (u : State) (old : Nat) : Prop :=
  ∃ l x l1 vis v w, s.line? die (pa / 128) = some l ∧ old = leNat (ofLine l.latest pa n) ∧ new x ∧
    (l1, vis) = l.write (s.clock die) (pa % 128) (s.programBytes pa (ofLine l.latest pa n) (leBytes n x)) (some (laneKey y.wg.key y.foc.grp lane)) ∧
    v = ((s.unpoison pa n).setLine { l1 with st := .m }).noteWrite pa n (some vis) ∧
    w = (if die = y.die then v.recordVis y.foc vis false else y.recordMap v lane pa [(die, vis)]) ∧
    u = w.modSplit y.foc (fun sp => { sp with halo := insertNat (pa / 4096) sp.halo })

/-- R198: one lane's operation at its point of execution, as the state shows it: the old value of the location, the state
with the new one, and flags. -/
def LaneUpdates (y : Ctx) (w : FormM) (s : State) (p : LanePlan) (got : List Byte) (u : State) (old : Nat) (fl : Flags) : Prop :=
  let n := 2 ^ w.sz.toNat
  let new := fun (x : Nat) => (x, fl) = atomicOp (w.com.mod.extractLsb' 0 3) w.sgn w.sz old (runOf y p.lane w.b 0 (runLength w.sz)) (if w.sgn && w.com.mod.extractLsb' 0 3 == 3 then runOf y p.lane w.b (runLength w.sz) (runLength w.sz) else 0)
  match p.res with
  | .scr key win off => ∃ g x, s.wg? key = some g ∧ old = leNat (s.scrRead g win off n) ∧ new x ∧ u = s.scrWrite g win off (leBytes n x)
  | .line pa _ => AtLine y s y.die p.lane pa n new u old
  | .direct pa _ _ => AtLine y s (homeDie pa) p.lane pa n new u old
  | .device port pa _ => ∃ x, old = leNat got ∧ new x ∧ u = s.toDevice port pa (leBytes n x)
  | _ => old = leNat got ∧ fl = 0 ∧ u = s

/-- The lanes' operations in ascending order. -/
def LanesUpdate (y : Ctx) (w : FormM) (got : Nat → List Byte) : State → List LanePlan → State → (Nat → Nat × Flags) → Prop
  | s, [], u, _ => u = s
  | s, p :: ps, u, r => ∃ s1 old fl, LaneUpdates y w s p (got p.lane) s1 old fl ∧ r p.lane = (old, fl) ∧ LanesUpdate y w got s1 ps u r

/-- R110, R198: no lane of an atom executes, or under U = 1 the condition does not hold or every lane is a helper. -/
def NoAtom (y : Ctx) (w : FormM) : Prop := if w.com.u then y.gwOn w.com = false ∨ y.sp.mask &&& ~~~y.g.helper = 0 else y.active w.com = 0

/-- R198: what an atom needs before it is performed: exclusive ownership of a line, a device's bytes with no write of the lane
to the port on its way, a peer's answer. -/
def AtomReady (y : Ctx) (n : Nat) (t : State) (p : LanePlan) (b : List Byte) : Prop :=
  match p.res with
  | .line pa _ => y.lineReady t y.die p.lane pa n = true
  | .direct pa _ _ => y.lineReady t (homeDie pa) p.lane pa n = true
  | .device port pa _ => (∀ q ∈ t.posted, ¬ (q.port = port ∧ q.wg = y.wg.key ∧ q.grp = y.foc.grp ∧ q.lane = p.lane)) ∧ ∃ d, t.devLoads.find? (fun d => d.wg == y.wg.key && d.grp == y.foc.grp && d.lane == p.lane && d.wi == y.sp.wi && d.pa == pa) = some d ∧ d.ans = some (some b)
  | .gone => False
  | _ => True

/-- R313: the writes of a line lie in it, and their visibility times rise to the line's last. -/
def Ordered (l : Line) : Prop :=
  l.data.length = 128 ∧ l.writes.Pairwise (fun a b => a.vis ≤ b.vis) ∧ ∀ w ∈ l.writes, w.vis ≤ l.wts ∧ w.off + w.bytes.length ≤ 128

/-! ### Instructions that a split performs once (R203 to R219) -/

/-- No load of a device page by this instruction is on its way. -/
def NoLoads (y : Ctx) (t : State) : Prop :=
  ∀ d ∈ t.devLoads, ¬ (d.wg = y.wg.key ∧ d.grp = y.foc.grp ∧ d.wi = y.sp.wi ∧ y.sp.mask.getLsbD d.lane = true)

/-- R205: the object that a barrier instruction names, with the pointer that names it: EIMM in window 0 of the workgroup, or
a checked pointer below offset 0x400 to a member that has started. -/
def Names (y : Ctx) (t : State) (w : FormE) (lane : Nat) (r : BarRef) (ptr : Nat) : Prop :=
  if w.com.mod.getLsbD 3 then
    ptr = whole y lane w.a true ∧ ∃ m win off, y.checkPtr { spaces := [2, 3], width := 16, align := 16 } ptr = .ok (.scr m win off) ∧ off < 0x400 ∧
      (if 16 ≤ m then r = { wg := y.wg.key, win := win, id := off / 16 }
      else ∃ g v, t.member y.wg m = some (g, v) ∧ g.phase ≠ .starting ∧ r = { wg := g.key, win := v, id := off / 16 })
  else r = { wg := y.wg.key, win := 0, id := w.eimm.toNat % 64 } ∧ ptr = (if y.win = 0 then 2 else 3) * 2 ^ 60 + 16 * (w.eimm.toNat % 64)

/-- R203: a word for D of a split instruction: each active lane, or the s register once. -/
def SplitGets (d : Opnd) (act : BitVec 32) (v : W64) (g h : Group) : Prop :=
  match d with
  | .reg .s _ k => GroupGets k.toNat false v 0 (fun _ => 0) g h
  | d => LanesGet d false act (fun _ => (v, 0)) g h

/-- R219: the status word of a channel. -/
def ChannelWord (t : State) (y : Ctx) (ch v : Nat) : Prop :=
  let c := y.wg.chan ch
  if c.v then c.kind < 4 →
    v / 2 ^ 31 = 1 ∧ v / 2 ^ 29 % 4 = c.kind ∧ (v / 2 ^ 28 % 2 = 1 ↔ c.kind = 1 ∧ c.wpos ≠ 0) ∧ v / 2 ^ 17 % 2 ^ 11 = 0 ∧
    (c.kind = 0 → v % 2 ^ 17 = min (ringHeld t y.wg (c.ptr % 2 ^ 21)) (2 ^ 17 - 1))
  else v = 0

end Sys2Proof.Claims
end

