-- ==== Sys2Proof/ClaimsUnits.lean ====
section
/-! DEFINITION. The terms of the statements about the matrix engine, views, streamers and the other units. -/
namespace Sys2Proof.Claims
open Sys2Proof.Machine

/-! ### The matrix engine (R96 to R100, R237 to R257) -/

/-- R80: an integer element of a row: INT8, N8 or INT4. -/
def intElem (fmt : Nat) (row : List Byte) (i : Nat) : Int :=
  if fmt = 4 then sextInt 4 ((row.getD (i / 2) 0).toNat / 16 ^ (i % 2) % 16)
  else if fmt = 3 then ((row.getD i 0).toNat : Int) else (row.getD i 0).toInt

/-- R97: the elements of a row of an integer format. -/
def intElems (fmt : Nat) : Nat := if fmt = 4 then 384 else 192

/-- R100: saturating accumulation of block sums in increasing order, with the number of clamps. -/
def clampSum : Int → List Int → Int × Nat
  | z, [] => (z, 0)
  | z, b :: bs =>
    let u := max (-(2 ^ 31)) (min (z + b) (2 ^ 31 - 1))
    let r := clampSum u bs
    (r.1, r.2 + if u = z + b then 0 else 1)

/-- R238: the group's workgroup owns the array, or no workgroup does and it takes it. -/
def MayTake (y : Ctx) (t : State) (n : Nat) : Prop :=
  ((t.core y.g.core).array n).owner = none ∨ ((t.core y.g.core).array n).owner = some y.wg.key

/-- R247: a command comes no later than another in the order of an array: its M-pipe cycle, then its sub-core. -/
def NoLater (c d : ArrCmd) : Prop := c.place.1 < d.place.1 ∨ (c.place.1 = d.place.1 ∧ c.place.2 ≤ d.place.2)

/-- R240, R241: an accumulator row of a lane: within the group's window, the first of a pair even. -/
def InWindow (y : Ctx) (first n : Nat) : Prop := y.g.abase ≤ first ∧ first + n ≤ y.g.alimit
/-- The row of the core. -/
def coreRow (y : Ctx) (r : Nat) : Nat := y.wg.accBase.getD y.win 0 + r
/-- R241: no operation in flight owns one of the rows of the core. -/
def RowsFree (y : Ctx) (t : State) (rows : List Nat) : Prop := ∀ m ∈ (t.core y.g.core).mops, ∀ r ∈ m.rows, r ∉ rows
/-- The bytes that a core row or pair puts in scratchpad (R254). -/
def rowImage (c : Core) (pair : Bool) (row : Nat) : List Byte :=
  (List.range 128).flatMap (fun j => leBytes 4 (mget 0 c.acc (128 * row + j)).toNat ++ (if pair then leBytes 4 (mget 0 c.acc (128 * (row + 1) + j)).toNat else []))

/-- R254: one lane's load of a row or pair from scratchpad bytes: only that row, or pair, and its poison change. -/
structure RowLoaded (pair : Bool) (row : Nat) (b : List Byte) (bad : Bool) (c d : Core) : Prop where
  rest : d = { c with acc := d.acc, accPoison := d.accPoison }
  cells : ∀ k < 2048, ∀ j < 128, mget 0 d.acc (128 * k + j) =
    if pair then (if k = row then BitVec.ofNat 32 (leNat ((b.drop (8 * j)).take 4)) else if k = row + 1 then BitVec.ofNat 32 (leNat ((b.drop (8 * j + 4)).take 4)) else mget 0 c.acc (128 * k + j))
    else if k = row then BitVec.ofNat 32 (leNat ((b.drop (4 * j)).take 4)) else mget 0 c.acc (128 * k + j)
  poison : ∀ k, k ∈ d.accPoison ↔ if k = row ∨ (pair = true ∧ k = row + 1) then bad = true else k ∈ c.accPoison

/-- The lanes' rows in ascending order. -/
def RowsLoaded (y : Ctx) (pair : Bool) (row off : Nat → Nat) : State → List Nat → State → Prop
  | s, [], u => u = s
  | s, l :: ls, u => ∃ d, RowLoaded pair (row l) (s.scrRead y.wg y.win (off l) (if pair then 1024 else 512)) (s.scrPoisoned y.wg y.win (off l) (if pair then 1024 else 512)) (s.core y.g.core) d ∧
      RowsLoaded y pair row off (s.modCore y.g.core (fun _ => d)) ls u

/-! ### Views (R274 to R299) -/

/-- The slot of a view instruction names a view of this device. -/
def SlotHolds (y : Ctx) (t : State) (slot : Nat) (v : View) : Prop :=
  y.gr.views.getD slot 0 ≠ 0 ∧ t.views.find? (fun k => k.ptr == y.gr.views.getD slot 0 && k.space == y.gr.pasid) = some v

/-- R293: the rows of vsync and vreq lie in the view. -/
def RowsIn (v : View) (row n : Nat) : Prop := n ≠ 0 ∧ v.row0 ≤ row ∧ row + n ≤ v.row0 + v.vrows

/-- R280, R294: a view block of the view holds an element of rows row to row + n - 1, in the columns that belong to it. -/
def Touches (v : View) (row n m : Nat) : Prop :=
  m < v.count ∧ ∃ r c, row ≤ r ∧ r < row + n ∧ v.colLo ≤ c ∧ c < v.colHi ∧ (v.mbase + r * v.mstride + c * v.es) / 4096 = v.block0 + m

/-- R288: V and F of a view block's tag entry, and its TAG against WT. -/
def FreshTag (t : State) (v : View) (m : Nat) : Prop :=
  ∃ k, t.masterOf v m = some k ∧ bitOf (t.tagEntry v m) 63 = true ∧ bitOf (t.tagEntry v m) 62 = false ∧ k.wt ≤ t.tagEntry v m % 2 ^ 48
def FaultedTag (t : State) (v : View) (m : Nat) : Prop := bitOf (t.tagEntry v m) 62 = true

/-- The lowest block of a list with a property. -/
def Lowest (ms : List Nat) (p : Nat → Prop) (m : Nat) : Prop := m ∈ ms ∧ p m ∧ ∀ k ∈ ms, p k → m ≤ k

/-- R293, R295: a lane's element lies in the view. -/
def ElemIn (v : View) (row col : Nat) : Prop :=
  v.row0 ≤ row ∧ row < v.row0 + v.vrows ∧ col < v.cols ∧ (v.edge = true → v.col0 ≤ col ∧ col < v.col0 + v.vcols)

/-- R293: the trap of a view instruction. -/
def viewCause (lane slot code m : Nat) : Trap := { cause := 0x0C, sub := code, lane := lane, val := BitVec.ofNat 64 (code + 2 ^ 8 * slot + 2 ^ 32 * m) }

/-! ### Copies (R258 to R273, R453, R454) -/

/-- The 128 bytes of a descriptor at a checked pointer, none of them poisoned, and the state after its read: a scratchpad's, or
a line's as the die's L2 serves it to the issuing lane's streamer (R325). -/
def DescAt (y : Ctx) (t : State) (q : LanePlan) (u : State) (b : List Byte) : Prop :=
  let line := fun (pa : Nat) => pa % 128 = 0 ∧ t.l1.find? (fun c => c.core == laneBuffer y.wg.key y.foc.grp q.lane && c.addr == pa / 128) = none ∧
    ∃ l v, t.line? y.die (pa / 128) = some l ∧ l.serves = true ∧ l.hits y.wg.ten = true ∧ Served t y.die (laneBuffer y.wg.key y.foc.grp q.lane) (t.leaseOf y.g.core) l v ∧
      b = ofLine (l.seen (t.clock y.die)) pa 128 ∧ v.resPoisoned q.res 128 = false ∧ u = v.l2Used (laneBuffer y.wg.key y.foc.grp q.lane)
  match q.res with
  | .scr key win off => u = t ∧ ∃ g, t.wg? key = some g ∧ b = t.scrRead g win off 128 ∧ t.scrPoisoned g win off 128 = false
  | .line pa _ => line pa
  | .direct pa _ _ => line pa
  | _ => False

/-- R267: every earlier store of the split is at its home and visible there. -/
def StoresAreHome (y : Ctx) (t : State) : Prop :=
  t.passed y.die y.sp.vis = true ∧ (∀ q ∈ t.storeQ, q.id ∉ y.sp.pend) ∧ (∀ f ∈ t.fabric, f.id ∉ y.sp.pend) ∧ (∀ p ∈ t.posted, p.id ∉ y.sp.pend) ∧ ∀ c ∈ t.contribs, c.id ∉ y.sp.pend

/-- The copies of a workgroup. -/
def copiesOf (t : State) (key : Nat) : List Copy := t.copies.filter (fun k => match k.owner with | .wg w _ => w == key | _ => false)

/-- The scratchpad byte offset of byte b of row r of plane p from a pointer (R263). -/
def rowByte (ptr : Nat) (s1 s2 : Int) (p r b : Nat) : Int := (ptr % 2 ^ 21 : Nat) + p * s2 + r * s1 + b

/-- A copy at work: found, not stopped, not to be replayed. -/
def AtWork (s : State) (id : Nat) (c : Copy) : Prop := s.copy? id = some c ∧ s.replayDue c = false ∧ s.copyStopped c = false

/-! ### The coherence protocol (R316 to R324) -/

/-- The home's record of a line at rest. -/
def AtRest (s : State) (ln : Nat) (h : Home) : Prop := s.home ln = h ∧ h.busy = none ∧ h.queue = []
/-- A line's data from memory, with a grant. -/
def fromMem (s : State) (a ln : Nat) (st : LineSt) : Msg := { kind := .data, agent := a, addr := ln, bytes := s.rawRead (128 * ln) 128, give := st }
/-- The home has a new record of a line and sends messages. -/
def homeDoes (s : State) (h : Home) (ms : List Msg) : State := { s.setHome h with msgs := s.msgs ++ ms }

/-! ### Services -/

/-- The pages of a range that a service writes are there and permit it. -/
def Writable (s : State) (pasid a n : Nat) : Prop :=
  a + n ≤ 2 ^ 56 ∧ (s.await srcQfe pasid .wr a n).2 = false ∧ s.firstBad srcQfe pasid .wr [(a, n)] = none

end Sys2Proof.Claims
end

