-- ==== Sys2Proof/Certificates/Slice0/Obligations.lean ====
section
/-! DEFINITION. The statements about the model. -/
open Sys2Proof Sys2Proof.Machine

/-- Integer add, subtract, multiply, min, max, abs and negate in every form (R143). -/
def Obligations.IntegerArithmetic : Prop :=
  Claims.IntL .iadd (fun w => [w.a, w.b]) (fun _ a x => x = a 0 + a 1) ∧
  Claims.IntI .iaddImm (fun a b => a + b) ∧
  Claims.IntL .isub (fun w => [w.a, w.b]) (fun _ a x => x = a 0 - a 1) ∧
  Claims.IntI .isubImm (fun a b => a - b) ∧
  Claims.IntL .imul (fun w => [w.a, w.b]) (fun _ a x => x = a 0 * a 1) ∧
  Claims.IntI .imulImm (fun a b => a * b) ∧
  Claims.IntL .imulh (fun w => [w.a, w.b]) (fun ty a x => x * 2 ^ tyBits ty ≤ a 0 * a 1 ∧ a 0 * a 1 < (x + 1) * 2 ^ tyBits ty) ∧
  Claims.IntL .imad (fun w => [w.a, w.b, w.c]) (fun _ a x => x = a 0 * a 1 + a 2) ∧
  Claims.IntL .imin (fun w => [w.a, w.b]) (fun _ a x => x = min (a 0) (a 1)) ∧
  Claims.IntL .imax (fun w => [w.a, w.b]) (fun _ a x => x = max (a 0) (a 1)) ∧
  Claims.IntL .iabs (fun w => [w.a]) (fun _ a x => x = max (a 0) (-a 0)) ∧
  Claims.IntL .ineg (fun w => [w.a]) (fun _ a x => x = -a 0)

/-- Integer quotient and remainder with the results for a zero divisor and for overflow (R144). -/
def Obligations.IntegerDivision : Prop :=
  Claims.IntL .idiv (fun w => [w.a, w.b]) (fun ty a x =>
    if a 1 = 0 then x = 2 ^ tyBits ty - 1
    else if isSignedTy ty = true ∧ a 0 = -(2 ^ (tyBits ty - 1)) ∧ a 1 = -1 then x = -(2 ^ (tyBits ty - 1))
    else x = Int.tdiv (a 0) (a 1)) ∧
  Claims.IntL .irem (fun w => [w.a, w.b]) (fun ty a x =>
    if a 1 = 0 then x = a 0
    else if isSignedTy ty = true ∧ a 0 = -(2 ^ (tyBits ty - 1)) ∧ a 1 = -1 then x = 0
    else x = a 0 - Int.tdiv (a 0) (a 1) * a 1)

/-- Moves and bitwise logic act bit by bit (R145). -/
def Obligations.BitwiseLogic : Prop :=
  Claims.BitL .mov (fun w => [srcOf w.a w.ty]) (fun _ a k => bitOf (a 0) k) ∧
  Claims.BitL .and (fun w => [srcOf w.a w.ty, srcOf w.b w.ty]) (fun _ a k => bitOf (a 0) k && bitOf (a 1) k) ∧
  Claims.BitI .andImm (fun _ a b k => bitOf a k && bitOf b k) ∧
  Claims.BitL .or (fun w => [srcOf w.a w.ty, srcOf w.b w.ty]) (fun _ a k => bitOf (a 0) k || bitOf (a 1) k) ∧
  Claims.BitI .orImm (fun _ a b k => bitOf a k || bitOf b k) ∧
  Claims.BitL .xor (fun w => [srcOf w.a w.ty, srcOf w.b w.ty]) (fun _ a k => bitOf (a 0) k ^^ bitOf (a 1) k) ∧
  Claims.BitI .xorImm (fun _ a b k => bitOf a k ^^ bitOf b k) ∧
  Claims.BitL .andn (fun w => [srcOf w.a w.ty, srcOf w.b w.ty]) (fun _ a k => bitOf (a 0) k && !bitOf (a 1) k) ∧
  Claims.BitL .not (fun w => [srcOf w.a w.ty]) (fun _ a k => !bitOf (a 0) k)

/-- Shifts and rotates for every amount, from a register or an immediate (R146). -/
def Obligations.Shifts : Prop :=
  Claims.BitL .shl (fun w => [srcOf w.a w.ty, src32Of w.b]) (fun ty a k => Claims.shlBit (tyBits ty) (a 0) (a 1) k) ∧
  Claims.BitI .shlImm (fun ty a b k => Claims.shlBit (tyBits ty) a (b % 2 ^ 32) k) ∧
  Claims.BitL .shr (fun w => [srcOf w.a w.ty, src32Of w.b]) (fun ty a k => Claims.shrBit (tyBits ty) (a 0) (a 1) k) ∧
  Claims.BitI .shrImm (fun ty a b k => Claims.shrBit (tyBits ty) a (b % 2 ^ 32) k) ∧
  Claims.BitL .sar (fun w => [srcOf w.a w.ty, src32Of w.b]) (fun ty a k => Claims.sarBit (tyBits ty) (a 0) (a 1) k) ∧
  Claims.BitI .sarImm (fun ty a b k => Claims.sarBit (tyBits ty) a (b % 2 ^ 32) k) ∧
  Claims.BitL .rotl (fun w => [srcOf w.a w.ty, src32Of w.b]) (fun ty a k => Claims.rotlBit (tyBits ty) (a 0) (a 1) k) ∧
  Claims.BitI .rotlImm (fun ty a b k => Claims.rotlBit (tyBits ty) a (b % 2 ^ 32) k)

/-- Bit counts, bit reversal, and bit fields extracted and inserted (R147, R148). -/
def Obligations.BitCountsAndFields : Prop :=
  Claims.CountL .popc (fun w a n => n = ((List.range w).filter (fun k => bitOf a k)).length) ∧
  Claims.CountL .clz (fun w a n => n ≤ w ∧ (∀ k < w, w ≤ k + n → bitOf a k = false) ∧ (n < w → bitOf a (w - 1 - n) = true)) ∧
  Claims.CountL .ctz (fun w a n => n ≤ w ∧ (∀ k < n, bitOf a k = false) ∧ (n < w → bitOf a n = true)) ∧
  Claims.BitL .brev (fun w => [srcOf w.a w.ty]) (fun ty a k => bitOf (a 0) (tyBits ty - 1 - k)) ∧
  Claims.BitL .bfx (fun w => [srcOf w.a w.ty, src32Of w.b]) (fun ty a k => Claims.bfxBit ty (a 0) (a 1) k) ∧
  Claims.BitL .bfi (fun w => [srcOf w.a w.ty, srcOf w.b w.ty, src32Of w.c]) (fun ty a k => Claims.bfiBit (tyBits ty) (a 0) (a 1) (a 2) k)

/-- movi writes the immediate of its type; movs reads every special register (R140, R126, R120). -/
def Obligations.ImmediatesAndSpecialRegisters : Prop :=
  (∀ w, Claims.Computes (.movi w) w.com w.d (tyBits w.ty = 64) [] (fun _ _ _ _ v fl => fl = 0 ∧ Claims.ImmStands w.ty w.imm v)) ∧
  (∀ w, Claims.Computes (.movs w) w.com w.d (specialWidth w.a.index = .pair) []
    (fun t y l _ v fl => fl = 0 ∧ ∃ x, Claims.SpecialReads t y w.a.index l x ∧ v = BitVec.ofNat 64 x))

/-- sset writes the named special register in each executing lane and keeps only its fields (R428). -/
def Obligations.SpecialRegistersSet : Prop :=
  ∀ w s t y, Claims.Issues (.sset w) w.com s t y → ∃ f, exec (.sset w) s = .next (t.doneWith y f) ∧
    ∀ g, Claims.SpecialSet w.d.index (y.active w.com) (fun l => Claims.whole y l w.a (w.d.index = 0x11)) g (f g)

/-- movg moves the value of the first active lane or of a named lane into an s register (R142). -/
def Obligations.LaneValueToGroup : Prop :=
  ∀ w s t y, Claims.Issues (.movg w) w.com s t y →
    (y.real w.com = 0 → exec (.movg w) s = .next (t.advance y)) ∧
    (y.real w.com ≠ 0 → y.othersInFlight = true → exec (.movg w) s = .next (t.holdSplit y)) ∧
    (y.real w.com ≠ 0 → y.othersInFlight = false → ∃ l, (w.com.mod = 0 → l ∈ lanesOf (y.real w.com) ∧ ∀ k ∈ lanesOf (y.real w.com), l ≤ k) ∧
      (w.com.mod = 1 → l = Claims.whole y 0 w.b false % 32) ∧
      ∃ f, exec (.movg w) s = .next (t.doneWith y f) ∧ ∀ g,
        Claims.GroupGets w.d.index (tyBits w.ty = 64) (BitVec.ofNat 64 (Claims.whole (Claims.found y t) l w.a (tyBits w.ty = 64))) 0 (fun _ => 0) g (f g))

/-- icmp sets predicate bits or a condition by its relation; plog looks up a table (R150, R151). -/
def Obligations.IntegerComparesAndTables : Prop :=
  (∀ w, Claims.Compares (.icmp w) w.com w.d.index [srcOf w.a w.ty, srcOf w.b w.ty]
    (fun vs b fl => fl = 0 ∧ Claims.Relation w.com.mod (Claims.arg w.ty vs 0) (Claims.arg w.ty vs 1) b)) ∧
  (∀ w, Claims.Compares (.icmpImm w) w.com w.d.index [srcOf w.a w.ty]
    (fun vs b fl => fl = 0 ∧ Claims.Relation w.com.mod (Claims.arg w.ty vs 0) (valTy w.ty (immValue w.ty w.imm)) b)) ∧
  (∀ w s t y, Claims.Issues (.plog w) w.com s t y →
    (w.com.u = true → y.gwOn w.com = false → exec (.plog w) s = .next (t.advance y)) ∧
    (w.com.u = true → y.gwOn w.com = true → ∃ f, exec (.plog w) s = .next (t.doneWith y f) ∧ ∀ g,
      Claims.CondGets w.d.index (Claims.tableBit w.fn (y.g.cond w.a.index) (y.g.cond w.b.index) (y.g.cond w.c.index)) 0 0 g (f g)) ∧
    (w.com.u = false → ∃ f, exec (.plog w) s = .next (t.doneWith y f) ∧ ∀ g, Claims.PredGets w.d.index (y.active w.com)
      (fun l => Claims.tableBit w.fn ((y.g.pred w.a.index).getLsbD l) ((y.g.pred w.b.index).getLsbD l) ((y.g.pred w.c.index).getLsbD l)) (fun _ => 0) g (f g)))

/-- sel picks by a predicate or condition, lea forms an address, ptag converts a pointer (R149, R152, R153). -/
def Obligations.SelectionAndAddresses : Prop :=
  (∀ w, Claims.Computes (.sel w) w.com w.d (tyBits w.ty = 64) [srcOf w.a w.ty, srcOf w.b w.ty]
    (fun _ y l vs v fl => fl = 0 ∧ v.toNat = if (if w.com.u then y.g.cond w.c.index else (y.g.pred w.c.index).getLsbD l) then Claims.raw vs 0 % 2 ^ tyBits w.ty else Claims.raw vs 1 % 2 ^ tyBits w.ty)) ∧
  (∀ w, Claims.Computes (.lea w) w.com w.d true ([src64Of w.a] ++ (if w.fn.getLsbD 11 then [] else [src32Of w.b]))
    (fun _ _ _ vs v fl => fl = 0 ∧ Claims.LeaSum w (Claims.raw vs 0 % 2 ^ 64) (Claims.raw vs 1 % 2 ^ 32) v.toNat)) ∧
  (∀ w s t y, Claims.Issues (.ptag w) w.com s t y → (∀ l ∈ lanesOf (y.real w.com), y.tagFault (Claims.whole y l w.a true) = none) →
    (y.active w.com = 0 → exec (.ptag w) s = .next (t.advance y)) ∧
    (y.active w.com ≠ 0 → ∃ v : Nat → W64, (∀ l ∈ lanesOf (y.active w.com), if y.tagFault (Claims.whole y l w.a true) = none then Claims.PtagIs y l (Claims.whole y l w.a true) (v l).toNat else v l = 0) ∧
      ∃ f, exec (.ptag w) s = .next (t.waitDone y |>.doneWith y f) ∧ ∀ g, Claims.LanesGet w.d true (y.active w.com) (fun l => (v l, 0)) g (f g)))

/-- qxch and shfl read every source before any result is written (R154, R155). -/
def Obligations.LanesExchange : Prop :=
  (∀ w s t y, Claims.Issues (.qxch w) w.com s t y →
    (y.othersInFlight = true → exec (.qxch w) s = .next (t.holdSplit y)) ∧
    (y.othersInFlight = false → Claims.LanesTake (.qxch w) s t y w.d (tyBits w.ty = 64) (y.active w.com)
      (fun l => BitVec.ofNat 64 (Claims.whole (Claims.found y t) (Claims.partner w.com.mod.toNat l) w.a (tyBits w.ty = 64))))) ∧
  (∀ w s t y, Claims.Issues (.shfl w) w.com s t y →
    (y.othersInFlight = true → exec (.shfl w) s = .next (t.holdSplit y)) ∧
    (y.othersInFlight = false → Claims.LanesTake (.shfl w) s t y w.d (tyBits w.ty = 64) (y.active w.com)
      (fun l => BitVec.ofNat 64 (Claims.whole (Claims.found y t) (Claims.shflFrom w.com.mod.toNat l (Claims.whole y l w.b false)) w.a (tyBits w.ty = 64)))))

/-- vote combines a predicate over the active lanes that are no helpers (R156). -/
def Obligations.LanesVote : Prop :=
  ∀ w s t y, Claims.Issues (.vote w) w.com s t y →
    (y.real w.com = 0 → exec (.vote w) s = .next (t.advance y)) ∧
    (y.real w.com ≠ 0 → w.com.mod.toNat % 4 = 2 → ∀ m : W64, (∀ l < 64, m.getLsbD l = (decide (l < 32) && (y.real w.com).getLsbD l && (y.g.pred w.a.index).getLsbD l)) →
      match w.d with
      | .reg .s _ k => ∃ f, exec (.vote w) s = .next (t.doneWith y f) ∧ ∀ g, Claims.GroupGets k.toNat false m 0 (fun _ => 0) g (f g)
      | _ => Claims.LanesTake (.vote w) s t y w.d false (y.real w.com) (fun _ => m)) ∧
    (y.real w.com ≠ 0 → w.com.mod.toNat % 4 ≠ 2 → ∃ b : Bool,
      (w.com.mod.toNat % 4 = 0 → (b = true ↔ ∃ l ∈ lanesOf (y.real w.com), (y.g.pred w.a.index).getLsbD l = true)) ∧
      (w.com.mod.toNat % 4 = 1 → (b = true ↔ ∀ l ∈ lanesOf (y.real w.com), (y.g.pred w.a.index).getLsbD l = true)) ∧
      ∃ f, exec (.vote w) s = .next (t.doneWith y f) ∧ ∀ g,
        if w.com.mod.getLsbD 2 then Claims.CondGets w.d.index b 0 0 g (f g) else Claims.PredGets w.d.index (y.real w.com) (fun _ => b) (fun _ => 0) g (f g))

/-- scan and gred combine values over the active lanes that are no helpers, in lane order (R157, R158, R159). -/
def Obligations.LanesScanAndReduce : Prop :=
  (∀ w s t y, Claims.Issues (.scan w) w.com s t y →
    (y.real w.com = 0 → exec (.scan w) s = .next (t.advance y)) ∧
    (y.real w.com ≠ 0 → ∃ z after, Claims.Identity (w.com.mod.toNat % 8) w.ty z ∧
      Claims.Accumulates (w.com.mod.toNat % 8) w.ty (fun l => y.g.readSrc l (srcOf w.a w.ty)) z (lanesOf (y.real w.com)) after ∧
      Claims.LanesTake (.scan w) s t y w.d (tyBits w.ty = 64) (y.real w.com) (fun l => extendTy w.ty
        (if w.com.mod.getLsbD 3 then (match Claims.before? l (lanesOf (y.real w.com)) with | some k => after k | none => z) else after l)))) ∧
  (∀ w s t y, Claims.Issues (.gred w) w.com s t y →
    (y.real w.com = 0 → exec (.gred w) s = .next (t.advance y)) ∧
    (y.real w.com ≠ 0 → ∃ z after, Claims.Identity (w.com.mod.toNat % 8) w.ty z ∧
      Claims.Accumulates (w.com.mod.toNat % 8) w.ty (fun l => y.g.readSrc l (srcOf w.a w.ty)) z (lanesOf (y.real w.com)) after ∧
      ∀ last, (lanesOf (y.real w.com)).getLast? = some last →
        match w.d with
        | .reg .s _ k => ∃ f, exec (.gred w) s = .next (t.doneWith y f) ∧ ∀ g, Claims.GroupGets k.toNat (tyBits w.ty = 64) (extendTy w.ty (after last)) 0 (fun _ => 0) g (f g)
        | _ => Claims.LanesTake (.gred w) s t y w.d (tyBits w.ty = 64) (y.real w.com) (fun _ => extendTy w.ty (after last))))

/-- Every rounding of a positive rational to a binary format is the correct one in its mode (R84). -/
def Obligations.RoundingIsCorrect : Prop :=
  ∀ f ∈ [fp16, bf16, fp32, fp64], ∀ rm < 4, ∀ neg : Bool, ∀ num den : Nat, num ≠ 0 → den ≠ 0 →
    Claims.CorrectlyRounded f rm neg num den (f.roundRat rm false neg num den).1 (f.roundRat rm false neg num den).2

/-- fadd, fsub, fmul and ffma compute exactly and round once (R168, R83). -/
def Obligations.FloatSumsAndProducts : Prop :=
  Claims.FloatL .fadd (fun w => [w.a, w.b]) (fun w f x v fl => Claims.SumGiven w.com f false (x 0) (x 1) v fl) ∧
  Claims.FloatI .faddImm (fun w f a b v fl => Claims.SumGiven w.com f false a b v fl) ∧
  Claims.FloatL .fsub (fun w => [w.a, w.b]) (fun w f x v fl => Claims.SumGiven w.com f false (x 0) (x 1).negate v fl) ∧
  Claims.FloatL .fmul (fun w => [w.a, w.b]) (fun w f x v fl => Claims.ProductGiven w.com f (x 0) (x 1) v fl) ∧
  Claims.FloatI .fmulImm (fun w f a b v fl => Claims.ProductGiven w.com f a b v fl) ∧
  Claims.FloatL .ffma (fun w => [w.a, w.b, w.c]) (fun w f x v fl => Claims.FusedGiven w.com f (x 0) (x 1) (x 2) v fl)

/-- fmin and fmax, the eight compares and the ten classes (R169, R170, R171). -/
def Obligations.FloatOrderAndClass : Prop :=
  Claims.FloatL .fmin (fun w => [w.a, w.b]) (fun _ f x v fl => Claims.PickOf Claims.Before f (x 0) (x 1) v fl) ∧
  Claims.FloatL .fmax (fun w => [w.a, w.b]) (fun _ f x v fl => Claims.PickOf (fun a b => Claims.Before b a) f (x 0) (x 1) v fl) ∧
  (∀ w, Claims.Compares (.fcmp w) w.com w.d.index [srcOf w.a w.ty, srcOf w.b w.ty] (fun vs b fl =>
    Claims.FloatRelation (w.fn.toNat % 16) ((fmtOf w.ty).decode (w.com.mod.getLsbD 2) (vs.getD 0 0)) ((fmtOf w.ty).decode (w.com.mod.getLsbD 2) (vs.getD 1 0)) b fl)) ∧
  (∀ w, Claims.Computes (.fclass w) w.com w.d false [srcOf w.a w.ty] (fun _ _ _ vs v fl => fl = 0 ∧ ∃ k, Claims.ClassIs (fmtOf w.ty) (Claims.raw vs 0) k ∧ v.toNat = 2 ^ k))

/-- fdiv, fsqrt and frnd with their special results (R172, R173). -/
def Obligations.FloatDivisionRootsAndIntegrals : Prop :=
  Claims.FloatL .fdiv (fun w => [w.a, w.b]) (fun w f x v fl => Claims.QuotientGiven w.com f (x 0) (x 1) v fl) ∧
  Claims.FloatL .fsqrt (fun w => [w.a]) (fun w f x v fl => Claims.RootGiven w.com f (x 0) v fl) ∧
  Claims.FloatL .frnd (fun w => [w.a]) (fun w f x v fl =>
    if (x 0).isNaN then Claims.NaNGiven f (x 0).isSNaN v fl
    else if (x 0).isInf then Claims.InfGiven f (x 0).sign 0 v fl
    else fl = 0 ∧ ∃ k, Claims.IntegralOf (w.com.mod.toNat % 4) (Claims.ratOf (x 0)) k ∧
      Claims.isFin (f.decode false v.toNat) = true ∧ Claims.ratOf (f.decode false v.toNat) = k ∧ (f.decode false v.toNat).sign = (x 0).sign)

/-- The special and exact results of the functions of class 2 (R176). -/
def Obligations.FunctionsFixedResults : Prop :=
  Claims.FunctionL .frcp (fun w f a v fl => Claims.FixedResults 0 f (w.com.mod.getLsbD 2) a v fl) ∧
  Claims.FunctionL .frsq (fun w f a v fl => Claims.FixedResults 1 f (w.com.mod.getLsbD 2) a v fl) ∧
  Claims.FunctionL .fexp2 (fun w f a v fl => Claims.FixedResults 2 f (w.com.mod.getLsbD 2) a v fl) ∧
  Claims.FunctionL .flog2 (fun w f a v fl => Claims.FixedResults 3 f (w.com.mod.getLsbD 2) a v fl) ∧
  Claims.FunctionL .ftanh (fun w f a v fl => Claims.FixedResults 4 f (w.com.mod.getLsbD 2) a v fl) ∧
  Claims.FunctionL .fsin (fun w f a v fl => Claims.FixedResults 5 f (w.com.mod.getLsbD 2) a v fl) ∧
  Claims.FunctionL .fcos (fun w f a v fl => Claims.FixedResults 6 f (w.com.mod.getLsbD 2) a v fl)

/-- fldx, frred and cvt between every pair of types (R174, R177, R179, R92). -/
def Obligations.ScalingTurnsAndConversions : Prop :=
  (∀ w, Claims.Computes (.fldx w) w.com w.d (tyBits w.ty = 64) [srcOf w.a w.ty, srcOf w.b tyI32] (fun _ _ _ vs v fl =>
    let a := (fmtOf w.ty).decode (w.com.mod.getLsbD 2) (vs.getD 0 0)
    let b := max (-5000) (min 5000 (sextInt 32 (vs.getD 1 0)))
    if a.isNaN then Claims.NaNGiven (fmtOf w.ty) a.isSNaN v fl else if a.isInf then Claims.InfGiven (fmtOf w.ty) a.sign 0 v fl
    else ∃ z, Claims.isFin z = true ∧ z.sign = a.sign ∧ Claims.ratOf z = Claims.ratOf a * 2 ^ b ∧ Claims.Rounded w.com (fmtOf w.ty) z v fl)) ∧
  (∀ w, Claims.Computes (.frred w) w.com w.d false [srcOf w.a w.ty2] (fun _ _ _ vs v fl => Claims.TurnsGiven ((fmtOf w.ty2).decode (w.com.mod.getLsbD 2) (vs.getD 0 0)) v fl)) ∧
  (∀ w, Claims.Computes (.cvt w) w.com w.d (tyBits w.ty = 64) [srcOf w.a w.ty2] (fun _ _ _ vs v fl => Claims.ConvertGiven w (vs.getD 0 0) v fl))

/-- cvtm, cvtx, fpack and funpk: marker blocks and narrow elements (R93, R94, R180, R181, R182). -/
def Obligations.MarkerBlocksAndPacking : Prop :=
  (∀ w s t y, Claims.Issues (.cvtm w) w.com s t y →
    let x := fun l => (fmtOf w.ty2).decode (w.com.mod.getLsbD 2) (y.g.readSrc l (srcOf w.a w.ty2))
    let q6 := decide (w.ty = tyM8)
    (y.real w.com = 0 → exec (.cvtm w) s = .next (t.advance y)) ∧
    (y.real w.com ≠ 0 → ∃ k, ∃ el : Nat → Nat, ∃ cnt f, Claims.ScaleOf ((lanesOf (y.real w.com)).map x) k ∧ Claims.BlockCounts q6 k ((lanesOf (y.real w.com)).map x) cnt ∧
      (∀ l ∈ lanesOf (y.active w.com), if (y.real w.com).getLsbD l then Claims.CodeOf q6 k (x l) (el l) else el l = 0) ∧
      exec (.cvtm w) s = .next ((t.modWg y.wg.key (fun g => g.count (w.fn.toNat % 256) cnt)).doneWith y f) ∧
      ∀ g, ∃ h, Claims.LanesGet w.d false (y.active w.com) (fun l => (BitVec.ofNat 64 (el l), 0)) g h ∧
        Claims.GroupGets w.c.index false (BitVec.ofNat 64 k) 0 (fun _ => 0) h (f g))) ∧
  (∀ w, Claims.Computes (.cvtx w) w.com w.d (tyBits w.ty = 64) [src32Of w.a, src32Of w.b] (fun _ _ _ vs v fl => Claims.MarkerGiven w (vs.getD 0 0) (vs.getD 1 0) v fl)) ∧
  (∀ w s t y, Claims.Issues (.fpack w) w.com s t y →
    (y.othersInFlight = true → exec (.fpack w) s = .next (t.holdSplit y)) ∧ (y.othersInFlight = false →
    ∃ v : Nat → W64, (∀ l < 32, (v l).toNat < 2 ^ 32 ∧ ∀ b < 32, bitOf (v l).toNat b =
        bitOf ((Claims.found y t).g.readSrc (l - l % (32 / tyBits w.ty) + b / tyBits w.ty) (srcOf w.a w.ty)) (b % tyBits w.ty)) ∧
      (y.active w.com ≠ 0 → Claims.LanesTake (.fpack w) s t y w.d false (y.active w.com) v))) ∧
  (∀ w, Claims.Computes (.funpk w) w.com w.d false [src32Of w.a] (fun _ _ l vs v fl => fl = 0 ∧ v.toNat < 2 ^ tyBits w.ty ∧
    ∀ b < tyBits w.ty, bitOf v.toNat b = bitOf (Claims.raw vs 0) (tyBits w.ty * (l % (32 / tyBits w.ty)) + b)))

/-- Branches, calls, returns and loops send each lane to its target and depth (R39, R222, R223, R224, R225, R226). -/
def Obligations.BranchesAndCalls : Prop :=
  (∀ w s t y, Claims.Issues (.bra w) w.com s t y →
    exec (.bra w) s = .next (t.modSplit y.foc (fun sp => { sp.advance with wi := Claims.target w y.sp.wi }))) ∧
  (∀ w s t y, Claims.Issues (.brc w) w.com s t y →
    exec (.brc w) s = .next (t.modSplit y.foc (fun sp => { sp.advance with wi := if y.g.cond w.com.prd.toNat != w.com.pneg then Claims.target w y.sp.wi else sp.wi + 1 }))) ∧
  (∀ w s t y, Claims.Issues (.brp w) w.com s t y → Claims.Splittable y →
    Claims.Transfers (.brp w) s t y (Claims.goals y (y.active w.com) (fun _ => Claims.target w y.sp.wi) y.sp.depth)) ∧
  (∀ w s t y, Claims.Issues (.jmp w) w.com s t y → Claims.Splittable y →
    Claims.Transfers (.jmp w) s t y (Claims.goals y (y.active w.com) (fun l => Claims.word32 y l w.a + w.off) y.sp.depth)) ∧
  (∀ w s t y, Claims.Issues (.call w) w.com s t y → Claims.Splittable y →  y.sp.depth ≠ 0xFFFF →
    Claims.Links (.call w) s t y w.d (y.active w.com) (fun _ => y.sp.wi + 1) (Claims.goals y (y.active w.com) (fun _ => Claims.target w y.sp.wi) (y.sp.depth + 1))) ∧
  (∀ w s t y, Claims.Issues (.calli w) w.com s t y → Claims.Splittable y →  y.sp.depth ≠ 0xFFFF →
    Claims.Links (.calli w) s t y w.d (y.active w.com) (fun _ => y.sp.wi + 1) (Claims.goals y (y.active w.com) (fun l => Claims.word32 y l w.a) (y.sp.depth + 1))) ∧
  (∀ w s t y, Claims.Issues (.ret w) w.com s t y → Claims.Splittable y → y.sp.depth ≠ 0 →
    Claims.Transfers (.ret w) s t y (Claims.goals y (y.active w.com) (fun l => Claims.word32 y l w.a) (y.sp.depth - 1))) ∧
  (∀ w s t y, Claims.Issues (.loop w) w.com s t y → Claims.Splittable y →
    Claims.Links (.loop w) s t y w.a (y.active w.com) (fun l => Claims.word32 y l w.a - 1)
      (Claims.goals y (y.active w.com) (fun l => if Claims.word32 y l w.a - 1 ≠ 0 then y.sp.wi + w.off else y.sp.wi + 1) y.sp.depth)) ∧
  (∀ w s t y, Claims.Issues (.call w) w.com s t y → y.sp.depth = 0xFFFF → y.real w.com ≠ 0 →
    ∃ l, Claims.NamedLane y w.com l ∧ exec (.call w) s = .next (t.takeTrap y { cause := 0x0D, sub := 2, lane := l, val := 0xFFFF })) ∧
  (∀ w s t y, Claims.Issues (.calli w) w.com s t y → y.sp.depth = 0xFFFF → y.real w.com ≠ 0 →
    ∃ l, Claims.NamedLane y w.com l ∧ exec (.calli w) s = .next (t.takeTrap y { cause := 0x0D, sub := 2, lane := l, val := 0xFFFF })) ∧
  (∀ w s t y, Claims.Issues (.ret w) w.com s t y → y.sp.depth = 0 → y.real w.com ≠ 0 →
    ∃ l, Claims.NamedLane y w.com l ∧ exec (.ret w) s = .next (t.takeTrap y { cause := 0x0D, sub := 2, lane := l, val := 0 }))

/-- exit removes its lanes; nop, yield, sleep and ssync go on or wait as their rules say (R41, R42, R229). -/
def Obligations.ExitAndWaits : Prop :=
  (∀ w s t y, Claims.Issues (.nop w) w.com s t y → exec (.nop w) s = .next (t.advance y)) ∧
  (∀ w s t y, Claims.Issues (.yield w) w.com s t y → exec (.yield w) s = .next (t.advance y)) ∧
  (∀ w s t y, Claims.Issues (.sleep w) w.com s t y → y.active w.com = 0 → exec (.sleep w) s = .next (t.advance y)) ∧
  (∀ w s t y, Claims.Issues (.sleep w) w.com s t y → y.active w.com ≠ 0 →
    ∃ l ∈ Machine.lanesOf (if y.real w.com = 0 then y.active w.com else y.real w.com), (∀ k ∈ Machine.lanesOf (if y.real w.com = 0 then y.active w.com else y.real w.com), l ≤ k) ∧
      exec (.sleep w) s = .next (if (Claims.word32 y l w.a).toNat = 0 then t.advance y else Claims.waitsFor t y .sleep .none (min (Claims.word32 y l w.a).toNat (2 ^ 24)))) ∧
  (∀ w s t y, Claims.Issues (.ssync w) w.com s t y →
    exec (.ssync w) s = .next ((t.blockSplit y .waiting .ssync .none).modGrp y.foc.wg y.foc.grp Group.ssyncMerge)) ∧
  (∀ g : Group, g.table.length = 8 → ∀ p f, g.table[p]? = some (some f) → (∀ q < p, g.table.getD q none = none) → (∀ sp ∈ Claims.splits g, Claims.atSsync f.wi f.depth sp) →
    ∃ m, g.ssyncMerge = { g with swaps := none, table := (List.replicate 8 none).set p (some m), spill := [], changed := true } ∧ m.wi = f.wi + 1 ∧ m.depth = f.depth ∧ m.phase = .ready ∧
      ∀ l < 32, m.mask.getLsbD l = Claims.held l (Claims.splits g)) ∧
  (∀ g : Group, (∀ wi dep, ∃ sp ∈ Claims.splits g, ¬ Claims.atSsync wi dep sp) → g.ssyncMerge = g) ∧
  (∀ w s t y, Claims.Issues (.exit w) w.com s t y → y.active w.com = 0 → exec (.exit w) s = .next (t.advance y)) ∧
  (∀ w s t y, Claims.Issues (.exit w) w.com s t y → y.active w.com ≠ 0 → ∃ h,
    exec (.exit w) s = .next ((({ t.advance y with seq := t.seq + 1 } : State).modGrp y.foc.wg y.foc.grp h).modGrp y.foc.wg y.foc.grp Group.ssyncMerge) ∧
    ∀ g : Group, g.table.length = 8 → h g = { g with table := (h g).table, spill := (h g).spill, swaps := (h g).swaps, goneVis := (h g).goneVis, gonePend := (h g).gonePend } ∧
      (∀ sp ∈ Claims.splits (h g), sp.mask ≠ 0) ∧
      (∀ l < 32, Claims.held l (Claims.splits (h g)) = (Claims.held l (Claims.splits g) && !(y.active w.com).getLsbD l &&
        (List.range 32).any (fun k => Claims.held k (Claims.splits g) && !(y.active w.com).getLsbD k && !g.helper.getLsbD k))))

/-- getlt writes the lease clock, or the latest time not yet visible, once all earlier stores have theirs (R233). -/
def Obligations.LeaseClockRead : Prop :=
  ∀ w s t y, Claims.Issues (.getlt w) w.com s t y →
    (Claims.Off w.com y → exec (.getlt w) s = .next (t.advance y)) ∧
    (¬ Claims.Off w.com y → y.sp.pend ≠ [] → exec (.getlt w) s = .next (t.holdSplit y)) ∧
    (¬ Claims.Off w.com y → y.sp.pend = [] → ∃ (v : Nat) (f : Group → Group), exec (.getlt w) s = .next (t.doneWith y f) ∧
      v = (if w.com.mod.getLsbD 0 = true ∧ y.sp.vis ≠ 0 ∧ t.clock y.die ≤ y.sp.vis then y.sp.vis else t.clock y.die) % 2 ^ 48 ∧
      ∀ g, match w.d with
        | .reg .s _ k => Claims.GroupGets k.toNat true (BitVec.ofNat 64 v) 0 (fun _ => 0) g (f g)
        | d => Claims.LanesGet d true (y.active w.com) (fun _ => (BitVec.ofNat 64 v, 0)) g (f g))

/-- Illegal words, trap and brk enter the handler with the trap registers of every lane set (R230, R424). -/
def Obligations.TrapsAndTheirEntry : Prop :=
  (∀ i s x sub, s.ctx? = some x → x.sp.phase = .ready → i.illegal x.alloc = some sub → sub ∈ i.subs x.alloc ∧ (∀ b ∈ i.subs x.alloc, sub ≤ b) ∧
    ∃ l, ((wordCommon (wordOf i)).u = false → Claims.NamedLane x (wordCommon (wordOf i)) l) ∧
      exec i s = .next (s.takeTrap x { cause := 0x01, sub := sub, lane := l, val := (wordOf i).extractLsb' 0 64 })) ∧
  (∀ w al, Instr.illegal (.unassignedOpcode w) al = some 1 ∧ wordOf (.unassignedOpcode w) = w) ∧
  (∀ w s t y, Claims.Issues (.trap w) w.com s t y → if y.real w.com = 0 then exec (.trap w) s = .next (t.advance y) else
    ∃ l, Claims.NamedLane y w.com l ∧ exec (.trap w) s = .next (t.takeTrap y { cause := 0x10, lane := l, val := w.fn.zeroExtend 64 })) ∧
  (∀ w s t y, Claims.Issues (.brk w) w.com s t y → if y.real w.com = 0 then exec (.brk w) s = .next (t.advance y) else
    ∃ l, Claims.NamedLane y w.com l ∧ exec (.brk w) s = .next (t.takeTrap y { cause := 0x11, lane := l, val := w.fn.zeroExtend 64 })) ∧
  (∀ (s : State) (x : Ctx) (r : Trap), x.sp.mask &&& ~~~x.g.helper = 0 → s.takeTrap x r = s.advance x) ∧
  (∀ (s : State) (x : Ctx) (r : Trap), x.sp.mask &&& ~~~x.g.helper ≠ 0 → x.gr.k.trap ≠ 0xFFFFFFFF → (∀ l ∈ Machine.lanesOf x.sp.mask, (mget 0 x.g.tcause l).getLsbD 23 = false) → ∃ h,
    s.takeTrap x r = s.modGrp x.foc.wg x.foc.grp h ∧ ∀ g,
      h g = { g with table := (h g).table, swaps := none, tcause := (h g).tcause, twi := (h g).twi, tval := (h g).tval } ∧
      (h g).table = g.table.modify x.foc.pos (Option.map (fun sp => { sp.block .waiting .trapEntry .none s.cycle with timer := 12, arrived := false })) ∧
      (∀ l < 32, mget 0 (h g).tcause l = if x.sp.mask.getLsbD l then BitVec.ofNat 32 (2 ^ 23 + r.lane % 32 * 2 ^ 16 + r.sub % 256 * 256 + r.cause % 256) else mget 0 g.tcause l) ∧
      (∀ l < 32, mget 0 (h g).twi l = if x.sp.mask.getLsbD l then x.sp.wi else mget 0 g.twi l) ∧
      (∀ l < 32, mget 0 (h g).tval l = if x.sp.mask.getLsbD l then r.val else mget 0 g.tval l)) ∧
  (∀ (s : State) (x : Ctx) (r : Trap), x.sp.mask &&& ~~~x.g.helper ≠ 0 → x.gr.k.trap = 0xFFFFFFFF ∨ (∃ l ∈ Machine.lanesOf x.sp.mask, (mget 0 x.g.tcause l).getLsbD 23 = true) →
    ∃ u : State, u = s.blockSplit x .waiting .trapEntry .abort ∧ s.takeTrap x r = { u with agenda := .abortReport x.wg.key r.cause r.sub :: u.agenda }) ∧
  (∀ wg grp pos s x, ({ wg := wg, grp := grp, pos := pos } : Focus).lookup s = some x → x.sp.phase = .waiting → x.sp.why = .trapEntry → x.sp.timer = 0 → x.sp.blk = .none →
    exec (.trapEntry wg grp pos) s = .next ((s.modSplit x.foc (fun sp => { sp.advance with wi := x.gr.k.trap })).modGrp wg grp (fun g => { g with swaps := none })))

/-- Sleeps and releases end, spilled splits rotate in, ineligible splits requeue (R44, R229, R362). -/
def Obligations.SplitsReturnFromWaits : Prop :=
  (∀ wg grp pos s w g sp, s.wg? wg = some w → w.groups[grp]? = some g → g.table[pos]? = some (some sp) → sp.phase = .waiting → sp.why = .sleep → sp.timer = 0 →
    exec (.sleepExpires wg grp false pos) s = .next (s.modGrp wg grp (fun g => { g with swaps := none, table := g.table.modify pos (Option.map (fun sp => sp.advance)) }))) ∧
  (∀ wg grp pos s w g sp, s.wg? wg = some w → w.groups[grp]? = some g → g.spill[pos]? = some sp → sp.phase = .waiting → sp.why = .sleep → sp.timer = 0 →
    exec (.sleepExpires wg grp true pos) s = .next (s.modGrp wg grp (fun g => { g with swaps := none, spill := g.spill.modify pos (fun sp => sp.advance) }))) ∧
  (∀ wg grp pos s x, ({ wg := wg, grp := grp, pos := pos } : Focus).lookup s = some x → x.sp.phase = .waiting → x.sp.why = .release → x.sp.pend = [] → x.sp.vis < s.clock x.die → x.sp.blk = .none →
    exec (.releaseWaitEnds wg grp pos) s = .next ((s.modSplit x.foc (fun sp => sp.wake)).modGrp wg grp (fun g => { g with swaps := none }))) ∧
  (∀ wg grp s w g sp rest, s.wg? wg = some w → w.groups[grp]? = some g → g.table.length = 8 → g.spill = sp :: rest → (∃ e ∈ g.table, e ≠ none) →
    ∀ regular : Bool, (if regular then 16384 ≤ g.rot ∧ g.changed = false else g.swapDue = true ∧ g.swapAt ≠ some s.cycle) → ∃ (p : Nat) (old : Split) (h : Group → Group),
      g.table[p]? = some (some old) ∧ (∀ (q : Nat) (o : Split), g.table[q]? = some (some o) → o.phase = .ready → old.phase = .ready) ∧
      (∀ (q : Nat) (o : Split), g.table[q]? = some (some o) → (old.phase = .ready → o.phase = .ready) →
        min (o.age / 256) 0xFFFF ≤ min (old.age / 256) 0xFFFF ∧ (q < p → min (o.age / 256) 0xFFFF < min (old.age / 256) 0xFFFF)) ∧
      exec (if regular then .rotation wg grp else .immediateSwap wg grp) s = .next (({ s with seq := s.seq + 1 } : State).modGrp wg grp h) ∧
      ∃ n o', (h g) = { g with rot := 0, swapAt := (h g).swapAt, swaps := (h g).swaps, table := g.table.set p (some n), spill := rest ++ [o'] } ∧
        n = { sp with age := 0, qAt := s.seq, mAt := none, inel := 0 } ∧ o' = { old with mAt := none, inel := 0 } ∧
        (regular = true → (h g).swapAt = g.swapAt ∧ (h g).swaps = g.swaps) ∧
        (regular = false → (h g).swapAt = some s.cycle ∧ (h g).swaps = if sp.phase = .ready then none else some ((match g.swaps with | none => g.spill.length | some k => k) - 1))) ∧
  (∀ wg grp s w g, s.wg? wg = some w → w.groups[grp]? = some g → g.changed = true → exec (.rotation wg grp) s = .next s) ∧
  (∀ wg grp s w g, s.wg? wg = some w → w.groups[grp]? = some g → 16384 ≤ g.rot → g.changed = false → g.spill = [] →
    exec (.rotation wg grp) s = .next (({ s with seq := s.seq + 1 } : State).modGrp wg grp (fun g => { g with rot := 0 }))) ∧
  (∀ wg grp pos s x, ({ wg := wg, grp := grp, pos := pos } : Focus).lookup s = some x → x.sp.mAt.isSome = true → 16 ≤ x.sp.inel → ∃ g1 n,
    exec (.ineligibleSplitRequeue wg grp pos) s = .next { s.modGrp wg grp (fun _ => g1) with seq := n } ∧ s.seq < n ∧
    g1 = { x.g with table := g1.table } ∧
    (∀ q, (g1.table.getD q none).map (fun sp => { sp with mAt := none, inel := 0, qAt := 0 }) = (x.g.table.getD q none).map (fun sp => { sp with mAt := none, inel := 0, qAt := 0 })))

/-- ld checks every lane, then reads each place and writes D of each executing lane (R188, R121, R185). -/
def Obligations.LoadsReadTheirPlaces : Prop :=
  ∀ w s t y, Claims.Issues (.ld w) w.com s t y →
    (Claims.Off w.com y → exec (.ld w) s = .next (t.advance y)) ∧
    (¬ Claims.Off w.com y → ∀ plan u b, Claims.LanesPass y t { spaces := [0, 1, 2, 3, 6], hint := w.sph.toNat, width := 2 ^ w.sz.toNat, align := 2 ^ w.sz.toNat, wr := false, gw := w.com.u } .rd (Claims.ptrs y w false) plan →
      (∀ p ∈ plan, t.resPoisoned p.res (2 ^ w.sz.toNat) = false) → Claims.LanesRead y (2 ^ w.sz.toNat) (t.markLeaves plan false) plan u b →
      ∃ r : Nat → Nat × Flags, (∀ p ∈ plan, Claims.LoadImage w (b p.lane) (r p.lane).1) ∧ (∀ l, (r l).2 = 0) ∧ (∀ l, (∀ p ∈ plan, p.lane ≠ l) → (r l).1 = 0) ∧
        Claims.Returns (.ld w) s (y.homeUsed (Claims.answersUsed y u)) y w (Claims.takersOf y w) r) ∧
    (¬ Claims.Off w.com y → ∀ p pa lf, p.res = .line pa lf → Claims.LanesPass y t { spaces := [0, 1, 2, 3, 6], hint := w.sph.toNat, width := 2 ^ w.sz.toNat, align := 2 ^ w.sz.toNat, wr := false, gw := w.com.u } .rd (Claims.ptrs y w false) [p] → t.resPoisoned p.res (2 ^ w.sz.toNat) = false →
      ∀ v : State, v = t.markLeaves [p] false → y.ownAtomic v p.lane pa (2 ^ w.sz.toNat) = false → y.l1Hit v (pa / 128) = none → v.line? y.die (pa / 128) = none →
      ∀ r : State, v.makeRoom y.die y.wg.ten (pa / 128) = some r →
      exec (.ld w) s = .next ((({ r.setLine { agent := y.die, addr := pa / 128, st := .isD, data := [], ten := y.wg.ten, asks := [(y.g.core, v.leaseOf y.g.core)] } with msgs := r.msgs ++ [{ kind := .gets, agent := y.die, addr := pa / 128 }] } : State).modSplit y.foc
        (fun sp => { sp with inFlight := true })).holdSplit y)) ∧
    (¬ Claims.Off w.com y → ∀ pre e post c b v t1, Claims.ptrs y w false = pre ++ e :: post → (∀ q ∈ pre, ∃ r, y.laneCheck t { spaces := [0, 1, 2, 3, 6], hint := w.sph.toNat, width := 2 ^ w.sz.toNat, align := 2 ^ w.sz.toNat, wr := false, gw := w.com.u } .rd q.1 q.2 = .ok r) →
      y.laneCheck t { spaces := [0, 1, 2, 3, 6], hint := w.sph.toNat, width := 2 ^ w.sz.toNat, align := 2 ^ w.sz.toNat, wr := false, gw := w.com.u } .rd e.1 e.2 = .bad c b v t1 →
      exec (.ld w) s = .next (t1.takeTrap y { cause := c, sub := b, lane := e.1, val := BitVec.ofNat 64 v }))

/-- st writes the bytes of D at each lane address; the highest lane decides, and no register changes (R189, R185, R121). -/
def Obligations.StoresGoToTheirPlaces : Prop :=
  (∀ w s t y, Claims.Issues (.st w) w.com s t y →
    (Claims.ptrs y w false = [] → exec (.st w) s = .next (t.advance y)) ∧
    (Claims.ptrs y w false ≠ [] → ∀ plan, Claims.LanesPass y t { spaces := [0, 1, 2, 3, 6], hint := w.sph.toNat, width := 2 ^ w.sz.toNat, align := 2 ^ w.sz.toNat, wr := true, gw := w.com.u } .wr (Claims.ptrs y w false) plan →
      Claims.Free t y (w.ord.getLsbD 1) w.scope.toNat → (∀ p ∈ plan, plan.any (fun q => q.res == p.res && decide (p.lane < q.lane)) = false → ∃ fl b, Claims.Answered y (2 ^ w.sz.toNat) t p fl b) →
      exec (.st w) s = .next (((plan.filter (fun p => !plan.any (fun q => q.res == p.res && decide (p.lane < q.lane)))).foldl (fun v p =>
        y.putStore v p.lane p.res (Claims.dataBytes y p.lane w.d (2 ^ w.sz.toNat)) .write w.io
          ((plan.filter (fun q => q.res == p.res && decide (q.lane < p.lane))).map (fun q => (q.lane, Claims.dataBytes y q.lane w.d (2 ^ w.sz.toNat))))) ((y.flitsDone t true w.io).markLeaves plan true)).advance y))) ∧
  (∀ w s t y, Claims.Issues (.st w) w.com s t y → w.com.u = false → y.real w.com ≠ 0 → w.ord.getLsbD 1 = false →
    (∀ e ∈ Claims.ptrs y w false, e.2 / 2 ^ 60 = 2 ∧ e.2 % 2 ^ 60 < 2 ^ 21 ∧ e.2 % 2 ^ w.sz.toNat = 0 ∧ hintOk w.sph.toNat 2 = true ∧ e.2 % 2 ^ 21 + 2 ^ w.sz.toNat ≤ windowBytes y.gr y.wg ∧ (y.win = 0 → 0x400 ≤ e.2 % 2 ^ 21)) →
    (Claims.ptrs y w false).Pairwise (fun a b => a.2 ≠ b.2) → Claims.NoFlits y t →
    exec (.st w) s = .next (((Claims.ptrs y w false).foldl (fun v e => y.putStore v e.1 (.scr y.wg.key y.win (e.2 % 2 ^ 21)) (Claims.dataBytes y e.1 w.d (2 ^ w.sz.toNat)) .write w.io []) t).advance y)) ∧
  (∀ (y : Ctx) (t : State) lane key win off bs io und g, t.wg? key = some g → g.phase = .resident →
    ∀ u, u = y.putStore t lane (.scr key win off) bs .write io und →
      (∀ c a, mget 0 (u.core c).scr a = if c = g.cores.getD win 0 ∧ g.spBase.getD win 0 + off ≤ a ∧ a < g.spBase.getD win 0 + off + bs.length
        then bs.getD (a - (g.spBase.getD win 0 + off)) 0 else mget 0 (t.core c).scr a) ∧
      u = { t with cores := u.cores, wgs := u.wgs } ∧ (∀ c, u.core c = { t.core c with scr := (u.core c).scr, scrPoison := (u.core c).scrPoison })) ∧
  (∀ (y : Ctx) (t : State) lane pa lf bs op io und, ∀ v : State, v = t.askRegion pa true → y.putStore t lane (.line pa lf) bs op io und =
    ({ v with nextId := v.nextId + 1, storeQ := v.storeQ ++ [{ id := v.nextId, die := y.die, wg := y.wg.key, grp := y.foc.grp, lane := lane, pa := pa, bytes := bs, op := op, io := io, under := und }] } : State).modSplit y.foc
      (fun sp => { sp with pend := sp.pend ++ [v.nextId], ioPend := if io then sp.ioPend ++ [v.nextId] else sp.ioPend })) ∧
  (∀ (y : Ctx) (t : State) lane pa lf own bs op io und, ∀ v : State, v = t.askRegion pa true → y.putStore t lane (.direct pa lf own) bs op io und =
    ({ v with nextId := v.nextId + 1, storeQ := v.storeQ ++ [{ id := v.nextId, die := homeDie pa, wg := y.wg.key, grp := y.foc.grp, lane := lane, pa := pa, bytes := bs, op := op, io := io, under := und }] } : State).modSplit y.foc
      (fun sp => { sp with pend := sp.pend ++ [v.nextId], ioPend := if io then sp.ioPend ++ [v.nextId] else sp.ioPend })) ∧
  (∀ (y : Ctx) (t : State) lane port pa lf bs op io und, y.putStore t lane (.device port pa lf) bs op io und =
    ({ t with nextId := t.nextId + 1, posted := t.posted ++ [{ id := t.nextId, wg := y.wg.key, grp := y.foc.grp, lane := lane, port := port, pa := pa, bytes := bs }] } : State).modSplit y.foc
      (fun sp => { sp with pend := sp.pend ++ [t.nextId], ioPend := if io then sp.ioPend ++ [t.nextId] else sp.ioPend }))

/-- The L2 gives a waiting store a visibility time after every lease, and a load a grant before the next write (R313, R320). -/
def Obligations.StoresAppliedAtTheirDie : Prop :=
  (∀ id s q l, s.storeQ.find? (fun q => q.id == id) = some q → q.vis = none → s.place (s.forwarded q.pa) = .line → s.storeFirst q = true → q.op = .write → q.under = [] →
    s.line? q.die (s.forwarded q.pa / 128) = some l → l.st = .m ∨ l.st = .e → l.leaving = false → l.hits (s.tenOf q (s.forwarded q.pa)) = true → s.refreshing (s.forwarded q.pa) = false → Claims.Ordered l → s.forwarded q.pa % 128 + q.bytes.length ≤ 128 →
    ∀ bs, bs = (if q.wg = noWg then q.bytes else s.programBytes (s.forwarded q.pa) (Claims.ofLine l.latest (s.forwarded q.pa) q.bytes.length) q.bytes) → ∃ u l1,
      exec (.l2Write id) s = .next u ∧ u.line? q.die (s.forwarded q.pa / 128) = some l1 ∧ l1.st = .m ∧ l.rts < l1.wts ∧ s.clock q.die ≤ l1.wts ∧ l.wts ≤ l1.wts ∧ l1.rts = l.rts ∧
      (∀ k < 128, l1.latest.getD k 0 = if s.forwarded q.pa % 128 ≤ k ∧ k < s.forwarded q.pa % 128 + q.bytes.length then bs.getD (k - s.forwarded q.pa % 128) 0 else l.latest.getD k 0) ∧
      (∀ now, now < l1.wts → l.wts ≤ now → l1.seen now = l.seen now) ∧
      (∀ a n, a ≠ q.die ∨ n ≠ s.forwarded q.pa / 128 → u.line? a n = s.line? a n) ∧ u.mem = s.mem ∧
      (s.issuerDie q = some q.die → u.storeQ = s.storeQ.filter (fun k => k.id != id)) ∧
      (s.issuerDie q ≠ some q.die → u.storeQ = s.storeQ.map (fun k => if k.id = id then { k with vis := some l1.wts } else k))) ∧
  (∀ id s q, s.storeQ.find? (fun q => q.id == id) = some q → q.vis = none → s.place (s.forwarded q.pa) = .line → s.storeFirst q = true → q.op = .write →
    s.line? q.die (s.forwarded q.pa / 128) = none → ∀ r : State, s.makeRoom q.die (s.tenOf q (s.forwarded q.pa)) (s.forwarded q.pa / 128) = some r →
    exec (.l2Write id) s = .next { r.setLine { agent := q.die, addr := s.forwarded q.pa / 128, st := .imAD, data := [], ten := s.tenOf q (s.forwarded q.pa) } with msgs := r.msgs ++ [{ kind := .getm, agent := q.die, addr := s.forwarded q.pa / 128 }] }) ∧
  (∀ die core line s l, die < 4 → s.place (128 * line) = .line → s.line? die line = some l → l.serves = true →
    ∃ u, exec (.l2LoadRequest die core line) s = .next u ∧ Claims.Served s die core (s.leaseOf core) l u) ∧
  (∀ die core line s, die < 4 → s.place (128 * line) = .line → s.line? die line = none → ∀ r : State, s.makeRoom die (s.tenAt (128 * line)) line = some r →
    exec (.l2LoadRequest die core line) s = .next { r.setLine { agent := die, addr := line, st := .isD, data := [], ten := s.tenAt (128 * line), asks := [(core, s.leaseOf core)] } with msgs := r.msgs ++ [{ kind := .gets, agent := die, addr := line }] }) ∧
  (∀ die core line s l, die < 4 → s.place (128 * line) = .line → s.line? die line = some l → l.serves = false →
    exec (.l2LoadRequest die core line) s = .next (if l.asks.contains (core, s.leaseOf core) then s else s.setLine { l with asks := l.asks ++ [(core, s.leaseOf core)] }))

/-- A pointer is checked in the order of its table, and the first check that fails gives the cause (R53, R54, R122, R190). -/
def Obligations.PointerChecks : Prop :=
  ∀ (y : Ctx) (u : PtrUse) (p : Nat), p < 2 ^ 64 → u.align ≠ 0 →
    let space := p / 2 ^ 60
    let formed := match space with | 0 => p < 2 ^ 56 | 1 => p % 2 ^ 60 < 2 ^ 32 | 2 => p % 2 ^ 60 < 2 ^ 21 | 3 => p % 2 ^ 56 < 2 ^ 21 | 6 => True | _ => False
    let rank := p / 2 ^ 56 % 16
    let hinted := u.hint = 0 ∨ (u.hint = 1 ∧ space = 0) ∨ (u.hint = 2 ∧ (space = 2 ∨ space = 3)) ∨ (3 ≤ u.hint ∧ space = 1)
    let window := if space = 2 then y.win else if y.wg.cores.length > 1 then rank else 0
    (¬ formed → y.checkPtr u p = .error (0x06, 1)) ∧
    (formed → space = 3 → y.wg.clsize ≤ rank → y.checkPtr u p = .error (0x06, 2)) ∧
    (formed → (space = 3 → rank < y.wg.clsize) →
      (u.spaces.contains space = false → y.checkPtr u p = .error (0x06, 3)) ∧
      (u.spaces.contains space = true → ¬ hinted → y.checkPtr u p = .error (0x06, 4)) ∧
      (u.spaces.contains space = true → hinted →
        (u.gw = true → space = 1 → y.checkPtr u p = .error (0x06, 5)) ∧
        ((u.gw = true → space ≠ 1) →
          (p % u.align ≠ 0 → y.checkPtr u p = .error (0x03, 0)) ∧
          (p % u.align = 0 →
            (space = 0 → y.checkPtr u p = .ok (.glob p none)) ∧
            (space = 1 → y.checkPtr u p = if y.gr.k.extent < p % 2 ^ 32 + u.width then .error (0x05, 3) else .ok (.glob 0 (some (p % 2 ^ 32)))) ∧
            (space = 2 ∨ space = 3 → y.checkPtr u p = if windowBytes y.gr y.wg < p % 2 ^ 21 + u.width then .error (0x05, 2)
              else if u.wr = true ∧ window = 0 ∧ p % 2 ^ 21 < 0x400 then .error (0x05, 4)
              else .ok (.scr (if space = 2 then 16 else rank) window (p % 2 ^ 21))) ∧
            (space = 6 → y.checkPtr u p = .ok (.peer (p / 2 ^ 49 % 2 ^ 11) (p % 2 ^ 49)))))))

/-- pfch, cfls, cinv, icinv, csync and fence do what their rules say and write no register (R191, R194, R195). -/
def Obligations.CacheCodeAndFences : Prop :=
  (∀ w s t y, Claims.Issues (.pfch w) w.com s t y → (∀ e ∈ Claims.ptrs y w false, ∀ b, y.checkPtr { spaces := [0, 1, 2, 3, 6], hint := w.sph.toNat, width := 0, align := 1, gw := w.com.u, cache := true } e.2 ≠ .error (0x06, b)) →
    exec (.pfch w) s = .next (t.advance y)) ∧
  (∀ w s t y plan, Claims.Issues (.cfls w) w.com s t y → Claims.LanesPass y t { spaces := [0, 1, 2, 3, 6], hint := w.sph.toNat, width := 1, align := 1, cache := true } .any (Claims.ptrs y w false) plan →
    exec (.cfls w) s = .next ((plan.foldl (fun v p => match p.res with | .line _ _ => y.putStore v p.lane p.res [] .flush false [] | .direct _ _ _ => y.putStore v p.lane p.res [] .flush false [] | _ => v) (t.markLeaves plan false)).advance y)) ∧
  (∀ w s t y plan, Claims.Issues (.cinv w) w.com s t y → Claims.LanesPass y t { spaces := [0, 1, 2, 3, 6], hint := w.sph.toNat, width := 1, align := 1, cache := true } .any (Claims.ptrs y w false) plan →
    ∃ v : State, v = t.markLeaves plan false ∧
      exec (.cinv w) s = .next (({ v with l1 := v.l1.filter (fun c => !(c.core == y.g.core && plan.any (fun p => match p.res with | .line pa _ => c.addr == pa / 128 | _ => false))) } : State).advance y)) ∧
  (∀ w s t y plan, Claims.Issues (.icinv w) w.com s t y → Claims.LanesPass y t { spaces := [0], hint := w.sph.toNat, width := 1, align := 1, cache := true } .xw (Claims.ptrs y w false) plan →
    exec (.icinv w) s = .next ((plan.foldl (fun v p => ({ v with nextId := v.nextId + 1, icreqs := v.icreqs ++ [{ id := v.nextId, die := y.die, addr := p.res.pa / 128, left := List.range 192 }] } : State).modSplit y.foc
      (fun sp => { sp with pend := sp.pend ++ [v.nextId], icPend := sp.icPend ++ [v.nextId] })) (t.markLeaves plan false)).advance y)) ∧
  (∀ w s t y, Claims.Issues (.csync w) w.com s t y → exec (.csync w) s = .next (if y.active w.com = 0 then t.advance y
    else if y.sp.icPend = [] ∧ t.passed y.die y.sp.icVis = true then (t.modSplit y.foc (fun sp => { sp with syncAt := t.cycle })).advance y else t.blockSplit y .waiting .release .none)) ∧
  (∀ w s t y, Claims.Issues (.fence w) w.com s t y → y.active w.com = 0 → exec (.fence w) s = .next (t.advance y)) ∧
  (∀ w s t y, Claims.Issues (.fence w) w.com s t y → y.active w.com ≠ 0 → Claims.Free t y (w.fn.getLsbD 4) (w.fn.toNat % 8) →
    exec (.fence w) s = .next (if w.fn.getLsbD 3 then ({ t.advance y with seq := t.seq + 1 } : State).modSplit y.foc (fun sp => { sp with acqAt := t.seq }) else t.advance y)) ∧
  (∀ w s t y, Claims.Issues (.fence w) w.com s t y → y.active w.com ≠ 0 → w.fn.getLsbD 4 = true → y.sp.pend ≠ [] ∨ t.passed y.die y.sp.vis = false →
    exec (.fence w) s = .next (t.blockSplit y .waiting .release .none))

/-- atom and red perform their operation lane by lane; atom returns the old values (R101, R197, R198, R199). -/
def Obligations.AtomicsAreReadModifyWrites : Prop :=
  (∀ w s t y, Claims.Issues (.atom w) w.com s t y →
    (Claims.NoAtom y w → exec (.atom w) s = .next (t.advance y)) ∧
    (¬ Claims.NoAtom y w → ∀ plan u got r (fl : Nat → Flags), Claims.LanesPass y t { spaces := [0, 1, 2, 3, 6], hint := w.sph.toNat, width := 2 ^ w.sz.toNat, align := 2 ^ w.sz.toNat, wr := true, gw := w.com.u } .rdwr (Claims.ptrs y w true) plan →
      (∀ p ∈ plan, t.resPoisoned p.res (2 ^ w.sz.toNat) = false) → Claims.Free t y (w.ord.getLsbD 1) w.scope.toNat →
      (∀ p ∈ plan, Claims.AtomReady y (2 ^ w.sz.toNat) t p (got p.lane) ∧ (match p.res with | .peer _ _ => Claims.Answered y (2 ^ w.sz.toNat) t p (fl p.lane) (got p.lane) | _ => fl p.lane = 0)) →
      Claims.LanesUpdate y w got ((Claims.answersUsed y t).markLeaves plan true) plan u r →
      Claims.Returns (.atom w) s u y w (if w.com.u then laneBit y.fetchLane else y.active w.com) (fun l =>
        let k := if w.com.u then lowestLane y.sp.mask else l
        if plan.any (fun p => p.lane == k) then ((r k).1, (r k).2 ||| fl k) else (0, 0)))) ∧
  (∀ w s t y, Claims.Issues (.red w) w.com s t y →
    ((if w.com.u && (y.sp.mask &&& ~~~y.g.helper) == 0 then [] else Claims.ptrs y w true) = [] → exec (.red w) s = .next (t.advance y)) ∧
    ((if w.com.u && (y.sp.mask &&& ~~~y.g.helper) == 0 then [] else Claims.ptrs y w true) ≠ [] → ∀ plan, Claims.LanesPass y t { spaces := [0, 1, 2, 3, 6], hint := w.sph.toNat, width := 2 ^ w.sz.toNat, align := 2 ^ w.sz.toNat, wr := true, gw := w.com.u } .wr (Claims.ptrs y w true) plan →
      Claims.Free t y (w.ord.getLsbD 1) w.scope.toNat → Claims.OnPart plan → Claims.NoFlits y t →
      exec (.red w) s = .next ((plan.foldl (fun v p => y.reduce w 1 v (p, .bytes [] 0)) ((Claims.answersUsed y t).markLeaves plan true)).advance y))) ∧
  (∀ w (y : Ctx) (v u : State) p old fl key win off, p.res = .scr key win off → v.resPoisoned p.res (2 ^ w.sz.toNat) = false → Claims.LaneUpdates y w v p [] u old fl →
    y.reduce w 1 v (p, .bytes [] 0) = u.modWg y.wg.key (fun k => { k with rflags := k.rflags ||| fl })) ∧
  (∀ w (y : Ctx) (v : State) p pa lf, p.res = .line pa lf → v.resPoisoned p.res (2 ^ w.sz.toNat) = true → ∃ c : LogRec, c.code = 0x45 ∧ c.unit = y.die ∧ c.aux = 1 ∧ c.pa = pa ∧ c.va = p.ptr ∧
    y.reduce w 1 v (p, .bytes [] 0) = v.logRec c) ∧
  (∀ w (y : Ctx) (v : State) p pa lf b cmp, p.res = .line pa lf → v.resPoisoned p.res (2 ^ w.sz.toNat) = false → (b, cmp) = y.atomArgs w p.lane →
    y.reduce w 1 v (p, .bytes [] 0) = y.putStore v p.lane p.res (List.replicate (2 ^ w.sz.toNat) 0) (.atomic (w.com.mod.extractLsb' 0 3) w.sgn w.sz (BitVec.ofNat 64 b) (BitVec.ofNat 64 cmp)) false []) ∧
  (∀ mod sgn sz old b cmp, sz = 2 ∨ sz = 3 → old < 2 ^ (8 * 2 ^ sz.toNat) → b < 2 ^ (8 * 2 ^ sz.toNat) →
    Claims.AtomicGives mod sgn sz old b cmp (atomicOp mod sgn sz old b cmp).1 (atomicOp mod sgn sz old b cmp).2)

/-- reds contributes in index order at its cell: applied, held, resent or dropped (R200, R201, R202). -/
def Obligations.SequencedReductions : Prop :=
  (∀ w s t y, Claims.Issues (.reds w) w.com s t y →
    (Claims.ptrs y w true = [] → exec (.reds w) s = .next (t.advance y)) ∧
    (Claims.ptrs y w true ≠ [] → ∀ plan, Claims.LanesPass y t { spaces := [0, 6], hint := w.sph.toNat, width := 16, align := 16, wr := true, gw := w.com.u } .wr (Claims.ptrs y w true) plan →
      (256 < (t.contribs.filter (fun c => c.wg == y.wg.key && !c.atHome)).length + plan.length → exec (.reds w) s = .next (t.holdSplit y)) ∧
      ((t.contribs.filter (fun c => c.wg == y.wg.key && !c.atHome)).length + plan.length ≤ 256 → Claims.Free t y (w.ord.getLsbD 1) w.scope.toNat → Claims.NearBy plan → (∀ f ∈ t.fabric, f.rejected = true → f.wg ≠ y.wg.key ∨ f.grp ≠ y.foc.grp) →
        exec (.reds w) s = .next ((plan.foldl (fun v p =>
          ({ v with nextId := v.nextId + 1, contribs := v.contribs ++ [{ id := v.nextId, wg := y.wg.key, grp := y.foc.grp, lane := p.lane, cell := p.ptr, pa := p.res.pa, idx := BitVec.ofNat 32 (y.g.readRun p.lane w.d 0 1), val := BitVec.ofNat 64 (y.g.readRun p.lane w.b 0 (runLength w.sz)), mod := w.com.mod.extractLsb' 0 3, sgn := w.sgn, sz := w.sz }] } : State).modSplit y.foc
            (fun sp => { sp with pend := sp.pend ++ [v.nextId] })) ((y.flitsDone t true).markLeaves plan true)).advance y)))) ∧
  (∀ id s c, s.contribs.find? (fun c => c.id == id) = some c → c.peer = none → s.poisoned (s.forwarded c.pa) 16 = false →
    (∀ k ∈ s.contribs, k.atHome = true → k.id ≠ c.id → s.forwarded k.pa ≠ s.forwarded c.pa ∨ k.idx ≠ c.idx) →
    ∀ next : Nat, next = leNat (s.cohLatest (s.forwarded c.pa + 8) 4) →
    ((c.idx.toNat + 2 ^ 32 - next) % 2 ^ 32 = 0 → s.homeReady (s.forwarded c.pa) = false →
      exec (.redsContributionArrival id) s = .next (({ s with contribs := s.contribs.map (fun k => if k.id = c.id then { k with atHome := true } else k) } : State).askHome (s.forwarded c.pa))) ∧
    ((c.idx.toNat + 2 ^ 32 - next) % 2 ^ 32 = 0 → s.homeReady (s.forwarded c.pa) = true → ∃ new fl b, b = s.cohLatest (s.forwarded c.pa) 16 ∧ (new, fl) = atomicOp c.mod c.sgn c.sz (leNat ((b.drop 0).take (2 ^ c.sz.toNat))) c.val.toNat 0 ∧
      ∃ u v, (u, v) = s.cohWrite (s.forwarded c.pa) (leBytes 8 new ++ leBytes 4 ((leNat ((b.drop 8).take 4) + 1) % 2 ^ 32) ++ b.drop 12) ∧
      exec (.redsContributionArrival id) s = .next ((({ u with contribs := u.contribs.filter (fun k => k.id != c.id) } : State).modWg c.wg (fun k => { k with rflags := k.rflags ||| fl })).settleLater c.wg c.grp c.id c.pa v)) ∧
    (0 < (c.idx.toNat + 2 ^ 32 - next) % 2 ^ 32 → (c.idx.toNat + 2 ^ 32 - next) % 2 ^ 32 < 2 ^ 31 →
      exec (.redsContributionArrival id) s = .next { s with contribs := s.contribs.map (fun k => if k.id = c.id then { k with atHome := decide ((c.idx.toNat + 2 ^ 32 - next) % 2 ^ 32 < 256) } else k) }) ∧
    (2 ^ 31 ≤ (c.idx.toNat + 2 ^ 32 - next) % 2 ^ 32 → exec (.redsContributionArrival id) s = .next (s.contribDup c (s.forwarded c.pa)))) ∧
  (∀ id s c, s.contribs.find? (fun c => c.id == id && !c.atHome) = some c → c.away = false → s.contribGap c < 256 ∨ 2 ^ 31 ≤ s.contribGap c → (∀ k, s.wg? c.wg = some k → k.phase ≠ .saved) →
    exec (.redsResend id) s = .next (s.judge c)) ∧
  (∀ id s c, s.contribs.find? (fun c => c.id == id && !c.atHome) = some c → c.away = false → 256 ≤ s.contribGap c → s.contribGap c < 2 ^ 31 → exec (.redsResend id) s = .next s) ∧
  (∀ id s c, s.contribs.find? (fun c => c.id == id && !c.atHome) = some c → c.away = true → (∀ k, s.wg? c.wg = some k → k.phase ≠ .saved) →
    exec (.redsResend id) s = .next (s.resendContrib c))

/-- The six barrier instructions act once on the object that they name (R203, R205, R206, R210). -/
def Obligations.BarrierInstructions : Prop :=
  (∀ w s t y, Claims.Issues (.binit w) w.com s t y → (y.real w.com = 0 → exec (.binit w) s = .next (t.advance y)) ∧
    (y.real w.com ≠ 0 → ∀ r ptr, Claims.Names y t w (lowestLane (y.real w.com)) r ptr → ∀ n, n = Claims.whole y (lowestLane (y.real w.com)) w.b false →
      exec (.binit w) s = .next (if n = 0 ∨ 4095 < n then t.takeTrap y { cause := 0x0B, sub := 1, lane := lowestLane (y.real w.com), val := BitVec.ofNat 64 ptr }
        else (t.setBar r { gen := (t.bar r).gen, pin := false, pout := false, err := false, pend := n, exp := n, inb := 0, outb := 0 }).advance y))) ∧
  (∀ w s t y, Claims.Issues (.barr w) w.com s t y → (y.real w.com = 0 → exec (.barr w) s = .next (t.advance y)) ∧
    (y.real w.com ≠ 0 → ∀ r ptr, Claims.Names y t w (lowestLane (y.real w.com)) r ptr → (t.bar r).err = false → Claims.Free t y w.rel w.scope.toNat → ∃ f,
      exec (.barr w) s = .next (((t.modGrp y.foc.wg y.foc.grp f).barUpdate r (BarObj.arrive (w.eimm.toNat / 64 % 256 + 1) (if r.wg = y.wg.key then 1 else 2))).advance y) ∧
      ∀ g, Claims.SplitGets w.d (y.active w.com) (BitVec.ofNat 64 (t.bar r).gen) g (f g))) ∧
  (∀ w s t y, Claims.Issues (.barw w) w.com s t y → (y.real w.com = 0 → exec (.barw w) s = .next (t.advance y)) ∧
    (y.real w.com ≠ 0 → ∀ r ptr, Claims.Names y t w (lowestLane (y.real w.com)) r ptr → (t.bar r).err = false →
      (y.sp.arrived = true → exec (.barw w) s = .next (if Claims.whole y (lowestLane (y.real w.com)) w.d false ≠ (t.bar r).gen then y.waitOver t w.acq else y.parkBar t r)) ∧
      (y.sp.arrived = false → Claims.Free t y w.rel w.scope.toNat → ∃ f u, (∀ g, Claims.SplitGets w.d (y.active w.com) (BitVec.ofNat 64 (t.bar r).gen) g (f g)) ∧
        u = ((t.modGrp y.foc.wg y.foc.grp f).barUpdate r (BarObj.arrive (w.eimm.toNat / 64 % 256 + 1) (if r.wg = y.wg.key then 1 else 2))).modSplit y.foc (fun sp => { sp with arrived := true }) ∧
        exec (.barw w) s = .next (if (u.bar r).gen ≠ (t.bar r).gen then y.waitOver u w.acq else y.parkBar u r)))) ∧
  (∀ w s t y, Claims.Issues (.bwait w) w.com s t y → (y.real w.com = 0 → exec (.bwait w) s = .next (t.advance y)) ∧
    (y.real w.com ≠ 0 → ∀ r ptr, Claims.Names y t w (lowestLane (y.real w.com)) r ptr → (t.bar r).err = false →
      exec (.bwait w) s = .next (if Claims.whole y (lowestLane (y.real w.com)) w.b false % 16 ≠ (t.bar r).gen then y.waitOver t w.acq else y.parkBar t r))) ∧
  (∀ w s t y, Claims.Issues (.bexp w) w.com s t y → (y.real w.com = 0 → exec (.bexp w) s = .next (t.advance y)) ∧
    (y.real w.com ≠ 0 → ∀ r ptr, Claims.Names y t w (lowestLane (y.real w.com)) r ptr → (t.bar r).err = false → Claims.Free t y w.rel w.scope.toNat →
      exec (.bexp w) s = .next ((t.barUpdate r (BarObj.post (w.com.mod.getLsbD 0) (w.com.mod.getLsbD 1) (Claims.whole y (lowestLane (y.real w.com)) w.b false) (if r.wg = y.wg.key then 1 else 2))).advance y))) ∧
  (∀ w s t y, Claims.Issues (.bqry w) w.com s t y → (y.real w.com = 0 → exec (.bqry w) s = .next (t.advance y)) ∧
    (y.real w.com ≠ 0 → ∀ r ptr, Claims.Names y t w (lowestLane (y.real w.com)) r ptr → ∃ f, exec (.bqry w) s = .next (t.doneWith y f) ∧
      ∀ g, match w.d with
        | .reg .s _ k => Claims.GroupLoads k.toNat 4 (t.bar r).toNat 0 (fun _ => 0) g (f g)
        | d => Claims.LanesLoad d 4 (y.active w.com) (fun _ => ((t.bar r).toNat, 0)) g (f g))) ∧
  (∀ i c s t y w r ptr, (i = .barr w ∨ i = .barw w ∨ i = .bwait w ∨ i = .bexp w) → c = w.com → Claims.Issues i c s t y → y.real c ≠ 0 → Claims.Names y t w (lowestLane (y.real c)) r ptr → (t.bar r).err = true →
    exec i s = .next (t.takeTrap y { cause := 0x0B, sub := 2, lane := lowestLane (y.real c), val := BitVec.ofNat 64 ptr }))

/-- Arrivals, posts and byte counts change the object as their rules say, and a phase completes (R207, R208, R209). -/
def Obligations.BarrierObjects : Prop :=
  (∀ (o : BarObj) n q, BarObj.arrive n q o = if n ≤ o.pend then ({ o with pend := o.pend - n }, 0) else ({ o with err := true }, if o.err then 0 else q)) ∧
  (∀ (o : BarObj) out tag n, tag % 16 ≠ o.gen → BarObj.bytes out tag n o = ({ o with err := true }, if o.err then 0 else 3)) ∧
  (∀ (o : BarObj) tag n, tag % 16 = o.gen → BarObj.bytes false tag n o =
    ({ o with inb := o.inb - n, err := o.err || (decide (o.inb - n < 0) && o.pin) }, if o.inb - n < 0 ∧ o.pin = true ∧ o.err = false then 4 else 0)) ∧
  (∀ (o : BarObj) tag n, tag % 16 = o.gen → BarObj.bytes true tag n o =
    ({ o with outb := o.outb - n, err := o.err || (decide (o.outb - n < 0) && o.pout) }, if o.outb - n < 0 ∧ o.pout = true ∧ o.err = false then 5 else 0)) ∧
  (∀ (o : BarObj) e q, (BarObj.post false false e q o).1 = { o with inb := o.inb + e, pin := true, err := o.err || decide (o.inb + e < 0) } ∧
    (BarObj.post true false e q o).1 = { o with outb := o.outb + e, pout := true, err := o.err || decide (o.outb + e < 0) }) ∧
  (∀ (o : BarObj) out e q, (BarObj.post out true e q o).1 = (BarObj.arrive 1 q (BarObj.post out false e q o).1).1) ∧
  (∀ o : BarObj, (o.err = false → o.pend = 0 → o.inb = 0 → o.outb = 0 → o.complete = { o with gen := (o.gen + 1) % 16, pend := o.exp, pin := false, pout := false }) ∧
    (o.err = true ∨ o.pend ≠ 0 ∨ o.inb ≠ 0 ∨ o.outb ≠ 0 → o.complete = o)) ∧
  (∀ o : BarObj, o.gen < 16 → o.pend < 4096 → o.exp < 4096 → -(2 ^ 47) ≤ o.inb → o.inb < 2 ^ 47 → -(2 ^ 47) ≤ o.outb → o.outb < 2 ^ 47 → o.toNat < 2 ^ 128 ∧ BarObj.ofNat o.toNat = o) ∧
  (∀ (s : State) (r : BarRef) (w : Workgroup) o q, s.wg? r.wg = some w → w.phase = .resident → ∀ f : BarObj → BarObj × Nat, (o, q) = f (s.bar r) → ∀ v : State,
    v = s.scrWrite w r.win (16 * r.id) (leBytes 16 o.complete.toNat) →
    ∀ x : State, (if q = 0 then x = v else ∃ c : LogRec, c.code = 0x20 ∧ c.aux = q + 256 * r.id ∧ c.uno = w.cores.getD r.win 0 ∧ c.ctx = w.ctx ∧ c.ten = w.ten ∧ x = v.logRec c ∧ c.unit = w.cores.getD r.win 0 / 48 ∧ c.sev = 1 ∧ c.src = 5 ∧ c.pasid = 0 ∧ c.va = 0 ∧ c.pa = 0) →
      s.barUpdate r f = if o.complete.gen ≠ (s.bar r).gen ∨ (o.complete.err = true ∧ (s.bar r).err = false) then x.wakeBlk (.barrier r.wg (64 * r.win + r.id)) else x)

/-- cntadd adds at the counter, and cntwait parks until the counter reaches its target (R213, R214, R462). -/
def Obligations.CountersAddAndWait : Prop :=
  (∀ w s t y, Claims.Issues (.cntadd w) w.com s t y → (y.real w.com = 0 → exec (.cntadd w) s = .next (t.advance y)) ∧
    (y.real w.com ≠ 0 → ∀ p v, Claims.LanesPass y t { spaces := [0, 2, 3, 6], width := 8, align := 8, wr := true, gw := w.com.u } .wr [(lowestLane (y.real w.com), Claims.whole y (lowestLane (y.real w.com)) w.a true)] [p] →
      Claims.Free t y w.rel w.scope.toNat → t.resPoisoned p.res 8 = false → Claims.NoFlits y t → v = (Claims.answersUsed y t).markLeaves [p] true →
      (∀ key win off g, p.res = .scr key win off → v.wg? key = some g → v.resPoisoned p.res 8 = false →
        exec (.cntadd w) s = .next ((v.scrWrite g win off (leBytes 8 ((leNat (v.scrRead g win off 8) + Claims.whole y p.lane w.b true) % 2 ^ 64))).advance y)) ∧
      (∀ pa lf, p.res = .line pa lf → v.resPoisoned p.res 8 = false →
        exec (.cntadd w) s = .next ((y.putStore v p.lane p.res (List.replicate 8 0) (.atomic 0 false 3 (Claims.word64 y p.lane w.b) 0) false []).advance y)))) ∧
  (∀ w s t y, Claims.Issues (.cntwait w) w.com s t y → (y.real w.com = 0 → exec (.cntwait w) s = .next (t.advance y)) ∧
    (y.real w.com ≠ 0 → ∀ p v n, Claims.LanesPass y t { spaces := [0, 2, 3, 6], width := 8, align := 8 } .rd [(lowestLane (y.real w.com), Claims.whole y (lowestLane (y.real w.com)) w.a true)] [p] →
      v = t.markLeaves [p] false → n = Claims.whole y (lowestLane (y.real w.com)) w.b true → Claims.NoFlits y v → Claims.NoLoads y v →
      (∀ key win off g, p.res = .scr key win off → v.wg? key = some g → v.resPoisoned p.res 8 = false →
        exec (.cntwait w) s = .next (if n ≤ leNat (v.scrRead g win off 8) then y.waitOver v w.acq else v.blockSplit y .parked .counter (.counter (.sp key win off) n))) ∧
      (∀ pa lf, p.res = .line pa lf → v.resPoisoned p.res 8 = false →
        exec (.cntwait w) s = .next (if n ≤ leNat (v.cohLatest pa 8) then (if n ≤ leNat (v.cohRead pa 8) then y.waitOver v w.acq else v.holdSplit y) else v.blockSplit y .parked .counter (.counter (.pa pa) n))) ∧
      (∀ pa lf, p.res = .line pa lf → v.resPoisoned p.res 8 = true → exec (.cntwait w) s = .next (v.blockSplit y .parked .counter (.counter (.pa pa) n)))))

/-- chbind binds and unbinds an entry, chstat tells its state, dbell hands POS to the proxy (R216, R217, R219, R235). -/
def Obligations.ChannelsBindAndTell : Prop :=
  (∀ w s t y, Claims.Issues (.chbind w) w.com s t y →
    (y.real w.com = 0 → exec (.chbind w) s = .next (t.advance y)) ∧
    (y.real w.com ≠ 0 → ∀ l ch, l = lowestLane (y.real w.com) → ch = w.eimm.toNat % 16 →
      (w.com.mod.getLsbD 2 = true → exec (.chbind w) s = .next (if y.wg.parkedOn ch then t.takeTrap y { cause := 0x0A, sub := 5, lane := l, val := BitVec.ofNat 64 ch }
        else ((t.writeBack y.gr.pasid (y.wg.chan ch)).modChan y.wg.key ch (fun _ => { v := false })).advance y)) ∧
      (w.com.mod.getLsbD 2 = false → (y.wg.chan ch).v = true → exec (.chbind w) s = .next (t.takeTrap y { cause := 0x0A, sub := 3, lane := l, val := BitVec.ofNat 64 ch })) ∧
      (w.com.mod.getLsbD 2 = false → (y.wg.chan ch).v = false → bitOf y.gr.k.chmask ch = false → exec (.chbind w) s = .next (t.takeTrap y { cause := 0x0A, sub := 4, lane := l, val := BitVec.ofNat 64 ch })) ∧
      (w.com.mod = 0 → (y.wg.chan ch).v = false → bitOf y.gr.k.chmask ch = true → ∀ p off, p = Claims.whole y l w.a true → p / 2 ^ 21 = 2 ^ 40 → off = p % 2 ^ 21 → off % 16 = 0 → 0x400 ≤ off →
        off + 16 + 4 * 2 ^ (w.eimm.toNat / 16 % 32) ≤ windowBytes y.gr y.wg →
        exec (.chbind w) s = .next (((t.scrWrite y.wg 0 off (leBytes 8 0 ++ leBytes 2 (w.eimm.toNat / 16 % 32) ++ leBytes 6 0)).modChan y.wg.key ch (fun _ => { v := true, kind := 0, ptr := p })).advance y)) ∧
      (∀ p v b, w.com.mod = 1 ∨ w.com.mod = 2 ∨ w.com.mod = 3 → (y.wg.chan ch).v = false → bitOf y.gr.k.chmask ch = true → p = Claims.whole y l w.a true → p % 64 = 0 →
        ∀ q, Claims.LanesPass y t { spaces := [0], width := 64, align := 1 } .rd [(l, p)] [q] → t.resPoisoned q.res 64 = false → v = t.markLeaves [q] false → v.vread y.gr.pasid (p % 2 ^ 56) 64 = some b → b.length = 64 →
        bindingOk w.com.mod.toNat b = true → (w.com.mod = 3 ∨ fieldAt b 0x18 8 = 0 ∨ v.granted y.wg.ten (fieldAt b 0x18 8) = true) →
        exec (.chbind w) s = .next ((v.modChan y.wg.key ch (fun _ => { v := true, kind := w.com.mod.toNat, ptr := p, pos := fieldAt b 0x10 4, ph := fieldAt b 0x0E 1, dbell := fieldAt b 0x18 8, pa := q.res.pa })).advance y)))) ∧
  (∀ w s t y, Claims.Issues (.chstat w) w.com s t y →
    (Claims.Off w.com y → exec (.chstat w) s = .next (t.advance y)) ∧
    (¬ Claims.Off w.com y → ∃ v f, exec (.chstat w) s = .next (t.doneWith y f) ∧ Claims.ChannelWord t y w.a.index v ∧
      ∀ g, Claims.SplitGets w.d (y.active w.com) (BitVec.ofNat 64 v) g (f g))) ∧
  (∀ w s t y, Claims.Issues (.dbell w) w.com s t y →
    (y.real w.com = 0 → exec (.dbell w) s = .next (t.advance y)) ∧
    (y.real w.com ≠ 0 → ∀ c, c = y.wg.chan (w.eimm.toNat % 16) → exec (.dbell w) s = .next (
      if c.v = true ∧ (c.kind = 1 ∨ c.kind = 2) ∧ c.dbell ≠ 0 then
        if t.proxy.length < 1024 then ({ t with proxy := t.proxy ++ [{ addr := c.dbell, value := c.pos, die := y.die, vis := y.sp.ioVis, pend := y.sp.ioPend }] } : State).advance y else t.holdSplit y
      else t.takeTrap y { cause := 0x0A, sub := 8, lane := lowestLane (y.real w.com), val := BitVec.ofNat 64 (w.eimm.toNat % 16) })))

/-- mlds, mswp and mma join the commands of their array (R238, R241, R245, R246, R247, R248, R249, R250). -/
def Obligations.MatrixCommands : Prop :=
  (∀ w s t y, Claims.Issues (.mlds w) w.com s t y → (y.real w.com = 0 → exec (.mlds w) s = .next (t.advance y)) ∧
    (y.real w.com ≠ 0 → ∀ l n fmt p st, l = lowestLane (y.real w.com) → n = w.eimm.toNat % 2 → fmt = w.eimm.toNat / 2 % 16 → p = Claims.whole y l w.a false → st = Claims.whole y l w.b false →
      Claims.MayTake y t n → p % 16 = 0 → st % 16 = 0 → 208 ≤ st → p + 127 * st + 208 ≤ windowBytes y.gr y.wg →
      (fmt = 1 → ∀ j < 128, ∀ m < 6, (t.scrRead y.wg y.win (p + j * st + 192) 12).getD (2 * m) 0 = (t.scrRead y.wg y.win (p + j * st + 192) 12).getD (2 * m + 1) 0) →
      ∀ pl : Plane, pl = { cols := (List.range 128).map (fun j => t.scrRead y.wg y.win (p + j * st) 192), scales := (List.range 128).map (fun j => (List.range 6).map (fun m => (t.scrRead y.wg y.win (p + j * st + 192 + (if fmt = 1 then 2 * m else m)) 1).headD 0)), fmt := fmt, valid := true, poison := (List.range 128).any (fun j => t.scrPoisoned y.wg y.win (p + j * st) 208) } →
        exec (.mlds w) s = .next (Claims.stamped y w.acq ((t.modArray y.g.core n (fun (a : Arr) => (a.take y.wg.key).accept (.load pl t.cycle y.g.sub))).advance y)))) ∧
  (∀ w s t y, Claims.Issues (.mswp w) w.com s t y → (y.real w.com = 0 → exec (.mswp w) s = .next (t.advance y)) ∧
    (y.real w.com ≠ 0 → ∀ n, n = w.eimm.toNat % 2 → Claims.MayTake y t n → ∃ f, exec (.mswp w) s = .next ((t.modArray y.g.core n f).advance y) ∧
      ∀ a b : Arr, b = a.take y.wg.key → (a.queue = [] → f a = { b with live := b.shadow, shadow := b.live }) ∧ (∀ c q, a.queue = c :: q → (∀ p k, c ≠ .swap p k) → Claims.NoLater c (.swap t.cycle y.g.sub) → f a = b.accept (.swap t.cycle y.g.sub)))) ∧
  (∀ (a : Arr) (d : ArrCmd) pre post, a.queue = pre ++ post → (∀ c ∈ pre, Claims.NoLater c d) → (∀ c q, post = c :: q → ¬ Claims.NoLater c d) → a.accept d = { a with queue := pre ++ d :: post }) ∧
  (∀ a : Arr, ∀ k : Nat, a.take k = if a.owner = none then { a with owner := some k, live := { a.live with valid := false }, shadow := { a.shadow with valid := false } } else a) ∧
  (∀ w s t y, Claims.Issues (.mma w) w.com s t y → (y.real w.com = 0 → exec (.mma w) s = .next (t.advance y)) ∧
    (∀ ls n pair nb fw (first off : Nat → Nat), ls = lanesOf (y.real w.com) → ls ≠ [] → n = w.eimm.toNat % 2 → (∀ l ∈ ls, Claims.word32 y l w.b = fw) → fwLegal fw = true → pair = decide (fwAcc fw = 1) → nb = (if fwAf fw < 2 then 208 else 192) →
      ((t.core y.g.core).array n).owner = some y.wg.key → ((t.core y.g.core).array n).liveNext = (true, fwBf fw) →
      (∀ l, first l = y.g.abase + Claims.whole y 0 w.d false + (if pair then 2 * l else l)) → (∀ l, off l = Claims.whole y l w.a false) →
      (∀ l ∈ ls, Claims.InWindow y (first l) (if pair then 2 else 1) ∧ (pair = true → first l % 2 = 0) ∧ off l % 16 = 0 ∧ off l + nb ≤ windowBytes y.gr y.wg) →
      ∀ named, named = ls.flatMap (fun l => if pair then [Claims.coreRow y (first l), Claims.coreRow y (first l) + 1] else [Claims.coreRow y (first l)]) →
        (¬ Claims.RowsFree y t named → exec (.mma w) s = .next (t.blockSplit y .waiting .accRow .none)) ∧
        (Claims.RowsFree y t named → ∀ qs : List (List RowJob), qs = ((List.range 4).map (fun q => (ls.filter (fun l => l / 8 == q)).map (fun l => ({ lane := l, row := Claims.coreRow y (first l), bytes := t.scrRead y.wg y.win (off l) nb, poison := t.scrPoisoned y.wg y.win (off l) nb } : RowJob)))).filter (· != []) →
          ∀ u v : State, u = { t with nextId := t.nextId + 1 } → v = u.modCore y.g.core (fun c => { c with mops := c.mops ++ [{ id := t.nextId, wg := y.wg.key, rows := named, mma := some (fw, w.com.mod.getLsbD 0, w.com.mod.getLsbD 1), quarters := qs, doneAt := t.cycle }] }) →
            exec (.mma w) s = .next (Claims.stamped y w.acq ((v.modArray y.g.core n (fun a => (List.range qs.length).foldl (fun a i => a.accept (.quarter t.nextId (t.cycle + i) y.g.sub)) a)).advance y)))))

/-- accz, mwin, ldacc, stacc and accq move and set accumulator rows (R240, R241, R244, R253, R254, R255, R256). -/
def Obligations.MatrixRows : Prop :=
  (∀ w s t y, Claims.Issues (.accz w) w.com s t y → (y.real w.com = 0 → exec (.accz w) s = .next (t.advance y)) ∧
    (y.real w.com ≠ 0 → ∀ l first n rows, l = lowestLane (y.real w.com) → first = y.g.abase + Claims.whole y l w.a false → n = Claims.whole y l w.b false → 1 ≤ n → n ≤ 2048 → Claims.InWindow y first n →
      rows = (List.range n).map (fun k => Claims.coreRow y (first + k)) → Claims.RowsFree y t rows → ∃ f, exec (.accz w) s = .next ((y.ownRows (t.modCore y.g.core f) rows ((n + 1) / 2)).advance y) ∧
        ∀ c : Core, f c = { c with acc := (f c).acc, accPoison := (f c).accPoison } ∧ (∀ k, k ∈ (f c).accPoison ↔ k ∈ c.accPoison ∧ k ∉ rows) ∧
          ∀ k, ∀ j < 128, mget 0 (f c).acc (128 * k + j) = if Claims.coreRow y first ≤ k ∧ k < Claims.coreRow y first + n then 0 else mget 0 c.acc (128 * k + j))) ∧
  (∀ w s t y, Claims.Issues (.mwin w) w.com s t y → (y.real w.com = 0 → exec (.mwin w) s = .next (t.advance y)) ∧
    (y.real w.com ≠ 0 → ∀ l id lo hi, l = lowestLane (y.real w.com) → id = Claims.whole y l w.a false → lo = Claims.whole y l w.b false → hi = Claims.whole y l w.c false →
      exec (.mwin w) s = .next (if y.g.grpid ≠ 0 then t.takeTrap y { cause := 0x08, sub := 4, lane := l, val := BitVec.ofNat 64 y.g.grpid }
        else if id < y.wg.groups.length ∧ lo ≤ hi ∧ hi ≤ y.gr.k.acc then (t.modGrp y.wg.key id (fun g => { g with nextWin := some (lo, hi) })).advance y
        else t.takeTrap y { cause := 0x08, sub := 5, lane := l, val := BitVec.ofNat 64 id }))) ∧
  (∀ w s t y, Claims.Issues (.ldacc w) w.com s t y → (y.real w.com = 0 → exec (.ldacc w) s = .next (t.advance y)) ∧
    (∀ ls pair n (first off : Nat → Nat), ls = lanesOf (y.real w.com) → ls ≠ [] → pair = w.com.mod.getLsbD 0 → n = (if pair then 1024 else 512) →
      (∀ l, first l = y.g.abase + Claims.whole y 0 w.d false + (if pair then 2 * l else l)) → (∀ l, off l = Claims.whole y l w.a false) →
      (∀ l ∈ ls, Claims.InWindow y (first l) (if pair then 2 else 1) ∧ (pair = true → first l % 2 = 0) ∧ off l % 16 = 0 ∧ off l + n ≤ windowBytes y.gr y.wg) →
      ∀ named, named = ls.flatMap (fun l => if pair then [Claims.coreRow y (first l), Claims.coreRow y (first l) + 1] else [Claims.coreRow y (first l)]) → Claims.RowsFree y t named → Claims.Free t y w.rel w.scope.toNat →
        ∃ u, Claims.RowsLoaded y pair (fun l => Claims.coreRow y (first l)) off t ls u ∧ exec (.ldacc w) s = .next (Claims.stamped y w.acq ((y.ownRows u named (named.length + 8)).advance y)))) ∧
  (∀ w s t y, Claims.Issues (.stacc w) w.com s t y → (y.real w.com = 0 → exec (.stacc w) s = .next (t.advance y)) ∧
    (∀ ls pair n (first off : Nat → Nat), ls = lanesOf (y.real w.com) → ls ≠ [] → pair = w.com.mod.getLsbD 0 → n = (if pair then 1024 else 512) →
      (∀ l, first l = y.g.abase + Claims.whole y 0 w.d false + (if pair then 2 * l else l)) → (∀ l, off l = Claims.whole y l w.a false) →
      (∀ l ∈ ls, Claims.InWindow y (first l) (if pair then 2 else 1) ∧ (pair = true → first l % 2 = 0) ∧ off l % 16 = 0 ∧ off l + n ≤ windowBytes y.gr y.wg ∧ (y.win = 0 → 0x400 ≤ off l)) →
      ∀ named, named = ls.flatMap (fun l => if pair then [Claims.coreRow y (first l), Claims.coreRow y (first l) + 1] else [Claims.coreRow y (first l)]) → Claims.RowsFree y t named → (∀ r ∈ named, r ∉ (t.core y.g.core).accPoison) → Claims.Free t y w.rel w.scope.toNat →
        exec (.stacc w) s = .next (Claims.stamped y w.acq ((y.ownRows (ls.foldl (fun (u : State) l => u.scrWrite y.wg y.win (off l) (Claims.rowImage (t.core y.g.core) pair (Claims.coreRow y (first l)))) t) named named.length).advance y)))) ∧
  (∀ w s t y, Claims.Issues (.accq w) w.com s t y → (y.real w.com = 0 → exec (.accq w) s = .next (t.advance y)) ∧
    (∀ ls bo fw (first off : Nat → Nat), ls = lanesOf (y.real w.com) → ls ≠ [] → bo = w.eimm.toNat % 16 → (∀ l ∈ ls, Claims.word32 y l w.b = fw) →
      fw.extractLsb' 24 8 = 0 → fwBf fw = 0 → fwZf fw = false → (fwAcc fw = 0 ∧ (fwAf fw = 0 ∨ fwAf fw = 1 ∨ fwAf fw = 5 ∨ fwAf fw = 6) ∨ fwAcc fw = 2 ∧ fwAf fw = 2) → (fwAf fw = 0 → bo ≤ 2) → (fwAf fw = 1 → bo ≤ 8) →
      (∀ l, first l = y.g.abase + Claims.whole y 0 w.d false + l) → (∀ l, off l = Claims.whole y l w.a false) →
      (∀ l ∈ ls, Claims.InWindow y (first l) 1 ∧ off l % 16 = 0 ∧ ∀ q ∈ accqSegs (fwAf fw) bo (off l), q.1 + q.2 ≤ windowBytes y.gr y.wg ∧ (y.win = 0 → 0x400 ≤ q.1)) →
      Claims.RowsFree y t (ls.map (fun l => Claims.coreRow y (first l))) → Claims.Free t y w.rel w.scope.toNat →
        exec (.accq w) s = .next ((y.ownRows (ls.foldl (fun (u : State) l => y.quantiseRow fw (w.com.mod.getLsbD 0) (w.com.mod.getLsbD 1) bo u (Claims.coreRow y (first l)) (off l)) t) (ls.map (fun l => Claims.coreRow y (first l))) ls.length).advance y))) ∧
  (∀ fw ftz p n blk, fwAf fw = 2 → ∃ bs c, narrowBlock fw ftz p n blk = ([(p + 32 * n, bs)], c) ∧ bs.length = blk.length ∧ ∀ k < blk.length, (bs.getD k 0).toInt = max (-128) (min (blk.getD k 0).toInt 127)) ∧
  (∀ (y : Ctx) s rows cycles, y.ownRows s rows cycles = ({ s with nextId := s.nextId + 1 } : State).modCore y.g.core (fun c => { c with mops := c.mops ++ [{ id := s.nextId, wg := y.wg.key, rows := rows, doneAt := s.cycle + cycles }] }))

/-- An INT32 accumulator element gets the exact products of its row and column, wrapping or saturating by blocks (R98, R100, R97). -/
def Obligations.MatrixIntegerSums : Prop :=
  (∀ (w : W32) ftz ra sa cb sb acc, fwLegal w = true → fwAcc w = 2 → acc < 2 ^ 32 → ∀ (start : Nat) (prod : Nat → Int), start = (if fwZf w then 0 else acc) → (∀ k, prod k = Claims.intElem (fwAf w) ra k * Claims.intElem (fwBf w) cb k) →
    (fwSat w = false → ∃ r, dotBlocks w ftz ra sa cb sb acc = (r, {}) ∧ r < 2 ^ 32 ∧ ((2 ^ 32 : Nat) : Int) ∣ (r : Int) - ((start : Int) + ((List.range (Claims.intElems (fwAf w))).map prod).sum)) ∧
    (fwSat w = true → ∀ z n, (z, n) = Claims.clampSum (BitVec.ofNat 32 start).toInt ((List.range (Claims.intElems (fwAf w) / 32)).map (fun b => ((List.range 32).map (fun i => prod (32 * b + i))).sum)) →
      dotBlocks w ftz ra sa cb sb acc = ((BitVec.ofInt 32 z).toNat, { sat := n }))) ∧
  (∀ (c : Core) p (w : W32) ftz (j : RowJob), fwAcc w ≠ 1 → ∀ k, ∀ i < 128, mget 0 (mmaRow c p w ftz j).1.acc (128 * k + i) =
    if k = j.row then BitVec.ofNat 32 (dotBlocks w ftz (j.bytes.take 192) (j.bytes.drop 192) (p.cols.getD i []) (blockScales (fwBf w) (p.scales.getD i [])) (mget 0 c.acc (128 * k + i)).toNat).1
    else mget 0 c.acc (128 * k + i))

/-- Plane loads complete, passes start and operations retire as the queue and the clock allow (R241, R245, R247, R251, R257). -/
def Obligations.MatrixUnitActs : Prop :=
  (∀ s core arr p r b q, ((s.core core).array arr).queue = .load p r b :: q → exec (.planeLoadComplete core arr) s =
    .next (if r + 26 ≤ s.cycle then s.modArray core arr (fun a => ({ a with shadow := p, queue := a.queue.tail } : Arr).settle) else s)) ∧
  (∀ a : Arr, (a.queue = [] → a.settle = a) ∧ (∀ c q, a.queue = c :: q → (∀ r b, c = .swap r b → a.settle = ({ a with live := a.shadow, shadow := a.live, queue := q } : Arr).settle) ∧ ((∀ r b, c ≠ .swap r b) → a.settle = a))) ∧
  (∀ s core arr op at_ b q, ((s.core core).array arr).queue = .quarter op at_ b :: q →
    (s.cycle < at_ + 2 + 4 ∨ s.cycle < ((s.core core).array arr).busyUntil → exec (.passStart core arr) s = .next s) ∧
    (at_ + 2 + 4 ≤ s.cycle → ((s.core core).array arr).busyUntil ≤ s.cycle → ∀ m w z ftz, (s.core core).mops.find? (fun m => m.id == op) = some m → m.mma = some (w, z, ftz) →
      ∀ ops rest t rows, (ops, rest) = takeQuarters s.cycle (fwAf w) (s.core core).mops 32 (.quarter op at_ b :: q) → (t, rows) = ops.foldl (s.enterQuarter core arr (fwAf w) s.cycle) (s, 0) →
        exec (.passStart core arr) s = .next (t.modArray core arr (fun a => ({ a with queue := rest, busyUntil := s.cycle + (if fwAf w = 7 then 4 else if fwAf w = 8 then 8 else 1) * rows } : Arr).settle)))) ∧
  (∀ now af ms left op at_ b q m w z ftz, ms.find? (fun m : Mop => m.id == op) = some m → m.mma = some (w, z, ftz) →
    (now < at_ + 2 ∨ (fwAf w = af ∧ left < (m.quarters.headD []).length) → takeQuarters now af ms left (.quarter op at_ b :: q) = ([], .quarter op at_ b :: q)) ∧
    (at_ + 2 ≤ now → fwAf w ≠ af → ∀ r, r = takeQuarters now af ms left q → takeQuarters now af ms left (.quarter op at_ b :: q) = (r.1, .quarter op at_ b :: r.2)) ∧
    (at_ + 2 ≤ now → fwAf w = af → (m.quarters.headD []).length ≤ left → ∀ r, r = takeQuarters now af (ms.map (fun k => if k.id = op then { k with quarters := k.quarters.tail } else k)) (left - (m.quarters.headD []).length) q →
      takeQuarters now af ms left (.quarter op at_ b :: q) = (op :: r.1, r.2))) ∧
  (∀ now af ms left c q, (∀ o k b, c ≠ ArrCmd.quarter o k b) → takeQuarters now af ms left (c :: q) = ([], c :: q)) ∧
  (∀ s core op (m : Mop), m.mma.isSome = true → (s.core core).mops.find? (fun m => m.id == op && m.mma.isSome) = some m →
    exec (.mmaRetire core op) s = .next (if m.quarters = [] ∧ m.doneAt < s.cycle then s.retireMop core op m.wg else s)) ∧
  (∀ s core op (m : Mop), m.mma = none → (s.core core).mops.find? (fun m => m.id == op && m.mma.isNone) = some m →
    exec (.accumulatorOperationRetire core op) s = .next (if m.quarters = [] ∧ m.doneAt < s.cycle then s.retireMop core op m.wg else s)) ∧
  (∀ (s : State) core op wg, s.retireMop core op wg = (s.modCore core (fun c => { c with mops := c.mops.filter (fun m => m.id != op) })).wakeWhere (fun k _ sp => k == wg && sp.phase = .waiting && sp.why = .accRow))

/-- vsync waits for fresh view blocks, vchk tells of them lane by lane, vreq asks for them (R288, R290, R292, R293, R294, R295, R296). -/
def Obligations.ViewInstructions : Prop :=
  (∀ w s t y, Claims.Issues (.vsync w) w.com s t y → (y.real w.com = 0 → exec (.vsync w) s = .next (t.advance y)) ∧
    (y.real w.com ≠ 0 → ∀ l slot row n, l = lowestLane (y.real w.com) → slot = w.eimm.toNat % 16 → row = Claims.whole y l w.a false → n = Claims.whole y l w.b false →
      (y.gr.views.getD slot 0 = 0 → exec (.vsync w) s = .next (t.takeTrap y (Claims.viewCause l slot 1 0))) ∧
      (∀ v, Claims.SlotHolds y t slot v →
        (¬ Claims.RowsIn v row n → exec (.vsync w) s = .next (t.takeTrap y (Claims.viewCause l slot 2 0))) ∧
        (Claims.RowsIn v row n → Claims.NoFlits y t → ∀ ms, ms = (List.range v.count).filter (fun m => v.holds row n (v.block0 + m)) →
          (v.policy ≠ 1 → y.writesOpen t (.here v) ms = true → exec (.vsync w) s = .next (t.holdSplit y)) ∧
          (v.policy = 1 → exec (.vsync w) s = .next (y.waitOver t true)) ∧
          (y.writesOpen t (.here v) ms = false →
          (v.policy = 0 → (∃ m ∈ ms, ¬ Claims.FreshTag t v m ∧ ¬ Claims.FaultedTag t v m) → exec (.vsync w) s = .next (t.blockSplit y .parked .vsync (.view v.id))) ∧
          (v.policy = 0 → (∀ m ∈ ms, Claims.FreshTag t v m ∨ Claims.FaultedTag t v m) → ∀ m, Claims.Lowest ms (Claims.FaultedTag t v) m → exec (.vsync w) s = .next (t.takeTrap y (Claims.viewCause l slot 4 m))) ∧
          (v.policy = 2 → ∀ m, Claims.Lowest ms (Claims.FaultedTag t v) m → exec (.vsync w) s = .next (t.takeTrap y (Claims.viewCause l slot 4 m))) ∧
          (v.policy = 2 → (∀ m ∈ ms, ¬ Claims.FaultedTag t v m) → ∀ m, Claims.Lowest ms (fun k => ¬ Claims.FreshTag t v k) m → exec (.vsync w) s = .next (t.takeTrap y (Claims.viewCause l slot 3 m))) ∧
          ((∀ m ∈ ms, Claims.FreshTag t v m) → exec (.vsync w) s = .next (y.waitOver t true))))))) ∧
  (∀ w s t y, Claims.Issues (.vchk w) w.com s t y → (y.active w.com = 0 → exec (.vchk w) s = .next (t.advance y)) ∧
    (∀ slot v, slot = w.eimm.toNat % 16 → Claims.SlotHolds y t slot v →
      (∀ l ∈ lanesOf (y.real w.com), (∀ k ∈ lanesOf (y.real w.com), k < l → Claims.ElemIn v (Claims.whole y k w.a false) (Claims.whole y k w.b false)) → ¬ Claims.ElemIn v (Claims.whole y l w.a false) (Claims.whole y l w.b false) →
        exec (.vchk w) s = .next (t.takeTrap y (Claims.viewCause l slot 2 0))) ∧
      (y.active w.com ≠ 0 → (∀ l ∈ lanesOf (y.real w.com), Claims.ElemIn v (Claims.whole y l w.a false) (Claims.whole y l w.b false)) → Claims.NoFlits y t →
        ∃ f bit, exec (.vchk w) s = .next ((t.doneWith y f).acquire y true) ∧ (∀ l ∈ lanesOf (y.active w.com), bit l = true ↔ l ∈ lanesOf (y.real w.com) ∧
          Claims.FreshTag t v ((v.mbase + Claims.whole y l w.a false * v.mstride + Claims.whole y l w.b false * v.es) / 4096 - v.block0)) ∧
          ∀ g, Claims.PredGets w.d.index (y.active w.com) bit (fun _ => 0) g (f g)))) ∧
  (∀ w s t y, Claims.Issues (.vreq w) w.com s t y → (y.real w.com = 0 → exec (.vreq w) s = .next (t.advance y)) ∧
    (y.real w.com ≠ 0 → ∀ l slot v row n, l = lowestLane (y.real w.com) → slot = w.eimm.toNat % 16 → row = Claims.whole y l w.a false → n = Claims.whole y l w.b false → Claims.SlotHolds y t slot v →
      exec (.vreq w) s = .next (if n ≠ 0 ∧ v.row0 ≤ row ∧ row + n ≤ v.row0 + v.vrows then (t.requestBlocks v ((List.range v.count).filter (fun m => v.holds row n (v.block0 + m)))).advance y else t.takeTrap y (Claims.viewCause l slot 2 0))))

/-- The view blocks of rows are those that hold an element, and a request queues a master block once (R280, R281, R294, R296). -/
def Obligations.ViewBlocksAndQueues : Prop :=
  (∀ (v : View) row n m, 0 < v.mstride → v.cols * v.es ≤ v.mstride → v.colHi ≤ v.cols → v.colLo < v.colHi → 4096 % v.es = 0 → v.mbase % v.es = 0 → v.mstride % v.es = 0 →
    (m ∈ v.blocks row n ↔ m < v.count ∧ n ≠ 0 ∧ ∃ r c, row ≤ r ∧ r < row + n ∧ v.colLo ≤ c ∧ c < v.colHi ∧ (v.mbase + r * v.mstride + c * v.es) / 4096 = v.block0 + m)) ∧
  (∀ (s : State) (m : Master), m.queued = true → s.queueMaster m = s) ∧
  (∀ (s : State) (m : Master), m.queued = false → ∃ u, s.queueMaster m = u ∧ u = { s with masters := u.masters, prismQ := u.prismQ } ∧
    u.masters = s.masters.map (fun k => if k.pa = m.pa then { k with queued := true } else k) ∧
    ∀ e, mget [] u.prismQ e = if e = 4 * m.die + m.pa / 4096 % 4 then mget [] s.prismQ e ++ [m.pa] else mget [] s.prismQ e) ∧
  (∀ (s : State) v m ms, s.requestBlocks v [] = s ∧ s.requestBlocks v (m :: ms) = (match s.masterOf v m with | some k => s.queueMaster k | none => s).requestBlocks v ms)

/-- cpy, cpyr and cpyg check their descriptor and start a copy (R258, R266, R267, R268). -/
def Obligations.CopyInstructions : Prop :=
  ∀ i w op, (i = .cpy w ∧ op = 0x08 ∨ i = .cpyr w ∧ op = 0x09 ∨ i = .cpyg w ∧ op = 0x0A) → ∀ s t y, Claims.Issues i w.com s t y →
    (y.real w.com = 0 → exec i s = .next (t.advance y)) ∧
    (y.real w.com ≠ 0 → ∀ l, l = lowestLane (y.real w.com) →
      (y.g.grpid ≠ y.gr.k.producer → exec i s = .next (t.takeTrap y { cause := 0x09, lane := l })) ∧
      (y.g.grpid = y.gr.k.producer → ∀ p q r u b c, p = Claims.whole y l w.a true → Claims.LanesPass y t { spaces := [0, 2], width := 128, align := 128 } .rd [(l, p)] [q] → r = t.markLeaves [q] false → Claims.StoresAreHome y t → Claims.DescAt y r q u b →
        c = Copy.ofBytes u.nextId (.wg y.wg.key y.foc.grp) y.g.core y.gr.pasid p op w.acq w.rel w.scope.toNat b →
        (∀ cause sub v, c.fault b y.wg.clsize (windowBytes y.gr y.wg) y.win (decide (1 < y.wg.cores.length)) = some (cause, sub, v) → exec i s = .next (u.takeTrap y { cause := cause, sub := sub, lane := l, val := BitVec.ofNat 64 v })) ∧
        (c.fault b y.wg.clsize (windowBytes y.gr y.wg) y.win (decide (1 < y.wg.cores.length)) = none → 15 ≤ (Claims.copiesOf u y.wg.key).length → exec i s = .next (u.holdSplit y)) ∧
        (c.fault b y.wg.clsize (windowBytes y.gr y.wg) y.win (decide (1 < y.wg.cores.length)) = none → (Claims.copiesOf u y.wg.key).length < 15 → (∀ k ∈ Claims.copiesOf u y.wg.key, k.replay = false) → y.wg.phase ≠ .starting → (c.cmp = 1 → c.cptr / 2 ^ 60 = 2) →
          ∀ d v, d = { c with gtag := if c.cmp = 1 then (u.bar { wg := y.wg.key, win := y.wg.cores.findIdx (· == y.g.core), id := c.cptr % 2 ^ 21 / 16 }).gen else 0 } → v = ({ u with nextId := u.nextId + 1, copies := u.copies ++ [d] } : State) →
            exec i s = .next ((if op = 0x09 then v.scrWrite y.wg y.win c.stg (leBytes 64 0) else v).advance y))))

/-- A descriptor that passes its checks keeps the limits of its fields and every scratchpad byte in bounds (R260, R263, R268). -/
def Obligations.CopyDescriptorChecks : Prop :=
  ∀ (c : Copy) b clsize size own span,
    (c.reservedBad b = true → c.fault b clsize size own span = some (9, 1, 1)) ∧
    (c.reservedBad b = false → c.codeBad = true → c.fault b clsize size own span = some (9, 2, 2)) ∧
    (c.reservedBad b = false → c.codeBad = false → c.limitBad = true → c.fault b clsize size own span = some (9, 3, 3)) ∧
    (c.reservedBad b = false → c.codeBad = false → c.limitBad = false → ∀ f, c.spaceFault clsize = some f → c.fault b clsize size own span = some f ∧
      ∃ e ∈ c.pointers, (ptrFormed e.1 = false ∧ f = (6, 1, e.1)) ∨ (ptrSpace e.1 = 3 ∧ clsize ≤ e.1 / 2 ^ 56 % 16 ∧ f = (6, 2, e.1)) ∨ (ptrSpace e.1 ∉ e.2 ∧ f = (9, 4, 4))) ∧
    (c.reservedBad b = false → c.codeBad = false → c.limitBad = false → c.spaceFault clsize = none → c.alignBad = true → c.fault b clsize size own span = some (9, 5, 5)) ∧
    (c.fault b clsize size own span = none →
      c.dims < 3 ∧ c.esz ≤ 4 ∧ c.cmp < 3 ∧ (c.opf = 0x0A → c.dims = 1 ∧ c.idx ≠ 0) ∧ (c.opf = 0x09 → c.rop < 3 ∧ c.stg ≠ 0 ∧ c.stg % 256 = 0 ∧ 512 ≤ c.stgsz ∧ c.stgsz ≤ 65536) ∧
      1 ≤ c.n0 ∧ c.n0 ≤ 2 ^ 24 ∧ 1 ≤ c.n1 ∧ c.n1 ≤ 2 ^ 20 ∧ 1 ≤ c.n2 ∧ c.n2 ≤ 2 ^ 16 ∧ c.n0 * c.n1 * c.n2 ≤ 2 ^ 40 ∧
      c.src % 2 ^ c.esz = 0 ∧ c.dst % 2 ^ c.esz = 0 ∧ c.n0 % 2 ^ c.esz = 0 ∧ ((2 ^ c.esz : Nat) : Int) ∣ c.ss1 ∧ ((2 ^ c.esz : Nat) : Int) ∣ c.ds1 ∧
      (c.cmp = 1 → c.cptr % 16 = 0 ∧ c.cptr % 2 ^ 21 < 0x400) ∧ (c.cmp = 2 → c.cptr % 8 = 0) ∧
      (ptrSpace c.dst = 2 ∨ ptrSpace c.dst = 3 → ∀ p < c.n2, ∀ r < c.n1, ∀ k < c.n0, 0 ≤ Claims.rowByte c.dst c.ds1 c.ds2 p r k ∧ Claims.rowByte c.dst c.ds1 c.ds2 p r k < size ∧
        ((ptrSpace c.dst = 2 → own = 0) → (ptrSpace c.dst = 3 → span = true → c.dst / 2 ^ 56 % 16 = 0) → 0x400 ≤ Claims.rowByte c.dst c.ds1 c.ds2 p r k)) ∧
      (ptrSpace c.src = 2 ∨ ptrSpace c.src = 3 → c.opf ≠ 0x0A → ∀ p < c.n2, ∀ r < c.n1, ∀ k < c.n0, 0 ≤ Claims.rowByte c.src c.ss1 c.ss2 p r k ∧ Claims.rowByte c.src c.ss1 c.ss2 p r k < size))

/-- A copy moves its segments in order, counts each, and reports its end or its failure once (R263, R264, R267, R269, R270, R453, R454). -/
def Obligations.CopiesMoveAndEnd : Prop :=
  (∀ s id c, Claims.AtWork s id c → c.gathers = false → s.countDue c = false → c.moveDue = true → ∀ n src dst, n = Nat.min (c.n0 - c.moved % c.n0) (512 - (if c.cmp = 1 ∧ c.out = true then src else dst) % 512) →
    src = wrapNat 64 ((c.src : Int) + (c.moved / (c.n0 * c.n1) : Nat) * c.ss2 + (c.moved / c.n0 % c.n1 : Nat) * c.ss1 + (c.moved % c.n0 : Nat)) → dst = wrapNat 64 ((c.dst : Int) + (c.moved / (c.n0 * c.n1) : Nat) * c.ds2 + (c.moved / c.n0 % c.n1 : Nat) * c.ds1 + (c.moved % c.n0 : Nat)) →
    s.rowOk c src n = true → leaves c.src src n = none → leaves c.dst dst n = none → ∀ b t c1 u, s.engRead c src n = .ok b t → (c.lens && b.any Prod.snd) = false → t.engWrite c dst b = .ok c1 u →
      exec (.segmentCount id) s = .next ((u.dropFlits c.id).setCopy { c1 with moved := c.moved + n })) ∧
  (∀ (s : State) (c : Copy) key win p n w, c.owner = .wg key win → s.wg? key = some w → ptrSpace p = 2 → p % 4096 + n ≤ 4096 → 0 < n →
    s.engRead c p n = .ok ((s.scrRead w (w.cores.findIdx (· == c.core)) (p % 2 ^ 21) n).zipIdx.map (fun e => (e.1, s.scrPoisoned w (w.cores.findIdx (· == c.core)) (p % 2 ^ 21 + e.2) 1))) s) ∧
  (∀ s id c r, Claims.AtWork s id c → c.gathers = false → s.countDue c = true → s.copyBar c = some r →
    exec (.segmentCount id) s = .next ((s.barUpdate r (BarObj.bytes c.out c.gtag (c.segLen c.rep none))).setCopy { c with rep := c.rep + c.segLen c.rep none })) ∧
  (∀ s id c w win, s.copy? id = some c → s.copyStopped c = false → c.reduces = true → c.moved < c.total → c.staging s = some (w, win) → ∀ n src dst, n = Nat.min (c.n0 - c.moved % c.n0) ((c.stgsz - 64) / 2 ^ c.esz * 2 ^ c.esz) → src = c.srcAt c.moved none → dst = c.dstAt c.moved →
    leaves c.src src n = none → leaves c.dst dst n = none → ¬ (ptrSpace dst = 6 ∧ bitsOf dst 49 11 ≠ s.devnum) → ∀ b t ps, s.engRead c src n = .ok b t → t.engPlan c .wr (n / 4096 + 2) dst n = .ok ps →
      ∀ u d fl, (u, d, fl) = (t.scrWrite w win (c.stg + 64) (b.map Prod.fst)).applyElems c (2 ^ c.esz) (n / 2 ^ c.esz + ps.length + 1) ps b →
        exec (.cpyrChunkApply id) s = .next ((((u.dropFlits c.id).orRemote w.key fl).scrWrite w win c.stg (leBytes 8 (c.moved + n))).setCopy { d with moved := c.moved + n, applied := c.moved + n })) ∧
  (∀ s id c, s.copy? id = some c → s.copyStopped c = false → s.copyOver c = true →
    (c.cmp ≠ 2 → exec (.copyComplete id) s = .next (s.endCopy c)) ∧ (c.cmp = 2 → ∀ u, s.copyCount c c.cval = .ok () u → exec (.copyComplete id) s = .next (u.endCopy c))) ∧
  (∀ (s : State) (c : Copy) k g, c.owner = .wg k g → s.endCopy c = { s with copies := s.copies.filter (fun k => k.id != c.id), fabric := s.fabric.filter (fun f => f.copy != some c.id), l1 := s.l1.filter (fun k => k.core != engineBuffer c.id) }) ∧
  (∀ s id code fspc addr c, s.copy? id = some c → c.failed = none → code ≠ 0xA → ∀ c1 u, (s.dropFlits id).writeRecord c (c.record s code fspc addr.toNat 0) = .ok c1 u →
    exec (.copyFail id code fspc addr) s = .next (u.setCopy { c1 with failed := some (code, fspc, addr.toNat) })) ∧
  (∀ s id code fspc addr c w key g code1 fspc1 a1, s.copy? id = some c → c.owner = .wg key g → s.wg? key = some w → c.failed = some (code1, fspc1, a1) → s.copyVisible c = true → ∀ u, s.failTarget c = .ok () u →
    exec (.copyFail id code fspc addr) s = .next (let v := u.logRec { unit := dieOfCore c.core, code := 0x13, ten := w.ten, src := 2, uno := c.core, ctx := w.ctx, pasid := c.pasid, va := addr.toNat, aux := code1 + 256 * fspc1 }
      { v with fabric := v.fabric.filter (fun f => f.copy != some id), l1 := v.l1.filter (fun k => k.core != engineBuffer id), copies := v.copies.filter (fun k => k.id != id) })) ∧
  (∀ (s : State) (c : Copy) r, (c.cmp = 0 → s.failTarget c = .ok () s) ∧ (c.cmp = 1 → s.copyBar c = some r → s.failTarget c = .ok () (s.barUpdate r (fun o => o.fail 7))) ∧
    (c.cmp = 2 → ∀ u, s.copyCount c ((c.cval + 2 ^ 63) % 2 ^ 64) = .ok () u → s.failTarget c = .ok () u)) ∧
  (∀ (c : Copy) s code fspc addr fdet k, code < 256 → fspc < 256 → fdet < 256 → k < 32 → ((c.record s code fspc addr fdet).length = 32 ∧ ((c.record s code fspc addr fdet).getD k 0).toNat =
    if k = 0 then code else if k = 1 then fspc else if k = 2 ∨ k = 3 then Nat.min c.abandons 0xFFFF / 256 ^ (k - 2) % 256 else if k = 4 then fdet else if k < 8 then 0
    else if k < 16 then addr / 256 ^ (k - 8) % 256 else if k < 24 then c.rep / 256 ^ (k - 16) % 256 else s.clock (dieOfCore c.core) / 256 ^ (k - 24) % 256))

/-- syscall posts a request block after its release, and spawn gives a child its share of the weight (R232, R234). -/
def Obligations.SystemCallsAndSpawns : Prop :=
  (∀ w s t y, Claims.Issues (.syscall w) w.com s t y → (y.real w.com = 0 → exec (.syscall w) s = .next (t.advance y)) ∧
    (y.real w.com ≠ 0 → ∀ p, Claims.LanesPass y t { spaces := [0], width := 64, align := 64 } .rd [(lowestLane (y.real w.com), Claims.whole y (lowestLane (y.real w.com)) w.a true)] [p] → Claims.Free t y true 5 →
      exec (.syscall w) s = .next ((y.postCall (t.markLeaves [p] false) (Claims.whole y (lowestLane (y.real w.com)) w.a true)).advance y))) ∧
  (∀ (s : State) (y : Ctx) ptr n r, s.node? y.gr.node = some n → r = ({ id := s.nextId, ten := y.wg.ten, pasid := y.gr.pasid, ptr := ptr, root := (if n.root = 0 then 2 * y.gr.node else 2 * n.root + 1), ctx := y.wg.ctx, grid := y.gr.id, wg := y.wg.key, grp := y.foc.grp, queued := decide ((s.services.filter (fun q => q.ten == y.wg.ten && q.queued)).length < serviceRoom) } : SvcReq) →
    y.postCall s ptr = (let t : State := { s with nextId := s.nextId + 1, services := s.services ++ [r] }
      if r.queued then t else t.modSplit y.foc (fun sp => { sp with pend := sp.pend ++ [s.nextId] }))) ∧
  (∀ (s : State) id r, s.services.find? (fun q => q.id == id && !q.queued) = some r →
    exec (.syscallResend id) s = .next (if (s.services.filter (fun q => q.ten == r.ten && q.queued)).length < serviceRoom then ({ s with services := s.services.filter (fun q => q.id != id) ++ [{ r with queued := true }] } : State).settle r.wg r.grp id 0 else s)) ∧
  (∀ w s t y, Claims.Issues (.spawn w) w.com s t y → (y.real w.com = 0 → exec (.spawn w) s = .next (t.advance y)) ∧
    (y.real w.com ≠ 0 → ∀ p b bad v share, Claims.LanesPass y t { spaces := [0], width := 64, align := 64 } .rd [(lowestLane (y.real w.com), Claims.whole y (lowestLane (y.real w.com)) w.a true)] [p] → Claims.Free t y w.rel w.scope.toNat →
      y.descBytes t 64 p = (v, some (b, bad)) → share = Claims.whole y (lowestLane (y.real w.com)) w.b false → ∀ r u, y.spawnChild (v.markLeaves [p] false) share b bad = .ok r u →
        ∃ f, exec (.spawn w) s = .next (u.doneWith y f) ∧ ∀ g, Claims.SplitGets w.d (y.active w.com) (BitVec.ofNat 64 r) g (f g))) ∧
  (∀ (s : State) (y : Ctx) share b bad n r, s.node? y.gr.node = some n → s.roots.find? (fun k => k.id == n.root) = some r →
    (share = 0 ∨ n.weight ≤ share → y.spawnChild s share b bad = .ok 0xFFFFFFFF s) ∧
    (share ≠ 0 → share < n.weight → s.poolFull = true → y.spawnChild s share b bad = .ok 0xFFFFFFFE s) ∧
    (share ≠ 0 → share < n.weight → s.poolFull = false → ∀ num v, y.spawnChild s share b bad = .ok num v → num < 4096 ∧ s.nodes.all (fun k => k.num != num) = true ∧
      ∃ c, v.nodes = s.nodes.map (fun k => if k.num = n.num then { k with weight := k.weight - share } else k) ++ [c] ∧ c.num = num ∧ c.root = n.root ∧ c.weight = share ∧ ∀ p ∈ c.preds, ∃ k ∈ s.nodes, k.num = p ∧ k.root = n.root))

/-- The home of a line processes one message at a time and answers as the protocol says (R318, R319, R322, R323, R406, R458). -/
def Obligations.CoherenceAtHome : Prop :=
  (∀ s a ln m h, Claims.AtRest s ln h → s.arriving .gets a ln = some m → a ≠ 4 ∨ (s.line? 4 ln).isSome →
    (h.owner = none → h.sharers = [] → exec (.gets (.agent a) ln) s = .next (Claims.homeDoes (s.took m) { h with st := .e, owner := some a } [Claims.fromMem s a ln .e])) ∧
    (h.owner = none → h.sharers ≠ [] → exec (.gets (.agent a) ln) s = .next (Claims.homeDoes (s.took m) { h with st := .s, sharers := insertNat a h.sharers } [Claims.fromMem s a ln .s])) ∧
    (∀ o, h.owner = some o → o ≠ a → exec (.gets (.agent a) ln) s = .next (Claims.homeDoes (s.took m) { h with busy := some .fs, req := .gets, who := a, since := s.cycle } [{ kind := .fwds, agent := o, addr := ln, other := a }]))) ∧
  (∀ s a ln m h i, Claims.AtRest s ln h → (i = .getm (.agent a) ln ∧ s.arriving .getm a ln = some m ∧ (a ≠ 4 ∨ (s.line? 4 ln).isSome)) ∨ (i = .upg a ln ∧ s.arriving .upg a ln = some m ∧ h.owner ≠ some a ∧ h.sharers.contains a = false) →
    ∀ others, others = h.sharers.filter (· != a) →
    (others = [] → h.owner = none → exec i s = .next (Claims.homeDoes (s.took m) { h with st := .m, owner := some a, sharers := [], acks := [] } [Claims.fromMem s a ln .m])) ∧
    (∀ o, others = [] → h.owner = some o → o ≠ a → exec i s = .next (Claims.homeDoes (s.took m) { h with busy := some .fm, req := .getm, who := a, since := s.cycle, sharers := [], acks := [] } [{ kind := .fwdm, agent := o, addr := ln, other := a }])) ∧
    (others ≠ [] → exec i s = .next (Claims.homeDoes (s.took m) { h with busy := some .inv, req := .getm, who := a, acks := others, since := s.cycle } (others.map (fun o => { kind := .inv, agent := o, addr := ln, other := a }))))) ∧
  (∀ s a ln m h, Claims.AtRest s ln h → s.arriving .upg a ln = some m → (h.owner = some a ∨ (h.owner = none ∧ h.sharers.contains a = true)) → ∀ others, others = h.sharers.filter (· != a) →
    exec (.upg a ln) s = .next (if others = [] then Claims.homeDoes (s.took m) { h with st := .m, owner := some a, sharers := [], acks := [] } [{ kind := .grant, agent := a, addr := ln }]
      else Claims.homeDoes (s.took m) { h with busy := some .inv, req := .upg, who := a, acks := others, since := s.cycle } (others.map (fun o => { kind := .inv, agent := o, addr := ln, other := a })))) ∧
  (∀ s a ln m h k i, Claims.AtRest s ln h → (k, i) ∈ [(MsgKind.putm, Instr.putm a ln), (.puto, .puto a ln), (.pute, .pute a ln)] → s.arriving k a ln = some m → (∀ l, s.line? a ln = some l → l.st = .miA ∨ l.st = .iiA) →
    (h.owner = some a → (∀ l, s.line? a ln = some l → s.linePassed l = true) → exec i s = .next (Claims.homeDoes (if k = .pute then s.took m else (s.took m).rawWrite (128 * ln) m.bytes) { h with owner := none, st := if h.sharers = [] then .i else .s } [{ kind := .putack, agent := a, addr := ln }])) ∧
    (h.owner ≠ some a → exec i s = .next (Claims.homeDoes (s.took m) h [{ kind := .putstale, agent := a, addr := ln }]))) ∧
  (∀ s a ln m k i, ((k, i) ∈ [(MsgKind.gets, Instr.gets (.agent a) ln), (.getm, .getm (.agent a) ln)] ∧ (a ≠ 4 ∨ (s.line? 4 ln).isSome)) ∨ (k = .upg ∧ i = .upg a ln) ∨ ((k, i) ∈ [(MsgKind.putm, Instr.putm a ln), (.puto, .puto a ln), (.pute, .pute a ln)] ∧ ∀ l, s.line? a ln = some l → l.st = .miA ∨ l.st = .iiA) →
    s.arriving k a ln = some m → (s.home ln).busy ≠ none → exec i s = .next ((s.took m).setHome { s.home ln with queue := (s.home ln).queue ++ [m] })) ∧
  (∀ s a ln m h, s.home ln = h → s.arriving .invack a ln = some m → h.busy = some .inv → h.acks.contains a = true →
    (h.acks.filter (· != a) ≠ [] → exec (.invack a ln) s = .next ((s.took m).setHome { h with acks := h.acks.filter (· != a) })) ∧
    (h.acks.filter (· != a) = [] → h.owner = none → exec (.invack a ln) s = .next (Claims.homeDoes (s.took m) { h with busy := none, st := .m, owner := some h.who, sharers := [], acks := [] } [if h.req = .upg then { kind := .grant, agent := h.who, addr := ln } else Claims.fromMem s h.who ln .m]))) ∧
  (∀ s a ln m h, s.home ln = h → s.arriving .done a ln = some m → h.who = a →
    (h.busy = some .fs → exec (.done a ln) s = .next ((s.took m).setHome { h with busy := none, st := .o, sharers := insertNat a h.sharers })) ∧
    (h.busy = some .fm → exec (.done a ln) s = .next ((s.took m).setHome { h with busy := none, st := .m, owner := some a, sharers := [] }))) ∧
  (∀ s ln h, s.home ln = h → h.since + 2 ^ 20 ≤ s.cycle →
    (h.busy = some .inv → ∀ v : State, v = s.logTimeout ln 1 → exec (.homeRequestTimeout ln) s = .next (({ v with lines := v.lines.filter (fun l => !(l.addr == ln && h.acks.contains l.agent)), msgs := v.msgs.filter (fun m => !(m.addr == ln && h.acks.contains m.agent && (m.kind == .inv || m.kind == .invack))) } : State).ownNow { h with acks := [] } h.req h.who)) ∧
    (∀ o v, h.busy = some .fs → h.owner = some o → v = (s.logTimeout ln 3).removeOwner o ln →
      exec (.homeRequestTimeout ln) s = .next ((({ v with msgs := v.msgs.filter (fun m => !(m.agent == h.who && m.addr == ln && (m.kind == .data || m.kind == .done))) } : State).setHome { h with busy := none, st := .s, owner := none, sharers := insertNat h.who h.sharers }).post (Claims.fromMem v h.who ln .s)))) ∧
  (∀ (s : State) ln aux, s.logTimeout ln aux = s.logRec { unit := if s.computeSide (128 * ln) then homeDie (128 * ln) else 4, code := 0x42, sev := 2, ten := s.tenAt (128 * ln), src := 6, pa := 128 * ln, aux := aux }) ∧
  (∀ (s : State) o ln l, s.line? o ln = some l → (l.st = .m ∨ l.st = .o) → s.removeOwner o ln = (({ s with lines := s.lines.filter (fun k => !(k.agent == o && k.addr == ln)), msgs := s.msgs.filter (fun m => !(m.agent == o && m.addr == ln)) } : State).poisonSectors (128 * ln) 128)) ∧
  (∀ s a, exec (.linkRetryExhausted a) s = .next { s with deadLinks := insertNat a s.deadLinks }) ∧
  (∀ (s : State) k a ln, a ∈ s.deadLinks → s.arriving k a ln = none) ∧
  (∀ (s : State) (c : HartAcc) n u, n = hartLen c.op → u = s.modHart c.hart (fun k => { k with guest := c.guest }) → c.hart < 32 → c.pa % 128 + n ≤ 128 →
    (∀ t, u.hartRefused c.guest c.pa n = some t → ∀ e : LogRec, e = { unit := 4, code := 0x41, ten := t, src := 12, uno := c.hart, pa := c.pa } →
      (∀ k, c.op = .load k → exec (.gets (.hart c) (c.pa / 128)) s = .next ((u.logRec e).giveHart c.hart (.poisoned n))) ∧
      (∀ b, c.op = .store b → exec (.getm (.hart c) (c.pa / 128)) s = .next (u.logRec { e with aux := 1 }))) ∧
    (∀ l, u.hartRefused c.guest c.pa n = none → u.line? 4 (c.pa / 128) = some l → l.st.stable = true → u.computeSide c.pa = false → u.homeMoves c.pa = false →
      (∀ k, c.op = .load k → u.poisoned c.pa n = false → exec (.gets (.hart c) (c.pa / 128)) s = .next (u.giveHart c.hart (.data (u.lineNow true c.pa n)))) ∧
      (∀ b, c.op = .store b → l.st = .m → exec (.getm (.hart c) (c.pa / 128)) s = .next (u.hubDo c.pa b .write)))) ∧
  (∀ (s : State) g pa n t, s.hartRefused g pa n = some t → ∃ e b, (t, e) ∈ s.tens ∧ b ∈ e.carve ∧ b.1 < pa + n ∧ pa < b.1 + b.2 ∧ (e.st = 0 ∨ g ≠ some e.vmid))

/-- An agent answers forwards and invalidations when leases and writes of its line have passed (R318, R320, R321, R322, R323). -/
def Obligations.CoherenceAtAgents : Prop :=
  (∀ s a ln m, s.arriving .inv a ln = some m → ∀ ack, ack = ({ kind := .invack, agent := a, addr := ln } : Msg) →
    (s.line? a ln = none → exec (.inv a ln) s = .next ((s.took m).post ack)) ∧
    (∀ l, s.line? a ln = some l → l.data ≠ [] → s.linePassed l = false → exec (.inv a ln) s = .next ((if l.leaving then s else s.setLine { l with leaving := true }).noted m)) ∧
    (∀ l, s.line? a ln = some l → l.data ≠ [] → s.linePassed l = true → exec (.inv a ln) s = .next ((
      (if l.st = .smA ∨ l.st = .omA then s.setLine { agent := a, addr := ln, st := .imAD, data := [], ten := l.ten } else if l.st = .miA then s.setLine { agent := a, addr := ln, st := .iiA, data := [], ten := l.ten } else s.dropLine a ln).took m).post ack))) ∧
  (∀ s a ln m l, s.arriving .fwds a ln = some m → s.line? a ln = some l → l.data ≠ [] →
    (s.linePassed l = false → exec (.fwds a ln) s = .next ((if l.leaving then s else s.setLine { l with leaving := true }).noted m)) ∧
    (s.linePassed l = true → exec (.fwds a ln) s = .next (((s.took m).setLine { l with st := if l.st = .m ∨ l.st = .e then .o else l.st, data := l.latest, writes := [], leaving := false }).post { kind := .data, agent := m.other, addr := ln, other := 1, bytes := l.latest, give := .s }))) ∧
  (∀ s a ln m l, s.arriving .fwdm a ln = some m → s.line? a ln = some l → l.data ≠ [] →
    (s.linePassed l = false → exec (.fwdm a ln) s = .next ((if l.leaving then s else s.setLine { l with leaving := true }).noted m)) ∧
    (s.linePassed l = true → exec (.fwdm a ln) s = .next ((
      (if l.st = .smA ∨ l.st = .omA then (s.took m).setLine { agent := a, addr := ln, st := .imAD, data := [], ten := l.ten } else if l.st = .miA then (s.took m).setLine { agent := a, addr := ln, st := .iiA, data := [], ten := l.ten } else (s.took m).dropLine a ln)).post
        { kind := .data, agent := m.other, addr := ln, other := 1, bytes := l.latest, give := .m }))) ∧
  (∀ (s : State) l, s.linePassed l = true ↔ 4 ≤ l.agent ∨ (s.passed l.agent l.rts = true ∧ s.passed l.agent l.wts = true)) ∧
  (∀ l : Line, l.leaving = true → l.serves = false) ∧
  (∀ (s : State) m, s.noted m = if m.here then s else { s with msgs := s.msgs.map (fun x => if x = m then { x with here := true } else x) }) ∧
  (∀ s a ln m l, s.arriving .data a ln = some m → s.line? a ln = some l → ∀ fin, fin = ({ kind := .done, agent := a, addr := ln } : Msg) →
    (l.st = .isD → m.give = .e → exec (.data a ln) s = .next (((s.took m).lineEnters l .e m.bytes).serveAsks a ln)) ∧
    (l.st = .isD → m.give = .s → exec (.data a ln) s = .next (if m.other = 1 then (((s.took m).lineEnters l .s m.bytes).serveAsks a ln).post fin else ((s.took m).lineEnters l .s m.bytes).serveAsks a ln)) ∧
    (l.st = .imAD → exec (.data a ln) s = .next (((((s.took m).lineEnters l .m m.bytes).applyPending a ln).serveAsks a ln).post fin))) ∧
  (∀ (s : State) l st b, s.lineEnters l st b = s.setLine { agent := l.agent, addr := l.addr, st := st, data := b, wts := s.clock l.agent, rts := s.clock l.agent, ten := l.ten, asks := l.asks }) ∧
  (∀ (s : State) a ln l, s.line? a ln = some l → ∀ u, u = s.setLine { l with asks := [] } → (l.asks = [] → s.serveAsks a ln = u) ∧ (∀ who lease, l.asks = [(who, lease)] → s.serveAsks a ln = (u.l2Load a l.ten who lease ln).getD u)) ∧
  (∀ s a ln m l, s.arriving .grant a ln = some m → s.line? a ln = some l → exec (.grant a ln) s = .next ((((s.took m).setLine { l with st := .m, leaving := false, used := false }).applyPending a ln).serveAsks a ln)) ∧
  (∀ (s : State) a ln q, s.storeQ = [q] → q.die = a → s.forwarded q.pa / 128 = ln → s.applyPending a ln = s.l2Store q) ∧
  (∀ s a ln m, (s.arriving .putack a ln = some m → exec (.putack a ln) s = .next ((s.took m).dropLine a ln)) ∧ (s.arriving .putstale a ln = some m → exec (.putstale a ln) s = .next ((s.took m).dropLine a ln))) ∧
  (∀ s a ln l, s.line? a ln = some l → l.leaving = false → ∀ i k st, (i, k, st) ∈ [(Instr.putm a ln, MsgKind.putm, LineSt.m), (.puto a ln, .puto, .o), (.pute a ln, .pute, .e)] → l.st = st →
    exec i s = .next ((s.setLine { l with st := .miA }).post { kind := k, agent := a, addr := ln, bytes := if k = .pute then [] else l.latest }))

/-- Ownership moves, clocks tick, and what arrives from elsewhere is applied (R77, R78, R324, R14, R193, R390, R332, R480, R446, R395, R392, R51). -/
def Obligations.RegionsAndArrivals : Prop :=
  (∀ s r, (s.region r).moving = false → exec (.ownershipTransfer r) s = .next (s.modRegion r (fun k => if k.holdUntil ≠ 0 then { k with wanted := true } else { k with moving := true, began := s.cycle, wanted := false }))) ∧
  (∀ s r, (s.region r).moving = true → s.recalled r = true → ∀ v : State, v = (s.lines.filter (fun l => lineIn r l.addr && l.st.owns)).foldl (fun (s : State) l => s.rawWrite (128 * l.addr) l.latest) s →
    (s.storeQ.all (fun q => hbmRegion (s.forwarded q.pa) != r)) = true → exec (.transferComplete r) s = .next (({ v with lines := s.lines.filter (fun l => !lineIn r l.addr), homes := s.homes.filter (fun h => !lineIn r h.addr), l1 := s.l1.filter (fun c => !lineIn r c.addr) } : State).modRegion r (fun k => { compute := !k.compute, holdUntil := s.cycle + 4096 }))) ∧
  (∀ (s : State) r l, s.recalled r = true → l ∈ s.lines → lineIn r l.addr = true → s.linePassed l = true ∧ (s.home l.addr).busy = none) ∧
  (∀ s r, exec (.ownershipHoldExpires r) s = .next (if (s.region r).holdUntil ≠ 0 ∧ (s.region r).holdUntil ≤ s.cycle then s.modRegion r (fun k => { k with holdUntil := 0 }) else s)) ∧
  (∀ s d, d < 4 → exec (.leaseClockTick d) s = .next ((({ s with clocks := s.clocks.modify d (fun t => (t + 1) % 2 ^ 48) } : State).passStores d).ackOwn)) ∧
  (∀ (s : State) d, (∀ q ∈ s.storeQ, q.die = d → q.vis = none) → s.passStores d = s) ∧
  (∀ s, s.posted = [] → exec (.leaseClockTick 4) s = .next ({ s with clocks := s.clocks.modify 4 (fun t => (t + 1) % 2 ^ 48), agenda := s.agenda ++ s.waiting, waiting := [] })) ∧
  (∀ (s : State), (∀ f ∈ s.fabric, f.vis = none) → s.inbound = [] → s.ackOwn = s) ∧
  (∀ s id c r, s.icreqs.find? (fun r => r.id == id) = some r → r.left.contains c = true → ∀ v : State, v = { s with icache := s.icache.map (fun b => if b.core = c ∧ b.addr = r.addr then { b with stale := some s.cycle, known := none } else b) } →
    (r.left.filter (· != c) ≠ [] → exec (.icinvAck id c) s = .next { v with icreqs := s.icreqs.map (fun q => if q.id = id then { q with left := r.left.filter (· != c) } else q) }) ∧
    (r.left.filter (· != c) = [] → exec (.icinvAck id c) s = .next (s.wgs.foldl (fun (s : State) w => (List.range w.groups.length).foldl (fun (s : State) gi => s.settle w.key gi id ((v.clock r.die) + 1)) s) { v with icreqs := s.icreqs.filter (fun q => q.id != id), icache := v.icache.map (fun b => if b.addr = r.addr ∧ b.stale.isSome then { b with known := some s.cycle } else b) }))) ∧
  (∀ s key ch w, s.wg? key = some w → exec (.completionWindowRetest key ch) s = .next (if s.windowReady w ch then s.wakeWhere (fun k _ sp => k == key && sp.phase = .parked && sp.blk = .chan ch) else s)) ∧
  (∀ s key ch w, s.wg? key = some w → exec (.submissionFullRetest key ch) s = .next (if (w.chan ch).kind = 3 then (s.modChan key ch (fun c => { c with known := false })).wakeChan key ch else if s.windowRoom w ch then s.wakeWhere (fun k _ sp => k == key && sp.phase = .parked && sp.blk = .chan ch) else s)) ∧
  (∀ s n p, s.proxy[n]? = some p → s.passed p.die p.vis = true → p.pend = [] → (∀ q ∈ s.proxy.take n, q.addr ≠ p.addr) → s.bellLost p.addr = false → exec (.doorbellWriteOut n) s = .next { s with proxy := s.proxy.eraseIdx n, doorbells := (p.addr, p.value) :: s.doorbells }) ∧
  (∀ s id, exec (.flitRejectReplay id) s = .next s) ∧
  (∀ s id ans f, s.fabric.find? (fun f => f.id == id && f.vis.isNone) = some f →
    (f.posted = true → ans = .retry → exec (.space6Ack id ans) s = .next (s.holdContrib f)) ∧
    (f.posted = false → ans = .retry → exec (.space6Ack id ans) s = .next (({ s with fabric := s.fabric.map (fun g => if g.id = id ∧ g.ans.isNone then { g with ans := some (.ok [] 0), rejected := true } else g) } : State).wakeCounter (fun r => r == .peer f.ptr))) ∧
    (f.posted = false → ans ≠ .retry → exec (.space6Ack id ans) s = .next (({ s with fabric := s.fabric.map (fun g => if g.id = id ∧ g.ans.isNone then { g with ans := some ans } else g) } : State).wakeCounter (fun r => r == .peer f.ptr))) ∧
    (f.posted = true → f.chan = none → ∀ b, ans = .ok b 0 → ∀ v, v = ({ s with fabric := s.fabric.filter (fun g => g.id != id) } : State).settle f.wg f.grp id 0 → exec (.space6Ack id ans) s = .next (v.orRemote f.wg 0))) ∧
  (∀ s id f, s.fabric.find? (fun f => f.id == id && f.posted && f.vis.isNone) = some f → exec (.space6StoreLost id) s = .next (if s.unreachable (bitsOf f.ptr 49 11) ∧ f.since + 2 ^ 24 ≤ s.cycle then
    (({ s with fabric := s.fabric.filter (fun g => g.id != id) } : State).settle f.wg f.grp id 0).logRec { unit := 4, code := 0x58, sev := 2, src := 6, aux := 256 * bitsOf f.ptr 49 11 } else s)) ∧
  (∀ s src off op, (s.window? src off = none → exec (.space6AccessArrival src (fabricLane off) off op) s = .next (s.answerPeer src .noWindow)) ∧
    (∀ w, s.window? src off = some w → w.permits (peerNeed op) = false → exec (.space6AccessArrival src (fabricLane off) off op) s = .next (s.answerPeer src .noPerm)) ∧
    (∀ w pa at_ mt, s.window? src off = some w → w.permits (peerNeed op) = true → s.demand srcWindow w.pasid (w.va + (off - w.base)) (peerNeed op) = .ok pa at_ mt → paKind pa ≠ .reg → ∀ v, v = s.markPte at_ (peerNeed op != .rd) →
      (∀ n, op = .load n → v.homeMoves (v.forwarded pa) = false → v.poisoned pa n = false → exec (.space6AccessArrival src (fabricLane off) off op) s = .next (v.answerPeer src (.ok (v.cohRead pa n) 0))) ∧
      (∀ b u vis, op = .store b → v.cohWrite pa (v.programBytes pa (v.cohLatest pa b.length) b) = (u, vis) → exec (.space6AccessArrival src (fabricLane off) off op) s = .next { u with inbound := u.inbound ++ [{ src := src, vis := vis, ans := .ok [] 0 }] }))) ∧
  (∀ s src key loff word w gr c, s.wg? key = some w → s.grid? w.grid = some gr → c < 16 → (w.chan c).v = true → (w.chan c).kind = 3 → s.chanRing gr (w.chan c) = loff → ringHeld s w loff < ringCap s w loff → (∀ d < 16, d ≠ c → (w.chan d).v = false) →
    exec (.mailboxWordArrival src key loff word) s = .next ((s.ringPush w loff [word]).wakeChan key c)) ∧
  (∀ (s : State) (m : Msi) e, e = (mget 0 s.iat (m.data.toNat % 4096)).toNat → s.fnCut m.rid = false → ∀ i, i ∈ [Instr.iatBarrierArrival m, .iatCounterAdd m, .iatKernelInterrupt m] →
    (s.msiReason m ≠ 0 → exec i s = .next (s.logRec { unit := 4, code := 0x5C, src := 10, aux := m.rid % 2 ^ 16 + 2 ^ 16 * s.msiReason m + 2 ^ 20 * (m.data.toNat % 4096) })) ∧
    (s.msiReason m = 0 → s.waiting = [] → s.allPassed (mget [] s.portVis m.port) = true →
      (iatBad e = true → exec i s = .next (s.iatDrop (m.data.toNat % 4096) e)) ∧
      (iatBad e = false → iatKind e = 2 → exec (.iatKernelInterrupt m) s = .next { s with irqs := s.irqs ++ [iatVal e] }) ∧
      (∀ nd pa at_ mt, s.demand srcIat (iatPasid e) (iatVa e) nd = .ok pa at_ mt → paKind pa ≠ .reg → s.homeMoves pa = false → s.poisoned pa 8 = false → iatBad e = false → ∀ v, v = s.markPte at_ (nd == .wr) →
        (nd = .wr → iatKind e = 1 → exec (.iatCounterAdd m) s = .next (if v.ordered.contains (.iatCounterAdd m) then (({ v with ordered := v.ordered.erase (.iatCounterAdd m) } : State).update none pa 8 (.add (iatVal e))).1
          else { v with agenda := .nondeterministicEvent (v.arrivalDie pa) 1 (m.data.toNat % 4096) (iatVa e) (.iatCounterAdd m) :: v.agenda })) ∧
        (nd = .rd → iatKind e = 0 → ∀ t, t = leNat (v.cohRead pa 8) →
          (bitOf t 63 = false ∨ bitsOf t 26 37 ≠ 0 ∨ v.wgs.find? (fun w => w.ten == iatTen e && w.ctx == bitsOf t 0 20) = none → exec (.iatBarrierArrival m) s = .next (v.iatDrop (m.data.toNat % 4096) e)) ∧
          (∀ w, bitOf t 63 = true → bitsOf t 26 37 = 0 → v.wgs.find? (fun w => w.ten == iatTen e && w.ctx == bitsOf t 0 20) = some w → (∀ c < 16, (w.chan c).v = false) →
            exec (.iatBarrierArrival m) s = .next (if v.ordered.contains (.iatBarrierArrival m) then ({ v with ordered := v.ordered.erase (.iatBarrierArrival m) } : State).barUpdate { wg := w.key, win := 0, id := bitsOf t 20 6 } (BarObj.arrive (iatVal e) 2)
              else { v with agenda := .nondeterministicEvent (dieOfCore (w.cores.getD 0 0)) 1 (m.data.toNat % 4096) (iatVa e) (.iatBarrierArrival m) :: v.agenda })))))) ∧
  (∀ s key w, s.wg? key = some w → w.phase = .saved →
    (∀ b n, exec (.imageUpdate key (.arrive b n)) s = .next (s.barUpdate { wg := key, win := 0, id := b } (BarObj.arrive n 2))) ∧
    (∀ b tag out n, exec (.imageUpdate key (.bytes b tag out n)) s = .next (s.barUpdate { wg := key, win := 0, id := b } (BarObj.bytes out tag n))) ∧
    (∀ win off b, exec (.imageUpdate key (.store win off b)) s = .next (s.scrWrite w win off b)) ∧
    (∀ win off v, exec (.imageUpdate key (.count win off v)) s = .next (s.scrWrite w win off (leBytes 8 ((leNat (s.scrRead w win off 8) + v.toNat) % 2 ^ 64)))))

/-- The QFE takes the packets of a queue in order and hands their effects to slots (R337, R338, R339, R340, R341, R345, R346, R352, R355, R466). -/
def Obligations.QueuePackets : Prop :=
  (∀ s q (v : W64) k n, s.queue q = k → n = v.toNat % 2 ^ 32 → q < 256 → k.st = 1 → (s.qfeCore (q / 64)).stopped = false → (s.qfeCore (q / 64)).restart = none →
    exec (.queueDoorbell q v) s = .next (if n = k.rdidx then s else if (n + 2 ^ 32 - k.rdidx) % 2 ^ 32 > 2 ^ k.log2depth then s.queueError q 1 else s.modQueue q (fun k => { k with rung := n }))) ∧
  (∀ (s : State) q c, (s.queueError q c).queue q = { s.queue q with st := 2, err := c, erridx := (s.queue q).rdidx }) ∧
  (∀ s q t b op num, s.nextPacket q = .ok b t → op = fieldAt b 0 1 →
    (op = 1 → zeroBytes b 0x18 40 = true → ∀ u, t.counterAt (s.queue q).pasid (fieldAt b 8 8) .wr = .ok () u →
      exec (.signal q) s = .next (u.command q 1 (.signal q (fieldAt b 8 8) (BitVec.ofNat 64 (fieldAt b 0x10 8)) (bitOf (fieldAt b 1 1) 1) u.qfeVis))) ∧
    (op = 2 → (s.queue q).waddr = 0 → zeroBytes b 0x18 40 = true → ∀ u, t.counterAt (s.queue q).pasid (fieldAt b 8 8) .rd = .ok () u →
      exec (.wait q) s = .next (if fieldAt b 0x10 8 ≤ u.counterNow (s.queue q).pasid (fieldAt b 8 8) then u.command q 2 (.waitEnd q)
        else (u.tookPacket q 2).setQueue q (fun k => { k with waddr := fieldAt b 8 8, wtgt := fieldAt b 0x10 8 }))) ∧
    (op = 2 → (s.queue q).waddr ≠ 0 → ∀ u, t.counterAt (s.queue q).pasid (s.queue q).waddr .rd = .ok () u →
      exec (.waitMet q) s = .next (if (s.queue q).wtgt ≤ u.counterNow (s.queue q).pasid (s.queue q).waddr then u.command q 2 (.waitEnd q) else s)) ∧
    (op = 0 → zeroBytes b 8 56 = true → exec (.nopPacket q) s = .next ((t.tookPacket q 0).setQueue q (fun k => { k with rdidx := (k.rdidx + 1) % 2 ^ 32, back := mset 0 k.back (k.rdidx % 64) 0, waddr := 0, wtgt := 0 }))) ∧
    (∀ i, (op, i) ∈ [(3, Instr.copy q num), (4, .view q num), (5, .spawnRoot q num), (6, .launch q num)] → ∀ u n, t.parsePacket (s.queue q).ten (s.queue q).pasid (s.queue q).prio false b = .done u n →
      exec i s = .next (u.command q op (.node q { n with num := num, q := some (q, (s.queue q).rdidx), weight := if op = 5 then 2 ^ 32 else 0 }))) ∧
    (op = 0 → zeroBytes b 8 56 = false → exec (.nopPacket q) s = .next (t.queueError q 4)) ∧ (zeroBytes b 0x18 40 = false → (op = 1 → exec (.signal q) s = .next (t.queueError q 4)) ∧ (op = 2 → (s.queue q).waddr = 0 → exec (.wait q) s = .next (t.queueError q 4))) ∧
    (op = 1 → zeroBytes b 0x18 40 = true → ∀ c a u, t.counterAt (s.queue q).pasid (fieldAt b 8 8) .wr = .fail c a u → exec (.signal q) s = .next (u.queueError q c))) ∧
  (∀ (s : State) pasid va k, va % 8 ≠ 0 → s.counterAt pasid va k = .fail 6 va s) ∧
  (∀ s q c t num, s.nextPacket q = .bad c t → ∀ i ∈ [Instr.signal q, .wait q, .waitMet q, .nopPacket q, .copy q num, .view q num, .spawnRoot q num, .launch q num], exec i s = .next (t.queueError q c)) ∧
  (∀ s q num, s.nextPacket q = .idle → ∀ i ∈ [Instr.signal q, .wait q, .waitMet q, .nopPacket q, .copy q num, .view q num, .spawnRoot q num, .launch q num], exec i s = .next s) ∧
  (∀ (s : State) q b t, s.queueOpen q = true → s.qfeRead (s.queue q).pasid (s.queue q).packetAt 64 = .ok b t →
    (7 ≤ fieldAt b 0 1 → fieldAt b 0 1 < 16 → fieldAt b 1 1 < 2 → fieldAt b 2 2 = 0 → s.nextPacket q = .bad 2 t) ∧
    (16 ≤ fieldAt b 0 1 ∨ 4 ≤ fieldAt b 1 1 ∨ fieldAt b 2 2 ≠ 0 → s.nextPacket q = .bad 4 t) ∧
    (headerBad b = 0 → (fieldAt b 1 1 % 2 = 1 ∧ (s.queue q).nout ≠ 0) ∨ (3 ≤ fieldAt b 0 1 ∧ s.poolFull = true) ∨ (s.qfeCore (q / 64)).mayTake (q % 64) (fieldAt b 0 1) s.cycle = false → s.nextPacket q = .idle) ∧
    (headerBad b = 0 → (fieldAt b 1 1 % 2 = 0 ∨ (s.queue q).nout = 0) → (fieldAt b 0 1 < 3 ∨ s.poolFull = false) → (s.qfeCore (q / 64)).mayTake (q % 64) (fieldAt b 0 1) s.cycle = true → s.nextPacket q = .ok b t)) ∧
  (∀ (c : QfeCore) lane op now, (c.ends ≤ now → c.mayTake lane op now = true) ∧ (now < c.ends → c.ends ≠ now + 16 → c.mayTake lane op now = false)) ∧
  (∀ (s : State) q c, q < 256 → s.queueOpen q = true → (s.queue q).st = 1 ∧ (s.queue q).rdidx ≠ (s.queue q).rung ∧ ((s.qfeCore (q / 64)).slots.contains (.waitEnd q) = false) ∧ (c = .waitEnd q → ∀ u, u = s.command q 2 c → (.waitEnd q) ∈ (u.qfeCore (q / 64)).slots)) ∧
  (∀ s c k r v, (s.qfeCore c).slots = k :: r → s.slotAdvance c 0 ≠ s → v = s.modQfe c (fun f => { f with slots := r }) →
    (∀ q a x old u vis, k = .signal q a x false old → s.allPassed old = true → v.vupdate (s.queue q).pasid a 8 .wr (.add x.toNat) = some (u, vis) → exec (.dispatchSlotCommand ⟨c, q⟩) s = .next ((u.qfeKeep vis).setQueue q (fun k => { k with rdidx := (k.rdidx + 1) % 2 ^ 32, back := mset 0 k.back (k.rdidx % 64) 0, waddr := 0, wtgt := 0 }))) ∧
    (∀ q a x old u vis, k = .signal q a x true old → s.allPassed old = true → v.vwrite (s.queue q).pasid a (leBytes 8 x.toNat) = (u, vis, true) → exec (.dispatchSlotCommand ⟨c, q⟩) s = .next ((u.qfeKeep vis).setQueue q (fun k => { k with rdidx := (k.rdidx + 1) % 2 ^ 32, back := mset 0 k.back (k.rdidx % 64) 0, waddr := 0, wtgt := 0 }))) ∧
    (∀ q, k = .waitEnd q → exec (.dispatchSlotCommand ⟨c, q⟩) s = .next (v.setQueue q (fun k => { k with rdidx := (k.rdidx + 1) % 2 ^ 32, back := mset 0 k.back (k.rdidx % 64) 0, waddr := 0, wtgt := 0 }))) ∧
    (∀ q n, k = .node q n → exec (.dispatchSlotCommand ⟨c, q⟩) s = .next (v.enterNode q n))) ∧
  (∀ (s : State) c q a x st old r, (s.qfeCore c).slots = .signal q a x st old :: r → s.allPassed old = false → s.slotAdvance c 0 = s) ∧
  (∀ (s : State) q n u, s.nodes.length < 4096 → n.weight = 0 → u = s.enterNode q n → ∃ num < 4096, s.nodes.all (fun k => k.num != num) = true ∧
    (∃ m, u.nodes = s.nodes ++ [m] ∧ m.num = num ∧ m.root = n.root ∧ m.tag = n.tag ∧ m.subs = n.subs ∧ m.status = n.status) ∧
    u.queue q = { s.queue q with nout := (s.queue q).nout + 1, back := mset 0 (s.queue q).back ((s.queue q).rdidx % 64) (0x8000 + num), rdidx := ((s.queue q).rdidx + 1) % 2 ^ 32 }) ∧
  (∀ s q k, s.queue q = k →
    (∀ base d p ten pasid qsb, q < 256 → k.st = 0 → k.nout = 0 → base % 4096 = 0 → 4 ≤ d → d ≤ 16 → p ≤ 3 → ten ≤ 15 → qsb % 256 = 0 → exec (.kernelQueueControl q (.create base d p ten pasid qsb)) s =
      .next ((s.hubWrite qsb (leBytes 8 base ++ leBytes 1 d ++ leBytes 1 p ++ leBytes 1 ten ++ leBytes 1 1 ++ leBytes 4 pasid ++ List.replicate 240 0)).modQueue q (fun _ => { qsb := qsb, base := base, log2depth := d, prio := p, ten := ten, st := 1, pasid := pasid }))) ∧
    (exec (.kernelQueueControl q .destroy) s = .next (if k.st = 0 ∨ k.nout ≠ 0 then s else (s.setQueue q (fun k => { k with st := 0 })).modQueue q (fun _ => {}))) ∧
    (exec (.kernelQueueControl q .disable) s = .next (if k.st = 0 then s else s.setQueue q (fun k => { k with st := 0 }))) ∧
    (exec (.kernelQueueControl q .stop) s = .next (if k.st = 1 then s.setQueue q (fun k => { k with st := 3 }) else s)) ∧
    (exec (.kernelQueueControl q .restart) s = .next (if k.st = 2 ∨ k.st = 3 then s.setQueue q (fun k => { k with st := 1, err := 0, erridx := 0, rung := fieldAt (s.cohRead (s.queue q).qsb 256) 0x10 4 }) else s)))

/-- Nodes become ready, are dispatched, complete and retire; placers place clusters whose groups are created (R62, R352, R353, R354, R356, R359, R360, R361, R368, R405). -/
def Obligations.PoolAndPlacement : Prop :=
  (∀ s num n, s.node? num = some n → n.st = .pending →
    (n.preds ≠ [] → exec (.predecessorsRetired num) s = .next s) ∧
    (n.preds = [] → n.tiles = [] → exec (.predecessorsRetired num) s = .next (({ s with seq := s.seq + 1 } : State).modNode num (fun k => { k with st := .ready, readyAt := s.seq }))) ∧
    (n.preds = [] → n.tiles ≠ [] → exec (.predecessorsRetired num) s = .next (n.tiles.zipIdx.foldl (fun (s : State) t => s.askTile n t.2 t.1) (s.modNode num (fun k => { k with st := .held }))))) ∧
  (∀ (n : Node) num status, n.st = .pending → n.preds.contains num = true →
    (status = 0 → n.afterPred num status = { n with preds := n.preds.filter (· != num) }) ∧
    (status ≠ 0 → n.afterPred num status = { n with st := .running, subs := [], tiles := [], status := 0xB, statSub := 0xFF })) ∧
  (∀ s num n, s.node? num = some n → n.st = .held → n.tiles.all (·.met) = true → exec (.tileOperandsMet num) s = .next (({ s with seq := s.seq + 1 } : State).modNode num (fun k => { k with st := .ready, readyAt := s.seq }))) ∧
  (∀ (s : State) n, (∀ k ∈ s.nodes, k.prio ≤ 3 ∧ k.readyAt < 2 ^ 64) → s.dispatchNode = some n → n ∈ s.nodes ∧ n.st = .ready ∧ ∀ k ∈ s.nodes, k.st = .ready → k.prio < n.prio ∨ (k.prio = n.prio ∧ n.readyAt ≤ k.readyAt)) ∧
  (∀ s n t, s.dispatchNode = some n → s.dispatchAt ≤ s.cycle →
    (∀ status sub gs, s.planGrids n 0 n.subs = .ok (gs, some (status, sub)) t → exec .dispatch s = .next (({ t with dispatchAt := t.cycle + 16 } : State).modNode n.num (fun n => { n with st := .running, subs := [], tiles := [], status := status, statSub := sub }))) ∧
    (∀ gs, s.planGrids n 0 n.subs = .ok (gs, none) t → (∀ g ∈ gs, g.k.stats = 0) →
      exec .dispatch s = .next (n.subs.zipIdx.foldl (fun (s : State) r => s.startSub n r.2 r.1) { ({ t with dispatchAt := t.cycle + 16, nextId := t.nextId + 4, seq := t.seq + 4 } : State).modNode n.num (fun k => { k with st := .running, subs := k.subs.map (fun r => { r with started := true }) }) with grids := t.grids ++ gs.map (fun g => { g with vis := [] }) }))) ∧
  (∀ s num n, s.node? num = some n → n.st = .running → n.subs.all (·.done) = true → s.allPassed n.vis = true →
    (∀ t v, n.phase = 0 → s.putResult n.pasid n.resaddr (resultBytes n.status n.tag n.statSub n.cause n.detail) = (t, some v) → exec (.nodeComplete num) s = .next (t.modNode n.num (fun k => { k with phase := 1, vis := visJoin v t.qfeVis }))) ∧
    (∀ t u, n.phase = 1 → s.addSignal n.pasid n.sigaddr n.sigval = (some t, u) → exec (.nodeComplete num) s = .next (t.modNode n.num (fun k => { k with phase := 2, vis := [] }))) ∧
    (n.phase = 2 → n.lens = [] → s.lastOf n = none → exec (.nodeComplete num) s = .next (s.retireNode n))) ∧
  (∀ (s : State) p b v, s.putResult p 0 b = (s, some []) ∧ s.addSignal p 0 v = (some s, s)) ∧
  (∀ st tag sub cause d, st < 2 ^ 32 → tag < 2 ^ 32 → sub < 256 → cause < 256 → d < 2 ^ 64 → ∀ b, b = resultBytes st tag sub cause d → b.length = 32 ∧ fieldAt b 0 4 = st ∧ fieldAt b 4 4 = tag ∧ fieldAt b 8 1 = sub ∧ fieldAt b 9 1 = cause ∧ fieldAt b 0x10 8 = d ∧ zeroBytes b 0xA 6 = true ∧ zeroBytes b 0x18 8 = true) ∧
  (∀ s num n sub ok r, num < 4096 → s.node? num = some n → n.st = .running → n.subs[sub]? = some r → fieldAt r.bytes 0 1 = 4 → r.started = true → r.done = false →
    exec (.hostFunctionReport num sub ok) s = .next (s.subDone num sub (if ok then 0 else 9) 0 0)) ∧
  (∀ s r c, s.stewardUp r = true → (s.ten (s.steward r).ten).st = 2 → s.held.contains (s.steward r).ten = false → (s.steward r).actedAt ≠ some s.cycle →
    ((s.steward r).seen = s.placerSees r → exec (.placerActs r c) s = .next s) ∧
    ((s.steward r).seen ≠ s.placerSees r → s.wgs.all (fun w => w.phase != .saved) = true → ∀ acted : State → State, (∀ u : State, acted u = u.modSteward r (fun k => { k with actedAt := some u.cycle, seen := s.placerSees r })) →
      (s.placeList (s.steward r).ten = [] → exec (.placerActs r c) s = .next (acted s)) ∧
      (∀ hd rest t, s.placeList (s.steward r).ten = hd :: rest → (hd :: rest).all (fun g => !g.swapping) = true → s.placeNext hd r c = some t →
        exec (.placerActs r c) s = .next (acted (t.headCheck s (s.steward r).ten))))) ∧
  (∀ (s : State) gr r c t, s.placeNext gr r c = some t → t.wgs.length = s.wgs.length + gr.csize ∧ (∀ w ∈ t.wgs.drop s.wgs.length, w.ten = gr.ten ∧ w.grid = gr.id ∧ w.cluster = gr.next ∧ w.phase = .starting ∧ w.ctx < 2 ^ 20) ∧ gr.next < gr.clusters ∧ gr.ended = none) ∧
  (∀ s key i w g gr, s.wg? key = some w → w.groups[i]? = some g → s.grid? w.grid = some gr → g.started = false → w.since + 256 ≤ s.cycle → (w.phase = .starting ∨ w.phase = .resident) →
    exec (.groupCreate key i) s = .next ((({ s with seq := s.seq + 1 } : State).modWg key (fun w => { w with phase := .resident, groups := w.groups.set i { g.loadArgs gr gr.argsPtr with started := true, table := [some { wi := gr.k.entry, mask := g.created, qAt := s.seq, acqAt := gr.joined }, none, none, none, none, none, none, none] } })).wakeBlk (.member key))) ∧
  (∀ (g : Group) gr p h, g.regs = [] → g.sregs = [] → g.rpoison = [] → h = g.loadArgs gr p → h = { g with regs := h.regs, sregs := h.sregs } ∧
    (∀ i, h.reg 0 .s i = if i < 8 then gr.args.getD i 0 else if i = 8 then BitVec.ofNat 32 p else if i = 9 then BitVec.ofNat 32 (p / 2 ^ 32) else 0) ∧
    (∀ l < 32, ∀ i < 256, h.reg l .v i = if gr.k.vregs = 256 ∧ g.created.getLsbD l = true then (if i = 252 ∨ i = 254 then BitVec.ofNat 32 gr.k.extent else if i = 255 then 0x10000000#32 else 0) else 0)) ∧
  (∀ s ten t r, (s.head ten).bind (·.headSince) = some t → t + 2 ^ 20 ≤ s.cycle → (∀ k < 24, (s.steward k).ten = ten → (s.steward k).reserved = false) → r < 24 → (s.steward r).ten = ten →
    (∀ k < 24, (s.steward k).ten = ten → s.idleCores k ≤ s.idleCores r ∧ (k < r → s.idleCores k < s.idleCores r)) → exec (.headAgeReserve ten) s = .next (s.modSteward r (fun k => { k with reserved := true })))

/-- Groups and workgroups retire, grids abort, stalls are detected, and workgroups are saved and restored (R42, R47, R48, R49, R52, R105, R228, R431, R437, R438, R439). -/
def Obligations.RetireAndPreempt : Prop :=
  (∀ s key i w g gr, s.wg? key = some w → w.groups[i]? = some g → s.grid? w.grid = some gr → w.phase = .resident → g.started = true → g.retired = false →
    (g.live ≠ 0 ∨ g.gonePend ≠ [] ∨ s.passed (dieOfCore g.core) g.goneVis = false → exec (.groupRetire key i) s = .next s) ∧
    (g.live = 0 → g.gonePend = [] → s.passed (dieOfCore g.core) g.goneVis = true →
      (∀ j h, j ≠ i → w.groups[j]? = some h → h.retired = false → exec (.groupRetire key i) s = .next (s.modGrp key i (fun g => { g with retired := true }))) ∧
      ((∀ j h, j ≠ i → w.groups[j]? = some h → h.retired = true) → s.matrixBusy w = false → gr.k.stats = 0 →
        ∀ u v : State, u = ((s.modWg w.key (fun w => { w with stats := [] })).freeWg w).modGrid gr.id (fun g => { g.keepFlags w with retired := g.retired + 1, detections := 0, stallSince := none }) →
          v = (if u.wgs.any (fun o => o.grid == gr.id && o.cluster == w.cluster) then u else u.dropEdges (fun h => h == (gr.id, w.cluster))) →
          exec (.groupRetire key i) s = .next (if gr.total ≤ gr.retired + 1 then v.closeGrid gr.id else v)))) ∧
  (∀ (s : State) w, w.phase ≠ .saved → (s.freeWg w).wgs = s.wgs.filter (fun k => k.key != w.key)) ∧
  (∀ (s : State) id gr, s.grid? id = some gr → gr.k.stats = 0 → s.closeGrid id = s.modGrid id (fun g => { g with closing := true })) ∧
  (∀ s key cause sub w gr, s.wg? key = some w → s.grid? w.grid = some gr → gr.closing = false → gr.k.stats = 0 → ∀ g1 u, g1 = ({ gr with ended := some (gr.ended.getD (7, cause, w.ctx)), headSince := none } : Grid) →
    u = ({ s with wgs := s.wgs.map (fun w => if w.grid = gr.id ∧ w.phase ≠ .saved then { w with phase := .halted } else w) } : State).modGrid gr.id (fun _ => g1) →
      exec (.abortReport key cause sub) s = .next ((u.stopGrid g1).headCheck s gr.ten)) ∧
  (∀ s id gr t, s.grid? id = some gr → gr.ended = none → gr.swapping = false → gr.stallSince = some t → s.wgs.all (fun w => w.grid != id || (w.phase != .halting && w.phase != .halted && w.phase != .starting)) = true →
    (s.cycle ≤ t + 2 ^ gr.k.park → exec (.stallDetected id) s = .next s) ∧
    (∀ w n u, t + 2 ^ gr.k.park < s.cycle → s.parkedLongest id = some w → s.stewardUp w.region = true → n = min (gr.detections + 1) 8 → u = s.modGrid id (fun g => { g with detections := n, stallSince := some s.cycle, swapping := gr.k.swap && decide (n < 8) }) →
      exec (.stallDetected id) s = .next (if gr.k.swap = true ∧ n < 8 then u.swapOut id else u.raiseStall gr n))) ∧
  (∀ (s : State) id w, s.parkedLongest id = some w → w.clsize = 1 → (s.wgs.filter (fun o => o.grid == id && o.cluster == w.cluster)) = [w] → w.phase = .resident →
    s.swapOut id = s.modWg w.key (fun w => if w.phase = .resident then { w with phase := .halting, since := s.cycle, alone := false, wdone := false } else w)) ∧
  (∀ (s : State) gr n w f x, s.parkedLongest gr.id = some w → w.splitLongest = some f → f.lookup s = some x →
    s.raiseStall gr n = s.takeTrap x { cause := 0x12, lane := x.fetchLane, val := BitVec.ofNat 64 (min (gr.total - gr.next * gr.csize) 0xFFFFFFFF + n * 2 ^ 32 + gr.k.park * 2 ^ 40) }) ∧
  (∀ (s : State) id w t, s.parkedLongest id = some w → w.parkedSince = some t → (∀ o ∈ s.wgs, o.ctx < 2 ^ 20) → ∀ o ∈ s.wgs, o.grid = id → ∀ t1, o.parkedSince = some t1 → t < t1 ∨ (t = t1 ∧ w.ctx ≤ o.ctx)) ∧
  (∀ s key w, s.wg? key = some w → w.phase = .resident → s.stewardUp w.region = true →
    exec (.preemptRequest key) s = .next (s.modWg key (fun k => if k.phase = .resident then { k with phase := .halting, since := s.cycle, alone := w.clsize > 1 && w.cores.length ≤ 1, wdone := false } else k))) ∧
  (∀ s key w, s.wg? key = some w → w.phase = .halting → s.issuedOpen key = false → s.matrixBusy w = false →
    (s.chunkOpen (Copy.of key) = true → exec (.preemptHalt key) s = .next s) ∧
    (s.chunkOpen (Copy.of key) = false → s.copies.any (fun c => c.of key && !c.replay) = false → exec (.preemptHalt key) s = .next (s.modWg key (fun w => { w with phase := .halted }))) ∧
    (s.chunkOpen (Copy.of key) = false → s.copies.any (fun c => c.of key && !c.replay) = true → s.cycle < w.since + 14000 → exec (.preemptHalt key) s = .next s) ∧
    (∀ c, s.chunkOpen (Copy.of key) = false → s.copies = [c] → c.of key = true → c.failed = none → c.replay = false → w.since + 14000 ≤ s.cycle →
      exec (.preemptHalt key) s = .next (({ s.dropFlits c.id with copies := [{ c with replay := true }] } : State).modWg key (fun w => { w with phase := .halted })))) ∧
  (∀ s key i pos x, (({ wg := key, grp := i, pos := pos } : Focus).lookup s) = some x → x.wg.phase = .halting → x.wg.since + 12000 ≤ s.cycle → ∀ here : Nat → Nat → Nat → W32 → Bool, here = (fun w g l wi => w == key && g == i && x.sp.mask.getLsbD l && wi == x.sp.wi) →
    exec (.memoryOpAbandon key i pos) s = .next { s with fabric := s.fabric.filter (fun f => !(!f.posted && f.ans.isNone && here f.wg f.grp f.lane f.wi)), devLoads := s.devLoads.filter (fun d => !(d.ans.isNone && here d.wg d.grp d.lane d.wi)) }) ∧
  (∀ s key w gr b bad parts, s.wg? key = some w → s.grid? w.grid = some gr → w.phase = .halted → gr.ended = none → s.stewardUp w.region = true → s.recordsPassed w = true → gr.k.stats = 0 → s.image gr w = (b, bad) → parts = (imageAddr gr w, b) :: privateParts gr w →
    (s.awaitAll (srcSteward w.region) gr.pasid .wr (parts.map (fun p => (p.1, p.2.length)))).2 = false → s.firstBad (srcSteward w.region) gr.pasid .wr (parts.map (fun p => (p.1, p.2.length))) = none →
      exec (.contextSave key) s = .next ((((w.chans.foldl (fun (s : State) c => s.writeBack gr.pasid c) (bad.foldl (fun (s : State) o => s.putPoison gr.pasid (imageAddr gr w + o)) (parts.foldl (fun (s : State) p => (s.vwrite gr.pasid p.1 p.2).1) s))).modWg w.key (fun w => { w with stats := [] })).releaseArrays w).modWg key (fun w => { w with phase := .saved, wdone := false }))) ∧
  (∀ s region key w gr spots all, s.wg? key = some w → s.grid? w.grid = some gr → s.restoreSet w = some [w] → s.restorable region w = true → (s.fitSaved gr false [w] [] (s.regionUse region)).isSome = true →
    all = (imageAddr gr w, 256) :: (imageAddr gr w, s.imageSize gr w) :: w.groups.map (fun g => (privBlock gr w g.grpid, 2048)) → (s.awaitAll (srcSteward region) gr.pasid .rd [(imageAddr gr w, 256)]) = (s, false) → (s.awaitAll (srcSteward region) gr.pasid .rd all.tail).2 = false →
    s.firstBad (srcSteward region) gr.pasid .rd all = none → s.imageControlBad gr w = false → s.fitSaved gr true [w] [] (s.regionUse region) = some [(w, spots)] → exec (.restore region key) s = .next (s.restoreOne gr w spots))

/-- Services perform each call once and reply, Prism engines refresh views, the Lens arbiter moves slots (R277, R282, R284, R297, R393, R396, R397, R398, R411, R412, R472, R474). -/
def Obligations.ServicesAndEngines : Prop :=
  (∀ (s : State) req q t b mine, s.call? req = none → s.services.find? (fun q => q.id == req && q.queued) = some q → s.qfeRead q.pasid (q.ptr % 2 ^ 56) 64 = .ok b t → mine (fieldAt b 8 2) = true →
    (∀ r, s.journal.find? (fun r => r.ten == q.ten && r.callid == fieldAt b 0 8) = some r → s.takeCall req mine = .ended (({ t with services := t.services.filter (fun k => k.id != req) } : State).modCall r.req (fun r => { r with blocks := r.blocks ++ [(q.pasid, q.ptr % 2 ^ 56)] }))) ∧
    (s.journal.find? (fun r => r.ten == q.ten && r.callid == fieldAt b 0 8) = none → (s.journal.filter (fun r => r.ten == q.ten)).length < 65536 → ∀ r, r = ({ ten := q.ten, callid := fieldAt b 0 8, req := req, root := q.root, svc := fieldAt b 8 2, pasid := q.pasid, args := (List.range 4).map (fun i => fieldAt b (0x20 + 8 * i) 8), ctx := q.ctx, blocks := [(q.pasid, q.ptr % 2 ^ 56)] } : JRec) →
      s.takeCall req mine = .call r { t with services := t.services.filter (fun k => k.id != req), journal := t.journal ++ [r] })) ∧
  (∀ s req r, s.call? req = some r → r.st = 1 →
    (r.svc = 1 → ∀ t b v u, r.arg 0 + 128 ≤ 2 ^ 56 → s.qfeRead r.pasid (r.arg 0) 128 = .ok b t → v = View.ofBytes t.nextId (r.arg 1) r.pasid r.ten b → v.edge = false → u = ({ t with nextId := t.nextId + 1 } : State) →
      (r.arg 1 % 128 ≠ 0 ∨ 2 ^ 56 ≤ r.arg 1 ∨ v.fieldsOk b = false ∨ v.kindOk (t.wgs.any (fun w => w.ten == r.ten && w.ctx == v.owner && w.phase != .starting)) = false → exec (.viewRegister req) s = .next (t.callDone req 2 0)) ∧
      (∀ pas, r.arg 1 % 128 = 0 → r.arg 1 < 2 ^ 56 → v.fieldsOk b = true → v.kindOk (t.wgs.any (fun w => w.ten == r.ten && w.ctx == v.owner && w.phase != .starting)) = true → v.mdev = t.devnum → v.overlaps t.views = false → t.views.any (fun k => k.ptr == v.ptr && k.space == v.space) = false → (t.views.filter (fun k => k.pasid == v.pasid && k.mbase == v.mbase)).length < 8 →
        (u.await srcQfe v.pasid .rd (4096 * v.block0) (4096 * v.count)).2 = false → u.masterPas v = some pas → u.tableFull pas = false → Claims.Writable u v.pasid v.tags (8 * v.count) → Claims.Writable u v.pasid v.stats 16 → Claims.Writable u r.pasid v.ptr 128 → exec (.viewRegister req) s = .next ((u.enterView r v b pas).callDone req 1 0))) ∧
    (r.svc = 2 → exec (.viewDeregister req) s = .next (match s.viewAt r.pasid (r.arg 0) with | some v => (s.dropView v).callDone req 1 0 | none => s.callDone req 2 0)) ∧
    (r.svc = 3 → ∀ n e, e = iatEntry (r.arg 1) (if r.arg 0 = 2 then 0 else r.pasid) (r.arg 2) r.ten (r.arg 0) →
      (3 ≤ r.arg 0 ∨ 2 ^ 56 ≤ r.arg 1 ∨ 2 ^ 32 ≤ r.arg 2 ∨ iatBad e = true → exec (.iatAllocate req n) s = .next (s.callDone req 2 0)) ∧
      (r.arg 0 < 3 → r.arg 1 < 2 ^ 56 → r.arg 2 < 2 ^ 32 → iatBad e = false → n < 4096 → bitOf (mget 0 s.iat n).toNat 0 = false → exec (.iatAllocate req n) s = .next (({ s with iat := mset 0 s.iat n (BitVec.ofNat 128 e) } : State).callDone req 1 n))) ∧
    (r.svc = 4 → exec (.iatFree req) s = .next (if 4096 ≤ r.arg 0 ∨ bitOf (mget 0 s.iat (r.arg 0)).toNat 0 = false ∨ iatTen (mget 0 s.iat (r.arg 0)).toNat ≠ r.ten then s.callDone req 2 0 else ({ s with iat := mset 0 s.iat (r.arg 0) 0 } : State).callDone req 1 0)) ∧
    (r.svc = 5 → r.arg 0 < (s.ten r.ten).nlens → s.slotPage r.ten (r.arg 0) = .ready s → (s.slotSt r.ten (r.arg 0) = 2 → s.slotRefs r.ten (r.arg 0) ≠ 0 → exec (.lensEvict req) s = .next (s.callDone req 1 1)) ∧
      (s.slotSt r.ten (r.arg 0) ≠ 2 → exec (.lensEvict req) s = .next (s.callDone req 1 0)) ∧
      (s.slotSt r.ten (r.arg 0) = 2 → s.slotRefs r.ten (r.arg 0) = 0 → bitOf (s.slotField r.ten (r.arg 0) 1 1) 1 = false → exec (.lensEvict req) s = .next ((s.slotPut r.ten (r.arg 0) 0 1 0).callDone req 1 0)) ∧
      (∀ u, s.slotSt r.ten (r.arg 0) = 2 → s.slotRefs r.ten (r.arg 0) = 0 → bitOf (s.slotField r.ten (r.arg 0) 1 1) 1 = true → s.startRun r.ten (r.arg 0) (s.slotField r.ten (r.arg 0) 0x20 8) true false = .ok () u → exec (.lensEvict req) s = .next ((u.slotPut r.ten (r.arg 0) 0 1 3).callDone req 1 0))) ∧
    (r.svc = 6 → Claims.Writable s r.pasid (r.arg 1) 16 → exec (.journalQuery req) s = .next ((s.vwrite r.pasid (r.arg 1) (s.queryBytes r.ten (r.arg 0))).1.callDone req 1 0)) ∧
    (r.svc = 7 → ∀ b t, r.arg 0 + 32 ≤ 2 ^ 56 → s.qfeRead r.pasid (r.arg 0) 32 = .ok b t → Claims.Writable t r.pasid (r.arg 1) 512 → exec (.attest req) s = .next ((t.vwrite r.pasid (r.arg 1) (t.report r.ten b)).1.callDone req 1 0)) ∧
    (8 ≤ r.svc → r.svc < 0x100 → exec (.serviceReply req) s = .next (((s.callDone req 3 0).issueReply req).advanceReply req))) ∧
  (∀ s req r, s.call? req = some r → r.st = 2 → exec (.serviceReply req) s = .next ((s.issueReply req).advanceReply req)) ∧
  (∀ (s : State) req r blk l, s.call? req = some r → r.st = 2 → r.blocks = blk :: l → s.replyHeld req = false → (s.qfeCore 0).stopped = false →
    s.issueReply req = s.modQfe 0 (fun k => { k with slots := k.slots ++ [.reply { pasid := blk.1, ptr := blk.2, status := r.status, result := r.result, req := some req }] })) ∧
  (∀ s svc, ∀ u : State, u = s.logRec { unit := 4, code := 0x56, src := 12, aux := svc } → ∀ l, l = s.journal.filter (fun r => r.svc == svc) → exec (.serviceRestart svc) s =
    .next { u with agenda := (l.filter (fun r => r.st == 1)).map (fun r => serviceEvent svc r.req) ++ (l.filter (fun r => r.st == 2 && r.blocks != [])).map (fun r => Instr.serviceReply r.req) ++ u.agenda, waiting := u.waiting.filter (fun i => !(l.any (fun r => r.st == 1 && servedBy i == some r.req))) }) ∧
  (∀ s d e pa rest, s.refreshes.all (fun r => r.die != d || r.eng != e) = true → mget [] s.prismQ (4 * d + e) = pa :: rest → (s.refreshes.any (fun r => r.pa / 4096 == pa / 4096) = true → exec (.prismRefreshStart d e) s = .next s) ∧
    (s.refreshes.any (fun r => r.pa / 4096 == pa / 4096) = false → exec (.prismRefreshStart d e) s = .next { s with nextId := s.nextId + 1, prismQ := mset [] s.prismQ (4 * d + e) rest, masters := s.masters.map (fun k => if k.pa = pa then { k with queued := false } else k), refreshes := s.refreshes ++ [{ id := s.nextId, die := d, eng := e, pa := pa, since := s.cycle }] })) ∧
  (∀ s d e r k, s.refreshes.find? (fun r => r.die == d && r.eng == e) = some r → s.masters.find? (fun k => k.pa == r.pa) = some k →
    (r.snap = none → s.clock d < k.wt → exec (.prismSnapshot d e) s = .next s) ∧
    (r.snap = none → k.wt ≤ s.clock d → k.deps = [] → (∀ t, s.readBlock r k = (t, none) → exec (.prismSnapshot d e) s = .next t) ∧
      (∀ t b, s.readBlock r k = (t, some b) → exec (.prismSnapshot d e) s = .next ((({ t with masters := t.masters.map (fun m => if m.pa = k.pa then { m with snap := t.clock r.die } else m) } : State).l2Used (engineBuffer r.id)).setRefresh
        { r with snap := some (t.clock r.die, b, t.poisoned (r.pa / 4096 * 4096) 4096), left := [] }))) ∧
    (∀ t b bad v m l, r.snap = some (t, b, bad) → r.left = (v.id, m) :: l → s.views.find? (fun k => k.id == v.id) = some v →
      (r.run = 0 → bad = true → exec (.prismSnapshot d e) s = .next (s.faultView r v m 1)) ∧
      (∀ c u vis, v.edge = false → (r.run ≠ 0 ∨ (bad = false ∧ s.masterMapped r v m = .ok true s)) → ((v.writes b m).1)[r.run]? = none → (v.writes b m).2 = c → s.allPassed r.vis = true → (s.prismPages r v m (c.sat + c.flush + c.nan != 0)).2 = false →
        s.prismWord r v (v.tags + 8 * m) 8 (.setIn (2 ^ 64 - 1) (2 ^ 63 + t % 2 ^ 48)) = .ok vis u → exec (.prismSnapshot d e) s = .next (((u.addCounts r v [c.sat, c.flush, c.nan]).viewEnded v m false).nextView r)))) ∧
  (∀ s ten slot num n, s.node? num = some n → n.st = .held → n.ten = ten → n.owes slot ≠ 0 → s.slotPage ten slot = .ready s →
    (s.slotSt ten slot = 0 → ∀ u, s.startRun ten slot (s.slotField ten slot 0x18 8) false false = .ok () u → exec (.lensPromotion ten slot num) s = .next ((u.takeRef ten slot num).slotPut ten slot 0 1 1)) ∧
    (s.slotSt ten slot = 1 ∨ s.slotSt ten slot = 2 → exec (.lensPromotion ten slot num) s = .next (s.takeRef ten slot num)) ∧
    (s.slotSt ten slot = 3 → exec (.lensPromotion ten slot num) s = .next ((s.takeRef ten slot num).modRun ten slot (fun r => { r with back := true })))) ∧
  (∀ s ten slot num n u, s.node? num = some n → n.st = .running → 2 ≤ n.phase → n.ten = ten → n.lens.contains slot = true → s.slotPage ten slot = .ready s → u = (s.slotPut ten slot 4 4 (s.slotRefs ten slot - 1)).modNode num (fun n => { n with lens := n.lens.erase slot }) →
    (u.slotSt ten slot ≠ 2 ∨ u.slotRefs ten slot ≠ 0 ∨ bitOf (u.slotField ten slot 1 1) 0 = true → exec (.lensReferenceDrop ten slot num) s = .next u) ∧
    (u.slotSt ten slot = 2 → u.slotRefs ten slot = 0 → bitOf (u.slotField ten slot 1 1) 0 = false → exec (.lensReferenceDrop ten slot num) s = .next (u.evictLater ten slot))) ∧
  (∀ s ten slot, (s.evictions.find? (fun e => e.1 == ten && e.2.1 == slot && decide (e.2.2 < s.cycle)) = none → exec (.lensEviction ten slot) s = .next { s with evictions := s.evictions ++ [(ten, slot, s.cycle)] }) ∧
    (∀ e, s.evictions.find? (fun e => e.1 == ten && e.2.1 == slot && decide (e.2.2 < s.cycle)) = some e → s.slotPage ten slot = .ready s → (s.slotSt ten slot ≠ 2 ∨ s.slotRefs ten slot ≠ 0 → exec (.lensEviction ten slot) s = .next { s with evictions := s.evictions.erase e }) ∧
      (∀ u, s.slotSt ten slot = 2 → s.slotRefs ten slot = 0 → bitOf (s.slotField ten slot 1 1) 1 = false → u = s.slotPut ten slot 0 1 0 → exec (.lensEviction ten slot) s = .next { u with evictions := u.evictions.erase e }))) ∧
  (∀ s ten slot r, s.lensRun? ten slot = some r → s.slotPage ten slot = .ready s →
    (r.draining = false → s.runOver r = true → ∀ t fl, t = s.slotPut ten slot 0x30 8 ((s.slotField ten slot 0x30 8 + 1) % 2 ^ 64) → fl = t.slotField ten slot 1 1 → exec (.lensFillComplete ten slot) s = .next (((t.slotPut ten slot 1 1 (fl - (if bitOf fl 2 then 4 else 0))).slotPut ten slot 0 1 2).endRun ten slot)) ∧
    (r.draining = false → r.failed = true → s.lensCopying r = false → s.slotField ten slot 0x28 8 = 0 ∨ r.repl = true → exec (.lensFillFail ten slot) s =
      .next ((((s.nodes.filter (fun n => n.ten == ten && n.lens.contains slot)).foldl (fun (u : State) n => u.modNode n.num (fun n => if n.st = .held then ({ n with lens := n.lens.filter (· != slot) } : Node).lensFailed slot else { n with lens := n.lens.filter (· != slot) }))
        (((s.slotPut ten slot 1 1 (s.slotField ten slot 1 1 ||| 4)).slotPut ten slot 4 4 0).slotPut ten slot 0 1 0)).endRun ten slot).logRec { unit := 4, code := 0x55, ten := ten, src := 8, aux := slot + (if r.repl then 2 ^ 16 else 0) })) ∧
    (r.draining = true → s.runOver r = true → exec (.lensDrainComplete ten slot) s = .next ((s.slotPut ten slot 0 1 (if r.back then 2 else 0)).endRun ten slot))) ∧
  (∀ (n : Node) slot, (n.lensFailed slot).st = .running ∧ (n.lensFailed slot).subs = [] ∧ (n.lensFailed slot).status = 6 ∧ (n.lensFailed slot).detail = slot)

/-- Endpoints, page requests, shootdowns, migrations, storage errors and registers act by their rules (R379, R382, R383, R384, R416, R442, R445, R449, R450, R451, R459, R460). -/
def Obligations.PortsAndUpkeep : Prop :=
  (∀ s (r : DmaReq) p va w, s.fn? r.rid = none → ∀ u, u = ({ s with answers := .unsupported r.rid :: s.answers } : State).logRec { unit := 4, code := 0x52, src := 10, aux := r.rid % 2 ^ 16 + 2 ^ 16 * (2 ^ 20 % 2 ^ 32) } →
    exec (.endpointDmaWrite r) s = .next u ∧ exec (.endpointDmaRead r) s = .next u ∧ exec (.atsTranslationRequest r.rid p va) s = .next u ∧ exec (.pageRequestMessage r.rid va va w) s = .next u) ∧
  (∀ s (r : DmaReq) f pa, s.fn? r.rid = some f → s.fnCut r.rid = false → (r.translated = true ∨ inArrivalWindow r.addr = false) → s.waiting = [] → s.portOpen r.port = false → r.bytes ≠ [] → r.addr % 4096 + r.bytes.length ≤ 4096 → r.poisoned = false →
    (∀ t, r.bytes.length ≤ 512 → s.dmaPage f r .wr r.addr r.bytes.length = .ok pa t → s.homeBlocked pa true = false → ∀ u v, t.hubPut pa r.bytes = (u, v) → exec (.endpointDmaWrite r) s = .next { u with portVis := mset [] u.portVis r.port (visJoin (mget [] t.portVis r.port) v) }) ∧
    (∀ t, s.dmaPage f r .rd r.addr r.bytes.length = .ok pa t → s.homeBlocked pa false = false →
      (∀ u b, t.hubGet pa r.bytes.length = (u, some b) → exec (.endpointDmaRead r) s = .next { u with answers := .data b :: u.answers }) ∧
      (∀ u, t.hubGet pa r.bytes.length = (u, none) → exec (.endpointDmaRead r) s = .next { u with answers := .poisoned r.bytes.length :: u.answers }))) ∧
  (∀ (s : State) pa n b, (∃ d, paKind pa = .hbm d) → s.hubPut pa b = s.cohWrite pa (s.programBytes pa (s.cohLatest pa b.length) b) ∧ (s.poisoned pa n = false → s.hubGet pa n = (s, some (s.cohRead pa n))) ∧ (s.poisoned pa n = true → s.hubGet pa n = (s, none))) ∧
  (∀ (s : State) f r pa k n, r.translated = true → s.translatedOk f pa n = true → (∃ d, paKind (s.forwarded pa) = .hbm d) → s.tdispOk f r (s.forwarded pa) n = true → s.dmaPage f r k pa n = .ok (s.forwarded pa) s) ∧
  (∀ s rid p va f q, s.fn? rid = some f → s.fnCut rid = false → f.ats = true → s.reqPasid f p = some q → inArrivalWindow va = false →
    (∀ e at_ pa lv n, s.walk q va = .leaf e at_ pa lv → n = s.pageSize q va e → exec (.atsTranslationRequest rid p va) s = .next { s with answers := .translation rid (s.forwarded pa / n * n) n (bitOf e 60) (bitOf e 61) :: s.answers }) ∧
    (s.walk q va = .missing → exec (.atsTranslationRequest rid p va) s = .next { s with answers := .translation rid 0 4096 false false :: s.answers })) ∧
  (∀ s rid p va w f, s.fn? rid = some f → s.fnCut rid = false → (s.reqPasid f (some p)).isSome = true →
    ((s.epReqs.filter (fun q => q.src == rid)).length < f.alloc → s.epReqs.length < 4096 → exec (.pageRequestMessage rid p va w) s = .next { s with epReqs := s.epReqs ++ [{ src := rid, pasid := p, page := va / 4096, kind := if w then 1 else 0 }] }) ∧
    (f.alloc ≤ (s.epReqs.filter (fun q => q.src == rid)).length → exec (.pageRequestMessage rid p va w) s = .next (({ s with answers := .pageFailure rid (va / 4096) :: s.answers } : State).logRec { unit := 4, code := 0x52, src := 10, aux := rid % 2 ^ 16 + 2 ^ 16 * (0 % 2 ^ 32) }))) ∧
  (∀ s off w b, s.endpointMode = true → off + b.length ≤ 2 ^ 30 →
    (bitOf s.epwin 0 = false → exec (.bar2WindowAccess ⟨2, off⟩ w b) s = .next (if w then s else { s with answers := .data (List.replicate b.length 0xFF) :: s.answers })) ∧
    (bitOf s.epwin 0 = true → w = true → ∀ pa, pa = s.epwin / 2 ^ 30 * 2 ^ 30 + off → s.homeBlocked pa true = false → s.homeBlocked (pa + b.length - 1) true = false → exec (.bar2WindowAccess ⟨2, off⟩ w b) s = .next (s.hubPut pa b).1)) ∧
  (∀ s off b, s.endpointMode = true → off + b.length ≤ 65536 → exec (.bar2WindowAccess ⟨0, off⟩ false b) s = .next { s with answers := .data (s.bar0 off b.length) :: s.answers }) ∧
  (∀ s p v, p < 8 → exec (.pcfgWrite p v) s = .next { s with pcfg := mset 0 s.pcfg p (pcfgAfter (mget 0 s.pcfg p) v) }) ∧
  (∀ o v : W32, (o.getLsbD 3 = true → pcfgAfter o v = o) ∧ (o.getLsbD 3 = false → (pcfgAfter o v).getLsbD 3 = v.getLsbD 3 ∧ (pcfgAfter o v).getLsbD 4 = o.getLsbD 4 ∧ (pcfgAfter o v).extractLsb' 0 3 = if v.toNat % 8 < 6 then v.extractLsb' 0 3 else o.extractLsb' 0 3)) ∧
  (∀ s p k (o : LinkOffer) ok l, p < 7 → s.links.filter (fun l => l.port == p) = [l] → l.up = true → l.link = k → l.contained = false → k < linksOf (mget 0 s.bifurc p) → exec (.linkTraining p k none o ok) s = .next { s with links := s.links.filter (fun l => !(l.port == p && l.link == k)) ++ [({ l with first := (lanesOfLink (mget 0 s.bifurc p) k).1, width := (lanesOfLink (mget 0 s.bifurc p) k).2 } : Link).trained o ok] }) ∧
  (∀ (l : Link) b z w p ok, (l.trained (.pcie b z) ok).cxl = false ∧ (l.trained (.cache b z) ok).cxl = false ∧ (l.trained (.pcie b z) ok).up = ok ∧ (l.trained (.cache b z) ok).up = ok ∧ (l.trained (.mem b z w p) ok).cxl = true ∧ ((l.trained (.mem b z w p) ok).up = true → w ∈ [1, 2, 4, 8] ∧ p < w)) ∧
  (lanesOfLink 0 0 = (0, 16) ∧ (∀ k, k < 2 → lanesOfLink 1 k = (8 * k, 8)) ∧ (∀ k, k < 4 → lanesOfLink 2 k = (4 * k, 4)) ∧ lanesOfLink 5 0 = (0, 8) ∧ lanesOfLink 5 1 = (8, 4) ∧ lanesOfLink 5 2 = (12, 4)) ∧
  (∀ s core p va k i, core < 192 → k ≤ 3 → i ∈ [Instr.corePageRequest core p va k, .pageRequestResend core p va k] → exec i s = .next (match s.demand core p (va % 2 ^ 56) (needOf k) with | .wait => s.askPage core p (va % 2 ^ 56) k | _ => s)) ∧
  (∀ s n ok, (∀ q, s.coreReqs[n]? = some q → q.ans = none → exec (.pageRequestAnswer false n ok) s =
      .next { s with coreReqs := if ok then s.coreReqs.eraseIdx n else s.coreReqs.modify n (fun q => { q with ans := some false }), agenda := s.agenda ++ s.waiting, waiting := [] }) ∧
    (∀ q, s.epReqs[n]? = some q → ok = true → exec (.pageRequestAnswer true n ok) s = .next { s with epReqs := s.epReqs.eraseIdx n, answers := .pageResponse q.src q.page true :: s.answers })) ∧
  (∀ s (v : W64), s.shoot.busy = false → exec (.shootdownStart v) s = .next { s with shoot := { pasid := s.shoot.pasid, va := bitsOf v.toNat 12 44 * 4096, sz := bitsOf v.toNat 7 2, all := bitOf v.toNat 6, mig := bitOf v.toNat 5, busy := true, since := s.cycle, mark := s.nextId }, functions := s.functions.map (fun f => if f.ats ∧ ¬ f.refused ∧ (s.reqPasid f (some s.shoot.pasid)).isSome then { f with atsWait := true } else f) }) ∧
  (∀ s rid, exec (.atsInvalidateCompletion rid) s = .next { s with functions := s.functions.map (fun f => if f.rid = rid then { f with atsWait := false } else f) }) ∧
  (∀ s rid f, s.fn? rid = some f → s.shoot.busy = true → f.atsWait = true → s.shoot.since + 2 ^ 24 ≤ s.cycle → exec (.atsTimeout rid) s =
    .next (({ s with shoot := { s.shoot with atsto := true }, functions := s.functions.map (fun f => if f.rid = rid then { f with atsWait := false, refused := true } else f) } : State).logRec { unit := 4, code := 0x18, sev := 2, ten := f.ten.getD 0xFF, src := 10, pasid := s.shoot.pasid, va := s.shoot.va, aux := rid })) ∧
  (∀ s id c k w, s.copy? id = some c → c.owner = .wg k 0 → s.wg? k = some w → s.shoot.busy = true → s.shoot.mig = false → s.shoot.since + 4096 ≤ s.cycle → s.chunkOpen (fun k => k.id == id) = false → ∀ fspc d, s.shotPin c = some fspc → d = ({ c with replay := true, abandons := c.abandons + 1, inRow := if c.rep = c.repAt then c.inRow + 1 else 1, repAt := c.rep } : Copy) → d.inRow < 16 →
    exec (.copyAbandon id) s = .next (({ s.setCopy d with shoot := { s.shoot with abandon := min (s.shoot.abandon + 1) 0xFFFF } } : State).logRec { unit := c.die, code := 0x14, ten := w.ten, src := c.logSrc, uno := c.logUnit, ctx := w.ctx, pasid := c.pasid, va := s.shoot.va, aux := d.abandons })) ∧
  (∀ s, s.shoot.busy = true → s.functions.all (fun f => !f.atsWait) = true → s.storeQ = [] → s.posted = [] → s.devLoads = [] → s.copies = [] → exec .shootdownComplete s = .next { s with shoot := { s.shoot with busy := false }, forwards := s.forwards.map (fun f => if s.shoot.mig ∧ s.shotMoves f then { f with shot := true, mark := s.nextId } else f) }) ∧
  (∀ s (v : W32) size src dst bad, s.mig.busy = false → v.getLsbD 31 = true → size = migSize (v.toNat % 4) → src = s.mig.src / size * size → dst = s.mig.dst / size * size → bad = s.migrationBad src dst size (v.toNat % 4) → exec (.migrationGo v) s =
    .next (if bad ≠ 0 then ({ s with mig := { s.mig with msz := v.toNat % 4, mstat := bad } } : State).logRec { unit := 4, code := 0x43, ten := s.tenAt src, src := 6, pa := src, aux := bad } else { s with mig := { s.mig with msz := v.toNat % 4, src := src, dst := dst, busy := true, mstat := 0 } })) ∧
  (∀ s m size u, s.mig = m → size = migSize m.msz → m.busy = true → s.rangeQuiet m.src size = true → s.rangeQuiet m.dst size = true → s.poison = [] → s.storeQ = [] → u = (((s.recallRange m.src size).recallRange m.dst size).moveData m.src m.dst size).moveNames m.src m.dst size →
    u.storeQ = [] → exec .migrationComplete s = .next ({ u with mig := { m with busy := false, mstat := 0 }, forwards := u.forwards ++ [{ src := m.src, dst := m.dst, size := size }], agenda := u.agenda ++ u.waiting, waiting := [] })) ∧
  (∀ s i f, s.forwards[i]? = some f → exec (.forwardingRemoved i) s = .next (if f.shot = true ∧ s.forwardPinned f = false then { s with forwards := s.forwards.eraseIdx i } else s)) ∧
  (∀ s u p, exec (.eccError u true p) s = .next (({ s with ceTimes := mset [] s.ceTimes u ((mget [] s.ceTimes u).filter (fun t => s.cycle < t + 2 ^ 32) ++ [s.cycle]) } : State).modLog u (fun l => { l with cecnt := min (l.cecnt + 1) (2 ^ 64 - 1) }))) ∧
  (∀ (s : State) u core off row arr pa line, ∀ rec_ : Nat → Nat → Nat → Nat → LogRec, rec_ = (fun id src uno pa => { unit := u, code := 0x02, ten := 0xFF, src := src, uno := uno, ctx := 0xFFFFFFFF, pa := pa, aux := id }) →
    exec (.eccError u false (.scratch core off)) s = .next ((s.modCore core (fun c => { c with scrPoison := insertNat (off / 32) c.scrPoison })).logRec (rec_ 0x08 1 core 0)) ∧
    exec (.eccError u false (.accRow core row)) s = .next ((s.modCore core (fun c => { c with accPoison := insertNat row c.accPoison })).logRec (rec_ 0x0A 4 core 0)) ∧
    exec (.eccError u false (.plane core arr true)) s = .next ((s.modCore core (fun c => { c with arrays := c.arrays.modify arr (fun a => { a with live := { a.live with poison := true } }) })).logRec (rec_ 0x0B 4 core 0)) ∧
    exec (.eccError u false (.l1 core line)) s = .next (({ s with l1 := s.l1.filter (fun l => !(l.core == core && l.addr == line)) } : State).logRec (rec_ 0x0C 1 core (128 * line))) ∧
    exec (.eccError u false (.hbm pa)) s = .next ((s.poisonSectors pa 1).logRec (rec_ 0x10 7 0 pa))) ∧
  (∀ (s : State) u key w i idx lane g, s.wg? key = some w → w.groups[i]? = some g → exec (.eccError u false (.register key i 0 idx lane)) s =
    .next ((s.modGrp key i (fun g => { g with rpoison := insertNat (regKey lane .v idx) g.rpoison })).logRec { unit := u, code := 0x02, ten := w.ten, src := 1, uno := g.core, ctx := w.ctx, pa := 0, aux := 1 })) ∧
  (∀ s key g pos pipe n x, (({ wg := key, grp := g, pos := pos } : Focus).lookup s) = some x → x.sp.phase = .ready → 3 ≤ n → ∀ word, word = BitVec.ofNat 96 (leNat ((s.vread x.gr.pasid (codeAddr x.gr.k.codeBase x.sp.wi) 12).getD [])) → exec (.pipelineParity key g pos pipe n) s =
    .next ((s.logRec { unit := x.die, code := 0x04, ten := x.wg.ten, src := 1, uno := x.g.core, ctx := x.wg.ctx, pasid := x.gr.pasid, aux := pipe }).takeTrap x { cause := 0x0F, sub := 3, lane := x.trapLane (wordCommon word), val := BitVec.ofNat 64 (destName word) })) ∧
  (∀ s u, u ≤ 4 → exec (.logCounterReadClear u 0x0C) s = .next (({ s with answers := .data (leBytes 4 (s.log u).lost) :: s.answers } : State).modLog u (fun l => { l with lost := 0 })) ∧
    exec (.logCounterReadClear u 0x18) s = .next (({ s with answers := .data (leBytes 8 (s.log u).cecnt) :: s.answers } : State).modLog u (fun l => { l with cecnt := 0 }))) ∧
  (∀ s (v : W64) n, n < 24 → exec (.registerWrite (0xF000000040000 + 0x100 * n) 4 (some v)) s = .next (if v.toNat % 128 = 0 ∨ 64 < v.toNat % 128 then s else s.modSteward n (fun k => { k with lease := v.toNat % 128 }))) ∧
  (∀ s (v : W64), s.mig.busy = false → exec (.registerWrite 0xF000000030040 8 (some v)) s = .next { s with mig := { s.mig with src := v.toNat } }) ∧
  (∀ s a n, n ≤ 8 → exec (.registerWrite a n none) s = .next { s.clearRead a n with answers := .data (s.readReg a n) :: s.answers }) ∧
  (∀ (s : State) n, n < 24 → s.readReg (0xF000000040000 + 0x100 * n) 4 = leBytes 4 (s.steward n).lease ∧ s.readReg (0xF000000040004 + 0x100 * n) 4 = [0, 0, 0, 0]) ∧
  (∀ (s : State) u, u ≤ 4 → s.readReg (0xF00000005000C + 0x40 * u) 4 = leBytes 4 (s.log u).lost ∧ ((s.clearRead (0xF00000005000C + 0x40 * u) 4).log u).lost = 0)

/-- The Trust Anchor, the management port and the answers to failures of the system act by their rules (R409, R410, R414, R415, R417, R465, R467, R469, R475, R479, R482, R484). -/
def Obligations.TrustAndSystem : Prop :=
  (∀ (s : State) n f, (s.mbox.status = 0 → s.mail n f = s) ∧ (s.mbox.status ≠ 0 → (f s = none → s.mail n f = { s with mbox := { s.mbox with cmd := n, status := 2 } }) ∧
    (∀ t, f s = some t → s.mail n f = { t with mbox := { t.mbox with cmd := n, status := 1 } }))) ∧
  (∀ s n key i t, s.mbox.status ≠ 0 → i < 16 → t = (n + i) % 16 → (s.ten t).st = 0 → (∀ j < i, (s.ten ((n + j) % 16)).st ≠ 0) → exec (.create n key) s =
    .next { s.modTen t (fun _ => { st := 1, key := some key }) with mbox := { s.mbox with cmd := 1, status := 1 } }) ∧
  (∀ s n key, s.mbox.status ≠ 0 → (∀ t < 16, (s.ten t).st ≠ 0) → exec (.create n key) s = .next { s with mbox := { s.mbox with cmd := 1, status := 2 } }) ∧
  (∀ s t b, s.mbox.status ≠ 0 → t < 16 → b = s.cohRead s.mbox.arg 256 →
    (((s.ten t).st = 1 ∨ (s.ten t).st = 2) → entryOk b = true → s.poisoned s.mbox.arg 256 = false → exec (.stage t) s = .next { s with staged := mput s.staged t (Tenancy.ofBytes (s.ten t) b), mbox := { s.mbox with cmd := 2, status := 1 } }) ∧
    ((s.ten t).st ≠ 1 ∧ (s.ten t).st ≠ 2 ∨ entryOk b = false → exec (.stage t) s = .next { s with mbox := { s.mbox with cmd := 2, status := 2 } })) ∧
  (∀ s, s.mbox.status ≠ 0 ∨ s.mbox.cmd = 3 →
    (s.mapOk = false → exec .commit s = .next { s with held := [], mbox := { s.mbox with cmd := 3, status := 2 } }) ∧
    (s.mapOk = true → (∀ w ∈ s.wgs, w.phase = .saved ∨ w.region ∉ s.movedRegions) → s.newMode = s.l2mode → (∀ n ∈ s.movedRegions, (s.steward n).sstat ≠ 0) → ∃ t : State, exec .commit s = .next t ∧ t.mbox = { s.mbox with cmd := 3, status := 1 } ∧ t.staged = [] ∧ t.held = [] ∧
      (∀ n < 24, (t.steward n).ten = s.newOwner n) ∧ (∀ c ∈ t.mem, s.newlyGranted c.1 = false) ∧ (∀ c ∈ s.mem, s.newlyGranted c.1 = false → c ∈ t.mem)) ∧
    (∀ n, s.mapOk = true → (∀ w ∈ s.wgs, w.phase = .saved ∨ w.region ∉ s.movedRegions) → s.newMode = s.l2mode → s.movedRegions = [n] → (s.steward n).sstat = 0 → exec .commit s =
      .next ((({ s with held := (s.staged.map Prod.fst ++ [(s.steward n).ten]).eraseDups, mbox := { s.mbox with cmd := 3, status := 0 } } : State).modSteward n (fun k => { k with sstat := 1 })).waitEvent .commit))) ∧
  (∀ s w, s.mbox.status ≠ 0 → s.mapOk = true → s.wgs = [w] → w.phase = .resident → w.region ∈ s.movedRegions → exec .commit s =
    .next ((({ s with held := (s.staged.map Prod.fst ++ s.movedRegions.map (fun n => (s.steward n).ten)).eraseDups, mbox := { s.mbox with cmd := 3, status := 0 } } : State).askHalt w.key false).waitEvent .commit)) ∧
  (∀ s n, s.mbox.status ≠ 0 → n < 16 → (s.ten n).st ≠ 0 → (s.ten n).st ≠ 3 → ∃ t : State, exec (.destroy n) s = .next t ∧ (t.ten n).st = 0 ∧ (t.ten n).key = none ∧ t.mbox.status = 1 ∧ (∀ w ∈ t.wgs, w.ten ≠ n) ∧ (∀ g ∈ t.grids, g.ten ≠ n) ∧ (∀ k ∈ t.nodes, k.ten ≠ n) ∧ (∀ f ∈ t.functions, f.ten ≠ some n) ∧ (∀ m < 24, (t.steward m).ten ≠ n)) ∧
  (∀ (s : State) n, (∀ w ∈ (s.terminate n).wgs, w.ten ≠ n) ∧ (∀ g ∈ (s.terminate n).grids, g.ten ≠ n) ∧ ((s.terminate n).ten n).st = 4 ∧ ((s.terminate n).ten n).key = none) ∧
  (∀ s n, s.mbox.status ≠ 0 → n < 16 → (s.ten n).st ≠ 0 → ∀ t : State, t = (({ s with free := s.free + 4 } : State).hubPut s.mbox.arg (s.report n ((List.range 4).flatMap (fun i => leBytes 8 (Config.freeValue (s.free + i)).toNat)))).1 → exec (.report n) s = .next { t with mbox := { t.mbox with cmd := 5, status := 1 } }) ∧
  (∀ s k img v svn ok f, s.mbox.status ≠ 0 → k < 8 → f = mget {} s.fw k →
    (ok = true → f.minSvn ≤ svn → exec (.fwupd k img v svn ok) s = .next { s with fw := mset {} s.fw k { f with ver := v, svn := svn, image := img, sigOk := true }, mbox := { s.mbox with cmd := 6, status := 1 } }) ∧
    (ok = false ∨ svn < f.minSvn → exec (.fwupd k img v svn ok) s = .next { s with mbox := { s.mbox with cmd := 6, status := 2 } })) ∧
  (∀ s rid p t run f b, s.mbox.status ≠ 0 → f ∈ s.functions → f.rid = rid → f.port = p → f.ten = some t → b = { s.mbox with cmd := 7, status := 1 } → ∀ fs, fs = s.functions.map (fun f => if f.rid = rid then { f with tdisp := if run then 2 else 1 } else f) →
    (s.ide.contains (p, some rid) = true → exec (.idekey (some rid) p t run) s = .next { s with functions := fs, mbox := b }) ∧
    (s.ide.contains (p, some rid) = false → (s.ide.filter (fun e => e.1 == p && e.2.isSome)).length < 8 → exec (.idekey (some rid) p t run) s = .next { s with ide := (p, some rid) :: s.ide, functions := fs, mbox := b }) ∧
    (s.ide.contains (p, some rid) = false → 8 ≤ (s.ide.filter (fun e => e.1 == p && e.2.isSome)).length → exec (.idekey (some rid) p t run) s = .next { s with mbox := { s.mbox with cmd := 7, status := 2 } })) ∧
  (∀ s p t run, s.mbox.status ≠ 0 → p < 8 → exec (.idekey none p t run) s = .next { s with ide := if s.ide.contains (p, none) then s.ide else (p, none) :: s.ide, mbox := { s.mbox with cmd := 7, status := 1 } }) ∧
  (∀ s t w, exec (.readTelemetry t w) s = .next { s with telemetry := [t, w, boolNat (s.power ≤ w)] } ∧ exec (.setPowerLimit w) s = .next (if 600 ≤ w ∧ w ≤ 2800 then { s with power := w } else s)) ∧
  (∀ s, exec .readBootStatus s = .next { s with telemetry := [boolNat s.booted, s.bootFail.getD 0xFF] } ∧ exec .readCertChain s = .next { s with answers := .data Config.certChain :: s.answers }) ∧
  (∀ s k img v svn ok f, k < 8 → f = mget {} s.fw k →
    (ok = true → f.minSvn ≤ svn → ∀ u : State, u = { s with recMbox := [5, 1, img.length], recImage := img, fw := mset {} s.fw k { f with ver := v, svn := svn, image := img, sigOk := true } } →
      (s.bootFail = none → exec (.recoveryLoad k img v svn ok) s = .next u) ∧
      (s.bootFail = some 2 → k = 2 → exec (.recoveryLoad k img v svn ok) s = .next { u with fw := mset {} u.fw 2 { mget {} u.fw 2 with loaded := some (v, img) }, booted := true, bootFail := none })) ∧
    (ok = false ∨ svn < f.minSvn → exec (.recoveryLoad k img v svn ok) s = .next { s with recMbox := [5, 2, img.length], recImage := img })) ∧
  (∀ s n, n ≤ 1151 → s.effUp = [] → exec (.setDevnum n) s = .next (if s.devnumSet then s else { s with devnum := n, devnumSet := true })) ∧
  (∀ s (v : W64), v.toNat < 2 ^ 40 → exec (.epwinWrite v) s = .next { s with epwin := v.toNat / 2 ^ 30 * 2 ^ 30 + v.toNat % 2 }) ∧
  (∀ s p, 0x10 ≤ p → p ≤ 0x21 → s.devnumSet = true → exec (.linkAuthentication p true) s = .next { s with effAuth := insertNat p s.effAuth, effUp := insertNat p s.effUp } ∧
    exec (.linkAuthentication p false) s = .next { s with effAuth := s.effAuth.filter (· != p), effUp := s.effUp.filter (· != p) }) ∧
  (∀ s, ∃ t : State, exec .coldReset s = .next t ∧ t.mem = s.mem ∧ t.poison = s.poison ∧ t.fuse = s.fuse ∧ t.substs = s.substs ∧ t.wgs = [] ∧ t.grids = [] ∧ t.queues = [] ∧ t.lines = [] ∧ t.effUp = [] ∧ t.devnumSet = false ∧
    (t.booted = true ↔ ∀ k < 8, imageOk (mget {} s.fw k) (mget {} s.fw k).svn (mget {} s.fw k).sigOk = true)) ∧
  (∀ s w d s1, (w < 4 ∨ (8 ≤ w ∧ w < 32)) → d = s.watchdog w → s1 = s.modWatchdog w (fun d => { d with kicked := s.cycle, wmax := d.nextMax, wmin := d.nextMin }) → d.wmin < d.wmax →
    (d.kicked + 1024 * d.wmin ≤ s.cycle → exec (.watchdogKick w) s = .next s1) ∧ (s.cycle < d.kicked + 1024 * d.wmin → exec (.watchdogKick w) s = .next (s1.restartFw w 1))) ∧
  (∀ s w e, w < 4 → (s.qfeCore w).stopped = false →
    ((s.qfeCore w).restart = none → (e = true → exec (.watchdogExpiry w e) s = .next (s.restartFw w 3)) ∧ (e = false → exec (.watchdogExpiry w e) s = .next (if (s.watchdog w).kicked + 1024 * (s.watchdog w).wmax < s.cycle then s.restartFw w 2 else s))) ∧
    (∀ t, (s.qfeCore w).restart = some t → t ≤ s.cycle → (s.qfeCore w).slots = [] → (∀ i < 64, (s.queue (64 * w + i)).st ≠ 1) → exec (.watchdogExpiry w e) s = .next (s.modQfe w (fun c => { c with restart := none })))) ∧
  (∀ s n e, n < 24 → (s.steward n).sstat ≠ 3 →
    ((s.steward n).downUntil = none → exec (.watchdogExpiry (8 + n) e) s = .next (if e = true then s.restartFw (8 + n) 3 else if (s.watchdog (8 + n)).kicked + 1024 * (s.watchdog (8 + n)).wmax < s.cycle then s.restartFw (8 + n) 2 else s)) ∧
    (∀ t, (s.steward n).downUntil = some t → t ≤ s.cycle → exec (.watchdogExpiry (8 + n) e) s = .next (s.modSteward n (fun k => { k with downUntil := none, seen := [] })))) ∧
  (∀ (s : State) w cause times, w < 4 → times = s.lately (s.qfeCore w).times →
    (times.length < 8 → ∃ t, s.cycle ≤ t ∧ t < s.cycle + 2 ^ 22 ∧ s.restartQfe w cause = ((({ s.logRec { unit := 4, code := 0x50, sev := 1, src := 8, uno := w, aux := w + 256 * cause } with free := s.free + 1 } : State).modQfe w (fun c => { c with restart := some t, times := times, took := [], step := 0 })).waitEvent (.watchdogExpiry w false))) ∧
    (8 ≤ times.length → (∀ i < 64, (s.queue (64 * w + i)).st ≠ 1) → s.restartQfe w cause = (s.logRec { unit := 4, code := 0x50, sev := 2, src := 8, uno := w, aux := w + 256 * cause }).modQfe w (fun c => { c with stopped := true, restart := none, times := times }))) ∧
  (∀ (s : State) n times, n < 24 → times = s.lately (s.steward n).restarts → times.length < 3 → ∃ t, s.cycle ≤ t ∧ t < s.cycle + 2 ^ 22 ∧ s.restartSteward n =
    ((({ s.logRec { unit := 4, code := 0x51, sev := 1, ten := (s.steward n).ten, src := 11, uno := 8 * n, aux := n + 256 * times.length } with free := s.free + 1 } : State).modSteward n (fun k => { k with restarts := times, downUntil := some t })).waitEvent (.watchdogExpiry (8 + n) false))) ∧
  (∀ s p k rid (st : W32) id q, exec (.rootPortError p k rid st .correctable) s = .next (s.corrected 4) ∧ exec (.rootPortError p k rid st (.loadFails id)) s = .next ((s.poisonLoad id).logPcie rid st.toNat) ∧
    exec (.rootPortError p k rid st (.poisonedWrite q)) s = .next { s with agenda := .endpointDmaWrite { q with poisoned := true } :: s.agenda } ∧
    ∃ t : State, exec (.rootPortError p k rid st .fatal) s = .next t ∧ (∀ l ∈ t.links, l.port = p → l.link = k → l.up = false ∧ l.contained = true) ∧ (∀ l ∈ s.links, l.port ≠ p ∨ l.link ≠ k → l ∈ t.links)) ∧
  (∀ s p k rid (st : W32) d, d ∈ s.devLoads → d.port = p → d.ans = none → d.since + 2 ^ 26 ≤ s.cycle → exec (.completionTimeout p k rid st d.id) s = .next ((s.poisonLoad d.id).logPcie rid st.toNat)) ∧
  (∀ s p k, exec (.containmentRelease p k) s = .next { s with links := s.links.map (fun l => if l.port = p ∧ l.link = k then { l with contained := false } else l), functions := s.functions.map (fun f => if f.port = p ∧ f.link = k then { f with refused := false, atsWait := false } else f) }) ∧
  (∀ s pa ok l, s.line? 4 (pa / 128) = some l → s.restarting = false →
    (l.st = .s → exec (.systemLineUncorrectable pa ok) s = .next (s.dropLine 4 (pa / 128))) ∧
    (l.st = .m ∨ l.st = .o → ∀ h u, h = s.home (pa / 128) → u = (s.removeOwner 4 (pa / 128)).setHome { h with owner := none, st := if h.sharers = [] then .i else .s } →
      (∀ t, s.carveOwner pa = some t → exec (.systemLineUncorrectable pa ok) s = .next ((u.logRec { unit := 4, code := 0x57, sev := 2, ten := t, src := 12, pa := pa, aux := 0 }).terminate t)) ∧
      (s.carveOwner pa = none → ∀ r : State, r = u.logRec { unit := 4, code := 0x57, sev := 2, src := 12, pa := pa, aux := 1 } → ∀ f : State, f = { r with restarting := true, tens := r.tens.map (fun e => if e.2.st = 2 then (e.1, { e.2 with st := 3 }) else e) } →
        ((∀ w ∈ f.wgs, w.phase = .saved) → exec (.systemLineUncorrectable pa ok) s = .next (f.finishRestart ok)) ∧
        (∀ w, f.wgs = [w] → w.phase = .resident → (f.ten w.ten).st = 3 → exec (.systemLineUncorrectable pa ok) s = .next ((f.askHalt w.key false).waitEvent (.systemLineUncorrectable pa ok)))))) ∧
  (∀ s p lane, 0x10 ≤ p → p ≤ 0x21 → exec (.laneRetrain p lane) s = .next (if p ∈ s.laneSpare then s.logRec { unit := 4, code := 0x5B, sev := 2, src := 10, aux := 6 + 256 * lane } else ({ s with laneSpare := insertNat p s.laneSpare } : State).logRec { unit := 4, code := 0x54, src := 10, aux := p + 256 * lane })) ∧
  (∀ s p u, u = ({ s with effUp := s.effUp.filter (· != p) } : State) →
    ((∀ r ∈ s.routes, p ∉ r.2) → exec (.portDownReroute p) s = .next (u.logRec { unit := 4, code := 0x58, sev := 1, src := 6, aux := p })) ∧
    (∀ d ports, s.routes = [(d, ports)] → p ∈ ports → exec (.portDownReroute p) s = .next (u.logRec { unit := 4, code := 0x58, sev := if ∃ q ∈ ports, q ∈ s.effUp ∧ q ≠ p then 1 else 2, src := 6, aux := p + 256 * d }))) ∧
  (∀ s d, ∃ t : State, exec (.routeLost d) s = .next t ∧ t.routes = mput s.routes d [] ∧ t.fabric.length = s.fabric.length ∧
    (∀ f ∈ s.fabric, ∀ r, f.op = .load r → bitsOf f.ptr 49 11 = d → f.vis = none → f.ans = none → { f with ans := some .poison } ∈ t.fabric)) ∧
  (∀ s d m, d < 4 → m ≤ 2 → (∀ w ∈ s.wgs, w.phase = .saved ∨ ∀ c ∈ w.cores, dieOfCore c ≠ d) → exec (.arbiterModeWrite d m) s = .next (s.modArbiter d (fun a => { mode := m, base := a.base, size := a.size }))) ∧
  (∀ s d kind src tgt ev a s1, a = s.arbiter d → s1 = s.modArbiter d (fun a => { a with seq := a.seq + 1 }) →
    (a.mode = 0 → exec (.nondeterministicEvent d kind src tgt ev) s = .next (s1.passOn [ev])) ∧
    (a.mode = 1 → 16 * (a.seq + 1) ≤ a.size → ∀ u : State, u = s.hubWrite (a.base + 16 * a.seq) (leBytes 1 kind ++ leBytes 3 0 ++ leBytes 4 src ++ leBytes 8 tgt) → exec (.nondeterministicEvent d kind src tgt ev) s = .next ((u.modArbiter d (fun a => { a with seq := a.seq + 1 })).passOn [ev])) ∧
    (a.mode = 1 → a.size < 16 * (a.seq + 1) → exec (.nondeterministicEvent d kind src tgt ev) s = .next ((s.modArbiter d (fun a => { a with mode := 0, ovf := true, seq := a.seq + 1 })).passOn [ev]))) ∧
  (∀ (s : State) ev, (s.passOn [ev]).agenda = ev :: s.agenda) ∧
  (∀ s d a, a = s.arbiter d → a.mode = 2 → a.held ≠ [] → (∀ t, a.waitSince = some t → t + 2 ^ 24 ≤ s.cycle → exec (.replayDivergence d) s = .next (s.diverge d)) ∧ (∀ t, a.waitSince = some t → s.cycle < t + 2 ^ 24 → exec (.replayDivergence d) s = .next s)) ∧
  (∀ s k u i x, x = ({ kind := k, unit := u, idx := i } : Subst) → x ∉ s.worn →
    (x.real = false → exec (.wearThreshold k u i) s = .next s) ∧
    (x.real = true → s.spareLeft x = true → exec (.wearThreshold k u i) s = .next { s with worn := s.worn ++ [x] }) ∧
    (x.real = true → s.spareLeft x = false → x ∉ s.wornOut → exec (.wearThreshold k u i) s = .next (({ s with wornOut := s.wornOut ++ [x] } : State).logRec { unit := 4, code := 0x5B, sev := 2, src := 12, aux := kindNo k + 256 * (i % 2 ^ 16) }))) ∧
  (∀ s k u i x t, x = ({ kind := k, unit := u, idx := i } : Subst) → x ∈ s.worn → x.real = true → t = (({ s with worn := s.worn.erase x, substs := s.substs ++ [x] } : State).logRec { unit := 4, code := 0x5A, sev := 1, src := 12, aux := kindNo k + 256 * (i % 2 ^ 16) }) →
    (k ∈ [SpareKind.row, .channel] → exec (.spareSubstitution k u i) s = .next t) ∧
    (k = .hart → exec (.spareSubstitution k u i) s = .next (t.modHart i (fun h => { h with spare := true }))) ∧
    (k = .core → (∀ w ∈ s.wgs, w.phase = .saved ∨ i ∉ w.cores) → exec (.spareSubstitution k u i) s = .next (t.moveSite i)) ∧
    (k = .l2way → (∀ l ∈ s.lines, ¬ (l.agent = u ∧ s.sliceOf u l.ten (128 * l.addr) = i)) → exec (.spareSubstitution k u i) s = .next t)) ∧
  (∀ s u i x, x = ({ kind := .lane, unit := u, idx := i } : Subst) → x ∈ s.worn → exec (.spareSubstitution .lane u i) s = .next (({ s with laneSpare := insertNat u s.laneSpare, worn := s.worn.erase x, substs := s.substs ++ [x] } : State).logRec { unit := 4, code := 0x5A, sev := 1, src := 12, aux := 6 + 256 * (i % 2 ^ 16) }))

/-- What reset leaves (R6, R14, R66, R77, R379, R393, R407, R442, R448, R450, R465, R481). -/
def Obligations.ResetState : Prop :=
  State.reset.cycle = 0 ∧ State.reset.clocks = [0, 0, 0, 0, 0] ∧
  (∀ c k, mget 0 (State.reset.core c).scr k = 0 ∧ mget 0 (State.reset.core c).acc k = 0 ∧ (State.reset.core c).scrPoison = [] ∧ (State.reset.core c).accPoison = [] ∧ ∀ n, ((State.reset.core c).array n).live.valid = false ∧ ((State.reset.core c).array n).live.cols = [] ∧ ((State.reset.core c).array n).owner = none) ∧
  (∀ r, (State.reset.region r).compute = false ∧ (State.reset.region r).moving = false) ∧
  State.reset.wgs = [] ∧ State.reset.grids = [] ∧ State.reset.nodes = [] ∧ State.reset.views = [] ∧ State.reset.lines = [] ∧ State.reset.l1 = [] ∧ State.reset.copies = [] ∧ State.reset.doorbells = [] ∧ State.reset.forwards = [] ∧
  (∀ q, (State.reset.queue q).st = 0) ∧ (∀ t, (State.reset.ten t).st = 0) ∧
  (∀ n, (State.reset.steward n).lease = 8 ∧ (State.reset.steward n).ten = 0xFF ∧ (State.reset.steward n).sstat = 0) ∧
  (∀ w, (State.reset.watchdog w).wmax = 0x0400 ∧ (State.reset.watchdog w).wmin = 0x0010 ∧ (State.reset.watchdog w).cause = 0 ∧ (State.reset.watchdog w).restarts = 0) ∧
  (∀ u, State.reset.log u = { base := 0, log2n := 0, vec := 0, lost := 0, head := 0, tail := 0, cecnt := 0 }) ∧
  State.reset.mig = { src := 0, dst := 0, busy := false, mstat := 0, msz := 0 } ∧ State.reset.shoot.busy = false ∧ State.reset.shoot.pasid = 0 ∧ State.reset.shoot.abandon = 0 ∧ State.reset.shoot.atsto = false ∧
  (∀ d, (State.reset.arbiter d).mode = 0 ∧ (State.reset.arbiter d).seq = 0 ∧ (State.reset.arbiter d).ovf = false ∧ (State.reset.arbiter d).div = false) ∧
  (∀ i, mget 0 State.reset.iat i = 0) ∧ (∀ p, mget 0 State.reset.pcfg p = 0) ∧
  State.reset.devnumSet = false ∧ State.reset.effUp = [] ∧ (∀ pa n, State.reset.rawRead pa n = List.replicate n 0) ∧
  State.reset.Inv

/-- Words written out from the encodings decode to their instructions (R106, R109, R114, R118, R120, R121, R123, R124, R125). -/
def Obligations.DecodeWords : Prop :=
  (∀ c v, c = ({ mod := 0, j := false, u := false, pneg := false, prd := 0 } : Common) → v = (fun n => (Opnd.reg .v 0 n : Opnd)) →
    decode (0x00002#20 ++ 0#14 ++ 0x0002#14 ++ 0x0001#14 ++ 0x0005#14 ++ 0x0#4 ++ 0b000#3 ++ 0b000#3 ++ 0x008#10) = .ok (.iadd { com := c, d := v 5, a := v 1, b := v 2, c := v 0, fn := 0, ty2 := 0, ty := 0x2 }) ∧
    decode (0x00002#20 ++ 0#14 ++ 0x0002#14 ++ 0b11000000000110#14 ++ 0x0005#14 ++ 0x0#4 ++ 0b000#3 ++ 0b000#3 ++ 0x008#10) = .ok (.iadd { com := c, d := v 5, a := .chan true 6, b := v 2, c := v 0, fn := 0, ty2 := 0, ty := 0x2 }) ∧
    decode (0x00002#20 ++ 0#14 ++ 0x0002#14 ++ 0b10000000010110#14 ++ 0x0005#14 ++ 0x0#4 ++ 0b000#3 ++ 0b000#3 ++ 0x008#10) = .error .reserved ∧
    decode (0x012345678#34 ++ 0x0002#14 ++ 0#14 ++ 0x0007#14 ++ 0x0#4 ++ 0b001#3 ++ 0b010#3 ++ 0x001#10) = .ok (.movi { com := { c with pneg := true, prd := 2 }, d := v 7, a := v 0, ty := 0x2, imm := 0x012345678 }) ∧
    decode (0x00010#20 ++ 0x0002#14 ++ 0#14 ++ 0x000A#14 ++ 0x0003#14 ++ 0x8#4 ++ 0b000#3 ++ 0b000#3 ++ 0x180#10) = .ok (.ld { com := { c with mod := 8 }, d := v 3, a := v 10, b := v 0, nt := false, io := false, scope := 0, ord := 0, sph := 0, sgn := false, sz := 2, off := 16 }) ∧
    decode (0#20 ++ 0#14 ++ 0#14 ++ 0#14 ++ 0#14 ++ 0x0#4 ++ 0b000#3 ++ 0b000#3 ++ 0x308#10) = .ok (.exit { com := c, d := v 0, a := v 0, b := v 0, c := v 0, fn := 0, ty2 := 0, ty := 0 }) ∧
    decode (0b00#2 ++ 0xFFFFFFFD#32 ++ 0#14 ++ 0#14 ++ 0#14 ++ 0x0#4 ++ 0b000#3 ++ 0b000#3 ++ 0x300#10) = .ok (.bra { com := c, d := v 0, a := v 0, b := v 0, kind := 0, off := 0xFFFFFFFD }) ∧
    decode (0b000000000000001#15 ++ 0b00#2 ++ 0b000#3 ++ 0#14 ++ 0#14 ++ 0#14 ++ 0x0004#14 ++ 0x0#4 ++ 0b000#3 ++ 0b000#3 ++ 0x20D#10) = .ok (.bqry { com := c, d := v 4, a := v 0, b := v 0, c := v 0, eimm := 1, rel := false, acq := false, scope := 0 })) ∧
  decode (0#86 ++ 0x3FF#10) = .ok (.unassignedOpcode 0x3FF) ∧
  (∀ i, decode 0x308 = .ok i → decodeBytes [0x08, 0x03, 0, 0, 0, 0, 0, 0, 0, 0, 0, 0] = .ok (i, []))

/-- Decoding and encoding are inverse on every instruction and every operand (R106, R109, R114, R118, R120, R121, R122, R123, R124, R125). -/
def Obligations.RoundTrip : Prop :=
  (∀ i : Instr, i.raw ≠ none → i.illegal Alloc.max = none → ∃ w, encode i = some w ∧ decode w = .ok i ∧ ∀ rest, decodeBytes (encodeBytes i ++ rest) = .ok (i, rest)) ∧
  (∀ w : W96, opMap (w.toNat % 1024) = none → encode (.unassignedOpcode w) = some w ∧ decode w = .ok (.unassignedOpcode w)) ∧
  (∀ w i, decode w = .ok i → encode i = some w) ∧
  (∀ i : Instr, i.raw = none → (∀ w, i ≠ .unassignedOpcode w) → encode i = none)

/-- A step executes what stands on the agenda, what is due, or the instruction decoded at the picked split (R106, R107, R108, R125, R362, R363, R422). -/
def Obligations.StepRunsDecoded : Prop :=
  (∀ s i rest, s.agenda = i :: rest → step s = exec i { s with agenda := rest }) ∧
  (∀ s i, s.agenda = [] → s.due = some i → step s = exec i s) ∧
  (∀ s, s.agenda = [] → s.due = none → s.pick = none → (∀ i, s.dueLate = some i → step s = exec i s) ∧ (s.dueLate = none → step s = .next s.passCycle)) ∧
  (∀ s f x, s.agenda = [] → s.due = none → s.pick = some f → f.lookup s = some x →
    ∀ t va pa at_ k u bytes word bits, t = s.beginIssue f → va = codeAddr x.gr.k.codeBase x.sp.wi → t.demand x.g.core x.gr.pasid va .exec = .ok pa at_ k → (t.place pa k = .line ∨ t.place pa k = .own) → (t.markPte at_ false).poisoned (pa / 128 * 128) 128 = false →
    (t.markPte at_ false).codeBlock x.g.core x.wg.ten x.sp pa = (u, some bytes) → word = (bytes.drop (12 * (x.sp.wi.toNat % 10))).take 12 → bits = BitVec.ofNat 96 (leNat word) → bytes.drop 120 = List.replicate 8 0 → word.length = 12 →
      (∀ i ps, decodeBytes word = .ok (i, []) → u.pairing (x.pickOf (wordCommon bits) i) = .issues ps → step s = exec i { u with picked := ps }) ∧
      (∀ i, decodeBytes word = .ok (i, []) → u.pairing (x.pickOf (wordCommon bits) i) = .busy → step s = .next (u.holdSplit x)) ∧
      (∀ i, decodeBytes word = .ok (i, []) → u.pairing (x.pickOf (wordCommon bits) i) = .alone → step s = .next (u.passOver x)) ∧
      (decodeBytes word = .error .reserved → step s = .next (u.takeTrap x { cause := 0x01, sub := 2, lane := x.trapLane (wordCommon bits), val := BitVec.ofNat 64 (leNat word) }))) ∧
  (∀ (s : State) (p : Pick), s.picked.filter (fun q => q.sub == p.sub) = [] → p.either = false → s.pairing p = if s.pipeFree p.sub p.pipe then .issues (p :: s.picked) else .busy) ∧
  (∀ (base : Nat) (wi : W32), base + wi.toNat / 10 * 128 + 128 ≤ 2 ^ 56 → codeAddr base wi = base + wi.toNat / 10 * 128 + 12 * (wi.toNat % 10)) ∧
  (∀ (s : State) (f : Focus), (s.beginIssue f).mem = s.mem ∧ (s.beginIssue f).focus = some f ∧ (s.beginIssue f).agenda = s.agenda ∧ (s.beginIssue f).picked = s.picked) ∧
  (∀ (s u : State) core ten sp pa bytes, s.codeBlock core ten sp pa = (u, some bytes) → (∃ b ∈ s.icache, b.core = core ∧ b.addr = pa / 128 ∧ (b.stale = none ∨ sp.mayRunOld b = true) ∧ bytes = b.bytes) ∨ ({ core := core, addr := pa / 128, bytes := bytes } : IBlock) ∈ u.icache)

/-- Every step ends in a next state and keeps memory canonical, five clocks and the limits of set registers (R14, R417, R419). -/
def Obligations.StepKeepsInvariant : Prop :=
  ∀ s : State, s.Inv → ∃ t : State, step s = .next t ∧ t.Inv
end

