-- ==== Sys2Proof/Laws/Map.lean ====
section
/-! SUPPORT. Sparse maps: what a key reads as after a write, and that writes keep the canonical form. -/
namespace Sys2Proof.Machine

variable {α : Type}

/-- Every key of a map is larger than a number. -/
def keysAbove (lo : Nat) (m : Map α) : Prop := ∀ e ∈ m, lo < e.1

theorem mwf_cons [DecidableEq α] {d : α} {k : Nat} {v : α} {m : Map α} :
    mwf d ((k, v) :: m) = true ↔ v ≠ d ∧ keysAbove k m ∧ mwf d m = true := by
  induction m generalizing k v with
  | nil => simp [mwf, keysAbove]
  | cons e m ih =>
    obtain ⟨k', v'⟩ := e
    constructor
    · intro h
      simp only [mwf, Bool.and_eq_true, bne_iff_ne, ne_eq, decide_eq_true_eq] at h
      have h2 := ih.mp (by simp only [mwf, Bool.and_eq_true, bne_iff_ne, ne_eq]; exact h.2)
      refine ⟨h.1.1, ?_, ?_⟩
      · intro e he
        rcases List.mem_cons.mp he with rfl | he
        · exact h.1.2
        · exact Nat.lt_trans h.1.2 (h2.2.1 e he)
      · simp only [mwf, Bool.and_eq_true, bne_iff_ne, ne_eq]; exact h.2
    · intro h
      have := h.2.1 (k', v') (by simp)
      simp only [mwf, Bool.and_eq_true, bne_iff_ne, ne_eq, decide_eq_true_eq]
      have h3 := h.2.2
      simp only [mwf, Bool.and_eq_true, bne_iff_ne, ne_eq] at h3
      exact ⟨⟨h.1, this⟩, h3⟩

theorem mget_below {d : α} {m : Map α} {i : Nat} (h : keysAbove i m) : mget d m i = d := by
  induction m with
  | nil => rfl
  | cons e m ih =>
    obtain ⟨k, v⟩ := e
    have := h (k, v) (by simp)
    simp only at this
    have h1 : ¬ i = k := by omega
    simp only [mget, if_neg h1]
    exact ih (fun e he => h e (List.mem_cons_of_mem _ he))

theorem mget_mput_same {d : α} {m : Map α} {i : Nat} {v : α} : mget d (mput m i v) i = v := by
  induction m with
  | nil => simp [mput, mget]
  | cons e m ih =>
    obtain ⟨k, w⟩ := e
    simp only [mput]
    split
    · simp [mget]
    · split
      · simp [mget]
      · rename_i h1 h2; simp [mget, h1, ih]

theorem mget_mput_ne {d : α} {m : Map α} {i j : Nat} {v : α} (h : j ≠ i) : mget d (mput m i v) j = mget d m j := by
  induction m with
  | nil => simp [mput, mget, h]
  | cons e m ih =>
    obtain ⟨k, w⟩ := e
    simp only [mput]
    split
    · subst_vars; simp [mget, h]
    · split
      · simp [mget, h]
      · simp only [mget, ih]

theorem mget_mdel_same {d : α} {m : Map α} {i : Nat} : mget d (mdel m i) i = d := by
  induction m with
  | nil => rfl
  | cons e m ih =>
    obtain ⟨k, w⟩ := e
    simp only [mdel]
    split
    · exact ih
    · rename_i h1; simp [mget, h1, ih]

theorem mget_mdel_ne {d : α} {m : Map α} {i j : Nat} (hj : j ≠ i) : mget d (mdel m i) j = mget d m j := by
  induction m with
  | nil => rfl
  | cons e m ih =>
    obtain ⟨k, w⟩ := e
    simp only [mdel]
    split
    · subst_vars; simp [mget, hj, ih]
    · simp only [mget, ih]

/-- What a key reads as after a write: at the key the value, elsewhere what it was. -/
theorem mget_mset [DecidableEq α] {d : α} {m : Map α} {i j : Nat} {v : α} :
    mget d (mset d m i v) j = if j = i then v else mget d m j := by
  simp only [mset]
  split
  · subst_vars
    split
    · subst_vars; exact mget_mdel_same
    · exact mget_mdel_ne ‹_›
  · split
    · subst_vars; exact mget_mput_same
    · exact mget_mput_ne ‹_›

theorem mget_mset_same [DecidableEq α] {d : α} {m : Map α} {i : Nat} {v : α} : mget d (mset d m i v) i = v := by simp [mget_mset]
theorem mget_mset_ne [DecidableEq α] {d : α} {m : Map α} {i j : Nat} {v : α} (hj : j ≠ i) :
    mget d (mset d m i v) j = mget d m j := by simp [mget_mset, hj]

theorem keysAbove_mdel {lo : Nat} {m : Map α} {i : Nat} (h : keysAbove lo m) : keysAbove lo (mdel m i) := by
  induction m with
  | nil => simpa [mdel] using h
  | cons e m ih =>
    obtain ⟨k, w⟩ := e
    have ht : keysAbove lo m := fun e he => h e (List.mem_cons_of_mem _ he)
    simp only [mdel]
    split
    · exact ih ht
    · intro e he
      rcases List.mem_cons.mp he with rfl | he
      · exact h _ (by simp)
      · exact ih ht e he

theorem keysAbove_mput {lo : Nat} {m : Map α} {i : Nat} {v : α} (h : keysAbove lo m) (hi : lo < i) : keysAbove lo (mput m i v) := by
  induction m with
  | nil => intro e he; simp [mput] at he; subst he; exact hi
  | cons e m ih =>
    obtain ⟨k, w⟩ := e
    have ht : keysAbove lo m := fun e he => h e (List.mem_cons_of_mem _ he)
    simp only [mput]
    split
    · intro e he
      rcases List.mem_cons.mp he with rfl | he
      · exact hi
      · exact ht e he
    · split
      · intro e he
        rcases List.mem_cons.mp he with rfl | he
        · exact hi
        · exact h e he
      · intro e he
        rcases List.mem_cons.mp he with rfl | he
        · exact h _ (by simp)
        · exact ih ht e he

theorem mwf_mdel [DecidableEq α] {d : α} {m : Map α} {i : Nat} (h : mwf d m = true) : mwf d (mdel m i) = true := by
  induction m with
  | nil => rfl
  | cons e m ih =>
    obtain ⟨k, w⟩ := e
    have hw := mwf_cons.mp h
    simp only [mdel]
    split
    · exact ih hw.2.2
    · exact mwf_cons.mpr ⟨hw.1, keysAbove_mdel hw.2.1, ih hw.2.2⟩

theorem mwf_mput [DecidableEq α] {d : α} {m : Map α} {i : Nat} {v : α} (h : mwf d m = true) (hv : v ≠ d) : mwf d (mput m i v) = true := by
  induction m with
  | nil => exact mwf_cons.mpr ⟨hv, by simp [keysAbove], rfl⟩
  | cons e m ih =>
    obtain ⟨k, w⟩ := e
    have hw := mwf_cons.mp h
    simp only [mput]
    split
    · subst_vars; exact mwf_cons.mpr ⟨hv, hw.2.1, hw.2.2⟩
    · split
      · rename_i h2
        refine mwf_cons.mpr ⟨hv, ?_, h⟩
        intro e he
        rcases List.mem_cons.mp he with rfl | he
        · exact h2
        · exact Nat.lt_trans h2 (hw.2.1 e he)
      · exact mwf_cons.mpr ⟨hw.1, keysAbove_mput hw.2.1 (by omega), ih hw.2.2⟩

/-- A write keeps the canonical form. -/
theorem mwf_mset [DecidableEq α] {d : α} {m : Map α} {i : Nat} {v : α} (h : mwf d m = true) : mwf d (mset d m i v) = true := by
  simp only [mset]
  split
  · exact mwf_mdel h
  · exact mwf_mput h ‹_›

/-- Writes at successive keys keep the canonical form. -/
theorem mwf_msetAll [DecidableEq α] {d : α} {m : Map α} {i : Nat} {vs : List α} (h : mwf d m = true) : mwf d (msetAll d m i vs) = true := by
  induction vs generalizing m i with
  | nil => exact h
  | cons v vs ih => exact ih (mwf_mset h)

/-- Leaving entries out keeps the canonical form. -/
theorem mwf_filter [DecidableEq α] {d : α} {m : Map α} (p : Nat × α → Bool) (h : mwf d m = true) : mwf d (m.filter p) = true := by
  induction m with
  | nil => rfl
  | cons e m ih =>
    obtain ⟨k, w⟩ := e
    have hw := mwf_cons.mp h
    rw [List.filter_cons]
    split
    · exact mwf_cons.mpr ⟨hw.1, fun e he => hw.2.1 e (List.mem_filter.mp he).1, ih hw.2.2⟩
    · exact ih hw.2.2

/-- What a key reads as after writes at successive keys. -/
theorem mget_msetAll [DecidableEq α] {d : α} {m : Map α} {i j : Nat} {vs : List α} :
    mget d (msetAll d m i vs) j = if i ≤ j ∧ j < i + vs.length then vs.getD (j - i) d else mget d m j := by
  induction vs generalizing m i with
  | nil => simp only [msetAll, List.length_nil]; rw [if_neg (by omega)]
  | cons v vs ih =>
    simp only [msetAll, List.length_cons]
    rw [ih, mget_mset]
    by_cases h1 : j = i
    · subst h1
      rw [if_neg (by omega), if_pos rfl, if_pos (by omega)]
      simp
    · rw [if_neg h1]
      by_cases h2 : i + 1 ≤ j ∧ j < i + 1 + vs.length
      · rw [if_pos h2, if_pos (by omega)]
        have : j - i = (j - (i + 1)) + 1 := by omega
        rw [this, List.getD_cons_succ]
      · rw [if_neg h2, if_neg (by omega)]

end Sys2Proof.Machine
end

