-- ==== Sys2Proof/Laws/Operands.lean ====
section
/-! SUPPORT. What the shared operations over registers do: writing one lane, all executing lanes or the group; and the
issue of an instruction. -/
namespace Sys2Proof.Machine
open Sys2Proof.Claims

/-! ### Lanes of a mask -/

theorem mem_lanesOf {m : BitVec 32} {l : Nat} : l ∈ lanesOf m ↔ m.getLsbD l = true := by
  simp only [lanesOf, List.mem_filter, List.mem_range]
  constructor
  · exact fun h => h.2
  · intro h
    refine ⟨?_, h⟩
    rcases Nat.lt_or_ge l 32 with h1 | h1
    · exact h1
    · rw [BitVec.getLsbD_of_ge _ _ h1] at h; cases h

theorem nodup_lanesOf (m : BitVec 32) : (lanesOf m).Nodup := List.Nodup.sublist List.filter_sublist List.nodup_range

theorem lanesOf_eq_nil {m : BitVec 32} : lanesOf m = [] ↔ m = 0 := by
  constructor
  · intro h
    apply BitVec.eq_of_getLsbD_eq
    intro i _
    have : i ∉ lanesOf m := by rw [h]; simp
    rw [mem_lanesOf] at this
    simpa using this
  · rintro rfl; decide

theorem lt_of_mem_lanesOf {m : BitVec 32} {l : Nat} (h : l ∈ lanesOf m) : l < 32 := by
  simp only [lanesOf, List.mem_filter, List.mem_range] at h; exact h.1

/-! ### One register -/

theorem regKey_inj {l l' : Nat} {t t' : Tier} {k k' : Nat} (h : InFile t k) (h' : InFile t' k') :
    regKey l t k = regKey l' t' k' ↔ l = l' ∧ t = t' ∧ k = k' := by
  cases t <;> cases t' <;> simp only [InFile, regKey] at * <;> constructor <;> (try rintro ⟨rfl, ht, rfl⟩) <;> (try cases ht) <;>
    (try intro h0) <;> (try refine ⟨?_, ?_, ?_⟩) <;> (try omega) <;> trivial

theorem Group.reg_setReg {g : Group} {l l' : Nat} {t t' : Tier} {k k' : Nat} {v : W32}
    (h : InFile t k) (h' : InFile t' k') :
    (g.setReg l t k v).reg l' t' k' = if l' = l ∧ t' = t ∧ k' = k then v else g.reg l' t' k' := by
  have e : (g.setReg l t k v).reg l' t' k' = if regKey l' t' k' = regKey l t k then v else g.reg l' t' k' := by
    cases t <;> cases t' <;> simp only [InFile] at h h' <;> simp only [Group.setReg, Group.reg] <;> exact mget_mset
  rw [e]
  simp only [regKey_inj h' h]

theorem Group.setReg_rest {g : Group} {l : Nat} {t : Tier} {k : Nat} {v : W32} (h : InFile t k) :
    g.setReg l t k v = { g with regs := mset 0 g.regs (regKey l t k) v, rpoison := g.rpoison.filter (· != regKey l t k) } := by
  cases t <;> first | rfl | exact h.elim

/-- What a change of lane registers keeps. -/
structure RegsOnly (g h : Group) : Prop where
  rest : h = { g with regs := h.regs, rpoison := h.rpoison }
  clean : g.rpoison = [] → h.rpoison = []

theorem RegsOnly.refl (g : Group) : RegsOnly g g := ⟨rfl, id⟩
theorem RegsOnly.trans {a b c : Group} (x : RegsOnly a b) (y : RegsOnly b c) : RegsOnly a c := by
  refine ⟨?_, fun h => y.clean (x.clean h)⟩
  rw [y.rest, x.rest]

theorem RegsOnly.setReg {g : Group} {l : Nat} {t : Tier} {k : Nat} {v : W32} (h : InFile t k) : RegsOnly g (g.setReg l t k v) := by
  rw [Group.setReg_rest h]
  refine ⟨rfl, ?_⟩
  intro e; simp [e]

/-! ### A lane's result -/

/-- D names registers of its file. -/
def DestFits (d : Opnd) (wide : Bool) : Prop :=
  match d with
  | .chan _ _ => True
  | .reg t _ i => InFile t i.toNat ∧ (wide = true → InFile t (i.toNat + 1))

theorem shiftHold_only {g : Group} {l : Nat} {wide : Bool} {v : W64} : RegsOnly g (g.shiftHold l wide v) := by
  unfold Group.shiftHold
  split <;> exact (RegsOnly.setReg (by simp [InFile])).trans (RegsOnly.setReg (by simp [InFile]))

theorem shiftHold_reg {g : Group} {l l' : Nat} {wide : Bool} {v : W64} {t : Tier} {k : Nat} (h : InFile t k) :
    (g.shiftHold l wide v).reg l' t k = if l' = l ∧ t = .h then (if wide then (if k = 0 then v.extractLsb' 0 32 else v.extractLsb' 32 32) else if k = 0 then v.extractLsb' 0 32 else g.reg l .h 0) else g.reg l' t k := by
  have h0 : InFile .h 0 := by simp [InFile]
  have h1 : InFile .h 1 := by simp [InFile]
  have hk : l' = l ∧ t = .h → k = 0 ∨ k = 1 := by
    rintro ⟨rfl, rfl⟩; simp only [InFile] at h; omega
  unfold Group.shiftHold
  split
  · rw [Group.reg_setReg h1 h, Group.reg_setReg h0 h]
    by_cases e : l' = l ∧ t = .h
    · obtain ⟨rfl, rfl⟩ := e
      rcases hk ⟨rfl, rfl⟩ with rfl | rfl <;> simp
    · have e1 : ¬ (l' = l ∧ t = .h ∧ k = 1) := fun q => e ⟨q.1, q.2.1⟩
      have e2 : ¬ (l' = l ∧ t = .h ∧ k = 0) := fun q => e ⟨q.1, q.2.1⟩
      rw [if_neg e1, if_neg e2, if_neg e]
  · rw [Group.reg_setReg h0 h, Group.reg_setReg h1 h]
    by_cases e : l' = l ∧ t = .h
    · obtain ⟨rfl, rfl⟩ := e
      rcases hk ⟨rfl, rfl⟩ with rfl | rfl <;> simp
    · have e1 : ¬ (l' = l ∧ t = .h ∧ k = 1) := fun q => e ⟨q.1, q.2.1⟩
      have e2 : ¬ (l' = l ∧ t = .h ∧ k = 0) := fun q => e ⟨q.1, q.2.1⟩
      rw [if_neg e2, if_neg e1, if_neg e]

theorem setPair_only {g : Group} {l : Nat} {t : Tier} {i : Nat} {wide : Bool} {v : W64} (h : InFile t i) (h1 : wide = true → InFile t (i + 1)) :
    RegsOnly g (let g2 := g.setReg l t i (v.extractLsb' 0 32); if wide then g2.setReg l t (i + 1) (v.extractLsb' 32 32) else g2) := by
  simp only
  split
  · exact (RegsOnly.setReg h).trans (RegsOnly.setReg (h1 ‹_›))
  · exact RegsOnly.setReg h

theorem setPair_reg {g : Group} {l l' : Nat} {t t' : Tier} {i k : Nat} {wide : Bool} {v : W64}
    (h : InFile t i) (h1 : wide = true → InFile t (i + 1)) (hk : InFile t' k) :
    (let g2 := g.setReg l t i (v.extractLsb' 0 32); if wide then g2.setReg l t (i + 1) (v.extractLsb' 32 32) else g2).reg l' t' k =
      if l' = l ∧ t' = t ∧ k = i then v.extractLsb' 0 32 else if l' = l ∧ wide = true ∧ t' = t ∧ k = i + 1 then v.extractLsb' 32 32 else g.reg l' t' k := by
  simp only
  split
  · rename_i hw
    rw [Group.reg_setReg (h1 hw) hk, Group.reg_setReg h hk]
    by_cases e : l' = l ∧ t' = t ∧ k = i + 1
    · rw [if_pos e, if_neg (by rintro ⟨-, -, q⟩; omega), if_pos ⟨e.1, hw, e.2⟩]
    · rw [if_neg e]
      by_cases e2 : l' = l ∧ t' = t ∧ k = i
      · rw [if_pos e2, if_pos e2]
      · rw [if_neg e2, if_neg e2, if_neg (fun q => e ⟨q.1, q.2.2⟩)]
  · rename_i hw
    rw [Group.reg_setReg h hk]
    simp [hw]

theorem writeD_only {g : Group} {l : Nat} {d : Opnd} {wide : Bool} {v : W64} (hd : DestFits d wide) (hs : ∀ m i, d ≠ .reg .s m i) :
    RegsOnly g (g.writeD l d wide v) := by
  cases d with
  | chan p c => exact shiftHold_only
  | reg t m i =>
    obtain ⟨a, b⟩ := hd
    cases t with
    | s => exact (hs m i rfl).elim
    | v => exact shiftHold_only.trans (setPair_only a b)
    | o => exact shiftHold_only.trans (setPair_only a b)
    | h => exact setPair_only a b

/-- One lane's result in its registers (R60, R133). -/
theorem writeD_reg {g : Group} {l l' : Nat} {d : Opnd} {wide : Bool} {v : W64} {t : Tier} {k : Nat}
    (hd : DestFits d wide) (hs : ∀ m i, d ≠ .reg .s m i) (hk : InFile t k) :
    (g.writeD l d wide v).reg l' t k = if l' = l then wrote g l' d wide v t k else g.reg l' t k := by
  cases d with
  | chan p c =>
    show (g.shiftHold l false v).reg l' t k = _
    rw [shiftHold_reg hk]
    by_cases e : l' = l <;> by_cases e2 : t = .h <;> simp [e, e2, wrote]
  | reg t0 m i =>
    obtain ⟨a, b⟩ := hd
    have body : ∀ g1 : Group, (∀ t k, InFile t k → ∀ l', g1.reg l' t k = if l' = l ∧ t = .h ∧ (t0 = .v ∨ t0 = .o) then (if wide then (if k = 0 then v.extractLsb' 0 32 else v.extractLsb' 32 32) else if k = 0 then v.extractLsb' 0 32 else g.reg l .h 0) else g.reg l' t k) →
        (let g2 := g1.setReg l t0 i.toNat (v.extractLsb' 0 32); if wide then g2.setReg l t0 (i.toNat + 1) (v.extractLsb' 32 32) else g2).reg l' t k = if l' = l then wrote g l' (.reg t0 m i) wide v t k else g.reg l' t k := by
      intro g1 hg
      rw [setPair_reg a b hk, hg t k hk]
      by_cases e : l' = l
      · subst e; simp [wrote]
      · simp [e]
    cases t0 with
    | s => exact (hs m i rfl).elim
    | v =>
      refine body _ ?_
      intro t k hk l'; rw [shiftHold_reg hk]; simp
    | o =>
      refine body _ ?_
      intro t k hk l'; rw [shiftHold_reg hk]; simp
    | h =>
      refine body _ ?_
      intro t k hk l'; simp

/-! ### Flags -/

theorem orFlags_fstat {g : Group} {l l' : Nat} {fl : Flags} :
    mget 0 (g.orFlags l fl).fstat l' = if l' = l then mget 0 g.fstat l ||| fl.zeroExtend 32 else mget 0 g.fstat l' := mget_mset

theorem regsFlags_trans {a b c : Group} (x : b = { a with regs := b.regs, fstat := b.fstat, rpoison := b.rpoison })
    (y : c = { b with regs := c.regs, fstat := c.fstat, rpoison := c.rpoison }) :
    c = { a with regs := c.regs, fstat := c.fstat, rpoison := c.rpoison } := by
  rw [y, x]

/-- Registers and flags of the executing lanes, written one after another, are LanesGet. -/
theorem lanesGet_foldl {d : Opnd} {wide : Bool} {r : Nat → W64 × Flags} (hd : DestFits d wide) (hs : ∀ m i, d ≠ .reg .s m i)
    (ls : List Nat) (hn : ls.Nodup) (g : Group) :
    let h := (ls.map (fun l => (l, r l))).foldl (fun g q => (g.writeD q.1 d wide q.2.1).orFlags q.1 q.2.2) g
    h = { g with regs := h.regs, fstat := h.fstat, rpoison := h.rpoison } ∧ (g.rpoison = [] → h.rpoison = []) ∧
    (∀ l t k, InFile t k → h.reg l t k = if l ∈ ls then wrote g l d wide (r l).1 t k else g.reg l t k) ∧
    (∀ l, mget 0 h.fstat l = if l ∈ ls then mget 0 g.fstat l ||| (r l).2.zeroExtend 32 else mget 0 g.fstat l) := by
  induction ls generalizing g with
  | nil => exact ⟨rfl, id, by simp, by simp⟩
  | cons a ls ih =>
    obtain ⟨ha, hn⟩ := List.nodup_cons.mp hn
    have ro : RegsOnly g (g.writeD a d wide (r a).1) := writeD_only hd hs
    have ih1 := ih hn ((g.writeD a d wide (r a).1).orFlags a (r a).2)
    simp only [List.map_cons, List.foldl_cons] at *
    obtain ⟨b1, b2, b4, b5⟩ := ih1
    have regs1 : ∀ l t k, InFile t k → ((g.writeD a d wide (r a).1).orFlags a (r a).2).reg l t k = if l = a then wrote g l d wide (r a).1 t k else g.reg l t k := by
      intro l t k hk
      rw [← writeD_reg hd hs hk]
      cases t <;> rfl
    refine ⟨?_, ?_, ?_, ?_⟩
    · refine regsFlags_trans ?_ b1
      simp only [Group.orFlags]
      rw [ro.rest]
    · intro e; exact b2 (by simp only [Group.orFlags]; exact ro.clean e)
    · intro l t k hk
      rw [b4 l t k hk]
      by_cases e : l = a
      · subst e
        rw [if_neg ha, regs1 _ _ _ hk, if_pos rfl, if_pos (by simp)]
      · by_cases e2 : l ∈ ls
        · rw [if_pos e2, if_pos (by simp [e2])]
          have q : ∀ t k, InFile t k → ((g.writeD a d wide (r a).1).orFlags a (r a).2).reg l t k = g.reg l t k := by
            intro t k hk; rw [regs1 _ _ _ hk, if_neg e]
          unfold wrote
          rw [q t k hk, q .h 0 (by simp [InFile])]
        · rw [if_neg e2, if_neg (by simp [e, e2]), regs1 _ _ _ hk, if_neg e]
    · intro l
      have f2 : (g.writeD a d wide (r a).1).fstat = g.fstat := by rw [ro.rest]
      rw [b5 l, orFlags_fstat, f2]
      by_cases e : l = a
      · subst e; rw [if_neg ha, if_pos rfl, if_pos (by simp)]
      · rw [if_neg e]; simp [e]

theorem lanesGet_lanes {d : Opnd} {wide : Bool} {r : Nat → W64 × Flags} (hd : DestFits d wide) (hs : ∀ m i, d ≠ .reg .s m i)
    (m : BitVec 32) (g : Group) :
    LanesGet d wide m r g (((lanesOf m).map (fun l => (l, r l))).foldl (fun g q => (g.writeD q.1 d wide q.2.1).orFlags q.1 q.2.2) g) := by
  obtain ⟨b1, b2, b4, b5⟩ := lanesGet_foldl (r := r) hd hs (lanesOf m) (nodup_lanesOf m) g
  exact ⟨b1, b2, fun l _ t k hk => by rw [b4 l t k hk]; simp [mem_lanesOf], fun l _ => by rw [b5 l]; simp [mem_lanesOf]⟩

/-! ### A result for the group -/

theorem setS_reg {g : Group} {i k : Nat} {v : W32} : (g.setReg 0 .s i v).reg 0 .s k = if k = i then v else g.reg 0 .s k :=
  mget_mset

theorem orFlags_foldl (ls : List (Nat × Flags)) (g : Group) (hn : (ls.map Prod.fst).Nodup) :
    let h := ls.foldl (fun g q => g.orFlags q.1 q.2) g
    h = { g with fstat := h.fstat } ∧
    ∀ l, mget 0 h.fstat l = match ls.find? (fun q => q.1 == l) with | some q => mget 0 g.fstat l ||| q.2.zeroExtend 32 | none => mget 0 g.fstat l := by
  induction ls generalizing g with
  | nil => exact ⟨rfl, by simp⟩
  | cons a ls ih =>
    simp only [List.map_cons, List.nodup_cons] at hn
    obtain ⟨b1, b3⟩ := ih (g.orFlags a.1 a.2) hn.2
    refine ⟨?_, ?_⟩
    · show List.foldl _ _ ls = _
      exact b1
    · intro l
      show mget 0 (Group.fstat (List.foldl _ _ ls)) l = _
      rw [b3 l]
      by_cases e : a.1 = l
      · subst e
        have : ls.find? (fun q => q.1 == a.1) = none := by
          rw [List.find?_eq_none]
          intro q hq h0
          exact hn.1 (List.mem_map.mpr ⟨q, hq, by simpa using h0⟩)
        rw [this, List.find?_cons_of_pos (by simp)]
        rw [orFlags_fstat, if_pos rfl]
      · rw [List.find?_cons_of_neg (by simpa using e)]
        simp only [orFlags_fstat]
        rw [if_neg (fun q => e q.symm)]

theorem writeS_spec {g : Group} {i : Nat} {wide : Bool} {v : W64} :
    let h := g.writeS i wide v
    h = { g with sregs := h.sregs, rpoison := h.rpoison } ∧ (g.rpoison = [] → h.rpoison = []) ∧
    ∀ k, h.reg 0 .s k = if k = i then v.extractLsb' 0 32 else if wide = true ∧ k = i + 1 then v.extractLsb' 32 32 else g.reg 0 .s k := by
  cases wide with
  | false =>
    refine ⟨rfl, fun e => by simp [Group.writeS, Group.setReg, e], fun k => ?_⟩
    simp only [Group.writeS, if_false, Bool.false_eq_true, setS_reg, false_and]
  | true =>
    refine ⟨rfl, fun e => by simp [Group.writeS, Group.setReg, e], fun k => ?_⟩
    simp only [Group.writeS, if_true, setS_reg, true_and]
    by_cases e : k = i
    · subst e; simp
    · simp [e]

/-- A result in an s register with the flags of some lanes is GroupGets. -/
theorem groupGets_fold {i : Nat} {wide : Bool} {v : W64} {m : BitVec 32} {fl : Nat → Flags} {g : Group} :
    GroupGets i wide v m fl g ((((lanesOf m).map (fun l => (l, fl l))).foldl (fun g q => g.orFlags q.1 q.2) g).writeS i wide v) := by
  have hn : (((lanesOf m).map (fun l => (l, fl l))).map Prod.fst).Nodup := by
    rw [List.map_map]
    have : (Prod.fst ∘ fun l => (l, fl l)) = id := rfl
    rw [this, List.map_id]
    exact nodup_lanesOf m
  obtain ⟨b1, b3⟩ := orFlags_foldl ((lanesOf m).map (fun l => (l, fl l))) g hn
  generalize he : ((lanesOf m).map (fun l => (l, fl l))).foldl (fun g q => g.orFlags q.1 q.2) g = h at *
  obtain ⟨c1, c2, c4⟩ := writeS_spec (g := h) (i := i) (wide := wide) (v := v)
  have e1 : h.writeS i wide v = { g with sregs := (h.writeS i wide v).sregs, fstat := h.fstat, rpoison := (h.writeS i wide v).rpoison } := by
    rw [c1, b1]
  have e2 : (h.writeS i wide v).fstat = h.fstat := by rw [c1]
  refine ⟨by rw [e2]; exact e1, ?_, ?_, ?_⟩
  · intro e; exact c2 (by rw [b1]; exact e)
  · intro k
    rw [c4 k]
    have : h.reg 0 .s k = g.reg 0 .s k := by rw [b1]; rfl
    rw [this]
  · intro l _
    rw [e2, b3 l]
    by_cases e : m.getLsbD l = true
    · have hm : l ∈ lanesOf m := mem_lanesOf.mpr e
      have : ((lanesOf m).map (fun l => (l, fl l))).find? (fun q => q.1 == l) = some (l, fl l) := by
        rw [List.find?_map]
        have : (lanesOf m).find? ((fun q : Nat × Flags => q.1 == l) ∘ fun l => (l, fl l)) = some l := by
          have h2 : ((lanesOf m).find? ((fun q : Nat × Flags => q.1 == l) ∘ fun l => (l, fl l))).isSome := by
            rw [List.find?_isSome]; exact ⟨l, hm, by simp⟩
          obtain ⟨b, hb⟩ := Option.isSome_iff_exists.mp h2
          have := List.find?_some hb
          simp at this
          rw [hb, this]
        rw [this]; rfl
      rw [this, if_pos e]
    · have : ((lanesOf m).map (fun l => (l, fl l))).find? (fun q => q.1 == l) = none := by
        rw [List.find?_eq_none]
        intro q hq
        obtain ⟨a, ha, rfl⟩ := List.mem_map.mp hq
        simp only [beq_iff_eq]
        rintro rfl
        exact e (mem_lanesOf.mp ha)
      rw [this, if_neg e]

/-! ### Issue -/

/-- With no poisoned register no source read traps (R422). -/
theorem regPoison_nil {x : Ctx} {c : Common} {rs : Reads} {ps : List Nat} (h : x.g.rpoison = []) : x.regPoison c rs ps = none := by
  simp [Ctx.regPoison, h]

/-- What an instruction that issues ends in: its own effect after the merge of R40. -/
theorem issues_issueWith {i : Instr} {c : Common} {s t : State} {y : Ctx} (h : Issues i c s t y) (rs : Reads) (ps : List Nat)
    (body : Ctx → State → State) : issueWith i c rs ps s body = .next (body y t) := by
  obtain ⟨x, h1, h2, h3, h4, h5, h6⟩ := h
  simp only [issueWith, h1, h2, h3]
  subst h4
  simp only [merged, State.stamp] at h5 ⊢
  rw [if_neg (by simp), h5]
  simp only [regPoison_nil h6]

/-! ### Lane arithmetic -/

theorem quiet_fpTrap {g : Group} {rs : List (Nat × W64 × Flags)} (h : ∀ q ∈ rs, Quiet g q.1 q.2.2) : fpTrap g rs = none := by
  have : rs.find? (fun r => !g.helper.getLsbD r.1 && (r.2.2 &&& (mget 0 g.fstat r.1).extractLsb' 8 5) != 0) = none := by
    rw [List.find?_eq_none]
    intro q hq
    have := h q hq
    unfold Quiet at this
    cases e : g.helper.getLsbD q.1
    · simpa using this e
    · simp
  simp only [fpTrap, this]

theorem freeLaneOf_mem (s : State) (ls : List Nat) (h : ls ≠ []) : (freeLaneOf s ls).1 ∈ ls := by
  simp only [freeLaneOf]
  have hl : 0 < ls.length := List.length_pos_iff.mpr h
  have : Config.freeLane s.free % Nat.max ls.length 1 < ls.length := by
    have : Nat.max ls.length 1 = ls.length := Nat.max_eq_left hl
    rw [this]; exact Nat.mod_lt _ hl
  rw [List.getD_eq_getElem?_getD, List.getElem?_eq_getElem this]
  exact List.getElem_mem this

/-- The writing of lane results to D: an s register takes the result of one of the lanes, else every lane's goes to the
lane's own registers. -/
theorem commit_spec {x : Ctx} {s : State} {d : Opnd} {wide : Bool} {m : BitVec 32} {r : Nat → W64 × Flags}
    (hd : (∀ m i, d ≠ .reg .s m i) → DestFits d wide) (hm : m ≠ 0) :
    match d with
    | .reg .s _ k => ∃ f, ∃ l ∈ lanesOf m, x.commit s d wide ((lanesOf m).map (fun l => (l, r l))) = ({ s with free := s.free + 1 } : State).doneWith x f ∧
        ∀ g, GroupGets k.toNat wide (r l).1 m (fun l => (r l).2) g (f g)
    | _ => ∃ f, x.commit s d wide ((lanesOf m).map (fun l => (l, r l))) = s.doneWith x f ∧ ∀ g, LanesGet d wide m r g (f g) := by
  have ne : lanesOf m ≠ [] := fun h => hm (lanesOf_eq_nil.mp h)
  have lane : (∀ m i, d ≠ .reg .s m i) → ∀ g, LanesGet d wide m r g (((lanesOf m).map (fun l => (l, r l))).foldl (fun g q => (g.writeD q.1 d wide q.2.1).orFlags q.1 q.2.2) g) :=
    fun hs g => lanesGet_lanes (hd hs) hs m g
  cases d with
  | chan p c => exact ⟨_, rfl, lane (by simp)⟩
  | reg t a k =>
    cases t with
    | v => exact ⟨_, rfl, lane (by simp)⟩
    | o => exact ⟨_, rfl, lane (by simp)⟩
    | h => exact ⟨_, rfl, lane (by simp)⟩
    | s =>
      have el : ((lanesOf m).map (fun l => (l, r l))).map Prod.fst = lanesOf m := by
        rw [List.map_map]; exact List.map_id _
      refine ⟨_, (freeLaneOf s (lanesOf m)).1, freeLaneOf_mem s _ ne, by simp only [Ctx.commit, el]; rfl, ?_⟩
      intro g
      have hm := freeLaneOf_mem s _ ne
      generalize (freeLaneOf s (lanesOf m)).1 = l at *
      have fnd : ((lanesOf m).map (fun l => (l, r l))).find? (fun q => q.1 == l) = some (l, r l) := by
        rw [List.find?_map]
        have : (lanesOf m).find? ((fun q : Nat × W64 × Flags => q.1 == l) ∘ fun l => (l, r l)) = some l := by
          have h2 : ((lanesOf m).find? ((fun q : Nat × W64 × Flags => q.1 == l) ∘ fun l => (l, r l))).isSome := by
            rw [List.find?_isSome]; exact ⟨l, hm, by simp⟩
          obtain ⟨b, hb⟩ := Option.isSome_iff_exists.mp h2
          have := List.find?_some hb
          simp at this
          rw [hb, this]
        rw [this]; rfl
      simp only [fnd]
      have := groupGets_fold (i := k.toNat) (wide := wide) (v := (r l).1) (m := m) (fl := fun l => (r l).2) (g := g)
      simpa [List.foldl_map] using this

theorem takeWords_regs {x : Ctx} {s : State} {n : Nat} {srcs : List Src} (h : ∀ q ∈ srcs, chanOf? q.opnd = none) (offs : List (Nat × Nat)) (acc : List (Option (List W32))) :
    x.takeWords s n srcs offs acc = .ok (acc.reverse ++ srcs.map (fun _ => none), offs) := by
  induction srcs generalizing acc with
  | nil => simp [Ctx.takeWords]
  | cons q srcs ih =>
    have h0 := h q (by simp)
    cases e : q.opnd with
    | chan p c => simp [e, chanOf?] at h0
    | reg t m i =>
      simp only [Ctx.takeWords, e]
      rw [ih (fun q hq => h q (by simp [hq]))]
      simp

theorem laneSources_regs {g : Group} {l : Nat} {k : Option Nat} (srcs : List Src) :
    laneSources g l k srcs (srcs.map (fun _ => none)) = srcs.map (g.readSrc l) := by
  induction srcs with
  | nil => rfl
  | cons q srcs ih => simpa [laneSources] using ih

/-- What Computes asks of an instruction that ends in lane arithmetic: D fits its file, and the group-wide form reads
nothing of its lane. -/
theorem computes_of_alu {i : Instr} {c : Common} {d : Opnd} {wide : Bool} {srcs : List Src} (rs : Reads) (ps : List Nat)
    {F : State → Ctx → Nat → List Nat → W64 × Flags} (he : ∀ s, exec i s = issueWith i c rs ps s (fun x t => x.alu t { com := c, d := d, wide := wide, srcs := srcs, f := F t x }))
    (hd : ∀ al, i.illegal al = none → (∃ m k, d = .reg .s m k) ∨ (DestFits d wide ∧ c.u = false))
    (hp : ∀ al, i.illegal al = none → ∀ p ch, d = .chan p ch → wide = false)
    {P : State → Ctx → Nat → List Nat → W64 → Flags → Prop} (hP : ∀ al, i.illegal al = none → ∀ t x l vs, P t x l vs (F t x l vs).1 (F t x l vs).2) :
    Computes i c d wide srcs P := by
  intro s t y hi
  have hx : exec i s = .next (y.alu t { com := c, d := d, wide := wide, srcs := srcs, f := F t y }) := by
    rw [he s, issues_issueWith hi]
  have hleg : ∃ al, i.illegal al = none := by obtain ⟨x, _, _, h3, _⟩ := hi; exact ⟨_, h3⟩
  obtain ⟨al, hal⟩ := hleg
  have hdf := hd al hal
  have hch := hp al hal
  refine ⟨?_, ?_, ?_⟩
  · intro off
    rw [hx]
    simp only [Off] at off
    cases hu : c.u
    · rw [hu] at off; simp only [Bool.false_eq_true, if_false] at off
      simp only [Ctx.alu, hu, Bool.false_eq_true, if_false, off, if_true]
    · rw [hu] at off; simp only [if_true] at off
      simp [Ctx.alu, hu, Ctx.aluS, off]
  · intro off hu
    simp only [Off, hu, if_true] at off
    refine ⟨_, _, hP al hal t y (lowestLane y.sp.mask) _, ?_⟩
    intro hq
    obtain ⟨m, k, rfl⟩ | h2 := hdf
    · have hf : fpTrap y.g [(lowestLane y.sp.mask, F t y (lowestLane y.sp.mask) (srcs.map (y.g.readSrc 0)))] = none :=
        quiet_fpTrap (by simpa using hq)
      refine ⟨fun g => (g.writeS k.toNat wide (F t y (lowestLane y.sp.mask) (srcs.map (y.g.readSrc 0))).1).orFlags (lowestLane y.sp.mask) (F t y (lowestLane y.sp.mask) (srcs.map (y.g.readSrc 0))).2, ?_, ?_⟩
      · rw [hx]
        have hg : y.gwOn c = true := by simpa using off
        simp only [Ctx.alu, hu, if_true, Ctx.aluS, hg, Bool.not_true, Bool.false_eq_true, if_false]
        rw [hf]
      · intro g
        have hl : lowestLane y.sp.mask < 32 := by
          simp only [lowestLane]
          cases h : lanesOf y.sp.mask with
          | nil => simp
          | cons a b => exact lt_of_mem_lanesOf (m := y.sp.mask) (by rw [h]; simp)
        have lb : lanesOf (laneBit (lowestLane y.sp.mask)) = [lowestLane y.sp.mask] := by
          generalize lowestLane y.sp.mask = q at hl
          revert q; decide
        have := groupGets_fold (i := k.toNat) (wide := wide) (v := (F t y (lowestLane y.sp.mask) (srcs.map (y.g.readSrc 0))).1) (m := laneBit (lowestLane y.sp.mask)) (fl := fun _ => (F t y (lowestLane y.sp.mask) (srcs.map (y.g.readSrc 0))).2) (g := g)
        rw [lb] at this
        have e : ((g.writeS k.toNat wide (F t y (lowestLane y.sp.mask) (srcs.map (y.g.readSrc 0))).1).orFlags (lowestLane y.sp.mask) (F t y (lowestLane y.sp.mask) (srcs.map (y.g.readSrc 0))).2) = ((g.orFlags (lowestLane y.sp.mask) (F t y (lowestLane y.sp.mask) (srcs.map (y.g.readSrc 0))).2).writeS k.toNat wide (F t y (lowestLane y.sp.mask) (srcs.map (y.g.readSrc 0))).1) := by
          cases wide <;> rfl
        show GroupGets _ _ _ _ _ g (Group.orFlags _ _ _)
        rw [e]
        exact this
    · rw [hu] at h2; exact absurd h2.2 (by simp)
  · intro off hu ws offs hw
    simp only [Off, hu, Bool.false_eq_true, if_false] at off
    refine ⟨fun l => F t y l (laneSources y.g l ((takers c y).findIdx? (· == l)) srcs ws), fun l _ => hP al hal t y l _, ?_⟩
    intro hq
    have hf : fpTrap y.g ((lanesOf (y.active c)).map (fun l => (l, F t y l (laneSources y.g l ((takers c y).findIdx? (· == l)) srcs ws)))) = none := by
      apply quiet_fpTrap
      intro q hq1
      obtain ⟨l, hl, rfl⟩ := List.mem_map.mp hq1
      exact hq l hl
    have ex : y.alu t { com := c, d := d, wide := wide, srcs := srcs, f := F t y } = y.aluLanes t { com := c, d := d, wide := wide, srcs := srcs, f := F t y } := by
      simp only [Ctx.alu, hu, Bool.false_eq_true, if_false, off]
    have fits : (∀ m i, d ≠ .reg .s m i) → DestFits d wide := fun hs => by
      rcases hdf with ⟨m, k, h⟩ | h
      · exact absurd h (hs m k)
      · exact h.1
    have cs := commit_spec (x := y) (s := popped y t offs) (d := d) (wide := wide) (m := y.active c) (r := fun l => F t y l (laneSources y.g l ((takers c y).findIdx? (· == l)) srcs ws)) fits off
    cases d with
    | reg tr m k =>
      have body : exec i s = .next (y.commit (popped y t offs) (.reg tr m k) wide ((lanesOf (y.active c)).map (fun l => (l, F t y l (laneSources y.g l ((takers c y).findIdx? (· == l)) srcs ws))))) := by
        rw [hx, ex]
        simp only [Ctx.aluLanes, takers] at *
        rw [hw]
        simp only [hf]
        rfl
      cases tr with
      | s =>
        obtain ⟨f, l, hl, e, h⟩ := cs
        exact ⟨f, l, hl, by rw [body, e], h⟩
      | v => obtain ⟨f, e, h⟩ := cs; exact ⟨f, by rw [body, e], h⟩
      | o => obtain ⟨f, e, h⟩ := cs; exact ⟨f, by rw [body, e], h⟩
      | h => obtain ⟨f, e, h⟩ := cs; exact ⟨f, by rw [body, e], h⟩
    | chan p ch =>
      intro u hu2
      have hwf : wide = false := hch p ch rfl
      subst hwf
      have cs2 := commit_spec (x := y) (s := u) (d := .chan p ch) (wide := false) (m := y.active c) (r := fun l => F t y l (laneSources y.g l ((takers c y).findIdx? (· == l)) srcs ws)) fits off
      obtain ⟨f, e, h⟩ := cs2
      refine ⟨f, ?_, h⟩
      have body : exec i s = .next (
          let rs := ((lanesOf (y.active c)).map (fun l => (l, F t y l (laneSources y.g l ((takers c y).findIdx? (· == l)) srcs ws))))
          let vs := (rs.filter (fun r => !y.g.helper.getLsbD r.1)).map (fun r => r.2.1.extractLsb' 0 32)
          if vs = [] then y.commit (popped y t offs) (.chan p ch) false rs else
          match (y.foc.lookup (popped y t offs)).getD y |>.chanPush (popped y t offs) ch.toNat vs with
          | .ok s2 => y.commit s2 (.chan p ch) false rs
          | .bad b => t.takeTrap y (y.chanTrap c b ch.toNat)
          | .park c => t.blockSplit y .parked .pushFull (.chan c)
          | .wait _ => match y.chanPush t ch.toNat vs with | .wait u => u.holdSplit y | _ => t.holdSplit y) := by
        rw [hx, ex]
        simp only [Ctx.aluLanes, takers] at *
        rw [hw]
        simp only [hf]
        rfl
      rw [body]
      simp only
      have vs : (((lanesOf (y.active c)).map (fun l => (l, F t y l (laneSources y.g l ((takers c y).findIdx? (· == l)) srcs ws)))).filter (fun r => !y.g.helper.getLsbD r.1)).map (fun r => r.2.1.extractLsb' 0 32) = (takers c y).map (fun l => (F t y l (laneSources y.g l ((takers c y).findIdx? (· == l)) srcs ws)).1.extractLsb' 0 32) := by
        rw [List.filter_map, List.map_map]
        have : (lanesOf (y.active c)).filter ((fun r : Nat × W64 × Flags => !y.g.helper.getLsbD r.1) ∘ fun l => (l, F t y l (laneSources y.g l ((takers c y).findIdx? (· == l)) srcs ws))) = takers c y := by
          simp only [takers, lanesOf, Ctx.real, List.filter_filter]
          apply List.filter_congr
          intro l hl
          have hl : l < 32 := List.mem_range.mp hl
          simp [BitVec.getLsbD_and, BitVec.getLsbD_not, hl, Bool.and_comm]
        rw [this]; rfl
      rw [vs]
      simp only [Pushed] at hu2
      split
      · rename_i h0; rw [if_pos h0] at hu2; subst hu2; rw [e]
      · rename_i h0; rw [if_neg h0] at hu2
        rw [hu2]; simp only; rw [e]

end Sys2Proof.Machine
end

