-- ==== Sys2Proof/Laws/Issue.lean ====
section
/-! SUPPORT. The split that issues: where it is found, what a fetch ends in, what taking a trap changes, and the target list of
branches in order. -/
namespace Sys2Proof.Machine
open Sys2Proof.Claims

/-- What a focus names: a workgroup, its group, the split in its place of the table, and the grid. -/
theorem lookup_eq {f : Focus} {t : State} {y : Ctx} (h : f.lookup t = some y) :
    y.foc = f ∧ ∃ w, t.wg? f.wg = some w ∧ w.groups[f.grp]? = some y.g ∧ y.g.table[f.pos]? = some (some y.sp) ∧ t.grid? w.grid = some y.gr ∧ y.wg = w := by
  unfold Focus.lookup at h
  split at h
  · cases h
  · rename_i w hw
    split at h
    · rename_i g gr hg hgr
      split at h
      · rename_i sp hsp
        cases h
        exact ⟨rfl, w, hw, hg, hsp, hgr, rfl⟩
      · cases h
    · cases h

theorem issues_lookup {i : Instr} {c : Common} {s t : State} {y : Ctx} (h : Issues i c s t y) :
    y.foc.lookup t = some y ∧ y.g.table[y.foc.pos]? = some (some y.sp) := by
  obtain ⟨x, h1, h2, h3, h4, h5, h6⟩ := h
  obtain ⟨e, w, hw, hg, hsp, _, _⟩ := lookup_eq h5
  rw [e]
  exact ⟨h5, hsp⟩

/-- A fetch from clean memory that translates: the word of the split's index is cut into an instruction, which issues, is held or is
passed over as its pipe and its pair allow; or its reserved bit traps. -/
theorem fetch_ok {s u : State} {x : Ctx} {pa at_ k : Nat} {bytes : List Byte}
    (hd : s.demand x.g.core x.gr.pasid (codeAddr x.gr.k.codeBase x.sp.wi) .exec = .ok pa at_ k) (hr : s.place pa k = .line ∨ s.place pa k = .own)
    (hp : (s.markPte at_ false).poisoned (pa / 128 * 128) 128 = false) (hc : (s.markPte at_ false).codeBlock x.g.core x.wg.ten x.sp pa = (u, some bytes))
    (hb : bytes.drop 120 = List.replicate 8 0) :
    ∀ word : W96, word = BitVec.ofNat 96 (leNat ((bytes.drop (12 * (x.sp.wi.toNat % 10))).take 12)) →
      (∀ i, parse word = .ok i →
        (∀ ps, u.pairing (x.pickOf (wordCommon word) i) = .issues ps → s.fetch x = .run i { u with picked := ps }) ∧
        (u.pairing (x.pickOf (wordCommon word) i) = .busy → s.fetch x = .stop (u.holdSplit x)) ∧
        (u.pairing (x.pickOf (wordCommon word) i) = .alone → s.fetch x = .stop (u.passOver x))) ∧
      (∀ e, parse word = .error e → s.fetch x = .stop (u.takeTrap x (illegalTrap x 2 word))) := by
  intro word e
  subst e
  unfold State.fetch
  simp only [hd]
  rcases hr with hr | hr
  all_goals
    simp only [hr, hp, hc, Bool.false_eq_true, if_false]
    rw [if_neg (by simpa using hb)]
    refine ⟨fun i h => ?_, fun e h => by simp [h]⟩
    simp only [h]
    exact ⟨fun ps hq => by simp only [hq], fun hq => by simp only [hq], fun hq => by simp only [hq]⟩

/-- A word that decodes is cut into the instruction that it decodes to. -/
theorem parse_of_decode {w : W96} {i : Instr} (h : decode w = .ok i) : parse w = .ok i := by
  unfold decode at h
  split at h
  · cases h
  · rename_i hp; cases h; exact hp
  · rename_i j hj hp
    split at h
    · cases h; exact hp
    · cases h

/-- With a handler and outside it, a trap writes the trap registers of the split's lanes and lets the split wait; nothing outside the
group changes. -/
theorem takeTrap_handler {s : State} {x : Ctx} {t : Trap} (hl : x.sp.mask &&& ~~~x.g.helper ≠ 0#32) (h : x.gr.k.trap ≠ 0xFFFFFFFF#32) (hh : x.inHandler = false) :
    s.takeTrap x t = ((s.modGrp x.foc.wg x.foc.grp (fun g => g.writeTrap x.sp.mask t x.sp.wi)).modSplit x.foc
      (fun sp => { sp.block .waiting .trapEntry .none s.cycle with timer := 12, arrived := false })).modGrp x.foc.wg x.foc.grp Group.stir := by
  unfold State.takeTrap
  rw [if_neg hl, if_neg (by simp [h, hh])]

/-- With no handler, or inside it, the next step is the abort of the workgroup. -/
theorem takeTrap_abort {s : State} {x : Ctx} {t : Trap} (hl : x.sp.mask &&& ~~~x.g.helper ≠ 0#32) (h : x.gr.k.trap = 0xFFFFFFFF#32 ∨ x.inHandler = true) :
    s.takeTrap x t = { s.blockSplit x .waiting .trapEntry .abort with agenda := .abortReport x.wg.key t.cause t.sub :: (s.blockSplit x .waiting .trapEntry .abort).agenda } := by
  unfold State.takeTrap
  rw [if_neg hl, if_pos h]

/-- A split of helper lanes alone raises no trap. -/
theorem takeTrap_helper {s : State} {x : Ctx} {t : Trap} (hl : x.sp.mask &&& ~~~x.g.helper = 0#32) : s.takeTrap x t = s.advance x := by
  unfold State.takeTrap
  rw [if_pos hl]

/-- A target joins the list of targets in its place: the list stays in order, and the lanes of a target that it has join that target. -/
theorem insert_spec (wi : BitVec 32) (dep : BitVec 16) (m : BitVec 32) (ts : List (BitVec 32 × BitVec 16 × BitVec 32))
  (hs : ts.Pairwise (fun a b => below (a.1, a.2.1) (b.1, b.2.1))) :
  (insertTarget wi dep m ts).Pairwise (fun a b => below (a.1, a.2.1) (b.1, b.2.1)) ∧
  (∀ e ∈ insertTarget wi dep m ts, (e.1 = wi ∧ e.2.1 = dep ∧ ((∃ k, (wi, dep, k) ∈ ts ∧ e.2.2 = k ||| m) ∨ ((∀ f ∈ ts, ¬(f.1 = wi ∧ f.2.1 = dep)) ∧ e.2.2 = m))) ∨ (¬ (e.1 = wi ∧ e.2.1 = dep) ∧ e ∈ ts)) ∧
  (∃ e ∈ insertTarget wi dep m ts, e.1 = wi ∧ e.2.1 = dep) ∧
  (∀ f ∈ ts, ∃ e ∈ insertTarget wi dep m ts, e.1 = f.1 ∧ e.2.1 = f.2.1) := by
  induction ts with
  | nil => simp [insertTarget]
  | cons a ts ih =>
    obtain ⟨w, d, k⟩ := a
    simp only [List.pairwise_cons] at hs
    obtain ⟨h1, h2⟩ := hs
    have ih := ih h2
    unfold insertTarget
    split
    · rename_i e; obtain ⟨rfl, rfl⟩ := e
      refine ⟨?_, ?_, ⟨_, List.mem_cons_self, rfl, rfl⟩, ?_⟩
      · simp only [List.pairwise_cons]; exact ⟨h1, h2⟩
      · intro e he
        simp only [List.mem_cons] at he
        rcases he with rfl | he
        · left; refine ⟨rfl, rfl, .inl ⟨k, List.mem_cons_self, rfl⟩⟩
        · right
          refine ⟨?_, List.mem_cons_of_mem _ he⟩
          rintro ⟨e1, e2⟩
          have := h1 e he
          simp [below, e1, e2] at this
      · intro f hf
        simp only [List.mem_cons] at hf
        rcases hf with rfl | hf
        · exact ⟨_, List.mem_cons_self, rfl, rfl⟩
        · exact ⟨f, List.mem_cons_of_mem _ hf, rfl, rfl⟩
    · rename_i hne
      split
      · rename_i hlt
        have hb : below (wi, dep) (w, d) := by
          rcases hlt with h | ⟨h, h'⟩
          · left; exact h
          · right; exact ⟨h, h'⟩
        have htr : ∀ f ∈ ts, below (wi, dep) (f.1, f.2.1) := by
          intro f hf
          have := h1 f hf
          unfold below at *
          rcases hb with h | ⟨h, h'⟩ <;> rcases this with g | ⟨g, g'⟩
          · left; dsimp only at *; omega
          · left; dsimp only at *; rw [← g]; exact h
          · left; dsimp only at *; rw [h]; exact g
          · right; dsimp only at *; exact ⟨h.trans g, by omega⟩
        refine ⟨?_, ?_, ⟨_, List.mem_cons_self, rfl, rfl⟩, ?_⟩
        · simp only [List.pairwise_cons, List.mem_cons, forall_eq_or_imp]
          exact ⟨⟨hb, htr⟩, h1, h2⟩
        · intro e he
          rw [List.mem_cons] at he
          rcases he with rfl | he
          · left; refine ⟨rfl, rfl, .inr ⟨?_, rfl⟩⟩
            intro f hf
            rw [List.mem_cons] at hf
            rcases hf with rfl | hf
            · rintro ⟨a, b⟩; exact hne ⟨a.symm, b.symm⟩
            · rintro ⟨a, b⟩; have := htr f hf; simp [below, a, b] at this
          · right
            refine ⟨?_, he⟩
            rw [List.mem_cons] at he
            rcases he with rfl | hf
            · rintro ⟨a, b⟩; exact hne ⟨a.symm, b.symm⟩
            · rintro ⟨a, b⟩; have := htr e hf; simp [below, a, b] at this
        · intro f hf; exact ⟨f, List.mem_cons_of_mem _ hf, rfl, rfl⟩
      · rename_i hnl
        have hb : below (w, d) (wi, dep) := by
          unfold below
          by_cases h : w = wi
          · subst h
            right; refine ⟨rfl, ?_⟩
            have : ¬ dep < d := fun hh => hnl (.inr ⟨rfl, hh⟩)
            have h3 : dep ≠ d := fun hh => hne ⟨rfl, hh⟩
            have h4 : dep.toNat ≠ d.toNat := fun hh => h3 (BitVec.eq_of_toNat_eq hh)
            have : ¬ dep.toNat < d.toNat := this
            dsimp only; omega
          · left
            have : ¬ wi < w := fun hh => hnl (.inl hh)
            have h4 : w.toNat ≠ wi.toNat := fun hh => h (BitVec.eq_of_toNat_eq hh)
            have : ¬ wi.toNat < w.toNat := this
            dsimp only; omega
        obtain ⟨i1, i2, ⟨e0, i3, i3a, i3b⟩, i4⟩ := ih
        refine ⟨?_, ?_, ⟨e0, List.mem_cons_of_mem _ i3, i3a, i3b⟩, ?_⟩
        · simp only [List.pairwise_cons]
          refine ⟨?_, i1⟩
          intro e he
          rcases i2 e he with ⟨a, b, _⟩ | ⟨_, h⟩
          · rw [a, b]; exact hb
          · exact h1 e h
        · intro e he
          rw [List.mem_cons] at he
          rcases he with rfl | he
          · right; refine ⟨?_, List.mem_cons_self⟩
            rintro ⟨a, b⟩; exact hne ⟨a.symm, b.symm⟩
          · rcases i2 e he with ⟨a, b, ⟨k', h, h'⟩ | ⟨h, h'⟩⟩ | ⟨h, h'⟩
            · left; exact ⟨a, b, .inl ⟨k', List.mem_cons_of_mem _ h, h'⟩⟩
            · left; refine ⟨a, b, .inr ⟨?_, h'⟩⟩
              intro f hf
              rw [List.mem_cons] at hf
              rcases hf with rfl | hf
              · rintro ⟨a, b⟩; exact hne ⟨a.symm, b.symm⟩
              · exact h f hf
            · right; exact ⟨h, List.mem_cons_of_mem _ h'⟩
        · intro f hf
          rw [List.mem_cons] at hf
          rcases hf with rfl | hf
          · exact ⟨_, List.mem_cons_self, rfl, rfl⟩
          · obtain ⟨e, h, h'⟩ := i4 f hf
            exact ⟨e, List.mem_cons_of_mem _ h, h'⟩

end Sys2Proof.Machine
end

