-- ==== Sys2Proof/Laws/Legal.lean ====
section
/-! SUPPORT. What the checks of cause 0x01 leave of an instruction's operands: a destination fits its file. -/
namespace Sys2Proof.Machine
open Sys2Proof.Claims

theorem lowestSub_none {l : List Nat} : lowestSub l = none ↔ l = [] := by
  cases l with
  | nil => simp [lowestSub]
  | cons a l => simp only [lowestSub]; split <;> simp

/-- A destination that passes its role names registers of its file. -/
theorem Role.dst_fits {lane : List Tier} {w : Width} {al : Alloc} {u ch wide : Bool} {d : Opnd}
    (h : (Role.dst lane w).subs al u ch d = []) (hw : wide = true → w.count = 2) :
    (∃ m k, d = .reg .s m k) ∨ (DestFits d wide ∧ u = false) := by
  cases d with
  | chan p c =>
    right
    simp only [Role.subs, List.append_eq_nil_iff] at h
    refine ⟨trivial, ?_⟩
    have := h.2
    cases u <;> simp_all
  | reg t m i =>
    simp only [Role.subs, List.append_eq_nil_iff] at h
    have h2 := h.2
    by_cases hc : ((if u then t == .s else lane.contains t) && idxOk al t w i) = true
    · simp only [Bool.and_eq_true, idxOk, decide_eq_true_eq, beq_iff_eq] at hc
      obtain ⟨h3, h4, h5⟩ := hc
      cases u with
      | true => left; exact ⟨m, i, by rw [show t = .s from eq_of_beq h3]⟩
      | false =>
        cases t with
        | s => exact .inl ⟨m, i, rfl⟩
        | v =>
          right; refine ⟨⟨i.isLt, ?_⟩, rfl⟩
          intro hh; have := hw hh; rw [this] at h5; have := i.isLt; simp only [InFile]; omega
        | o =>
          right; simp only [tierLimit] at h4
          refine ⟨⟨?_, ?_⟩, rfl⟩
          · simp only [InFile]; have : 1 ≤ w.count := by cases w <;> decide
            omega
          · intro hh; have := hw hh; simp only [InFile]; omega
        | h =>
          right; simp only [tierLimit] at h4
          refine ⟨⟨?_, ?_⟩, rfl⟩
          · simp only [InFile]; have : 1 ≤ w.count := by cases w <;> decide
            omega
          · intro hh; have := hw hh; simp only [InFile]; omega
    · rw [if_neg hc] at h2; cases h2

/-- The same from a word of form L. -/
theorem FormL.dst_fits {w : FormL} {al : Alloc} {ds : Desc} {lane : List Tier} {wd : Width} {wide : Bool} (h : w.subs al ds = [])
    (hd : ds.d = .dst lane wd) (hw : wide = true → wd.count = 2) : (∃ m k, w.d = .reg .s m k) ∨ (DestFits w.d wide ∧ w.com.u = false) := by
  simp only [FormL.subs, List.append_eq_nil_iff] at h
  have := h.1.1.1.2
  rw [hd] at this
  exact Role.dst_fits this hw

/-- A channel destination has a type of at most 32 bits (R116). -/
theorem FormL.chan_narrow {w : FormL} {al : Alloc} {ds : Desc} {lane : List Tier} {wd : Width} (h : w.subs al ds = []) (hd : ds.d = .dst lane wd)
    {p : Bool} {c : BitVec 4} (hc : w.d = .chan p c) : tyBits w.ty ≤ 32 := by
  simp only [FormL.subs, List.append_eq_nil_iff] at h
  have := h.1.1.1.2
  rw [hd, hc] at this
  simp only [Role.subs, List.append_eq_nil_iff] at this
  have := this.2
  split at this
  · rename_i hh
    simp only [Bool.and_eq_true, decide_eq_true_eq] at hh
    exact hh.1.1.1.2
  · cases this

theorem FormI.dst_fits {w : FormI} {al : Alloc} {ds : Desc} {lane : List Tier} {wd : Width} {wide : Bool} (h : w.subs al ds = [])
    (hd : ds.d = .dst lane wd) (hw : wide = true → wd.count = 2) : (∃ m k, w.d = .reg .s m k) ∨ (DestFits w.d wide ∧ w.com.u = false) := by
  simp only [FormI.subs, List.append_eq_nil_iff] at h
  have := h.1.2
  rw [hd] at this
  exact Role.dst_fits this hw

theorem FormI.chan_narrow {w : FormI} {al : Alloc} {ds : Desc} {lane : List Tier} {wd : Width} (h : w.subs al ds = []) (hd : ds.d = .dst lane wd)
    {p : Bool} {c : BitVec 4} (hc : w.d = .chan p c) : tyBits w.ty ≤ 32 := by
  simp only [FormI.subs, List.append_eq_nil_iff] at h
  have := h.1.2
  rw [hd, hc] at this
  simp only [Role.subs, List.append_eq_nil_iff] at this
  have := this.2
  split at this
  · rename_i hh
    simp only [Bool.and_eq_true, decide_eq_true_eq] at hh
    exact hh.1.1.2
  · cases this

theorem Width.ofTy_count {t : BitVec 4} (h : tyBits t = 64) : (Width.ofTy t).count = 2 := by simp [Width.ofTy, h, Width.count]

/-- From an illegal-word check to its list of SUB codes. -/
theorem subs_of_legal {i : Instr} {al : Alloc} (h : i.illegal al = none) : i.subs al = [] := lowestSub_none.mp h

end Sys2Proof.Machine
end

