-- ==== Sys2Proof/Laws/Memory.lean ====
section
/-! SUPPORT. The backing store: a write keeps its canonical form, a read gives the bytes written last, and the log record, the other
operation that stores in it, keeps the form too. -/
namespace Sys2Proof.Machine

theorem rawWrite_wf {s : State} {pa : Nat} {bs : List Byte} (h : Memory.wf s.mem = true) : Memory.wf (s.rawWrite pa bs).mem = true :=
  mwf_msetAll h

/-- One byte after a write: the byte written where the write reached, else what it was. -/
theorem rawWrite_byte {s : State} {pa a : Nat} {bs : List Byte} :
    mget 0 (s.rawWrite pa bs).mem a = if pa ≤ a ∧ a < pa + bs.length then bs.getD (a - pa) 0 else mget 0 s.mem a := mget_msetAll

theorem rawRead_getElem {s : State} {pa n i : Nat} (h : i < (s.rawRead pa n).length) : (s.rawRead pa n)[i] = mget 0 s.mem (pa + i) := by
  simp [State.rawRead, mgetAll]

@[simp] theorem rawRead_length {s : State} {pa n : Nat} : (s.rawRead pa n).length = n := by simp [State.rawRead, mgetAll]

/-- A read of what was written gives the bytes written. -/
theorem rawRead_rawWrite_same {s : State} {pa : Nat} {bs : List Byte} : (s.rawWrite pa bs).rawRead pa bs.length = bs := by
  apply List.ext_getElem (by simp)
  intro i h1 h2
  rw [rawRead_getElem, rawWrite_byte, if_pos (by omega)]
  simp [List.getElem?_eq_getElem h2]

/-- A read that a write does not reach gives what it gave before. -/
theorem rawRead_rawWrite_apart {s : State} {pa qa n : Nat} {bs : List Byte} (h : qa + n ≤ pa ∨ pa + bs.length ≤ qa) :
    (s.rawWrite pa bs).rawRead qa n = s.rawRead qa n := by
  apply List.ext_getElem (by simp)
  intro i h1 h2
  rw [rawRead_getElem, rawRead_getElem, rawWrite_byte, if_neg]
  simp only [rawRead_length] at h1
  omega

/-- A record that finds no room only counts. -/
theorem logRec_full {s : State} {r : LogRec} (h : (s.log r.unit).full = true) :
    s.logRec r = s.modLog r.unit (fun l => { l with lost := Nat.min (l.lost + 1) 0xFFFFFFFF }) := by
  unfold State.logRec; exact if_pos h

/-- A record that finds room is stored, counted in HEAD, and raises the ring's vector when the ring was empty. -/
theorem logRec_room {s : State} {r : LogRec} (h : (s.log r.unit).full = false) :
    s.logRec r = { (s.rawWrite ((s.log r.unit).base + 64 * ((s.log r.unit).head % 2 ^ (s.log r.unit).log2n)) (r.bytes (s.clock r.unit))).modLog r.unit (fun l => { l with head := (l.head + 1) % 2 ^ 32 }) with
      irqs := if (s.log r.unit).head = (s.log r.unit).tail then s.irqs ++ [(s.log r.unit).vec] else s.irqs } := by
  unfold State.logRec; exact if_neg (by simp [h])

theorem logRec_wf {s : State} {r : LogRec} (h : Memory.wf s.mem = true) : Memory.wf (s.logRec r).mem = true := by
  cases e : (s.log r.unit).full
  · rw [logRec_room e]
    generalize r.bytes (s.clock r.unit) = b
    generalize (s.log r.unit).base + _ = pa
    show Memory.wf (s.rawWrite pa b).mem = true
    exact rawWrite_wf h
  · rw [logRec_full e]
    show Memory.wf s.mem = true
    exact h

/-- What a log record changes: memory, the logs and the raised interrupt vectors, and nothing else. -/
theorem logRec_only (s : State) (r : LogRec) : ∃ m l i, s.logRec r = { s with mem := m, logs := l, irqs := i } := by
  cases e : (s.log r.unit).full
  · rw [logRec_room e]
    generalize r.bytes (s.clock r.unit) = b
    generalize (s.log r.unit).base + _ = pa
    exact ⟨_, _, _, rfl⟩
  · rw [logRec_full e]; exact ⟨_, _, _, rfl⟩

theorem reset_inv : State.reset.Inv := ⟨rfl, rfl, by decide, by decide⟩

end Sys2Proof.Machine
end

