-- ==== Sys2Proof/Laws/PerInstr.lean ====
section
/-! SUPPORT. Per instruction: an instruction that has a word has an OP that the opcode map of R125 assigns; the event rows have
no word. -/
namespace Sys2Proof.Laws.Named

/-- R125: the OP of the instruction's word, if it has one, is assigned. -/
def Statement (i : Sys2Proof.Instr) : Prop := ∀ r, i.raw = some r → (Sys2Proof.opMap r.op.toNat).isSome = true

theorem mov (w : Sys2Proof.FormL) : Statement (.mov w) := by
  intro r h; cases h; rfl
theorem movi (w : Sys2Proof.FormI) : Statement (.movi w) := by
  intro r h; cases h; rfl
theorem movs (w : Sys2Proof.FormL) : Statement (.movs w) := by
  intro r h; cases h; rfl
theorem sset (w : Sys2Proof.FormL) : Statement (.sset w) := by
  intro r h; cases h; rfl
theorem movg (w : Sys2Proof.FormL) : Statement (.movg w) := by
  intro r h; cases h; rfl
theorem iadd (w : Sys2Proof.FormL) : Statement (.iadd w) := by
  intro r h; cases h; rfl
theorem iaddImm (w : Sys2Proof.FormI) : Statement (.iaddImm w) := by
  intro r h; cases h; rfl
theorem isub (w : Sys2Proof.FormL) : Statement (.isub w) := by
  intro r h; cases h; rfl
theorem isubImm (w : Sys2Proof.FormI) : Statement (.isubImm w) := by
  intro r h; cases h; rfl
theorem imul (w : Sys2Proof.FormL) : Statement (.imul w) := by
  intro r h; cases h; rfl
theorem imulImm (w : Sys2Proof.FormI) : Statement (.imulImm w) := by
  intro r h; cases h; rfl
theorem imulh (w : Sys2Proof.FormL) : Statement (.imulh w) := by
  intro r h; cases h; rfl
theorem imad (w : Sys2Proof.FormL) : Statement (.imad w) := by
  intro r h; cases h; rfl
theorem idiv (w : Sys2Proof.FormL) : Statement (.idiv w) := by
  intro r h; cases h; rfl
theorem irem (w : Sys2Proof.FormL) : Statement (.irem w) := by
  intro r h; cases h; rfl
theorem imin (w : Sys2Proof.FormL) : Statement (.imin w) := by
  intro r h; cases h; rfl
theorem imax (w : Sys2Proof.FormL) : Statement (.imax w) := by
  intro r h; cases h; rfl
theorem iabs (w : Sys2Proof.FormL) : Statement (.iabs w) := by
  intro r h; cases h; rfl
theorem ineg (w : Sys2Proof.FormL) : Statement (.ineg w) := by
  intro r h; cases h; rfl
theorem and (w : Sys2Proof.FormL) : Statement (.and w) := by
  intro r h; cases h; rfl
theorem andImm (w : Sys2Proof.FormI) : Statement (.andImm w) := by
  intro r h; cases h; rfl
theorem or (w : Sys2Proof.FormL) : Statement (.or w) := by
  intro r h; cases h; rfl
theorem orImm (w : Sys2Proof.FormI) : Statement (.orImm w) := by
  intro r h; cases h; rfl
theorem xor (w : Sys2Proof.FormL) : Statement (.xor w) := by
  intro r h; cases h; rfl
theorem xorImm (w : Sys2Proof.FormI) : Statement (.xorImm w) := by
  intro r h; cases h; rfl
theorem andn (w : Sys2Proof.FormL) : Statement (.andn w) := by
  intro r h; cases h; rfl
theorem not (w : Sys2Proof.FormL) : Statement (.not w) := by
  intro r h; cases h; rfl
theorem shl (w : Sys2Proof.FormL) : Statement (.shl w) := by
  intro r h; cases h; rfl
theorem shlImm (w : Sys2Proof.FormI) : Statement (.shlImm w) := by
  intro r h; cases h; rfl
theorem shr (w : Sys2Proof.FormL) : Statement (.shr w) := by
  intro r h; cases h; rfl
theorem shrImm (w : Sys2Proof.FormI) : Statement (.shrImm w) := by
  intro r h; cases h; rfl
theorem sar (w : Sys2Proof.FormL) : Statement (.sar w) := by
  intro r h; cases h; rfl
theorem sarImm (w : Sys2Proof.FormI) : Statement (.sarImm w) := by
  intro r h; cases h; rfl
theorem rotl (w : Sys2Proof.FormL) : Statement (.rotl w) := by
  intro r h; cases h; rfl
theorem rotlImm (w : Sys2Proof.FormI) : Statement (.rotlImm w) := by
  intro r h; cases h; rfl
theorem popc (w : Sys2Proof.FormL) : Statement (.popc w) := by
  intro r h; cases h; rfl
theorem clz (w : Sys2Proof.FormL) : Statement (.clz w) := by
  intro r h; cases h; rfl
theorem ctz (w : Sys2Proof.FormL) : Statement (.ctz w) := by
  intro r h; cases h; rfl
theorem brev (w : Sys2Proof.FormL) : Statement (.brev w) := by
  intro r h; cases h; rfl
theorem bfx (w : Sys2Proof.FormL) : Statement (.bfx w) := by
  intro r h; cases h; rfl
theorem bfi (w : Sys2Proof.FormL) : Statement (.bfi w) := by
  intro r h; cases h; rfl
theorem sel (w : Sys2Proof.FormL) : Statement (.sel w) := by
  intro r h; cases h; rfl
theorem icmp (w : Sys2Proof.FormL) : Statement (.icmp w) := by
  intro r h; cases h; rfl
theorem icmpImm (w : Sys2Proof.FormI) : Statement (.icmpImm w) := by
  intro r h; cases h; rfl
theorem plog (w : Sys2Proof.FormL) : Statement (.plog w) := by
  intro r h; cases h; rfl
theorem lea (w : Sys2Proof.FormL) : Statement (.lea w) := by
  intro r h; cases h; rfl
theorem ptag (w : Sys2Proof.FormL) : Statement (.ptag w) := by
  intro r h; cases h; rfl
theorem qxch (w : Sys2Proof.FormL) : Statement (.qxch w) := by
  intro r h; cases h; rfl
theorem shfl (w : Sys2Proof.FormL) : Statement (.shfl w) := by
  intro r h; cases h; rfl
theorem vote (w : Sys2Proof.FormL) : Statement (.vote w) := by
  intro r h; cases h; rfl
theorem scan (w : Sys2Proof.FormL) : Statement (.scan w) := by
  intro r h; cases h; rfl
theorem gred (w : Sys2Proof.FormL) : Statement (.gred w) := by
  intro r h; cases h; rfl
theorem fadd (w : Sys2Proof.FormL) : Statement (.fadd w) := by
  intro r h; cases h; rfl
theorem faddImm (w : Sys2Proof.FormI) : Statement (.faddImm w) := by
  intro r h; cases h; rfl
theorem fsub (w : Sys2Proof.FormL) : Statement (.fsub w) := by
  intro r h; cases h; rfl
theorem fmul (w : Sys2Proof.FormL) : Statement (.fmul w) := by
  intro r h; cases h; rfl
theorem fmulImm (w : Sys2Proof.FormI) : Statement (.fmulImm w) := by
  intro r h; cases h; rfl
theorem ffma (w : Sys2Proof.FormL) : Statement (.ffma w) := by
  intro r h; cases h; rfl
theorem fmin (w : Sys2Proof.FormL) : Statement (.fmin w) := by
  intro r h; cases h; rfl
theorem fmax (w : Sys2Proof.FormL) : Statement (.fmax w) := by
  intro r h; cases h; rfl
theorem fcmp (w : Sys2Proof.FormL) : Statement (.fcmp w) := by
  intro r h; cases h; rfl
theorem fclass (w : Sys2Proof.FormL) : Statement (.fclass w) := by
  intro r h; cases h; rfl
theorem fdiv (w : Sys2Proof.FormL) : Statement (.fdiv w) := by
  intro r h; cases h; rfl
theorem fsqrt (w : Sys2Proof.FormL) : Statement (.fsqrt w) := by
  intro r h; cases h; rfl
theorem frcp (w : Sys2Proof.FormL) : Statement (.frcp w) := by
  intro r h; cases h; rfl
theorem frsq (w : Sys2Proof.FormL) : Statement (.frsq w) := by
  intro r h; cases h; rfl
theorem frnd (w : Sys2Proof.FormL) : Statement (.frnd w) := by
  intro r h; cases h; rfl
theorem fldx (w : Sys2Proof.FormL) : Statement (.fldx w) := by
  intro r h; cases h; rfl
theorem cvt (w : Sys2Proof.FormL) : Statement (.cvt w) := by
  intro r h; cases h; rfl
theorem cvtm (w : Sys2Proof.FormL) : Statement (.cvtm w) := by
  intro r h; cases h; rfl
theorem cvtx (w : Sys2Proof.FormL) : Statement (.cvtx w) := by
  intro r h; cases h; rfl
theorem fpack (w : Sys2Proof.FormL) : Statement (.fpack w) := by
  intro r h; cases h; rfl
theorem funpk (w : Sys2Proof.FormL) : Statement (.funpk w) := by
  intro r h; cases h; rfl
theorem fexp2 (w : Sys2Proof.FormL) : Statement (.fexp2 w) := by
  intro r h; cases h; rfl
theorem flog2 (w : Sys2Proof.FormL) : Statement (.flog2 w) := by
  intro r h; cases h; rfl
theorem ftanh (w : Sys2Proof.FormL) : Statement (.ftanh w) := by
  intro r h; cases h; rfl
theorem frred (w : Sys2Proof.FormL) : Statement (.frred w) := by
  intro r h; cases h; rfl
theorem fsin (w : Sys2Proof.FormL) : Statement (.fsin w) := by
  intro r h; cases h; rfl
theorem fcos (w : Sys2Proof.FormL) : Statement (.fcos w) := by
  intro r h; cases h; rfl
theorem ld (w : Sys2Proof.FormM) : Statement (.ld w) := by
  intro r h; cases h; rfl
theorem st (w : Sys2Proof.FormM) : Statement (.st w) := by
  intro r h; cases h; rfl
theorem pfch (w : Sys2Proof.FormM) : Statement (.pfch w) := by
  intro r h; cases h; rfl
theorem cfls (w : Sys2Proof.FormM) : Statement (.cfls w) := by
  intro r h; cases h; rfl
theorem cinv (w : Sys2Proof.FormM) : Statement (.cinv w) := by
  intro r h; cases h; rfl
theorem icinv (w : Sys2Proof.FormM) : Statement (.icinv w) := by
  intro r h; cases h; rfl
theorem csync (w : Sys2Proof.FormL) : Statement (.csync w) := by
  intro r h; cases h; rfl
theorem fence (w : Sys2Proof.FormL) : Statement (.fence w) := by
  intro r h; cases h; rfl
theorem atom (w : Sys2Proof.FormM) : Statement (.atom w) := by
  intro r h; cases h; rfl
theorem red (w : Sys2Proof.FormM) : Statement (.red w) := by
  intro r h; cases h; rfl
theorem reds (w : Sys2Proof.FormM) : Statement (.reds w) := by
  intro r h; cases h; rfl
theorem binit (w : Sys2Proof.FormE) : Statement (.binit w) := by
  intro r h; cases h; rfl
theorem barr (w : Sys2Proof.FormE) : Statement (.barr w) := by
  intro r h; cases h; rfl
theorem barw (w : Sys2Proof.FormE) : Statement (.barw w) := by
  intro r h; cases h; rfl
theorem bwait (w : Sys2Proof.FormE) : Statement (.bwait w) := by
  intro r h; cases h; rfl
theorem bexp (w : Sys2Proof.FormE) : Statement (.bexp w) := by
  intro r h; cases h; rfl
theorem bqry (w : Sys2Proof.FormE) : Statement (.bqry w) := by
  intro r h; cases h; rfl
theorem cntadd (w : Sys2Proof.FormE) : Statement (.cntadd w) := by
  intro r h; cases h; rfl
theorem cntwait (w : Sys2Proof.FormE) : Statement (.cntwait w) := by
  intro r h; cases h; rfl
theorem chbind (w : Sys2Proof.FormE) : Statement (.chbind w) := by
  intro r h; cases h; rfl
theorem chstat (w : Sys2Proof.FormL) : Statement (.chstat w) := by
  intro r h; cases h; rfl
theorem mlds (w : Sys2Proof.FormE) : Statement (.mlds w) := by
  intro r h; cases h; rfl
theorem mswp (w : Sys2Proof.FormE) : Statement (.mswp w) := by
  intro r h; cases h; rfl
theorem mma (w : Sys2Proof.FormE) : Statement (.mma w) := by
  intro r h; cases h; rfl
theorem accz (w : Sys2Proof.FormE) : Statement (.accz w) := by
  intro r h; cases h; rfl
theorem mwin (w : Sys2Proof.FormL) : Statement (.mwin w) := by
  intro r h; cases h; rfl
theorem ldacc (w : Sys2Proof.FormE) : Statement (.ldacc w) := by
  intro r h; cases h; rfl
theorem stacc (w : Sys2Proof.FormE) : Statement (.stacc w) := by
  intro r h; cases h; rfl
theorem accq (w : Sys2Proof.FormE) : Statement (.accq w) := by
  intro r h; cases h; rfl
theorem vsync (w : Sys2Proof.FormE) : Statement (.vsync w) := by
  intro r h; cases h; rfl
theorem vchk (w : Sys2Proof.FormE) : Statement (.vchk w) := by
  intro r h; cases h; rfl
theorem vreq (w : Sys2Proof.FormE) : Statement (.vreq w) := by
  intro r h; cases h; rfl
theorem bra (w : Sys2Proof.FormK) : Statement (.bra w) := by
  intro r h; cases h; rfl
theorem brp (w : Sys2Proof.FormK) : Statement (.brp w) := by
  intro r h; cases h; rfl
theorem brc (w : Sys2Proof.FormK) : Statement (.brc w) := by
  intro r h; cases h; rfl
theorem jmp (w : Sys2Proof.FormK) : Statement (.jmp w) := by
  intro r h; cases h; rfl
theorem call (w : Sys2Proof.FormK) : Statement (.call w) := by
  intro r h; cases h; rfl
theorem calli (w : Sys2Proof.FormL) : Statement (.calli w) := by
  intro r h; cases h; rfl
theorem ret (w : Sys2Proof.FormL) : Statement (.ret w) := by
  intro r h; cases h; rfl
theorem loop (w : Sys2Proof.FormK) : Statement (.loop w) := by
  intro r h; cases h; rfl
theorem exit (w : Sys2Proof.FormL) : Statement (.exit w) := by
  intro r h; cases h; rfl
theorem nop (w : Sys2Proof.FormL) : Statement (.nop w) := by
  intro r h; cases h; rfl
theorem ssync (w : Sys2Proof.FormL) : Statement (.ssync w) := by
  intro r h; cases h; rfl
theorem yield (w : Sys2Proof.FormL) : Statement (.yield w) := by
  intro r h; cases h; rfl
theorem sleep (w : Sys2Proof.FormL) : Statement (.sleep w) := by
  intro r h; cases h; rfl
theorem trap (w : Sys2Proof.FormL) : Statement (.trap w) := by
  intro r h; cases h; rfl
theorem brk (w : Sys2Proof.FormL) : Statement (.brk w) := by
  intro r h; cases h; rfl
theorem syscall (w : Sys2Proof.FormL) : Statement (.syscall w) := by
  intro r h; cases h; rfl
theorem getlt (w : Sys2Proof.FormL) : Statement (.getlt w) := by
  intro r h; cases h; rfl
theorem spawn (w : Sys2Proof.FormE) : Statement (.spawn w) := by
  intro r h; cases h; rfl
theorem dbell (w : Sys2Proof.FormE) : Statement (.dbell w) := by
  intro r h; cases h; rfl
theorem cpy (w : Sys2Proof.FormE) : Statement (.cpy w) := by
  intro r h; cases h; rfl
theorem cpyr (w : Sys2Proof.FormE) : Statement (.cpyr w) := by
  intro r h; cases h; rfl
theorem cpyg (w : Sys2Proof.FormE) : Statement (.cpyg w) := by
  intro r h; cases h; rfl
theorem rotation (wg grp : Nat) : Statement (.rotation wg grp) := by
  intro r h; cases h
theorem immediateSwap (wg grp : Nat) : Statement (.immediateSwap wg grp) := by
  intro r h; cases h
theorem sleepExpires (wg grp : Nat) (spilled : Bool) (pos : Nat) : Statement (.sleepExpires wg grp spilled pos) := by
  intro r h; cases h
theorem leaseClockTick (die : Nat) : Statement (.leaseClockTick die) := by
  intro r h; cases h
theorem releaseWaitEnds (wg grp pos : Nat) : Statement (.releaseWaitEnds wg grp pos) := by
  intro r h; cases h
theorem groupRetire (wg grp : Nat) : Statement (.groupRetire wg grp) := by
  intro r h; cases h
theorem trapEntry (wg grp pos : Nat) : Statement (.trapEntry wg grp pos) := by
  intro r h; cases h
theorem abortReport (wg cause sub : Nat) : Statement (.abortReport wg cause sub) := by
  intro r h; cases h
theorem stallDetected (grid : Nat) : Statement (.stallDetected grid) := by
  intro r h; cases h
theorem preemptRequest (wg : Nat) : Statement (.preemptRequest wg) := by
  intro r h; cases h
theorem preemptHalt (wg : Nat) : Statement (.preemptHalt wg) := by
  intro r h; cases h
theorem memoryOpAbandon (wg grp pos : Nat) : Statement (.memoryOpAbandon wg grp pos) := by
  intro r h; cases h
theorem contextSave (wg : Nat) : Statement (.contextSave wg) := by
  intro r h; cases h
theorem imageUpdate (wg : Nat) (upd : ImageUpd) : Statement (.imageUpdate wg upd) := by
  intro r h; cases h
theorem restore (region wg : Nat) : Statement (.restore region wg) := by
  intro r h; cases h
theorem placerActs (region : Nat) (ctxs : List Nat) : Statement (.placerActs region ctxs) := by
  intro r h; cases h
theorem headAgeReserve (ten : Nat) : Statement (.headAgeReserve ten) := by
  intro r h; cases h
theorem groupCreate (wg grp : Nat) : Statement (.groupCreate wg grp) := by
  intro r h; cases h
theorem queueDoorbell (q : Nat) (v : Sys2Proof.W64) : Statement (.queueDoorbell q v) := by
  intro r h; cases h
theorem signal (q : Nat) : Statement (.signal q) := by
  intro r h; cases h
theorem wait (q : Nat) : Statement (.wait q) := by
  intro r h; cases h
theorem waitMet (q : Nat) : Statement (.waitMet q) := by
  intro r h; cases h
theorem nopPacket (q : Nat) : Statement (.nopPacket q) := by
  intro r h; cases h
theorem copy (q num : Nat) : Statement (.copy q num) := by
  intro r h; cases h
theorem view (q num : Nat) : Statement (.view q num) := by
  intro r h; cases h
theorem spawnRoot (q num : Nat) : Statement (.spawnRoot q num) := by
  intro r h; cases h
theorem launch (q num : Nat) : Statement (.launch q num) := by
  intro r h; cases h
theorem predecessorsRetired (node : Nat) : Statement (.predecessorsRetired node) := by
  intro r h; cases h
theorem tileOperandsMet (node : Nat) : Statement (.tileOperandsMet node) := by
  intro r h; cases h
theorem dispatch : Statement .dispatch := by
  intro r h; cases h
theorem nodeComplete (node : Nat) : Statement (.nodeComplete node) := by
  intro r h; cases h
theorem segmentCount (id : Nat) : Statement (.segmentCount id) := by
  intro r h; cases h
theorem copyComplete (id : Nat) : Statement (.copyComplete id) := by
  intro r h; cases h
theorem cpyrChunkApply (id : Nat) : Statement (.cpyrChunkApply id) := by
  intro r h; cases h
theorem copyFail (id code fspc : Nat) (addr : Sys2Proof.W64) : Statement (.copyFail id code fspc addr) := by
  intro r h; cases h
theorem l2LoadRequest (die core line : Nat) : Statement (.l2LoadRequest die core line) := by
  intro r h; cases h
theorem l2Write (id : Nat) : Statement (.l2Write id) := by
  intro r h; cases h
theorem prismRefreshStart (die eng : Nat) : Statement (.prismRefreshStart die eng) := by
  intro r h; cases h
theorem prismSnapshot (die eng : Nat) : Statement (.prismSnapshot die eng) := by
  intro r h; cases h
theorem viewRegister (call : Nat) : Statement (.viewRegister call) := by
  intro r h; cases h
theorem viewDeregister (call : Nat) : Statement (.viewDeregister call) := by
  intro r h; cases h
theorem iatAllocate (call entry : Nat) : Statement (.iatAllocate call entry) := by
  intro r h; cases h
theorem iatFree (call : Nat) : Statement (.iatFree call) := by
  intro r h; cases h
theorem lensEvict (call : Nat) : Statement (.lensEvict call) := by
  intro r h; cases h
theorem journalQuery (call : Nat) : Statement (.journalQuery call) := by
  intro r h; cases h
theorem attest (call : Nat) : Statement (.attest call) := by
  intro r h; cases h
theorem serviceReply (call : Nat) : Statement (.serviceReply call) := by
  intro r h; cases h
theorem syscallResend (id : Nat) : Statement (.syscallResend id) := by
  intro r h; cases h
theorem commit : Statement .commit := by
  intro r h; cases h
theorem endpointDmaRead (req : Sys2Proof.DmaReq) : Statement (.endpointDmaRead req) := by
  intro r h; cases h
theorem bar2WindowAccess (off : BarAt) (write : Bool) (bs : List Sys2Proof.Byte) : Statement (.bar2WindowAccess off write bs) := by
  intro r h; cases h
theorem systemLineUncorrectable (pa : Nat) (hashOk : Bool) : Statement (.systemLineUncorrectable pa hashOk) := by
  intro r h; cases h
theorem endpointDmaWrite (req : Sys2Proof.DmaReq) : Statement (.endpointDmaWrite req) := by
  intro r h; cases h
theorem iatBarrierArrival (msi : Sys2Proof.Msi) : Statement (.iatBarrierArrival msi) := by
  intro r h; cases h
theorem iatCounterAdd (msi : Sys2Proof.Msi) : Statement (.iatCounterAdd msi) := by
  intro r h; cases h
theorem iatKernelInterrupt (msi : Sys2Proof.Msi) : Statement (.iatKernelInterrupt msi) := by
  intro r h; cases h
theorem corePageRequest (core pasid va kind : Nat) : Statement (.corePageRequest core pasid va kind) := by
  intro r h; cases h
theorem pageRequestResend (core pasid va kind : Nat) : Statement (.pageRequestResend core pasid va kind) := by
  intro r h; cases h
theorem pageRequestAnswer (endpoint : Bool) (idx : Nat) (ok : Bool) : Statement (.pageRequestAnswer endpoint idx ok) := by
  intro r h; cases h
theorem atsTimeout (rid : Nat) : Statement (.atsTimeout rid) := by
  intro r h; cases h
theorem copyAbandon (id : Nat) : Statement (.copyAbandon id) := by
  intro r h; cases h
theorem shootdownComplete : Statement .shootdownComplete := by
  intro r h; cases h
theorem migrationComplete : Statement .migrationComplete := by
  intro r h; cases h
theorem forwardingRemoved (idx : Nat) : Statement (.forwardingRemoved idx) := by
  intro r h; cases h
theorem gets (agent : Asker) (line : Nat) : Statement (.gets agent line) := by
  intro r h; cases h
theorem getm (agent : Asker) (line : Nat) : Statement (.getm agent line) := by
  intro r h; cases h
theorem upg (agent line : Nat) : Statement (.upg agent line) := by
  intro r h; cases h
theorem putm (agent line : Nat) : Statement (.putm agent line) := by
  intro r h; cases h
theorem puto (agent line : Nat) : Statement (.puto agent line) := by
  intro r h; cases h
theorem pute (agent line : Nat) : Statement (.pute agent line) := by
  intro r h; cases h
theorem inv (agent line : Nat) : Statement (.inv agent line) := by
  intro r h; cases h
theorem invack (agent line : Nat) : Statement (.invack agent line) := by
  intro r h; cases h
theorem fwds (agent line : Nat) : Statement (.fwds agent line) := by
  intro r h; cases h
theorem fwdm (agent line : Nat) : Statement (.fwdm agent line) := by
  intro r h; cases h
theorem data (agent line : Nat) : Statement (.data agent line) := by
  intro r h; cases h
theorem grant (agent line : Nat) : Statement (.grant agent line) := by
  intro r h; cases h
theorem done (agent line : Nat) : Statement (.done agent line) := by
  intro r h; cases h
theorem putack (agent line : Nat) : Statement (.putack agent line) := by
  intro r h; cases h
theorem putstale (agent line : Nat) : Statement (.putstale agent line) := by
  intro r h; cases h
theorem homeRequestTimeout (line : Nat) : Statement (.homeRequestTimeout line) := by
  intro r h; cases h
theorem ownershipTransfer (region : Nat) : Statement (.ownershipTransfer region) := by
  intro r h; cases h
theorem transferComplete (region : Nat) : Statement (.transferComplete region) := by
  intro r h; cases h
theorem ownershipHoldExpires (region : Nat) : Statement (.ownershipHoldExpires region) := by
  intro r h; cases h
theorem space6AccessArrival (src lane off : Nat) (op : Sys2Proof.PeerOp) : Statement (.space6AccessArrival src lane off op) := by
  intro r h; cases h
theorem space6Ack (id : Nat) (ans : Sys2Proof.PeerAns) : Statement (.space6Ack id ans) := by
  intro r h; cases h
theorem space6StoreLost (id : Nat) : Statement (.space6StoreLost id) := by
  intro r h; cases h
theorem lensPromotion (ten slot node : Nat) : Statement (.lensPromotion ten slot node) := by
  intro r h; cases h
theorem lensReferenceDrop (ten slot node : Nat) : Statement (.lensReferenceDrop ten slot node) := by
  intro r h; cases h
theorem lensFillComplete (ten slot : Nat) : Statement (.lensFillComplete ten slot) := by
  intro r h; cases h
theorem lensFillFail (ten slot : Nat) : Statement (.lensFillFail ten slot) := by
  intro r h; cases h
theorem lensDrainComplete (ten slot : Nat) : Statement (.lensDrainComplete ten slot) := by
  intro r h; cases h
theorem lensEviction (ten slot : Nat) : Statement (.lensEviction ten slot) := by
  intro r h; cases h
theorem doorbellWriteOut (idx : Nat) : Statement (.doorbellWriteOut idx) := by
  intro r h; cases h
theorem icinvAck (id cache : Nat) : Statement (.icinvAck id cache) := by
  intro r h; cases h
theorem redsContributionArrival (id : Nat) : Statement (.redsContributionArrival id) := by
  intro r h; cases h
theorem redsResend (id : Nat) : Statement (.redsResend id) := by
  intro r h; cases h
theorem completionWindowRetest (wg ch : Nat) : Statement (.completionWindowRetest wg ch) := by
  intro r h; cases h
theorem submissionFullRetest (wg ch : Nat) : Statement (.submissionFullRetest wg ch) := by
  intro r h; cases h
theorem passStart (core arr : Nat) : Statement (.passStart core arr) := by
  intro r h; cases h
theorem mmaRetire (core op : Nat) : Statement (.mmaRetire core op) := by
  intro r h; cases h
theorem planeLoadComplete (core arr : Nat) : Statement (.planeLoadComplete core arr) := by
  intro r h; cases h
theorem watchdogExpiry (w : Nat) (fwError : Bool) : Statement (.watchdogExpiry w fwError) := by
  intro r h; cases h
theorem dispatchSlotCommand (qc : SlotAt) : Statement (.dispatchSlotCommand qc) := by
  intro r h; cases h
theorem nondeterministicEvent (die kind src tgt : Nat) (ev : Sys2Proof.Instr) : Statement (.nondeterministicEvent die kind src tgt ev) := by
  intro r h; cases h
theorem replayDivergence (die : Nat) : Statement (.replayDivergence die) := by
  intro r h; cases h
theorem spareSubstitution (kind : Sys2Proof.SpareKind) (unit idx : Nat) : Statement (.spareSubstitution kind unit idx) := by
  intro r h; cases h
theorem unassignedOpcode (w : Sys2Proof.W96) : Statement (.unassignedOpcode w) := by
  intro r h; cases h
theorem accumulatorOperationRetire (core op : Nat) : Statement (.accumulatorOperationRetire core op) := by
  intro r h; cases h
theorem ineligibleSplitRequeue (wg grp pos : Nat) : Statement (.ineligibleSplitRequeue wg grp pos) := by
  intro r h; cases h
theorem logCounterReadClear (unit off : Nat) : Statement (.logCounterReadClear unit off) := by
  intro r h; cases h
theorem create (entry key : Nat) : Statement (.create entry key) := by
  intro r h; cases h
theorem stage (ten : Nat) : Statement (.stage ten) := by
  intro r h; cases h
theorem destroy (ten : Nat) : Statement (.destroy ten) := by
  intro r h; cases h
theorem report (ten : Nat) : Statement (.report ten) := by
  intro r h; cases h
theorem fwupd (slot : Nat) (image : List Sys2Proof.Byte) (ver svn : Nat) (sigOk : Bool) : Statement (.fwupd slot image ver svn sigOk) := by
  intro r h; cases h
theorem idekey (rid : Option Nat) (port ten : Nat) (run : Bool) : Statement (.idekey rid port ten run) := by
  intro r h; cases h
theorem readTelemetry (temp watts : Nat) : Statement (.readTelemetry temp watts) := by
  intro r h; cases h
theorem setPowerLimit (watts : Nat) : Statement (.setPowerLimit watts) := by
  intro r h; cases h
theorem recoveryLoad (slot : Nat) (image : List Sys2Proof.Byte) (ver svn : Nat) (sigOk : Bool) : Statement (.recoveryLoad slot image ver svn sigOk) := by
  intro r h; cases h
theorem setDevnum (n : Nat) : Statement (.setDevnum n) := by
  intro r h; cases h
theorem epwinWrite (v : Sys2Proof.W64) : Statement (.epwinWrite v) := by
  intro r h; cases h
theorem pcfgWrite (port : Nat) (v : Sys2Proof.W32) : Statement (.pcfgWrite port v) := by
  intro r h; cases h
theorem linkTraining (port link : Nat) (badLane : Option Nat) (offer : LinkOffer) (ok : Bool) : Statement (.linkTraining port link badLane offer ok) := by
  intro r h; cases h
theorem atsTranslationRequest (rid : Nat) (pasid : Option Nat) (va : Nat) : Statement (.atsTranslationRequest rid pasid va) := by
  intro r h; cases h
theorem pageRequestMessage (rid pasid va : Nat) (write : Bool) : Statement (.pageRequestMessage rid pasid va write) := by
  intro r h; cases h
theorem shootdownStart (v : Sys2Proof.W64) : Statement (.shootdownStart v) := by
  intro r h; cases h
theorem atsInvalidateCompletion (rid : Nat) : Statement (.atsInvalidateCompletion rid) := by
  intro r h; cases h
theorem migrationGo (v : Sys2Proof.W32) : Statement (.migrationGo v) := by
  intro r h; cases h
theorem linkRetryExhausted (agent : Nat) : Statement (.linkRetryExhausted agent) := by
  intro r h; cases h
theorem flitRejectReplay (id : Nat) : Statement (.flitRejectReplay id) := by
  intro r h; cases h
theorem mailboxWordArrival (src wg loff : Nat) (word : Sys2Proof.W32) : Statement (.mailboxWordArrival src wg loff word) := by
  intro r h; cases h
theorem linkAuthentication (port : Nat) (ok : Bool) : Statement (.linkAuthentication port ok) := by
  intro r h; cases h
theorem laneRetrain (port lane : Nat) : Statement (.laneRetrain port lane) := by
  intro r h; cases h
theorem portDownReroute (port : Nat) : Statement (.portDownReroute port) := by
  intro r h; cases h
theorem routeLost (dev : Nat) : Statement (.routeLost dev) := by
  intro r h; cases h
theorem watchdogKick (w : Nat) : Statement (.watchdogKick w) := by
  intro r h; cases h
theorem rootPortError (port link rid : Nat) (status : Sys2Proof.W32) (err : Sys2Proof.PortErr) : Statement (.rootPortError port link rid status err) := by
  intro r h; cases h
theorem completionTimeout (port link rid : Nat) (status : Sys2Proof.W32) (pend : Nat) : Statement (.completionTimeout port link rid status pend) := by
  intro r h; cases h
theorem serviceRestart (svc : Nat) : Statement (.serviceRestart svc) := by
  intro r h; cases h
theorem arbiterModeWrite (die mode : Nat) : Statement (.arbiterModeWrite die mode) := by
  intro r h; cases h
theorem wearThreshold (kind : Sys2Proof.SpareKind) (unit idx : Nat) : Statement (.wearThreshold kind unit idx) := by
  intro r h; cases h
theorem eccError (unit : Nat) (corrected : Bool) (place : Sys2Proof.EccAt) : Statement (.eccError unit corrected place) := by
  intro r h; cases h
theorem pipelineParity (wg grp pos pipe times : Nat) : Statement (.pipelineParity wg grp pos pipe times) := by
  intro r h; cases h
theorem registerWrite (addr len : Nat) (v : Option Sys2Proof.W64) : Statement (.registerWrite addr len v) := by
  intro r h; cases h
theorem hostFunctionReport (node sub : Nat) (ok : Bool) : Statement (.hostFunctionReport node sub ok) := by
  intro r h; cases h
theorem kernelQueueControl (q : Nat) (ctl : Sys2Proof.QueueCtl) : Statement (.kernelQueueControl q ctl) := by
  intro r h; cases h
theorem containmentRelease (port link : Nat) : Statement (.containmentRelease port link) := by
  intro r h; cases h
theorem readBootStatus : Statement .readBootStatus := by
  intro r h; cases h
theorem readCertChain : Statement .readCertChain := by
  intro r h; cases h
theorem coldReset : Statement .coldReset := by
  intro r h; cases h

end Sys2Proof.Laws.Named
end

