-- ==== Sys2Proof/Laws/State.lean ====
section
/-! SUPPORT. What each update of the state leaves as it was: one lemma per update and field. -/
namespace Sys2Proof.Machine

/-! modWg changes wgs. -/
@[simp] theorem State.modWg_agenda (s : State) (k : Nat) (f : Workgroup → Workgroup) : (s.modWg k f).agenda = s.agenda := rfl
@[simp] theorem State.modWg_focus (s : State) (k : Nat) (f : Workgroup → Workgroup) : (s.modWg k f).focus = s.focus := rfl
@[simp] theorem State.modWg_waiting (s : State) (k : Nat) (f : Workgroup → Workgroup) : (s.modWg k f).waiting = s.waiting := rfl
@[simp] theorem State.modWg_ordered (s : State) (k : Nat) (f : Workgroup → Workgroup) : (s.modWg k f).ordered = s.ordered := rfl
@[simp] theorem State.modWg_free (s : State) (k : Nat) (f : Workgroup → Workgroup) : (s.modWg k f).free = s.free := rfl
@[simp] theorem State.modWg_nextId (s : State) (k : Nat) (f : Workgroup → Workgroup) : (s.modWg k f).nextId = s.nextId := rfl
@[simp] theorem State.modWg_seq (s : State) (k : Nat) (f : Workgroup → Workgroup) : (s.modWg k f).seq = s.seq := rfl
@[simp] theorem State.modWg_cycle (s : State) (k : Nat) (f : Workgroup → Workgroup) : (s.modWg k f).cycle = s.cycle := rfl
@[simp] theorem State.modWg_picked (s : State) (k : Nat) (f : Workgroup → Workgroup) : (s.modWg k f).picked = s.picked := rfl
@[simp] theorem State.modWg_pipes (s : State) (k : Nat) (f : Workgroup → Workgroup) : (s.modWg k f).pipes = s.pipes := rfl
@[simp] theorem State.modWg_clocks (s : State) (k : Nat) (f : Workgroup → Workgroup) : (s.modWg k f).clocks = s.clocks := rfl
@[simp] theorem State.modWg_cores (s : State) (k : Nat) (f : Workgroup → Workgroup) : (s.modWg k f).cores = s.cores := rfl
@[simp] theorem State.modWg_mem (s : State) (k : Nat) (f : Workgroup → Workgroup) : (s.modWg k f).mem = s.mem := rfl
@[simp] theorem State.modWg_poison (s : State) (k : Nat) (f : Workgroup → Workgroup) : (s.modWg k f).poison = s.poison := rfl
@[simp] theorem State.modWg_lines (s : State) (k : Nat) (f : Workgroup → Workgroup) : (s.modWg k f).lines = s.lines := rfl
@[simp] theorem State.modWg_homes (s : State) (k : Nat) (f : Workgroup → Workgroup) : (s.modWg k f).homes = s.homes := rfl
@[simp] theorem State.modWg_msgs (s : State) (k : Nat) (f : Workgroup → Workgroup) : (s.modWg k f).msgs = s.msgs := rfl
@[simp] theorem State.modWg_deadLinks (s : State) (k : Nat) (f : Workgroup → Workgroup) : (s.modWg k f).deadLinks = s.deadLinks := rfl
@[simp] theorem State.modWg_storeQ (s : State) (k : Nat) (f : Workgroup → Workgroup) : (s.modWg k f).storeQ = s.storeQ := rfl
@[simp] theorem State.modWg_contribs (s : State) (k : Nat) (f : Workgroup → Workgroup) : (s.modWg k f).contribs = s.contribs := rfl
@[simp] theorem State.modWg_fabric (s : State) (k : Nat) (f : Workgroup → Workgroup) : (s.modWg k f).fabric = s.fabric := rfl
@[simp] theorem State.modWg_inbound (s : State) (k : Nat) (f : Workgroup → Workgroup) : (s.modWg k f).inbound = s.inbound := rfl
@[simp] theorem State.modWg_peerAnswers (s : State) (k : Nat) (f : Workgroup → Workgroup) : (s.modWg k f).peerAnswers = s.peerAnswers := rfl
@[simp] theorem State.modWg_posted (s : State) (k : Nat) (f : Workgroup → Workgroup) : (s.modWg k f).posted = s.posted := rfl
@[simp] theorem State.modWg_devWrites (s : State) (k : Nat) (f : Workgroup → Workgroup) : (s.modWg k f).devWrites = s.devWrites := rfl
@[simp] theorem State.modWg_devLoads (s : State) (k : Nat) (f : Workgroup → Workgroup) : (s.modWg k f).devLoads = s.devLoads := rfl
@[simp] theorem State.modWg_l1 (s : State) (k : Nat) (f : Workgroup → Workgroup) : (s.modWg k f).l1 = s.l1 := rfl
@[simp] theorem State.modWg_icache (s : State) (k : Nat) (f : Workgroup → Workgroup) : (s.modWg k f).icache = s.icache := rfl
@[simp] theorem State.modWg_icreqs (s : State) (k : Nat) (f : Workgroup → Workgroup) : (s.modWg k f).icreqs = s.icreqs := rfl
@[simp] theorem State.modWg_regions (s : State) (k : Nat) (f : Workgroup → Workgroup) : (s.modWg k f).regions = s.regions := rfl
@[simp] theorem State.modWg_stewards (s : State) (k : Nat) (f : Workgroup → Workgroup) : (s.modWg k f).stewards = s.stewards := rfl
@[simp] theorem State.modWg_masters (s : State) (k : Nat) (f : Workgroup → Workgroup) : (s.modWg k f).masters = s.masters := rfl
@[simp] theorem State.modWg_prismQ (s : State) (k : Nat) (f : Workgroup → Workgroup) : (s.modWg k f).prismQ = s.prismQ := rfl
@[simp] theorem State.modWg_refreshes (s : State) (k : Nat) (f : Workgroup → Workgroup) : (s.modWg k f).refreshes = s.refreshes := rfl
@[simp] theorem State.modWg_views (s : State) (k : Nat) (f : Workgroup → Workgroup) : (s.modWg k f).views = s.views := rfl
@[simp] theorem State.modWg_arbiters (s : State) (k : Nat) (f : Workgroup → Workgroup) : (s.modWg k f).arbiters = s.arbiters := rfl
@[simp] theorem State.modWg_ptRoots (s : State) (k : Nat) (f : Workgroup → Workgroup) : (s.modWg k f).ptRoots = s.ptRoots := rfl
@[simp] theorem State.modWg_pasidTen (s : State) (k : Nat) (f : Workgroup → Workgroup) : (s.modWg k f).pasidTen = s.pasidTen := rfl
@[simp] theorem State.modWg_portVis (s : State) (k : Nat) (f : Workgroup → Workgroup) : (s.modWg k f).portVis = s.portVis := rfl
@[simp] theorem State.modWg_grids (s : State) (k : Nat) (f : Workgroup → Workgroup) : (s.modWg k f).grids = s.grids := rfl
@[simp] theorem State.modWg_nodes (s : State) (k : Nat) (f : Workgroup → Workgroup) : (s.modWg k f).nodes = s.nodes := rfl
@[simp] theorem State.modWg_roots (s : State) (k : Nat) (f : Workgroup → Workgroup) : (s.modWg k f).roots = s.roots := rfl
@[simp] theorem State.modWg_queues (s : State) (k : Nat) (f : Workgroup → Workgroup) : (s.modWg k f).queues = s.queues := rfl
@[simp] theorem State.modWg_dispatchAt (s : State) (k : Nat) (f : Workgroup → Workgroup) : (s.modWg k f).dispatchAt = s.dispatchAt := rfl
@[simp] theorem State.modWg_copies (s : State) (k : Nat) (f : Workgroup → Workgroup) : (s.modWg k f).copies = s.copies := rfl
@[simp] theorem State.modWg_qfe (s : State) (k : Nat) (f : Workgroup → Workgroup) : (s.modWg k f).qfe = s.qfe := rfl
@[simp] theorem State.modWg_qfeVis (s : State) (k : Nat) (f : Workgroup → Workgroup) : (s.modWg k f).qfeVis = s.qfeVis := rfl
@[simp] theorem State.modWg_watchdogs (s : State) (k : Nat) (f : Workgroup → Workgroup) : (s.modWg k f).watchdogs = s.watchdogs := rfl
@[simp] theorem State.modWg_iat (s : State) (k : Nat) (f : Workgroup → Workgroup) : (s.modWg k f).iat = s.iat := rfl
@[simp] theorem State.modWg_proxy (s : State) (k : Nat) (f : Workgroup → Workgroup) : (s.modWg k f).proxy = s.proxy := rfl
@[simp] theorem State.modWg_doorbells (s : State) (k : Nat) (f : Workgroup → Workgroup) : (s.modWg k f).doorbells = s.doorbells := rfl
@[simp] theorem State.modWg_lensRuns (s : State) (k : Nat) (f : Workgroup → Workgroup) : (s.modWg k f).lensRuns = s.lensRuns := rfl
@[simp] theorem State.modWg_evictions (s : State) (k : Nat) (f : Workgroup → Workgroup) : (s.modWg k f).evictions = s.evictions := rfl
@[simp] theorem State.modWg_pcfg (s : State) (k : Nat) (f : Workgroup → Workgroup) : (s.modWg k f).pcfg = s.pcfg := rfl
@[simp] theorem State.modWg_links (s : State) (k : Nat) (f : Workgroup → Workgroup) : (s.modWg k f).links = s.links := rfl
@[simp] theorem State.modWg_bifurc (s : State) (k : Nat) (f : Workgroup → Workgroup) : (s.modWg k f).bifurc = s.bifurc := rfl
@[simp] theorem State.modWg_functions (s : State) (k : Nat) (f : Workgroup → Workgroup) : (s.modWg k f).functions = s.functions := rfl
@[simp] theorem State.modWg_ide (s : State) (k : Nat) (f : Workgroup → Workgroup) : (s.modWg k f).ide = s.ide := rfl
@[simp] theorem State.modWg_coreReqs (s : State) (k : Nat) (f : Workgroup → Workgroup) : (s.modWg k f).coreReqs = s.coreReqs := rfl
@[simp] theorem State.modWg_epReqs (s : State) (k : Nat) (f : Workgroup → Workgroup) : (s.modWg k f).epReqs = s.epReqs := rfl
@[simp] theorem State.modWg_shoot (s : State) (k : Nat) (f : Workgroup → Workgroup) : (s.modWg k f).shoot = s.shoot := rfl
@[simp] theorem State.modWg_mig (s : State) (k : Nat) (f : Workgroup → Workgroup) : (s.modWg k f).mig = s.mig := rfl
@[simp] theorem State.modWg_forwards (s : State) (k : Nat) (f : Workgroup → Workgroup) : (s.modWg k f).forwards = s.forwards := rfl
@[simp] theorem State.modWg_logs (s : State) (k : Nat) (f : Workgroup → Workgroup) : (s.modWg k f).logs = s.logs := rfl
@[simp] theorem State.modWg_irqs (s : State) (k : Nat) (f : Workgroup → Workgroup) : (s.modWg k f).irqs = s.irqs := rfl
@[simp] theorem State.modWg_tens (s : State) (k : Nat) (f : Workgroup → Workgroup) : (s.modWg k f).tens = s.tens := rfl
@[simp] theorem State.modWg_staged (s : State) (k : Nat) (f : Workgroup → Workgroup) : (s.modWg k f).staged = s.staged := rfl
@[simp] theorem State.modWg_held (s : State) (k : Nat) (f : Workgroup → Workgroup) : (s.modWg k f).held = s.held := rfl
@[simp] theorem State.modWg_restarting (s : State) (k : Nat) (f : Workgroup → Workgroup) : (s.modWg k f).restarting = s.restarting := rfl
@[simp] theorem State.modWg_l2mode (s : State) (k : Nat) (f : Workgroup → Workgroup) : (s.modWg k f).l2mode = s.l2mode := rfl
@[simp] theorem State.modWg_stagedMode (s : State) (k : Nat) (f : Workgroup → Workgroup) : (s.modWg k f).stagedMode = s.stagedMode := rfl
@[simp] theorem State.modWg_mbox (s : State) (k : Nat) (f : Workgroup → Workgroup) : (s.modWg k f).mbox = s.mbox := rfl
@[simp] theorem State.modWg_restarts (s : State) (k : Nat) (f : Workgroup → Workgroup) : (s.modWg k f).restarts = s.restarts := rfl
@[simp] theorem State.modWg_devnum (s : State) (k : Nat) (f : Workgroup → Workgroup) : (s.modWg k f).devnum = s.devnum := rfl
@[simp] theorem State.modWg_devnumSet (s : State) (k : Nat) (f : Workgroup → Workgroup) : (s.modWg k f).devnumSet = s.devnumSet := rfl
@[simp] theorem State.modWg_fw (s : State) (k : Nat) (f : Workgroup → Workgroup) : (s.modWg k f).fw = s.fw := rfl
@[simp] theorem State.modWg_bootFail (s : State) (k : Nat) (f : Workgroup → Workgroup) : (s.modWg k f).bootFail = s.bootFail := rfl
@[simp] theorem State.modWg_booted (s : State) (k : Nat) (f : Workgroup → Workgroup) : (s.modWg k f).booted = s.booted := rfl
@[simp] theorem State.modWg_fuse (s : State) (k : Nat) (f : Workgroup → Workgroup) : (s.modWg k f).fuse = s.fuse := rfl
@[simp] theorem State.modWg_epwin (s : State) (k : Nat) (f : Workgroup → Workgroup) : (s.modWg k f).epwin = s.epwin := rfl
@[simp] theorem State.modWg_recMbox (s : State) (k : Nat) (f : Workgroup → Workgroup) : (s.modWg k f).recMbox = s.recMbox := rfl
@[simp] theorem State.modWg_recImage (s : State) (k : Nat) (f : Workgroup → Workgroup) : (s.modWg k f).recImage = s.recImage := rfl
@[simp] theorem State.modWg_windows (s : State) (k : Nat) (f : Workgroup → Workgroup) : (s.modWg k f).windows = s.windows := rfl
@[simp] theorem State.modWg_effAuth (s : State) (k : Nat) (f : Workgroup → Workgroup) : (s.modWg k f).effAuth = s.effAuth := rfl
@[simp] theorem State.modWg_effUp (s : State) (k : Nat) (f : Workgroup → Workgroup) : (s.modWg k f).effUp = s.effUp := rfl
@[simp] theorem State.modWg_laneSpare (s : State) (k : Nat) (f : Workgroup → Workgroup) : (s.modWg k f).laneSpare = s.laneSpare := rfl
@[simp] theorem State.modWg_routes (s : State) (k : Nat) (f : Workgroup → Workgroup) : (s.modWg k f).routes = s.routes := rfl
@[simp] theorem State.modWg_services (s : State) (k : Nat) (f : Workgroup → Workgroup) : (s.modWg k f).services = s.services := rfl
@[simp] theorem State.modWg_journal (s : State) (k : Nat) (f : Workgroup → Workgroup) : (s.modWg k f).journal = s.journal := rfl
@[simp] theorem State.modWg_power (s : State) (k : Nat) (f : Workgroup → Workgroup) : (s.modWg k f).power = s.power := rfl
@[simp] theorem State.modWg_telemetry (s : State) (k : Nat) (f : Workgroup → Workgroup) : (s.modWg k f).telemetry = s.telemetry := rfl
@[simp] theorem State.modWg_ceTimes (s : State) (k : Nat) (f : Workgroup → Workgroup) : (s.modWg k f).ceTimes = s.ceTimes := rfl
@[simp] theorem State.modWg_substs (s : State) (k : Nat) (f : Workgroup → Workgroup) : (s.modWg k f).substs = s.substs := rfl
@[simp] theorem State.modWg_worn (s : State) (k : Nat) (f : Workgroup → Workgroup) : (s.modWg k f).worn = s.worn := rfl
@[simp] theorem State.modWg_wornOut (s : State) (k : Nat) (f : Workgroup → Workgroup) : (s.modWg k f).wornOut = s.wornOut := rfl
@[simp] theorem State.modWg_answers (s : State) (k : Nat) (f : Workgroup → Workgroup) : (s.modWg k f).answers = s.answers := rfl
@[simp] theorem State.modWg_harts (s : State) (k : Nat) (f : Workgroup → Workgroup) : (s.modWg k f).harts = s.harts := rfl
@[simp] theorem State.modWg_hartAnswers (s : State) (k : Nat) (f : Workgroup → Workgroup) : (s.modWg k f).hartAnswers = s.hartAnswers := rfl

/-! modGrp changes wgs. -/
@[simp] theorem State.modGrp_agenda (s : State) (k g : Nat) (f : Group → Group) : (s.modGrp k g f).agenda = s.agenda := rfl
@[simp] theorem State.modGrp_focus (s : State) (k g : Nat) (f : Group → Group) : (s.modGrp k g f).focus = s.focus := rfl
@[simp] theorem State.modGrp_waiting (s : State) (k g : Nat) (f : Group → Group) : (s.modGrp k g f).waiting = s.waiting := rfl
@[simp] theorem State.modGrp_ordered (s : State) (k g : Nat) (f : Group → Group) : (s.modGrp k g f).ordered = s.ordered := rfl
@[simp] theorem State.modGrp_free (s : State) (k g : Nat) (f : Group → Group) : (s.modGrp k g f).free = s.free := rfl
@[simp] theorem State.modGrp_nextId (s : State) (k g : Nat) (f : Group → Group) : (s.modGrp k g f).nextId = s.nextId := rfl
@[simp] theorem State.modGrp_seq (s : State) (k g : Nat) (f : Group → Group) : (s.modGrp k g f).seq = s.seq := rfl
@[simp] theorem State.modGrp_cycle (s : State) (k g : Nat) (f : Group → Group) : (s.modGrp k g f).cycle = s.cycle := rfl
@[simp] theorem State.modGrp_picked (s : State) (k g : Nat) (f : Group → Group) : (s.modGrp k g f).picked = s.picked := rfl
@[simp] theorem State.modGrp_pipes (s : State) (k g : Nat) (f : Group → Group) : (s.modGrp k g f).pipes = s.pipes := rfl
@[simp] theorem State.modGrp_clocks (s : State) (k g : Nat) (f : Group → Group) : (s.modGrp k g f).clocks = s.clocks := rfl
@[simp] theorem State.modGrp_cores (s : State) (k g : Nat) (f : Group → Group) : (s.modGrp k g f).cores = s.cores := rfl
@[simp] theorem State.modGrp_mem (s : State) (k g : Nat) (f : Group → Group) : (s.modGrp k g f).mem = s.mem := rfl
@[simp] theorem State.modGrp_poison (s : State) (k g : Nat) (f : Group → Group) : (s.modGrp k g f).poison = s.poison := rfl
@[simp] theorem State.modGrp_lines (s : State) (k g : Nat) (f : Group → Group) : (s.modGrp k g f).lines = s.lines := rfl
@[simp] theorem State.modGrp_homes (s : State) (k g : Nat) (f : Group → Group) : (s.modGrp k g f).homes = s.homes := rfl
@[simp] theorem State.modGrp_msgs (s : State) (k g : Nat) (f : Group → Group) : (s.modGrp k g f).msgs = s.msgs := rfl
@[simp] theorem State.modGrp_deadLinks (s : State) (k g : Nat) (f : Group → Group) : (s.modGrp k g f).deadLinks = s.deadLinks := rfl
@[simp] theorem State.modGrp_storeQ (s : State) (k g : Nat) (f : Group → Group) : (s.modGrp k g f).storeQ = s.storeQ := rfl
@[simp] theorem State.modGrp_contribs (s : State) (k g : Nat) (f : Group → Group) : (s.modGrp k g f).contribs = s.contribs := rfl
@[simp] theorem State.modGrp_fabric (s : State) (k g : Nat) (f : Group → Group) : (s.modGrp k g f).fabric = s.fabric := rfl
@[simp] theorem State.modGrp_inbound (s : State) (k g : Nat) (f : Group → Group) : (s.modGrp k g f).inbound = s.inbound := rfl
@[simp] theorem State.modGrp_peerAnswers (s : State) (k g : Nat) (f : Group → Group) : (s.modGrp k g f).peerAnswers = s.peerAnswers := rfl
@[simp] theorem State.modGrp_posted (s : State) (k g : Nat) (f : Group → Group) : (s.modGrp k g f).posted = s.posted := rfl
@[simp] theorem State.modGrp_devWrites (s : State) (k g : Nat) (f : Group → Group) : (s.modGrp k g f).devWrites = s.devWrites := rfl
@[simp] theorem State.modGrp_devLoads (s : State) (k g : Nat) (f : Group → Group) : (s.modGrp k g f).devLoads = s.devLoads := rfl
@[simp] theorem State.modGrp_l1 (s : State) (k g : Nat) (f : Group → Group) : (s.modGrp k g f).l1 = s.l1 := rfl
@[simp] theorem State.modGrp_icache (s : State) (k g : Nat) (f : Group → Group) : (s.modGrp k g f).icache = s.icache := rfl
@[simp] theorem State.modGrp_icreqs (s : State) (k g : Nat) (f : Group → Group) : (s.modGrp k g f).icreqs = s.icreqs := rfl
@[simp] theorem State.modGrp_regions (s : State) (k g : Nat) (f : Group → Group) : (s.modGrp k g f).regions = s.regions := rfl
@[simp] theorem State.modGrp_stewards (s : State) (k g : Nat) (f : Group → Group) : (s.modGrp k g f).stewards = s.stewards := rfl
@[simp] theorem State.modGrp_masters (s : State) (k g : Nat) (f : Group → Group) : (s.modGrp k g f).masters = s.masters := rfl
@[simp] theorem State.modGrp_prismQ (s : State) (k g : Nat) (f : Group → Group) : (s.modGrp k g f).prismQ = s.prismQ := rfl
@[simp] theorem State.modGrp_refreshes (s : State) (k g : Nat) (f : Group → Group) : (s.modGrp k g f).refreshes = s.refreshes := rfl
@[simp] theorem State.modGrp_views (s : State) (k g : Nat) (f : Group → Group) : (s.modGrp k g f).views = s.views := rfl
@[simp] theorem State.modGrp_arbiters (s : State) (k g : Nat) (f : Group → Group) : (s.modGrp k g f).arbiters = s.arbiters := rfl
@[simp] theorem State.modGrp_ptRoots (s : State) (k g : Nat) (f : Group → Group) : (s.modGrp k g f).ptRoots = s.ptRoots := rfl
@[simp] theorem State.modGrp_pasidTen (s : State) (k g : Nat) (f : Group → Group) : (s.modGrp k g f).pasidTen = s.pasidTen := rfl
@[simp] theorem State.modGrp_portVis (s : State) (k g : Nat) (f : Group → Group) : (s.modGrp k g f).portVis = s.portVis := rfl
@[simp] theorem State.modGrp_grids (s : State) (k g : Nat) (f : Group → Group) : (s.modGrp k g f).grids = s.grids := rfl
@[simp] theorem State.modGrp_nodes (s : State) (k g : Nat) (f : Group → Group) : (s.modGrp k g f).nodes = s.nodes := rfl
@[simp] theorem State.modGrp_roots (s : State) (k g : Nat) (f : Group → Group) : (s.modGrp k g f).roots = s.roots := rfl
@[simp] theorem State.modGrp_queues (s : State) (k g : Nat) (f : Group → Group) : (s.modGrp k g f).queues = s.queues := rfl
@[simp] theorem State.modGrp_dispatchAt (s : State) (k g : Nat) (f : Group → Group) : (s.modGrp k g f).dispatchAt = s.dispatchAt := rfl
@[simp] theorem State.modGrp_copies (s : State) (k g : Nat) (f : Group → Group) : (s.modGrp k g f).copies = s.copies := rfl
@[simp] theorem State.modGrp_qfe (s : State) (k g : Nat) (f : Group → Group) : (s.modGrp k g f).qfe = s.qfe := rfl
@[simp] theorem State.modGrp_qfeVis (s : State) (k g : Nat) (f : Group → Group) : (s.modGrp k g f).qfeVis = s.qfeVis := rfl
@[simp] theorem State.modGrp_watchdogs (s : State) (k g : Nat) (f : Group → Group) : (s.modGrp k g f).watchdogs = s.watchdogs := rfl
@[simp] theorem State.modGrp_iat (s : State) (k g : Nat) (f : Group → Group) : (s.modGrp k g f).iat = s.iat := rfl
@[simp] theorem State.modGrp_proxy (s : State) (k g : Nat) (f : Group → Group) : (s.modGrp k g f).proxy = s.proxy := rfl
@[simp] theorem State.modGrp_doorbells (s : State) (k g : Nat) (f : Group → Group) : (s.modGrp k g f).doorbells = s.doorbells := rfl
@[simp] theorem State.modGrp_lensRuns (s : State) (k g : Nat) (f : Group → Group) : (s.modGrp k g f).lensRuns = s.lensRuns := rfl
@[simp] theorem State.modGrp_evictions (s : State) (k g : Nat) (f : Group → Group) : (s.modGrp k g f).evictions = s.evictions := rfl
@[simp] theorem State.modGrp_pcfg (s : State) (k g : Nat) (f : Group → Group) : (s.modGrp k g f).pcfg = s.pcfg := rfl
@[simp] theorem State.modGrp_links (s : State) (k g : Nat) (f : Group → Group) : (s.modGrp k g f).links = s.links := rfl
@[simp] theorem State.modGrp_bifurc (s : State) (k g : Nat) (f : Group → Group) : (s.modGrp k g f).bifurc = s.bifurc := rfl
@[simp] theorem State.modGrp_functions (s : State) (k g : Nat) (f : Group → Group) : (s.modGrp k g f).functions = s.functions := rfl
@[simp] theorem State.modGrp_ide (s : State) (k g : Nat) (f : Group → Group) : (s.modGrp k g f).ide = s.ide := rfl
@[simp] theorem State.modGrp_coreReqs (s : State) (k g : Nat) (f : Group → Group) : (s.modGrp k g f).coreReqs = s.coreReqs := rfl
@[simp] theorem State.modGrp_epReqs (s : State) (k g : Nat) (f : Group → Group) : (s.modGrp k g f).epReqs = s.epReqs := rfl
@[simp] theorem State.modGrp_shoot (s : State) (k g : Nat) (f : Group → Group) : (s.modGrp k g f).shoot = s.shoot := rfl
@[simp] theorem State.modGrp_mig (s : State) (k g : Nat) (f : Group → Group) : (s.modGrp k g f).mig = s.mig := rfl
@[simp] theorem State.modGrp_forwards (s : State) (k g : Nat) (f : Group → Group) : (s.modGrp k g f).forwards = s.forwards := rfl
@[simp] theorem State.modGrp_logs (s : State) (k g : Nat) (f : Group → Group) : (s.modGrp k g f).logs = s.logs := rfl
@[simp] theorem State.modGrp_irqs (s : State) (k g : Nat) (f : Group → Group) : (s.modGrp k g f).irqs = s.irqs := rfl
@[simp] theorem State.modGrp_tens (s : State) (k g : Nat) (f : Group → Group) : (s.modGrp k g f).tens = s.tens := rfl
@[simp] theorem State.modGrp_staged (s : State) (k g : Nat) (f : Group → Group) : (s.modGrp k g f).staged = s.staged := rfl
@[simp] theorem State.modGrp_held (s : State) (k g : Nat) (f : Group → Group) : (s.modGrp k g f).held = s.held := rfl
@[simp] theorem State.modGrp_restarting (s : State) (k g : Nat) (f : Group → Group) : (s.modGrp k g f).restarting = s.restarting := rfl
@[simp] theorem State.modGrp_l2mode (s : State) (k g : Nat) (f : Group → Group) : (s.modGrp k g f).l2mode = s.l2mode := rfl
@[simp] theorem State.modGrp_stagedMode (s : State) (k g : Nat) (f : Group → Group) : (s.modGrp k g f).stagedMode = s.stagedMode := rfl
@[simp] theorem State.modGrp_mbox (s : State) (k g : Nat) (f : Group → Group) : (s.modGrp k g f).mbox = s.mbox := rfl
@[simp] theorem State.modGrp_restarts (s : State) (k g : Nat) (f : Group → Group) : (s.modGrp k g f).restarts = s.restarts := rfl
@[simp] theorem State.modGrp_devnum (s : State) (k g : Nat) (f : Group → Group) : (s.modGrp k g f).devnum = s.devnum := rfl
@[simp] theorem State.modGrp_devnumSet (s : State) (k g : Nat) (f : Group → Group) : (s.modGrp k g f).devnumSet = s.devnumSet := rfl
@[simp] theorem State.modGrp_fw (s : State) (k g : Nat) (f : Group → Group) : (s.modGrp k g f).fw = s.fw := rfl
@[simp] theorem State.modGrp_bootFail (s : State) (k g : Nat) (f : Group → Group) : (s.modGrp k g f).bootFail = s.bootFail := rfl
@[simp] theorem State.modGrp_booted (s : State) (k g : Nat) (f : Group → Group) : (s.modGrp k g f).booted = s.booted := rfl
@[simp] theorem State.modGrp_fuse (s : State) (k g : Nat) (f : Group → Group) : (s.modGrp k g f).fuse = s.fuse := rfl
@[simp] theorem State.modGrp_epwin (s : State) (k g : Nat) (f : Group → Group) : (s.modGrp k g f).epwin = s.epwin := rfl
@[simp] theorem State.modGrp_recMbox (s : State) (k g : Nat) (f : Group → Group) : (s.modGrp k g f).recMbox = s.recMbox := rfl
@[simp] theorem State.modGrp_recImage (s : State) (k g : Nat) (f : Group → Group) : (s.modGrp k g f).recImage = s.recImage := rfl
@[simp] theorem State.modGrp_windows (s : State) (k g : Nat) (f : Group → Group) : (s.modGrp k g f).windows = s.windows := rfl
@[simp] theorem State.modGrp_effAuth (s : State) (k g : Nat) (f : Group → Group) : (s.modGrp k g f).effAuth = s.effAuth := rfl
@[simp] theorem State.modGrp_effUp (s : State) (k g : Nat) (f : Group → Group) : (s.modGrp k g f).effUp = s.effUp := rfl
@[simp] theorem State.modGrp_laneSpare (s : State) (k g : Nat) (f : Group → Group) : (s.modGrp k g f).laneSpare = s.laneSpare := rfl
@[simp] theorem State.modGrp_routes (s : State) (k g : Nat) (f : Group → Group) : (s.modGrp k g f).routes = s.routes := rfl
@[simp] theorem State.modGrp_services (s : State) (k g : Nat) (f : Group → Group) : (s.modGrp k g f).services = s.services := rfl
@[simp] theorem State.modGrp_journal (s : State) (k g : Nat) (f : Group → Group) : (s.modGrp k g f).journal = s.journal := rfl
@[simp] theorem State.modGrp_power (s : State) (k g : Nat) (f : Group → Group) : (s.modGrp k g f).power = s.power := rfl
@[simp] theorem State.modGrp_telemetry (s : State) (k g : Nat) (f : Group → Group) : (s.modGrp k g f).telemetry = s.telemetry := rfl
@[simp] theorem State.modGrp_ceTimes (s : State) (k g : Nat) (f : Group → Group) : (s.modGrp k g f).ceTimes = s.ceTimes := rfl
@[simp] theorem State.modGrp_substs (s : State) (k g : Nat) (f : Group → Group) : (s.modGrp k g f).substs = s.substs := rfl
@[simp] theorem State.modGrp_worn (s : State) (k g : Nat) (f : Group → Group) : (s.modGrp k g f).worn = s.worn := rfl
@[simp] theorem State.modGrp_wornOut (s : State) (k g : Nat) (f : Group → Group) : (s.modGrp k g f).wornOut = s.wornOut := rfl
@[simp] theorem State.modGrp_answers (s : State) (k g : Nat) (f : Group → Group) : (s.modGrp k g f).answers = s.answers := rfl
@[simp] theorem State.modGrp_harts (s : State) (k g : Nat) (f : Group → Group) : (s.modGrp k g f).harts = s.harts := rfl
@[simp] theorem State.modGrp_hartAnswers (s : State) (k g : Nat) (f : Group → Group) : (s.modGrp k g f).hartAnswers = s.hartAnswers := rfl

/-! modSplit changes wgs. -/
@[simp] theorem State.modSplit_agenda (s : State) (f : Focus) (h : Split → Split) : (s.modSplit f h).agenda = s.agenda := rfl
@[simp] theorem State.modSplit_focus (s : State) (f : Focus) (h : Split → Split) : (s.modSplit f h).focus = s.focus := rfl
@[simp] theorem State.modSplit_waiting (s : State) (f : Focus) (h : Split → Split) : (s.modSplit f h).waiting = s.waiting := rfl
@[simp] theorem State.modSplit_ordered (s : State) (f : Focus) (h : Split → Split) : (s.modSplit f h).ordered = s.ordered := rfl
@[simp] theorem State.modSplit_free (s : State) (f : Focus) (h : Split → Split) : (s.modSplit f h).free = s.free := rfl
@[simp] theorem State.modSplit_nextId (s : State) (f : Focus) (h : Split → Split) : (s.modSplit f h).nextId = s.nextId := rfl
@[simp] theorem State.modSplit_seq (s : State) (f : Focus) (h : Split → Split) : (s.modSplit f h).seq = s.seq := rfl
@[simp] theorem State.modSplit_cycle (s : State) (f : Focus) (h : Split → Split) : (s.modSplit f h).cycle = s.cycle := rfl
@[simp] theorem State.modSplit_picked (s : State) (f : Focus) (h : Split → Split) : (s.modSplit f h).picked = s.picked := rfl
@[simp] theorem State.modSplit_pipes (s : State) (f : Focus) (h : Split → Split) : (s.modSplit f h).pipes = s.pipes := rfl
@[simp] theorem State.modSplit_clocks (s : State) (f : Focus) (h : Split → Split) : (s.modSplit f h).clocks = s.clocks := rfl
@[simp] theorem State.modSplit_cores (s : State) (f : Focus) (h : Split → Split) : (s.modSplit f h).cores = s.cores := rfl
@[simp] theorem State.modSplit_mem (s : State) (f : Focus) (h : Split → Split) : (s.modSplit f h).mem = s.mem := rfl
@[simp] theorem State.modSplit_poison (s : State) (f : Focus) (h : Split → Split) : (s.modSplit f h).poison = s.poison := rfl
@[simp] theorem State.modSplit_lines (s : State) (f : Focus) (h : Split → Split) : (s.modSplit f h).lines = s.lines := rfl
@[simp] theorem State.modSplit_homes (s : State) (f : Focus) (h : Split → Split) : (s.modSplit f h).homes = s.homes := rfl
@[simp] theorem State.modSplit_msgs (s : State) (f : Focus) (h : Split → Split) : (s.modSplit f h).msgs = s.msgs := rfl
@[simp] theorem State.modSplit_deadLinks (s : State) (f : Focus) (h : Split → Split) : (s.modSplit f h).deadLinks = s.deadLinks := rfl
@[simp] theorem State.modSplit_storeQ (s : State) (f : Focus) (h : Split → Split) : (s.modSplit f h).storeQ = s.storeQ := rfl
@[simp] theorem State.modSplit_contribs (s : State) (f : Focus) (h : Split → Split) : (s.modSplit f h).contribs = s.contribs := rfl
@[simp] theorem State.modSplit_fabric (s : State) (f : Focus) (h : Split → Split) : (s.modSplit f h).fabric = s.fabric := rfl
@[simp] theorem State.modSplit_inbound (s : State) (f : Focus) (h : Split → Split) : (s.modSplit f h).inbound = s.inbound := rfl
@[simp] theorem State.modSplit_peerAnswers (s : State) (f : Focus) (h : Split → Split) : (s.modSplit f h).peerAnswers = s.peerAnswers := rfl
@[simp] theorem State.modSplit_posted (s : State) (f : Focus) (h : Split → Split) : (s.modSplit f h).posted = s.posted := rfl
@[simp] theorem State.modSplit_devWrites (s : State) (f : Focus) (h : Split → Split) : (s.modSplit f h).devWrites = s.devWrites := rfl
@[simp] theorem State.modSplit_devLoads (s : State) (f : Focus) (h : Split → Split) : (s.modSplit f h).devLoads = s.devLoads := rfl
@[simp] theorem State.modSplit_l1 (s : State) (f : Focus) (h : Split → Split) : (s.modSplit f h).l1 = s.l1 := rfl
@[simp] theorem State.modSplit_icache (s : State) (f : Focus) (h : Split → Split) : (s.modSplit f h).icache = s.icache := rfl
@[simp] theorem State.modSplit_icreqs (s : State) (f : Focus) (h : Split → Split) : (s.modSplit f h).icreqs = s.icreqs := rfl
@[simp] theorem State.modSplit_regions (s : State) (f : Focus) (h : Split → Split) : (s.modSplit f h).regions = s.regions := rfl
@[simp] theorem State.modSplit_stewards (s : State) (f : Focus) (h : Split → Split) : (s.modSplit f h).stewards = s.stewards := rfl
@[simp] theorem State.modSplit_masters (s : State) (f : Focus) (h : Split → Split) : (s.modSplit f h).masters = s.masters := rfl
@[simp] theorem State.modSplit_prismQ (s : State) (f : Focus) (h : Split → Split) : (s.modSplit f h).prismQ = s.prismQ := rfl
@[simp] theorem State.modSplit_refreshes (s : State) (f : Focus) (h : Split → Split) : (s.modSplit f h).refreshes = s.refreshes := rfl
@[simp] theorem State.modSplit_views (s : State) (f : Focus) (h : Split → Split) : (s.modSplit f h).views = s.views := rfl
@[simp] theorem State.modSplit_arbiters (s : State) (f : Focus) (h : Split → Split) : (s.modSplit f h).arbiters = s.arbiters := rfl
@[simp] theorem State.modSplit_ptRoots (s : State) (f : Focus) (h : Split → Split) : (s.modSplit f h).ptRoots = s.ptRoots := rfl
@[simp] theorem State.modSplit_pasidTen (s : State) (f : Focus) (h : Split → Split) : (s.modSplit f h).pasidTen = s.pasidTen := rfl
@[simp] theorem State.modSplit_portVis (s : State) (f : Focus) (h : Split → Split) : (s.modSplit f h).portVis = s.portVis := rfl
@[simp] theorem State.modSplit_grids (s : State) (f : Focus) (h : Split → Split) : (s.modSplit f h).grids = s.grids := rfl
@[simp] theorem State.modSplit_nodes (s : State) (f : Focus) (h : Split → Split) : (s.modSplit f h).nodes = s.nodes := rfl
@[simp] theorem State.modSplit_roots (s : State) (f : Focus) (h : Split → Split) : (s.modSplit f h).roots = s.roots := rfl
@[simp] theorem State.modSplit_queues (s : State) (f : Focus) (h : Split → Split) : (s.modSplit f h).queues = s.queues := rfl
@[simp] theorem State.modSplit_dispatchAt (s : State) (f : Focus) (h : Split → Split) : (s.modSplit f h).dispatchAt = s.dispatchAt := rfl
@[simp] theorem State.modSplit_copies (s : State) (f : Focus) (h : Split → Split) : (s.modSplit f h).copies = s.copies := rfl
@[simp] theorem State.modSplit_qfe (s : State) (f : Focus) (h : Split → Split) : (s.modSplit f h).qfe = s.qfe := rfl
@[simp] theorem State.modSplit_qfeVis (s : State) (f : Focus) (h : Split → Split) : (s.modSplit f h).qfeVis = s.qfeVis := rfl
@[simp] theorem State.modSplit_watchdogs (s : State) (f : Focus) (h : Split → Split) : (s.modSplit f h).watchdogs = s.watchdogs := rfl
@[simp] theorem State.modSplit_iat (s : State) (f : Focus) (h : Split → Split) : (s.modSplit f h).iat = s.iat := rfl
@[simp] theorem State.modSplit_proxy (s : State) (f : Focus) (h : Split → Split) : (s.modSplit f h).proxy = s.proxy := rfl
@[simp] theorem State.modSplit_doorbells (s : State) (f : Focus) (h : Split → Split) : (s.modSplit f h).doorbells = s.doorbells := rfl
@[simp] theorem State.modSplit_lensRuns (s : State) (f : Focus) (h : Split → Split) : (s.modSplit f h).lensRuns = s.lensRuns := rfl
@[simp] theorem State.modSplit_evictions (s : State) (f : Focus) (h : Split → Split) : (s.modSplit f h).evictions = s.evictions := rfl
@[simp] theorem State.modSplit_pcfg (s : State) (f : Focus) (h : Split → Split) : (s.modSplit f h).pcfg = s.pcfg := rfl
@[simp] theorem State.modSplit_links (s : State) (f : Focus) (h : Split → Split) : (s.modSplit f h).links = s.links := rfl
@[simp] theorem State.modSplit_bifurc (s : State) (f : Focus) (h : Split → Split) : (s.modSplit f h).bifurc = s.bifurc := rfl
@[simp] theorem State.modSplit_functions (s : State) (f : Focus) (h : Split → Split) : (s.modSplit f h).functions = s.functions := rfl
@[simp] theorem State.modSplit_ide (s : State) (f : Focus) (h : Split → Split) : (s.modSplit f h).ide = s.ide := rfl
@[simp] theorem State.modSplit_coreReqs (s : State) (f : Focus) (h : Split → Split) : (s.modSplit f h).coreReqs = s.coreReqs := rfl
@[simp] theorem State.modSplit_epReqs (s : State) (f : Focus) (h : Split → Split) : (s.modSplit f h).epReqs = s.epReqs := rfl
@[simp] theorem State.modSplit_shoot (s : State) (f : Focus) (h : Split → Split) : (s.modSplit f h).shoot = s.shoot := rfl
@[simp] theorem State.modSplit_mig (s : State) (f : Focus) (h : Split → Split) : (s.modSplit f h).mig = s.mig := rfl
@[simp] theorem State.modSplit_forwards (s : State) (f : Focus) (h : Split → Split) : (s.modSplit f h).forwards = s.forwards := rfl
@[simp] theorem State.modSplit_logs (s : State) (f : Focus) (h : Split → Split) : (s.modSplit f h).logs = s.logs := rfl
@[simp] theorem State.modSplit_irqs (s : State) (f : Focus) (h : Split → Split) : (s.modSplit f h).irqs = s.irqs := rfl
@[simp] theorem State.modSplit_tens (s : State) (f : Focus) (h : Split → Split) : (s.modSplit f h).tens = s.tens := rfl
@[simp] theorem State.modSplit_staged (s : State) (f : Focus) (h : Split → Split) : (s.modSplit f h).staged = s.staged := rfl
@[simp] theorem State.modSplit_held (s : State) (f : Focus) (h : Split → Split) : (s.modSplit f h).held = s.held := rfl
@[simp] theorem State.modSplit_restarting (s : State) (f : Focus) (h : Split → Split) : (s.modSplit f h).restarting = s.restarting := rfl
@[simp] theorem State.modSplit_l2mode (s : State) (f : Focus) (h : Split → Split) : (s.modSplit f h).l2mode = s.l2mode := rfl
@[simp] theorem State.modSplit_stagedMode (s : State) (f : Focus) (h : Split → Split) : (s.modSplit f h).stagedMode = s.stagedMode := rfl
@[simp] theorem State.modSplit_mbox (s : State) (f : Focus) (h : Split → Split) : (s.modSplit f h).mbox = s.mbox := rfl
@[simp] theorem State.modSplit_restarts (s : State) (f : Focus) (h : Split → Split) : (s.modSplit f h).restarts = s.restarts := rfl
@[simp] theorem State.modSplit_devnum (s : State) (f : Focus) (h : Split → Split) : (s.modSplit f h).devnum = s.devnum := rfl
@[simp] theorem State.modSplit_devnumSet (s : State) (f : Focus) (h : Split → Split) : (s.modSplit f h).devnumSet = s.devnumSet := rfl
@[simp] theorem State.modSplit_fw (s : State) (f : Focus) (h : Split → Split) : (s.modSplit f h).fw = s.fw := rfl
@[simp] theorem State.modSplit_bootFail (s : State) (f : Focus) (h : Split → Split) : (s.modSplit f h).bootFail = s.bootFail := rfl
@[simp] theorem State.modSplit_booted (s : State) (f : Focus) (h : Split → Split) : (s.modSplit f h).booted = s.booted := rfl
@[simp] theorem State.modSplit_fuse (s : State) (f : Focus) (h : Split → Split) : (s.modSplit f h).fuse = s.fuse := rfl
@[simp] theorem State.modSplit_epwin (s : State) (f : Focus) (h : Split → Split) : (s.modSplit f h).epwin = s.epwin := rfl
@[simp] theorem State.modSplit_recMbox (s : State) (f : Focus) (h : Split → Split) : (s.modSplit f h).recMbox = s.recMbox := rfl
@[simp] theorem State.modSplit_recImage (s : State) (f : Focus) (h : Split → Split) : (s.modSplit f h).recImage = s.recImage := rfl
@[simp] theorem State.modSplit_windows (s : State) (f : Focus) (h : Split → Split) : (s.modSplit f h).windows = s.windows := rfl
@[simp] theorem State.modSplit_effAuth (s : State) (f : Focus) (h : Split → Split) : (s.modSplit f h).effAuth = s.effAuth := rfl
@[simp] theorem State.modSplit_effUp (s : State) (f : Focus) (h : Split → Split) : (s.modSplit f h).effUp = s.effUp := rfl
@[simp] theorem State.modSplit_laneSpare (s : State) (f : Focus) (h : Split → Split) : (s.modSplit f h).laneSpare = s.laneSpare := rfl
@[simp] theorem State.modSplit_routes (s : State) (f : Focus) (h : Split → Split) : (s.modSplit f h).routes = s.routes := rfl
@[simp] theorem State.modSplit_services (s : State) (f : Focus) (h : Split → Split) : (s.modSplit f h).services = s.services := rfl
@[simp] theorem State.modSplit_journal (s : State) (f : Focus) (h : Split → Split) : (s.modSplit f h).journal = s.journal := rfl
@[simp] theorem State.modSplit_power (s : State) (f : Focus) (h : Split → Split) : (s.modSplit f h).power = s.power := rfl
@[simp] theorem State.modSplit_telemetry (s : State) (f : Focus) (h : Split → Split) : (s.modSplit f h).telemetry = s.telemetry := rfl
@[simp] theorem State.modSplit_ceTimes (s : State) (f : Focus) (h : Split → Split) : (s.modSplit f h).ceTimes = s.ceTimes := rfl
@[simp] theorem State.modSplit_substs (s : State) (f : Focus) (h : Split → Split) : (s.modSplit f h).substs = s.substs := rfl
@[simp] theorem State.modSplit_worn (s : State) (f : Focus) (h : Split → Split) : (s.modSplit f h).worn = s.worn := rfl
@[simp] theorem State.modSplit_wornOut (s : State) (f : Focus) (h : Split → Split) : (s.modSplit f h).wornOut = s.wornOut := rfl
@[simp] theorem State.modSplit_answers (s : State) (f : Focus) (h : Split → Split) : (s.modSplit f h).answers = s.answers := rfl
@[simp] theorem State.modSplit_harts (s : State) (f : Focus) (h : Split → Split) : (s.modSplit f h).harts = s.harts := rfl
@[simp] theorem State.modSplit_hartAnswers (s : State) (f : Focus) (h : Split → Split) : (s.modSplit f h).hartAnswers = s.hartAnswers := rfl

/-! advance changes wgs. -/
@[simp] theorem State.advance_agenda (s : State) (x : Ctx) : (s.advance x).agenda = s.agenda := rfl
@[simp] theorem State.advance_focus (s : State) (x : Ctx) : (s.advance x).focus = s.focus := rfl
@[simp] theorem State.advance_waiting (s : State) (x : Ctx) : (s.advance x).waiting = s.waiting := rfl
@[simp] theorem State.advance_ordered (s : State) (x : Ctx) : (s.advance x).ordered = s.ordered := rfl
@[simp] theorem State.advance_free (s : State) (x : Ctx) : (s.advance x).free = s.free := rfl
@[simp] theorem State.advance_nextId (s : State) (x : Ctx) : (s.advance x).nextId = s.nextId := rfl
@[simp] theorem State.advance_seq (s : State) (x : Ctx) : (s.advance x).seq = s.seq := rfl
@[simp] theorem State.advance_cycle (s : State) (x : Ctx) : (s.advance x).cycle = s.cycle := rfl
@[simp] theorem State.advance_picked (s : State) (x : Ctx) : (s.advance x).picked = s.picked := rfl
@[simp] theorem State.advance_pipes (s : State) (x : Ctx) : (s.advance x).pipes = s.pipes := rfl
@[simp] theorem State.advance_clocks (s : State) (x : Ctx) : (s.advance x).clocks = s.clocks := rfl
@[simp] theorem State.advance_cores (s : State) (x : Ctx) : (s.advance x).cores = s.cores := rfl
@[simp] theorem State.advance_mem (s : State) (x : Ctx) : (s.advance x).mem = s.mem := rfl
@[simp] theorem State.advance_poison (s : State) (x : Ctx) : (s.advance x).poison = s.poison := rfl
@[simp] theorem State.advance_lines (s : State) (x : Ctx) : (s.advance x).lines = s.lines := rfl
@[simp] theorem State.advance_homes (s : State) (x : Ctx) : (s.advance x).homes = s.homes := rfl
@[simp] theorem State.advance_msgs (s : State) (x : Ctx) : (s.advance x).msgs = s.msgs := rfl
@[simp] theorem State.advance_deadLinks (s : State) (x : Ctx) : (s.advance x).deadLinks = s.deadLinks := rfl
@[simp] theorem State.advance_storeQ (s : State) (x : Ctx) : (s.advance x).storeQ = s.storeQ := rfl
@[simp] theorem State.advance_contribs (s : State) (x : Ctx) : (s.advance x).contribs = s.contribs := rfl
@[simp] theorem State.advance_fabric (s : State) (x : Ctx) : (s.advance x).fabric = s.fabric := rfl
@[simp] theorem State.advance_inbound (s : State) (x : Ctx) : (s.advance x).inbound = s.inbound := rfl
@[simp] theorem State.advance_peerAnswers (s : State) (x : Ctx) : (s.advance x).peerAnswers = s.peerAnswers := rfl
@[simp] theorem State.advance_posted (s : State) (x : Ctx) : (s.advance x).posted = s.posted := rfl
@[simp] theorem State.advance_devWrites (s : State) (x : Ctx) : (s.advance x).devWrites = s.devWrites := rfl
@[simp] theorem State.advance_devLoads (s : State) (x : Ctx) : (s.advance x).devLoads = s.devLoads := rfl
@[simp] theorem State.advance_l1 (s : State) (x : Ctx) : (s.advance x).l1 = s.l1 := rfl
@[simp] theorem State.advance_icache (s : State) (x : Ctx) : (s.advance x).icache = s.icache := rfl
@[simp] theorem State.advance_icreqs (s : State) (x : Ctx) : (s.advance x).icreqs = s.icreqs := rfl
@[simp] theorem State.advance_regions (s : State) (x : Ctx) : (s.advance x).regions = s.regions := rfl
@[simp] theorem State.advance_stewards (s : State) (x : Ctx) : (s.advance x).stewards = s.stewards := rfl
@[simp] theorem State.advance_masters (s : State) (x : Ctx) : (s.advance x).masters = s.masters := rfl
@[simp] theorem State.advance_prismQ (s : State) (x : Ctx) : (s.advance x).prismQ = s.prismQ := rfl
@[simp] theorem State.advance_refreshes (s : State) (x : Ctx) : (s.advance x).refreshes = s.refreshes := rfl
@[simp] theorem State.advance_views (s : State) (x : Ctx) : (s.advance x).views = s.views := rfl
@[simp] theorem State.advance_arbiters (s : State) (x : Ctx) : (s.advance x).arbiters = s.arbiters := rfl
@[simp] theorem State.advance_ptRoots (s : State) (x : Ctx) : (s.advance x).ptRoots = s.ptRoots := rfl
@[simp] theorem State.advance_pasidTen (s : State) (x : Ctx) : (s.advance x).pasidTen = s.pasidTen := rfl
@[simp] theorem State.advance_portVis (s : State) (x : Ctx) : (s.advance x).portVis = s.portVis := rfl
@[simp] theorem State.advance_grids (s : State) (x : Ctx) : (s.advance x).grids = s.grids := rfl
@[simp] theorem State.advance_nodes (s : State) (x : Ctx) : (s.advance x).nodes = s.nodes := rfl
@[simp] theorem State.advance_roots (s : State) (x : Ctx) : (s.advance x).roots = s.roots := rfl
@[simp] theorem State.advance_queues (s : State) (x : Ctx) : (s.advance x).queues = s.queues := rfl
@[simp] theorem State.advance_dispatchAt (s : State) (x : Ctx) : (s.advance x).dispatchAt = s.dispatchAt := rfl
@[simp] theorem State.advance_copies (s : State) (x : Ctx) : (s.advance x).copies = s.copies := rfl
@[simp] theorem State.advance_qfe (s : State) (x : Ctx) : (s.advance x).qfe = s.qfe := rfl
@[simp] theorem State.advance_qfeVis (s : State) (x : Ctx) : (s.advance x).qfeVis = s.qfeVis := rfl
@[simp] theorem State.advance_watchdogs (s : State) (x : Ctx) : (s.advance x).watchdogs = s.watchdogs := rfl
@[simp] theorem State.advance_iat (s : State) (x : Ctx) : (s.advance x).iat = s.iat := rfl
@[simp] theorem State.advance_proxy (s : State) (x : Ctx) : (s.advance x).proxy = s.proxy := rfl
@[simp] theorem State.advance_doorbells (s : State) (x : Ctx) : (s.advance x).doorbells = s.doorbells := rfl
@[simp] theorem State.advance_lensRuns (s : State) (x : Ctx) : (s.advance x).lensRuns = s.lensRuns := rfl
@[simp] theorem State.advance_evictions (s : State) (x : Ctx) : (s.advance x).evictions = s.evictions := rfl
@[simp] theorem State.advance_pcfg (s : State) (x : Ctx) : (s.advance x).pcfg = s.pcfg := rfl
@[simp] theorem State.advance_links (s : State) (x : Ctx) : (s.advance x).links = s.links := rfl
@[simp] theorem State.advance_bifurc (s : State) (x : Ctx) : (s.advance x).bifurc = s.bifurc := rfl
@[simp] theorem State.advance_functions (s : State) (x : Ctx) : (s.advance x).functions = s.functions := rfl
@[simp] theorem State.advance_ide (s : State) (x : Ctx) : (s.advance x).ide = s.ide := rfl
@[simp] theorem State.advance_coreReqs (s : State) (x : Ctx) : (s.advance x).coreReqs = s.coreReqs := rfl
@[simp] theorem State.advance_epReqs (s : State) (x : Ctx) : (s.advance x).epReqs = s.epReqs := rfl
@[simp] theorem State.advance_shoot (s : State) (x : Ctx) : (s.advance x).shoot = s.shoot := rfl
@[simp] theorem State.advance_mig (s : State) (x : Ctx) : (s.advance x).mig = s.mig := rfl
@[simp] theorem State.advance_forwards (s : State) (x : Ctx) : (s.advance x).forwards = s.forwards := rfl
@[simp] theorem State.advance_logs (s : State) (x : Ctx) : (s.advance x).logs = s.logs := rfl
@[simp] theorem State.advance_irqs (s : State) (x : Ctx) : (s.advance x).irqs = s.irqs := rfl
@[simp] theorem State.advance_tens (s : State) (x : Ctx) : (s.advance x).tens = s.tens := rfl
@[simp] theorem State.advance_staged (s : State) (x : Ctx) : (s.advance x).staged = s.staged := rfl
@[simp] theorem State.advance_held (s : State) (x : Ctx) : (s.advance x).held = s.held := rfl
@[simp] theorem State.advance_restarting (s : State) (x : Ctx) : (s.advance x).restarting = s.restarting := rfl
@[simp] theorem State.advance_l2mode (s : State) (x : Ctx) : (s.advance x).l2mode = s.l2mode := rfl
@[simp] theorem State.advance_stagedMode (s : State) (x : Ctx) : (s.advance x).stagedMode = s.stagedMode := rfl
@[simp] theorem State.advance_mbox (s : State) (x : Ctx) : (s.advance x).mbox = s.mbox := rfl
@[simp] theorem State.advance_restarts (s : State) (x : Ctx) : (s.advance x).restarts = s.restarts := rfl
@[simp] theorem State.advance_devnum (s : State) (x : Ctx) : (s.advance x).devnum = s.devnum := rfl
@[simp] theorem State.advance_devnumSet (s : State) (x : Ctx) : (s.advance x).devnumSet = s.devnumSet := rfl
@[simp] theorem State.advance_fw (s : State) (x : Ctx) : (s.advance x).fw = s.fw := rfl
@[simp] theorem State.advance_bootFail (s : State) (x : Ctx) : (s.advance x).bootFail = s.bootFail := rfl
@[simp] theorem State.advance_booted (s : State) (x : Ctx) : (s.advance x).booted = s.booted := rfl
@[simp] theorem State.advance_fuse (s : State) (x : Ctx) : (s.advance x).fuse = s.fuse := rfl
@[simp] theorem State.advance_epwin (s : State) (x : Ctx) : (s.advance x).epwin = s.epwin := rfl
@[simp] theorem State.advance_recMbox (s : State) (x : Ctx) : (s.advance x).recMbox = s.recMbox := rfl
@[simp] theorem State.advance_recImage (s : State) (x : Ctx) : (s.advance x).recImage = s.recImage := rfl
@[simp] theorem State.advance_windows (s : State) (x : Ctx) : (s.advance x).windows = s.windows := rfl
@[simp] theorem State.advance_effAuth (s : State) (x : Ctx) : (s.advance x).effAuth = s.effAuth := rfl
@[simp] theorem State.advance_effUp (s : State) (x : Ctx) : (s.advance x).effUp = s.effUp := rfl
@[simp] theorem State.advance_laneSpare (s : State) (x : Ctx) : (s.advance x).laneSpare = s.laneSpare := rfl
@[simp] theorem State.advance_routes (s : State) (x : Ctx) : (s.advance x).routes = s.routes := rfl
@[simp] theorem State.advance_services (s : State) (x : Ctx) : (s.advance x).services = s.services := rfl
@[simp] theorem State.advance_journal (s : State) (x : Ctx) : (s.advance x).journal = s.journal := rfl
@[simp] theorem State.advance_power (s : State) (x : Ctx) : (s.advance x).power = s.power := rfl
@[simp] theorem State.advance_telemetry (s : State) (x : Ctx) : (s.advance x).telemetry = s.telemetry := rfl
@[simp] theorem State.advance_ceTimes (s : State) (x : Ctx) : (s.advance x).ceTimes = s.ceTimes := rfl
@[simp] theorem State.advance_substs (s : State) (x : Ctx) : (s.advance x).substs = s.substs := rfl
@[simp] theorem State.advance_worn (s : State) (x : Ctx) : (s.advance x).worn = s.worn := rfl
@[simp] theorem State.advance_wornOut (s : State) (x : Ctx) : (s.advance x).wornOut = s.wornOut := rfl
@[simp] theorem State.advance_answers (s : State) (x : Ctx) : (s.advance x).answers = s.answers := rfl
@[simp] theorem State.advance_harts (s : State) (x : Ctx) : (s.advance x).harts = s.harts := rfl
@[simp] theorem State.advance_hartAnswers (s : State) (x : Ctx) : (s.advance x).hartAnswers = s.hartAnswers := rfl

/-! blockSplit changes wgs. -/
@[simp] theorem State.blockSplit_agenda (s : State) (x : Ctx) (p : Phase) (y : Why) (b : Blk) : (s.blockSplit x p y b).agenda = s.agenda := rfl
@[simp] theorem State.blockSplit_focus (s : State) (x : Ctx) (p : Phase) (y : Why) (b : Blk) : (s.blockSplit x p y b).focus = s.focus := rfl
@[simp] theorem State.blockSplit_waiting (s : State) (x : Ctx) (p : Phase) (y : Why) (b : Blk) : (s.blockSplit x p y b).waiting = s.waiting := rfl
@[simp] theorem State.blockSplit_ordered (s : State) (x : Ctx) (p : Phase) (y : Why) (b : Blk) : (s.blockSplit x p y b).ordered = s.ordered := rfl
@[simp] theorem State.blockSplit_free (s : State) (x : Ctx) (p : Phase) (y : Why) (b : Blk) : (s.blockSplit x p y b).free = s.free := rfl
@[simp] theorem State.blockSplit_nextId (s : State) (x : Ctx) (p : Phase) (y : Why) (b : Blk) : (s.blockSplit x p y b).nextId = s.nextId := rfl
@[simp] theorem State.blockSplit_seq (s : State) (x : Ctx) (p : Phase) (y : Why) (b : Blk) : (s.blockSplit x p y b).seq = s.seq := rfl
@[simp] theorem State.blockSplit_cycle (s : State) (x : Ctx) (p : Phase) (y : Why) (b : Blk) : (s.blockSplit x p y b).cycle = s.cycle := rfl
@[simp] theorem State.blockSplit_picked (s : State) (x : Ctx) (p : Phase) (y : Why) (b : Blk) : (s.blockSplit x p y b).picked = s.picked := rfl
@[simp] theorem State.blockSplit_pipes (s : State) (x : Ctx) (p : Phase) (y : Why) (b : Blk) : (s.blockSplit x p y b).pipes = s.pipes := rfl
@[simp] theorem State.blockSplit_clocks (s : State) (x : Ctx) (p : Phase) (y : Why) (b : Blk) : (s.blockSplit x p y b).clocks = s.clocks := rfl
@[simp] theorem State.blockSplit_cores (s : State) (x : Ctx) (p : Phase) (y : Why) (b : Blk) : (s.blockSplit x p y b).cores = s.cores := rfl
@[simp] theorem State.blockSplit_mem (s : State) (x : Ctx) (p : Phase) (y : Why) (b : Blk) : (s.blockSplit x p y b).mem = s.mem := rfl
@[simp] theorem State.blockSplit_poison (s : State) (x : Ctx) (p : Phase) (y : Why) (b : Blk) : (s.blockSplit x p y b).poison = s.poison := rfl
@[simp] theorem State.blockSplit_lines (s : State) (x : Ctx) (p : Phase) (y : Why) (b : Blk) : (s.blockSplit x p y b).lines = s.lines := rfl
@[simp] theorem State.blockSplit_homes (s : State) (x : Ctx) (p : Phase) (y : Why) (b : Blk) : (s.blockSplit x p y b).homes = s.homes := rfl
@[simp] theorem State.blockSplit_msgs (s : State) (x : Ctx) (p : Phase) (y : Why) (b : Blk) : (s.blockSplit x p y b).msgs = s.msgs := rfl
@[simp] theorem State.blockSplit_deadLinks (s : State) (x : Ctx) (p : Phase) (y : Why) (b : Blk) : (s.blockSplit x p y b).deadLinks = s.deadLinks := rfl
@[simp] theorem State.blockSplit_storeQ (s : State) (x : Ctx) (p : Phase) (y : Why) (b : Blk) : (s.blockSplit x p y b).storeQ = s.storeQ := rfl
@[simp] theorem State.blockSplit_contribs (s : State) (x : Ctx) (p : Phase) (y : Why) (b : Blk) : (s.blockSplit x p y b).contribs = s.contribs := rfl
@[simp] theorem State.blockSplit_fabric (s : State) (x : Ctx) (p : Phase) (y : Why) (b : Blk) : (s.blockSplit x p y b).fabric = s.fabric := rfl
@[simp] theorem State.blockSplit_inbound (s : State) (x : Ctx) (p : Phase) (y : Why) (b : Blk) : (s.blockSplit x p y b).inbound = s.inbound := rfl
@[simp] theorem State.blockSplit_peerAnswers (s : State) (x : Ctx) (p : Phase) (y : Why) (b : Blk) : (s.blockSplit x p y b).peerAnswers = s.peerAnswers := rfl
@[simp] theorem State.blockSplit_posted (s : State) (x : Ctx) (p : Phase) (y : Why) (b : Blk) : (s.blockSplit x p y b).posted = s.posted := rfl
@[simp] theorem State.blockSplit_devWrites (s : State) (x : Ctx) (p : Phase) (y : Why) (b : Blk) : (s.blockSplit x p y b).devWrites = s.devWrites := rfl
@[simp] theorem State.blockSplit_devLoads (s : State) (x : Ctx) (p : Phase) (y : Why) (b : Blk) : (s.blockSplit x p y b).devLoads = s.devLoads := rfl
@[simp] theorem State.blockSplit_l1 (s : State) (x : Ctx) (p : Phase) (y : Why) (b : Blk) : (s.blockSplit x p y b).l1 = s.l1 := rfl
@[simp] theorem State.blockSplit_icache (s : State) (x : Ctx) (p : Phase) (y : Why) (b : Blk) : (s.blockSplit x p y b).icache = s.icache := rfl
@[simp] theorem State.blockSplit_icreqs (s : State) (x : Ctx) (p : Phase) (y : Why) (b : Blk) : (s.blockSplit x p y b).icreqs = s.icreqs := rfl
@[simp] theorem State.blockSplit_regions (s : State) (x : Ctx) (p : Phase) (y : Why) (b : Blk) : (s.blockSplit x p y b).regions = s.regions := rfl
@[simp] theorem State.blockSplit_stewards (s : State) (x : Ctx) (p : Phase) (y : Why) (b : Blk) : (s.blockSplit x p y b).stewards = s.stewards := rfl
@[simp] theorem State.blockSplit_masters (s : State) (x : Ctx) (p : Phase) (y : Why) (b : Blk) : (s.blockSplit x p y b).masters = s.masters := rfl
@[simp] theorem State.blockSplit_prismQ (s : State) (x : Ctx) (p : Phase) (y : Why) (b : Blk) : (s.blockSplit x p y b).prismQ = s.prismQ := rfl
@[simp] theorem State.blockSplit_refreshes (s : State) (x : Ctx) (p : Phase) (y : Why) (b : Blk) : (s.blockSplit x p y b).refreshes = s.refreshes := rfl
@[simp] theorem State.blockSplit_views (s : State) (x : Ctx) (p : Phase) (y : Why) (b : Blk) : (s.blockSplit x p y b).views = s.views := rfl
@[simp] theorem State.blockSplit_arbiters (s : State) (x : Ctx) (p : Phase) (y : Why) (b : Blk) : (s.blockSplit x p y b).arbiters = s.arbiters := rfl
@[simp] theorem State.blockSplit_ptRoots (s : State) (x : Ctx) (p : Phase) (y : Why) (b : Blk) : (s.blockSplit x p y b).ptRoots = s.ptRoots := rfl
@[simp] theorem State.blockSplit_pasidTen (s : State) (x : Ctx) (p : Phase) (y : Why) (b : Blk) : (s.blockSplit x p y b).pasidTen = s.pasidTen := rfl
@[simp] theorem State.blockSplit_portVis (s : State) (x : Ctx) (p : Phase) (y : Why) (b : Blk) : (s.blockSplit x p y b).portVis = s.portVis := rfl
@[simp] theorem State.blockSplit_grids (s : State) (x : Ctx) (p : Phase) (y : Why) (b : Blk) : (s.blockSplit x p y b).grids = s.grids := rfl
@[simp] theorem State.blockSplit_nodes (s : State) (x : Ctx) (p : Phase) (y : Why) (b : Blk) : (s.blockSplit x p y b).nodes = s.nodes := rfl
@[simp] theorem State.blockSplit_roots (s : State) (x : Ctx) (p : Phase) (y : Why) (b : Blk) : (s.blockSplit x p y b).roots = s.roots := rfl
@[simp] theorem State.blockSplit_queues (s : State) (x : Ctx) (p : Phase) (y : Why) (b : Blk) : (s.blockSplit x p y b).queues = s.queues := rfl
@[simp] theorem State.blockSplit_dispatchAt (s : State) (x : Ctx) (p : Phase) (y : Why) (b : Blk) : (s.blockSplit x p y b).dispatchAt = s.dispatchAt := rfl
@[simp] theorem State.blockSplit_copies (s : State) (x : Ctx) (p : Phase) (y : Why) (b : Blk) : (s.blockSplit x p y b).copies = s.copies := rfl
@[simp] theorem State.blockSplit_qfe (s : State) (x : Ctx) (p : Phase) (y : Why) (b : Blk) : (s.blockSplit x p y b).qfe = s.qfe := rfl
@[simp] theorem State.blockSplit_qfeVis (s : State) (x : Ctx) (p : Phase) (y : Why) (b : Blk) : (s.blockSplit x p y b).qfeVis = s.qfeVis := rfl
@[simp] theorem State.blockSplit_watchdogs (s : State) (x : Ctx) (p : Phase) (y : Why) (b : Blk) : (s.blockSplit x p y b).watchdogs = s.watchdogs := rfl
@[simp] theorem State.blockSplit_iat (s : State) (x : Ctx) (p : Phase) (y : Why) (b : Blk) : (s.blockSplit x p y b).iat = s.iat := rfl
@[simp] theorem State.blockSplit_proxy (s : State) (x : Ctx) (p : Phase) (y : Why) (b : Blk) : (s.blockSplit x p y b).proxy = s.proxy := rfl
@[simp] theorem State.blockSplit_doorbells (s : State) (x : Ctx) (p : Phase) (y : Why) (b : Blk) : (s.blockSplit x p y b).doorbells = s.doorbells := rfl
@[simp] theorem State.blockSplit_lensRuns (s : State) (x : Ctx) (p : Phase) (y : Why) (b : Blk) : (s.blockSplit x p y b).lensRuns = s.lensRuns := rfl
@[simp] theorem State.blockSplit_evictions (s : State) (x : Ctx) (p : Phase) (y : Why) (b : Blk) : (s.blockSplit x p y b).evictions = s.evictions := rfl
@[simp] theorem State.blockSplit_pcfg (s : State) (x : Ctx) (p : Phase) (y : Why) (b : Blk) : (s.blockSplit x p y b).pcfg = s.pcfg := rfl
@[simp] theorem State.blockSplit_links (s : State) (x : Ctx) (p : Phase) (y : Why) (b : Blk) : (s.blockSplit x p y b).links = s.links := rfl
@[simp] theorem State.blockSplit_bifurc (s : State) (x : Ctx) (p : Phase) (y : Why) (b : Blk) : (s.blockSplit x p y b).bifurc = s.bifurc := rfl
@[simp] theorem State.blockSplit_functions (s : State) (x : Ctx) (p : Phase) (y : Why) (b : Blk) : (s.blockSplit x p y b).functions = s.functions := rfl
@[simp] theorem State.blockSplit_ide (s : State) (x : Ctx) (p : Phase) (y : Why) (b : Blk) : (s.blockSplit x p y b).ide = s.ide := rfl
@[simp] theorem State.blockSplit_coreReqs (s : State) (x : Ctx) (p : Phase) (y : Why) (b : Blk) : (s.blockSplit x p y b).coreReqs = s.coreReqs := rfl
@[simp] theorem State.blockSplit_epReqs (s : State) (x : Ctx) (p : Phase) (y : Why) (b : Blk) : (s.blockSplit x p y b).epReqs = s.epReqs := rfl
@[simp] theorem State.blockSplit_shoot (s : State) (x : Ctx) (p : Phase) (y : Why) (b : Blk) : (s.blockSplit x p y b).shoot = s.shoot := rfl
@[simp] theorem State.blockSplit_mig (s : State) (x : Ctx) (p : Phase) (y : Why) (b : Blk) : (s.blockSplit x p y b).mig = s.mig := rfl
@[simp] theorem State.blockSplit_forwards (s : State) (x : Ctx) (p : Phase) (y : Why) (b : Blk) : (s.blockSplit x p y b).forwards = s.forwards := rfl
@[simp] theorem State.blockSplit_logs (s : State) (x : Ctx) (p : Phase) (y : Why) (b : Blk) : (s.blockSplit x p y b).logs = s.logs := rfl
@[simp] theorem State.blockSplit_irqs (s : State) (x : Ctx) (p : Phase) (y : Why) (b : Blk) : (s.blockSplit x p y b).irqs = s.irqs := rfl
@[simp] theorem State.blockSplit_tens (s : State) (x : Ctx) (p : Phase) (y : Why) (b : Blk) : (s.blockSplit x p y b).tens = s.tens := rfl
@[simp] theorem State.blockSplit_staged (s : State) (x : Ctx) (p : Phase) (y : Why) (b : Blk) : (s.blockSplit x p y b).staged = s.staged := rfl
@[simp] theorem State.blockSplit_held (s : State) (x : Ctx) (p : Phase) (y : Why) (b : Blk) : (s.blockSplit x p y b).held = s.held := rfl
@[simp] theorem State.blockSplit_restarting (s : State) (x : Ctx) (p : Phase) (y : Why) (b : Blk) : (s.blockSplit x p y b).restarting = s.restarting := rfl
@[simp] theorem State.blockSplit_l2mode (s : State) (x : Ctx) (p : Phase) (y : Why) (b : Blk) : (s.blockSplit x p y b).l2mode = s.l2mode := rfl
@[simp] theorem State.blockSplit_stagedMode (s : State) (x : Ctx) (p : Phase) (y : Why) (b : Blk) : (s.blockSplit x p y b).stagedMode = s.stagedMode := rfl
@[simp] theorem State.blockSplit_mbox (s : State) (x : Ctx) (p : Phase) (y : Why) (b : Blk) : (s.blockSplit x p y b).mbox = s.mbox := rfl
@[simp] theorem State.blockSplit_restarts (s : State) (x : Ctx) (p : Phase) (y : Why) (b : Blk) : (s.blockSplit x p y b).restarts = s.restarts := rfl
@[simp] theorem State.blockSplit_devnum (s : State) (x : Ctx) (p : Phase) (y : Why) (b : Blk) : (s.blockSplit x p y b).devnum = s.devnum := rfl
@[simp] theorem State.blockSplit_devnumSet (s : State) (x : Ctx) (p : Phase) (y : Why) (b : Blk) : (s.blockSplit x p y b).devnumSet = s.devnumSet := rfl
@[simp] theorem State.blockSplit_fw (s : State) (x : Ctx) (p : Phase) (y : Why) (b : Blk) : (s.blockSplit x p y b).fw = s.fw := rfl
@[simp] theorem State.blockSplit_bootFail (s : State) (x : Ctx) (p : Phase) (y : Why) (b : Blk) : (s.blockSplit x p y b).bootFail = s.bootFail := rfl
@[simp] theorem State.blockSplit_booted (s : State) (x : Ctx) (p : Phase) (y : Why) (b : Blk) : (s.blockSplit x p y b).booted = s.booted := rfl
@[simp] theorem State.blockSplit_fuse (s : State) (x : Ctx) (p : Phase) (y : Why) (b : Blk) : (s.blockSplit x p y b).fuse = s.fuse := rfl
@[simp] theorem State.blockSplit_epwin (s : State) (x : Ctx) (p : Phase) (y : Why) (b : Blk) : (s.blockSplit x p y b).epwin = s.epwin := rfl
@[simp] theorem State.blockSplit_recMbox (s : State) (x : Ctx) (p : Phase) (y : Why) (b : Blk) : (s.blockSplit x p y b).recMbox = s.recMbox := rfl
@[simp] theorem State.blockSplit_recImage (s : State) (x : Ctx) (p : Phase) (y : Why) (b : Blk) : (s.blockSplit x p y b).recImage = s.recImage := rfl
@[simp] theorem State.blockSplit_windows (s : State) (x : Ctx) (p : Phase) (y : Why) (b : Blk) : (s.blockSplit x p y b).windows = s.windows := rfl
@[simp] theorem State.blockSplit_effAuth (s : State) (x : Ctx) (p : Phase) (y : Why) (b : Blk) : (s.blockSplit x p y b).effAuth = s.effAuth := rfl
@[simp] theorem State.blockSplit_effUp (s : State) (x : Ctx) (p : Phase) (y : Why) (b : Blk) : (s.blockSplit x p y b).effUp = s.effUp := rfl
@[simp] theorem State.blockSplit_laneSpare (s : State) (x : Ctx) (p : Phase) (y : Why) (b : Blk) : (s.blockSplit x p y b).laneSpare = s.laneSpare := rfl
@[simp] theorem State.blockSplit_routes (s : State) (x : Ctx) (p : Phase) (y : Why) (b : Blk) : (s.blockSplit x p y b).routes = s.routes := rfl
@[simp] theorem State.blockSplit_services (s : State) (x : Ctx) (p : Phase) (y : Why) (b : Blk) : (s.blockSplit x p y b).services = s.services := rfl
@[simp] theorem State.blockSplit_journal (s : State) (x : Ctx) (p : Phase) (y : Why) (b : Blk) : (s.blockSplit x p y b).journal = s.journal := rfl
@[simp] theorem State.blockSplit_power (s : State) (x : Ctx) (p : Phase) (y : Why) (b : Blk) : (s.blockSplit x p y b).power = s.power := rfl
@[simp] theorem State.blockSplit_telemetry (s : State) (x : Ctx) (p : Phase) (y : Why) (b : Blk) : (s.blockSplit x p y b).telemetry = s.telemetry := rfl
@[simp] theorem State.blockSplit_ceTimes (s : State) (x : Ctx) (p : Phase) (y : Why) (b : Blk) : (s.blockSplit x p y b).ceTimes = s.ceTimes := rfl
@[simp] theorem State.blockSplit_substs (s : State) (x : Ctx) (p : Phase) (y : Why) (b : Blk) : (s.blockSplit x p y b).substs = s.substs := rfl
@[simp] theorem State.blockSplit_worn (s : State) (x : Ctx) (p : Phase) (y : Why) (b : Blk) : (s.blockSplit x p y b).worn = s.worn := rfl
@[simp] theorem State.blockSplit_wornOut (s : State) (x : Ctx) (p : Phase) (y : Why) (b : Blk) : (s.blockSplit x p y b).wornOut = s.wornOut := rfl
@[simp] theorem State.blockSplit_answers (s : State) (x : Ctx) (p : Phase) (y : Why) (b : Blk) : (s.blockSplit x p y b).answers = s.answers := rfl
@[simp] theorem State.blockSplit_harts (s : State) (x : Ctx) (p : Phase) (y : Why) (b : Blk) : (s.blockSplit x p y b).harts = s.harts := rfl
@[simp] theorem State.blockSplit_hartAnswers (s : State) (x : Ctx) (p : Phase) (y : Why) (b : Blk) : (s.blockSplit x p y b).hartAnswers = s.hartAnswers := rfl

/-! holdSplit changes wgs, picked. -/
@[simp] theorem State.holdSplit_agenda (s : State) (x : Ctx) : (s.holdSplit x).agenda = s.agenda := rfl
@[simp] theorem State.holdSplit_focus (s : State) (x : Ctx) : (s.holdSplit x).focus = s.focus := rfl
@[simp] theorem State.holdSplit_waiting (s : State) (x : Ctx) : (s.holdSplit x).waiting = s.waiting := rfl
@[simp] theorem State.holdSplit_ordered (s : State) (x : Ctx) : (s.holdSplit x).ordered = s.ordered := rfl
@[simp] theorem State.holdSplit_free (s : State) (x : Ctx) : (s.holdSplit x).free = s.free := rfl
@[simp] theorem State.holdSplit_nextId (s : State) (x : Ctx) : (s.holdSplit x).nextId = s.nextId := rfl
@[simp] theorem State.holdSplit_seq (s : State) (x : Ctx) : (s.holdSplit x).seq = s.seq := rfl
@[simp] theorem State.holdSplit_cycle (s : State) (x : Ctx) : (s.holdSplit x).cycle = s.cycle := rfl
@[simp] theorem State.holdSplit_pipes (s : State) (x : Ctx) : (s.holdSplit x).pipes = s.pipes := rfl
@[simp] theorem State.holdSplit_clocks (s : State) (x : Ctx) : (s.holdSplit x).clocks = s.clocks := rfl
@[simp] theorem State.holdSplit_cores (s : State) (x : Ctx) : (s.holdSplit x).cores = s.cores := rfl
@[simp] theorem State.holdSplit_mem (s : State) (x : Ctx) : (s.holdSplit x).mem = s.mem := rfl
@[simp] theorem State.holdSplit_poison (s : State) (x : Ctx) : (s.holdSplit x).poison = s.poison := rfl
@[simp] theorem State.holdSplit_lines (s : State) (x : Ctx) : (s.holdSplit x).lines = s.lines := rfl
@[simp] theorem State.holdSplit_homes (s : State) (x : Ctx) : (s.holdSplit x).homes = s.homes := rfl
@[simp] theorem State.holdSplit_msgs (s : State) (x : Ctx) : (s.holdSplit x).msgs = s.msgs := rfl
@[simp] theorem State.holdSplit_deadLinks (s : State) (x : Ctx) : (s.holdSplit x).deadLinks = s.deadLinks := rfl
@[simp] theorem State.holdSplit_storeQ (s : State) (x : Ctx) : (s.holdSplit x).storeQ = s.storeQ := rfl
@[simp] theorem State.holdSplit_contribs (s : State) (x : Ctx) : (s.holdSplit x).contribs = s.contribs := rfl
@[simp] theorem State.holdSplit_fabric (s : State) (x : Ctx) : (s.holdSplit x).fabric = s.fabric := rfl
@[simp] theorem State.holdSplit_inbound (s : State) (x : Ctx) : (s.holdSplit x).inbound = s.inbound := rfl
@[simp] theorem State.holdSplit_peerAnswers (s : State) (x : Ctx) : (s.holdSplit x).peerAnswers = s.peerAnswers := rfl
@[simp] theorem State.holdSplit_posted (s : State) (x : Ctx) : (s.holdSplit x).posted = s.posted := rfl
@[simp] theorem State.holdSplit_devWrites (s : State) (x : Ctx) : (s.holdSplit x).devWrites = s.devWrites := rfl
@[simp] theorem State.holdSplit_devLoads (s : State) (x : Ctx) : (s.holdSplit x).devLoads = s.devLoads := rfl
@[simp] theorem State.holdSplit_l1 (s : State) (x : Ctx) : (s.holdSplit x).l1 = s.l1 := rfl
@[simp] theorem State.holdSplit_icache (s : State) (x : Ctx) : (s.holdSplit x).icache = s.icache := rfl
@[simp] theorem State.holdSplit_icreqs (s : State) (x : Ctx) : (s.holdSplit x).icreqs = s.icreqs := rfl
@[simp] theorem State.holdSplit_regions (s : State) (x : Ctx) : (s.holdSplit x).regions = s.regions := rfl
@[simp] theorem State.holdSplit_stewards (s : State) (x : Ctx) : (s.holdSplit x).stewards = s.stewards := rfl
@[simp] theorem State.holdSplit_masters (s : State) (x : Ctx) : (s.holdSplit x).masters = s.masters := rfl
@[simp] theorem State.holdSplit_prismQ (s : State) (x : Ctx) : (s.holdSplit x).prismQ = s.prismQ := rfl
@[simp] theorem State.holdSplit_refreshes (s : State) (x : Ctx) : (s.holdSplit x).refreshes = s.refreshes := rfl
@[simp] theorem State.holdSplit_views (s : State) (x : Ctx) : (s.holdSplit x).views = s.views := rfl
@[simp] theorem State.holdSplit_arbiters (s : State) (x : Ctx) : (s.holdSplit x).arbiters = s.arbiters := rfl
@[simp] theorem State.holdSplit_ptRoots (s : State) (x : Ctx) : (s.holdSplit x).ptRoots = s.ptRoots := rfl
@[simp] theorem State.holdSplit_pasidTen (s : State) (x : Ctx) : (s.holdSplit x).pasidTen = s.pasidTen := rfl
@[simp] theorem State.holdSplit_portVis (s : State) (x : Ctx) : (s.holdSplit x).portVis = s.portVis := rfl
@[simp] theorem State.holdSplit_grids (s : State) (x : Ctx) : (s.holdSplit x).grids = s.grids := rfl
@[simp] theorem State.holdSplit_nodes (s : State) (x : Ctx) : (s.holdSplit x).nodes = s.nodes := rfl
@[simp] theorem State.holdSplit_roots (s : State) (x : Ctx) : (s.holdSplit x).roots = s.roots := rfl
@[simp] theorem State.holdSplit_queues (s : State) (x : Ctx) : (s.holdSplit x).queues = s.queues := rfl
@[simp] theorem State.holdSplit_dispatchAt (s : State) (x : Ctx) : (s.holdSplit x).dispatchAt = s.dispatchAt := rfl
@[simp] theorem State.holdSplit_copies (s : State) (x : Ctx) : (s.holdSplit x).copies = s.copies := rfl
@[simp] theorem State.holdSplit_qfe (s : State) (x : Ctx) : (s.holdSplit x).qfe = s.qfe := rfl
@[simp] theorem State.holdSplit_qfeVis (s : State) (x : Ctx) : (s.holdSplit x).qfeVis = s.qfeVis := rfl
@[simp] theorem State.holdSplit_watchdogs (s : State) (x : Ctx) : (s.holdSplit x).watchdogs = s.watchdogs := rfl
@[simp] theorem State.holdSplit_iat (s : State) (x : Ctx) : (s.holdSplit x).iat = s.iat := rfl
@[simp] theorem State.holdSplit_proxy (s : State) (x : Ctx) : (s.holdSplit x).proxy = s.proxy := rfl
@[simp] theorem State.holdSplit_doorbells (s : State) (x : Ctx) : (s.holdSplit x).doorbells = s.doorbells := rfl
@[simp] theorem State.holdSplit_lensRuns (s : State) (x : Ctx) : (s.holdSplit x).lensRuns = s.lensRuns := rfl
@[simp] theorem State.holdSplit_evictions (s : State) (x : Ctx) : (s.holdSplit x).evictions = s.evictions := rfl
@[simp] theorem State.holdSplit_pcfg (s : State) (x : Ctx) : (s.holdSplit x).pcfg = s.pcfg := rfl
@[simp] theorem State.holdSplit_links (s : State) (x : Ctx) : (s.holdSplit x).links = s.links := rfl
@[simp] theorem State.holdSplit_bifurc (s : State) (x : Ctx) : (s.holdSplit x).bifurc = s.bifurc := rfl
@[simp] theorem State.holdSplit_functions (s : State) (x : Ctx) : (s.holdSplit x).functions = s.functions := rfl
@[simp] theorem State.holdSplit_ide (s : State) (x : Ctx) : (s.holdSplit x).ide = s.ide := rfl
@[simp] theorem State.holdSplit_coreReqs (s : State) (x : Ctx) : (s.holdSplit x).coreReqs = s.coreReqs := rfl
@[simp] theorem State.holdSplit_epReqs (s : State) (x : Ctx) : (s.holdSplit x).epReqs = s.epReqs := rfl
@[simp] theorem State.holdSplit_shoot (s : State) (x : Ctx) : (s.holdSplit x).shoot = s.shoot := rfl
@[simp] theorem State.holdSplit_mig (s : State) (x : Ctx) : (s.holdSplit x).mig = s.mig := rfl
@[simp] theorem State.holdSplit_forwards (s : State) (x : Ctx) : (s.holdSplit x).forwards = s.forwards := rfl
@[simp] theorem State.holdSplit_logs (s : State) (x : Ctx) : (s.holdSplit x).logs = s.logs := rfl
@[simp] theorem State.holdSplit_irqs (s : State) (x : Ctx) : (s.holdSplit x).irqs = s.irqs := rfl
@[simp] theorem State.holdSplit_tens (s : State) (x : Ctx) : (s.holdSplit x).tens = s.tens := rfl
@[simp] theorem State.holdSplit_staged (s : State) (x : Ctx) : (s.holdSplit x).staged = s.staged := rfl
@[simp] theorem State.holdSplit_held (s : State) (x : Ctx) : (s.holdSplit x).held = s.held := rfl
@[simp] theorem State.holdSplit_restarting (s : State) (x : Ctx) : (s.holdSplit x).restarting = s.restarting := rfl
@[simp] theorem State.holdSplit_l2mode (s : State) (x : Ctx) : (s.holdSplit x).l2mode = s.l2mode := rfl
@[simp] theorem State.holdSplit_stagedMode (s : State) (x : Ctx) : (s.holdSplit x).stagedMode = s.stagedMode := rfl
@[simp] theorem State.holdSplit_mbox (s : State) (x : Ctx) : (s.holdSplit x).mbox = s.mbox := rfl
@[simp] theorem State.holdSplit_restarts (s : State) (x : Ctx) : (s.holdSplit x).restarts = s.restarts := rfl
@[simp] theorem State.holdSplit_devnum (s : State) (x : Ctx) : (s.holdSplit x).devnum = s.devnum := rfl
@[simp] theorem State.holdSplit_devnumSet (s : State) (x : Ctx) : (s.holdSplit x).devnumSet = s.devnumSet := rfl
@[simp] theorem State.holdSplit_fw (s : State) (x : Ctx) : (s.holdSplit x).fw = s.fw := rfl
@[simp] theorem State.holdSplit_bootFail (s : State) (x : Ctx) : (s.holdSplit x).bootFail = s.bootFail := rfl
@[simp] theorem State.holdSplit_booted (s : State) (x : Ctx) : (s.holdSplit x).booted = s.booted := rfl
@[simp] theorem State.holdSplit_fuse (s : State) (x : Ctx) : (s.holdSplit x).fuse = s.fuse := rfl
@[simp] theorem State.holdSplit_epwin (s : State) (x : Ctx) : (s.holdSplit x).epwin = s.epwin := rfl
@[simp] theorem State.holdSplit_recMbox (s : State) (x : Ctx) : (s.holdSplit x).recMbox = s.recMbox := rfl
@[simp] theorem State.holdSplit_recImage (s : State) (x : Ctx) : (s.holdSplit x).recImage = s.recImage := rfl
@[simp] theorem State.holdSplit_windows (s : State) (x : Ctx) : (s.holdSplit x).windows = s.windows := rfl
@[simp] theorem State.holdSplit_effAuth (s : State) (x : Ctx) : (s.holdSplit x).effAuth = s.effAuth := rfl
@[simp] theorem State.holdSplit_effUp (s : State) (x : Ctx) : (s.holdSplit x).effUp = s.effUp := rfl
@[simp] theorem State.holdSplit_laneSpare (s : State) (x : Ctx) : (s.holdSplit x).laneSpare = s.laneSpare := rfl
@[simp] theorem State.holdSplit_routes (s : State) (x : Ctx) : (s.holdSplit x).routes = s.routes := rfl
@[simp] theorem State.holdSplit_services (s : State) (x : Ctx) : (s.holdSplit x).services = s.services := rfl
@[simp] theorem State.holdSplit_journal (s : State) (x : Ctx) : (s.holdSplit x).journal = s.journal := rfl
@[simp] theorem State.holdSplit_power (s : State) (x : Ctx) : (s.holdSplit x).power = s.power := rfl
@[simp] theorem State.holdSplit_telemetry (s : State) (x : Ctx) : (s.holdSplit x).telemetry = s.telemetry := rfl
@[simp] theorem State.holdSplit_ceTimes (s : State) (x : Ctx) : (s.holdSplit x).ceTimes = s.ceTimes := rfl
@[simp] theorem State.holdSplit_substs (s : State) (x : Ctx) : (s.holdSplit x).substs = s.substs := rfl
@[simp] theorem State.holdSplit_worn (s : State) (x : Ctx) : (s.holdSplit x).worn = s.worn := rfl
@[simp] theorem State.holdSplit_wornOut (s : State) (x : Ctx) : (s.holdSplit x).wornOut = s.wornOut := rfl
@[simp] theorem State.holdSplit_answers (s : State) (x : Ctx) : (s.holdSplit x).answers = s.answers := rfl
@[simp] theorem State.holdSplit_harts (s : State) (x : Ctx) : (s.holdSplit x).harts = s.harts := rfl
@[simp] theorem State.holdSplit_hartAnswers (s : State) (x : Ctx) : (s.holdSplit x).hartAnswers = s.hartAnswers := rfl

/-! doneWith changes wgs. -/
@[simp] theorem State.doneWith_agenda (s : State) (x : Ctx) (f : Group → Group) : (s.doneWith x f).agenda = s.agenda := rfl
@[simp] theorem State.doneWith_focus (s : State) (x : Ctx) (f : Group → Group) : (s.doneWith x f).focus = s.focus := rfl
@[simp] theorem State.doneWith_waiting (s : State) (x : Ctx) (f : Group → Group) : (s.doneWith x f).waiting = s.waiting := rfl
@[simp] theorem State.doneWith_ordered (s : State) (x : Ctx) (f : Group → Group) : (s.doneWith x f).ordered = s.ordered := rfl
@[simp] theorem State.doneWith_free (s : State) (x : Ctx) (f : Group → Group) : (s.doneWith x f).free = s.free := rfl
@[simp] theorem State.doneWith_nextId (s : State) (x : Ctx) (f : Group → Group) : (s.doneWith x f).nextId = s.nextId := rfl
@[simp] theorem State.doneWith_seq (s : State) (x : Ctx) (f : Group → Group) : (s.doneWith x f).seq = s.seq := rfl
@[simp] theorem State.doneWith_cycle (s : State) (x : Ctx) (f : Group → Group) : (s.doneWith x f).cycle = s.cycle := rfl
@[simp] theorem State.doneWith_picked (s : State) (x : Ctx) (f : Group → Group) : (s.doneWith x f).picked = s.picked := rfl
@[simp] theorem State.doneWith_pipes (s : State) (x : Ctx) (f : Group → Group) : (s.doneWith x f).pipes = s.pipes := rfl
@[simp] theorem State.doneWith_clocks (s : State) (x : Ctx) (f : Group → Group) : (s.doneWith x f).clocks = s.clocks := rfl
@[simp] theorem State.doneWith_cores (s : State) (x : Ctx) (f : Group → Group) : (s.doneWith x f).cores = s.cores := rfl
@[simp] theorem State.doneWith_mem (s : State) (x : Ctx) (f : Group → Group) : (s.doneWith x f).mem = s.mem := rfl
@[simp] theorem State.doneWith_poison (s : State) (x : Ctx) (f : Group → Group) : (s.doneWith x f).poison = s.poison := rfl
@[simp] theorem State.doneWith_lines (s : State) (x : Ctx) (f : Group → Group) : (s.doneWith x f).lines = s.lines := rfl
@[simp] theorem State.doneWith_homes (s : State) (x : Ctx) (f : Group → Group) : (s.doneWith x f).homes = s.homes := rfl
@[simp] theorem State.doneWith_msgs (s : State) (x : Ctx) (f : Group → Group) : (s.doneWith x f).msgs = s.msgs := rfl
@[simp] theorem State.doneWith_deadLinks (s : State) (x : Ctx) (f : Group → Group) : (s.doneWith x f).deadLinks = s.deadLinks := rfl
@[simp] theorem State.doneWith_storeQ (s : State) (x : Ctx) (f : Group → Group) : (s.doneWith x f).storeQ = s.storeQ := rfl
@[simp] theorem State.doneWith_contribs (s : State) (x : Ctx) (f : Group → Group) : (s.doneWith x f).contribs = s.contribs := rfl
@[simp] theorem State.doneWith_fabric (s : State) (x : Ctx) (f : Group → Group) : (s.doneWith x f).fabric = s.fabric := rfl
@[simp] theorem State.doneWith_inbound (s : State) (x : Ctx) (f : Group → Group) : (s.doneWith x f).inbound = s.inbound := rfl
@[simp] theorem State.doneWith_peerAnswers (s : State) (x : Ctx) (f : Group → Group) : (s.doneWith x f).peerAnswers = s.peerAnswers := rfl
@[simp] theorem State.doneWith_posted (s : State) (x : Ctx) (f : Group → Group) : (s.doneWith x f).posted = s.posted := rfl
@[simp] theorem State.doneWith_devWrites (s : State) (x : Ctx) (f : Group → Group) : (s.doneWith x f).devWrites = s.devWrites := rfl
@[simp] theorem State.doneWith_devLoads (s : State) (x : Ctx) (f : Group → Group) : (s.doneWith x f).devLoads = s.devLoads := rfl
@[simp] theorem State.doneWith_l1 (s : State) (x : Ctx) (f : Group → Group) : (s.doneWith x f).l1 = s.l1 := rfl
@[simp] theorem State.doneWith_icache (s : State) (x : Ctx) (f : Group → Group) : (s.doneWith x f).icache = s.icache := rfl
@[simp] theorem State.doneWith_icreqs (s : State) (x : Ctx) (f : Group → Group) : (s.doneWith x f).icreqs = s.icreqs := rfl
@[simp] theorem State.doneWith_regions (s : State) (x : Ctx) (f : Group → Group) : (s.doneWith x f).regions = s.regions := rfl
@[simp] theorem State.doneWith_stewards (s : State) (x : Ctx) (f : Group → Group) : (s.doneWith x f).stewards = s.stewards := rfl
@[simp] theorem State.doneWith_masters (s : State) (x : Ctx) (f : Group → Group) : (s.doneWith x f).masters = s.masters := rfl
@[simp] theorem State.doneWith_prismQ (s : State) (x : Ctx) (f : Group → Group) : (s.doneWith x f).prismQ = s.prismQ := rfl
@[simp] theorem State.doneWith_refreshes (s : State) (x : Ctx) (f : Group → Group) : (s.doneWith x f).refreshes = s.refreshes := rfl
@[simp] theorem State.doneWith_views (s : State) (x : Ctx) (f : Group → Group) : (s.doneWith x f).views = s.views := rfl
@[simp] theorem State.doneWith_arbiters (s : State) (x : Ctx) (f : Group → Group) : (s.doneWith x f).arbiters = s.arbiters := rfl
@[simp] theorem State.doneWith_ptRoots (s : State) (x : Ctx) (f : Group → Group) : (s.doneWith x f).ptRoots = s.ptRoots := rfl
@[simp] theorem State.doneWith_pasidTen (s : State) (x : Ctx) (f : Group → Group) : (s.doneWith x f).pasidTen = s.pasidTen := rfl
@[simp] theorem State.doneWith_portVis (s : State) (x : Ctx) (f : Group → Group) : (s.doneWith x f).portVis = s.portVis := rfl
@[simp] theorem State.doneWith_grids (s : State) (x : Ctx) (f : Group → Group) : (s.doneWith x f).grids = s.grids := rfl
@[simp] theorem State.doneWith_nodes (s : State) (x : Ctx) (f : Group → Group) : (s.doneWith x f).nodes = s.nodes := rfl
@[simp] theorem State.doneWith_roots (s : State) (x : Ctx) (f : Group → Group) : (s.doneWith x f).roots = s.roots := rfl
@[simp] theorem State.doneWith_queues (s : State) (x : Ctx) (f : Group → Group) : (s.doneWith x f).queues = s.queues := rfl
@[simp] theorem State.doneWith_dispatchAt (s : State) (x : Ctx) (f : Group → Group) : (s.doneWith x f).dispatchAt = s.dispatchAt := rfl
@[simp] theorem State.doneWith_copies (s : State) (x : Ctx) (f : Group → Group) : (s.doneWith x f).copies = s.copies := rfl
@[simp] theorem State.doneWith_qfe (s : State) (x : Ctx) (f : Group → Group) : (s.doneWith x f).qfe = s.qfe := rfl
@[simp] theorem State.doneWith_qfeVis (s : State) (x : Ctx) (f : Group → Group) : (s.doneWith x f).qfeVis = s.qfeVis := rfl
@[simp] theorem State.doneWith_watchdogs (s : State) (x : Ctx) (f : Group → Group) : (s.doneWith x f).watchdogs = s.watchdogs := rfl
@[simp] theorem State.doneWith_iat (s : State) (x : Ctx) (f : Group → Group) : (s.doneWith x f).iat = s.iat := rfl
@[simp] theorem State.doneWith_proxy (s : State) (x : Ctx) (f : Group → Group) : (s.doneWith x f).proxy = s.proxy := rfl
@[simp] theorem State.doneWith_doorbells (s : State) (x : Ctx) (f : Group → Group) : (s.doneWith x f).doorbells = s.doorbells := rfl
@[simp] theorem State.doneWith_lensRuns (s : State) (x : Ctx) (f : Group → Group) : (s.doneWith x f).lensRuns = s.lensRuns := rfl
@[simp] theorem State.doneWith_evictions (s : State) (x : Ctx) (f : Group → Group) : (s.doneWith x f).evictions = s.evictions := rfl
@[simp] theorem State.doneWith_pcfg (s : State) (x : Ctx) (f : Group → Group) : (s.doneWith x f).pcfg = s.pcfg := rfl
@[simp] theorem State.doneWith_links (s : State) (x : Ctx) (f : Group → Group) : (s.doneWith x f).links = s.links := rfl
@[simp] theorem State.doneWith_bifurc (s : State) (x : Ctx) (f : Group → Group) : (s.doneWith x f).bifurc = s.bifurc := rfl
@[simp] theorem State.doneWith_functions (s : State) (x : Ctx) (f : Group → Group) : (s.doneWith x f).functions = s.functions := rfl
@[simp] theorem State.doneWith_ide (s : State) (x : Ctx) (f : Group → Group) : (s.doneWith x f).ide = s.ide := rfl
@[simp] theorem State.doneWith_coreReqs (s : State) (x : Ctx) (f : Group → Group) : (s.doneWith x f).coreReqs = s.coreReqs := rfl
@[simp] theorem State.doneWith_epReqs (s : State) (x : Ctx) (f : Group → Group) : (s.doneWith x f).epReqs = s.epReqs := rfl
@[simp] theorem State.doneWith_shoot (s : State) (x : Ctx) (f : Group → Group) : (s.doneWith x f).shoot = s.shoot := rfl
@[simp] theorem State.doneWith_mig (s : State) (x : Ctx) (f : Group → Group) : (s.doneWith x f).mig = s.mig := rfl
@[simp] theorem State.doneWith_forwards (s : State) (x : Ctx) (f : Group → Group) : (s.doneWith x f).forwards = s.forwards := rfl
@[simp] theorem State.doneWith_logs (s : State) (x : Ctx) (f : Group → Group) : (s.doneWith x f).logs = s.logs := rfl
@[simp] theorem State.doneWith_irqs (s : State) (x : Ctx) (f : Group → Group) : (s.doneWith x f).irqs = s.irqs := rfl
@[simp] theorem State.doneWith_tens (s : State) (x : Ctx) (f : Group → Group) : (s.doneWith x f).tens = s.tens := rfl
@[simp] theorem State.doneWith_staged (s : State) (x : Ctx) (f : Group → Group) : (s.doneWith x f).staged = s.staged := rfl
@[simp] theorem State.doneWith_held (s : State) (x : Ctx) (f : Group → Group) : (s.doneWith x f).held = s.held := rfl
@[simp] theorem State.doneWith_restarting (s : State) (x : Ctx) (f : Group → Group) : (s.doneWith x f).restarting = s.restarting := rfl
@[simp] theorem State.doneWith_l2mode (s : State) (x : Ctx) (f : Group → Group) : (s.doneWith x f).l2mode = s.l2mode := rfl
@[simp] theorem State.doneWith_stagedMode (s : State) (x : Ctx) (f : Group → Group) : (s.doneWith x f).stagedMode = s.stagedMode := rfl
@[simp] theorem State.doneWith_mbox (s : State) (x : Ctx) (f : Group → Group) : (s.doneWith x f).mbox = s.mbox := rfl
@[simp] theorem State.doneWith_restarts (s : State) (x : Ctx) (f : Group → Group) : (s.doneWith x f).restarts = s.restarts := rfl
@[simp] theorem State.doneWith_devnum (s : State) (x : Ctx) (f : Group → Group) : (s.doneWith x f).devnum = s.devnum := rfl
@[simp] theorem State.doneWith_devnumSet (s : State) (x : Ctx) (f : Group → Group) : (s.doneWith x f).devnumSet = s.devnumSet := rfl
@[simp] theorem State.doneWith_fw (s : State) (x : Ctx) (f : Group → Group) : (s.doneWith x f).fw = s.fw := rfl
@[simp] theorem State.doneWith_bootFail (s : State) (x : Ctx) (f : Group → Group) : (s.doneWith x f).bootFail = s.bootFail := rfl
@[simp] theorem State.doneWith_booted (s : State) (x : Ctx) (f : Group → Group) : (s.doneWith x f).booted = s.booted := rfl
@[simp] theorem State.doneWith_fuse (s : State) (x : Ctx) (f : Group → Group) : (s.doneWith x f).fuse = s.fuse := rfl
@[simp] theorem State.doneWith_epwin (s : State) (x : Ctx) (f : Group → Group) : (s.doneWith x f).epwin = s.epwin := rfl
@[simp] theorem State.doneWith_recMbox (s : State) (x : Ctx) (f : Group → Group) : (s.doneWith x f).recMbox = s.recMbox := rfl
@[simp] theorem State.doneWith_recImage (s : State) (x : Ctx) (f : Group → Group) : (s.doneWith x f).recImage = s.recImage := rfl
@[simp] theorem State.doneWith_windows (s : State) (x : Ctx) (f : Group → Group) : (s.doneWith x f).windows = s.windows := rfl
@[simp] theorem State.doneWith_effAuth (s : State) (x : Ctx) (f : Group → Group) : (s.doneWith x f).effAuth = s.effAuth := rfl
@[simp] theorem State.doneWith_effUp (s : State) (x : Ctx) (f : Group → Group) : (s.doneWith x f).effUp = s.effUp := rfl
@[simp] theorem State.doneWith_laneSpare (s : State) (x : Ctx) (f : Group → Group) : (s.doneWith x f).laneSpare = s.laneSpare := rfl
@[simp] theorem State.doneWith_routes (s : State) (x : Ctx) (f : Group → Group) : (s.doneWith x f).routes = s.routes := rfl
@[simp] theorem State.doneWith_services (s : State) (x : Ctx) (f : Group → Group) : (s.doneWith x f).services = s.services := rfl
@[simp] theorem State.doneWith_journal (s : State) (x : Ctx) (f : Group → Group) : (s.doneWith x f).journal = s.journal := rfl
@[simp] theorem State.doneWith_power (s : State) (x : Ctx) (f : Group → Group) : (s.doneWith x f).power = s.power := rfl
@[simp] theorem State.doneWith_telemetry (s : State) (x : Ctx) (f : Group → Group) : (s.doneWith x f).telemetry = s.telemetry := rfl
@[simp] theorem State.doneWith_ceTimes (s : State) (x : Ctx) (f : Group → Group) : (s.doneWith x f).ceTimes = s.ceTimes := rfl
@[simp] theorem State.doneWith_substs (s : State) (x : Ctx) (f : Group → Group) : (s.doneWith x f).substs = s.substs := rfl
@[simp] theorem State.doneWith_worn (s : State) (x : Ctx) (f : Group → Group) : (s.doneWith x f).worn = s.worn := rfl
@[simp] theorem State.doneWith_wornOut (s : State) (x : Ctx) (f : Group → Group) : (s.doneWith x f).wornOut = s.wornOut := rfl
@[simp] theorem State.doneWith_answers (s : State) (x : Ctx) (f : Group → Group) : (s.doneWith x f).answers = s.answers := rfl
@[simp] theorem State.doneWith_harts (s : State) (x : Ctx) (f : Group → Group) : (s.doneWith x f).harts = s.harts := rfl
@[simp] theorem State.doneWith_hartAnswers (s : State) (x : Ctx) (f : Group → Group) : (s.doneWith x f).hartAnswers = s.hartAnswers := rfl

/-! modGrid changes grids. -/
@[simp] theorem State.modGrid_agenda (s : State) (k : Nat) (f : Grid → Grid) : (s.modGrid k f).agenda = s.agenda := rfl
@[simp] theorem State.modGrid_focus (s : State) (k : Nat) (f : Grid → Grid) : (s.modGrid k f).focus = s.focus := rfl
@[simp] theorem State.modGrid_waiting (s : State) (k : Nat) (f : Grid → Grid) : (s.modGrid k f).waiting = s.waiting := rfl
@[simp] theorem State.modGrid_ordered (s : State) (k : Nat) (f : Grid → Grid) : (s.modGrid k f).ordered = s.ordered := rfl
@[simp] theorem State.modGrid_free (s : State) (k : Nat) (f : Grid → Grid) : (s.modGrid k f).free = s.free := rfl
@[simp] theorem State.modGrid_nextId (s : State) (k : Nat) (f : Grid → Grid) : (s.modGrid k f).nextId = s.nextId := rfl
@[simp] theorem State.modGrid_seq (s : State) (k : Nat) (f : Grid → Grid) : (s.modGrid k f).seq = s.seq := rfl
@[simp] theorem State.modGrid_cycle (s : State) (k : Nat) (f : Grid → Grid) : (s.modGrid k f).cycle = s.cycle := rfl
@[simp] theorem State.modGrid_picked (s : State) (k : Nat) (f : Grid → Grid) : (s.modGrid k f).picked = s.picked := rfl
@[simp] theorem State.modGrid_pipes (s : State) (k : Nat) (f : Grid → Grid) : (s.modGrid k f).pipes = s.pipes := rfl
@[simp] theorem State.modGrid_clocks (s : State) (k : Nat) (f : Grid → Grid) : (s.modGrid k f).clocks = s.clocks := rfl
@[simp] theorem State.modGrid_wgs (s : State) (k : Nat) (f : Grid → Grid) : (s.modGrid k f).wgs = s.wgs := rfl
@[simp] theorem State.modGrid_cores (s : State) (k : Nat) (f : Grid → Grid) : (s.modGrid k f).cores = s.cores := rfl
@[simp] theorem State.modGrid_mem (s : State) (k : Nat) (f : Grid → Grid) : (s.modGrid k f).mem = s.mem := rfl
@[simp] theorem State.modGrid_poison (s : State) (k : Nat) (f : Grid → Grid) : (s.modGrid k f).poison = s.poison := rfl
@[simp] theorem State.modGrid_lines (s : State) (k : Nat) (f : Grid → Grid) : (s.modGrid k f).lines = s.lines := rfl
@[simp] theorem State.modGrid_homes (s : State) (k : Nat) (f : Grid → Grid) : (s.modGrid k f).homes = s.homes := rfl
@[simp] theorem State.modGrid_msgs (s : State) (k : Nat) (f : Grid → Grid) : (s.modGrid k f).msgs = s.msgs := rfl
@[simp] theorem State.modGrid_deadLinks (s : State) (k : Nat) (f : Grid → Grid) : (s.modGrid k f).deadLinks = s.deadLinks := rfl
@[simp] theorem State.modGrid_storeQ (s : State) (k : Nat) (f : Grid → Grid) : (s.modGrid k f).storeQ = s.storeQ := rfl
@[simp] theorem State.modGrid_contribs (s : State) (k : Nat) (f : Grid → Grid) : (s.modGrid k f).contribs = s.contribs := rfl
@[simp] theorem State.modGrid_fabric (s : State) (k : Nat) (f : Grid → Grid) : (s.modGrid k f).fabric = s.fabric := rfl
@[simp] theorem State.modGrid_inbound (s : State) (k : Nat) (f : Grid → Grid) : (s.modGrid k f).inbound = s.inbound := rfl
@[simp] theorem State.modGrid_peerAnswers (s : State) (k : Nat) (f : Grid → Grid) : (s.modGrid k f).peerAnswers = s.peerAnswers := rfl
@[simp] theorem State.modGrid_posted (s : State) (k : Nat) (f : Grid → Grid) : (s.modGrid k f).posted = s.posted := rfl
@[simp] theorem State.modGrid_devWrites (s : State) (k : Nat) (f : Grid → Grid) : (s.modGrid k f).devWrites = s.devWrites := rfl
@[simp] theorem State.modGrid_devLoads (s : State) (k : Nat) (f : Grid → Grid) : (s.modGrid k f).devLoads = s.devLoads := rfl
@[simp] theorem State.modGrid_l1 (s : State) (k : Nat) (f : Grid → Grid) : (s.modGrid k f).l1 = s.l1 := rfl
@[simp] theorem State.modGrid_icache (s : State) (k : Nat) (f : Grid → Grid) : (s.modGrid k f).icache = s.icache := rfl
@[simp] theorem State.modGrid_icreqs (s : State) (k : Nat) (f : Grid → Grid) : (s.modGrid k f).icreqs = s.icreqs := rfl
@[simp] theorem State.modGrid_regions (s : State) (k : Nat) (f : Grid → Grid) : (s.modGrid k f).regions = s.regions := rfl
@[simp] theorem State.modGrid_stewards (s : State) (k : Nat) (f : Grid → Grid) : (s.modGrid k f).stewards = s.stewards := rfl
@[simp] theorem State.modGrid_masters (s : State) (k : Nat) (f : Grid → Grid) : (s.modGrid k f).masters = s.masters := rfl
@[simp] theorem State.modGrid_prismQ (s : State) (k : Nat) (f : Grid → Grid) : (s.modGrid k f).prismQ = s.prismQ := rfl
@[simp] theorem State.modGrid_refreshes (s : State) (k : Nat) (f : Grid → Grid) : (s.modGrid k f).refreshes = s.refreshes := rfl
@[simp] theorem State.modGrid_views (s : State) (k : Nat) (f : Grid → Grid) : (s.modGrid k f).views = s.views := rfl
@[simp] theorem State.modGrid_arbiters (s : State) (k : Nat) (f : Grid → Grid) : (s.modGrid k f).arbiters = s.arbiters := rfl
@[simp] theorem State.modGrid_ptRoots (s : State) (k : Nat) (f : Grid → Grid) : (s.modGrid k f).ptRoots = s.ptRoots := rfl
@[simp] theorem State.modGrid_pasidTen (s : State) (k : Nat) (f : Grid → Grid) : (s.modGrid k f).pasidTen = s.pasidTen := rfl
@[simp] theorem State.modGrid_portVis (s : State) (k : Nat) (f : Grid → Grid) : (s.modGrid k f).portVis = s.portVis := rfl
@[simp] theorem State.modGrid_nodes (s : State) (k : Nat) (f : Grid → Grid) : (s.modGrid k f).nodes = s.nodes := rfl
@[simp] theorem State.modGrid_roots (s : State) (k : Nat) (f : Grid → Grid) : (s.modGrid k f).roots = s.roots := rfl
@[simp] theorem State.modGrid_queues (s : State) (k : Nat) (f : Grid → Grid) : (s.modGrid k f).queues = s.queues := rfl
@[simp] theorem State.modGrid_dispatchAt (s : State) (k : Nat) (f : Grid → Grid) : (s.modGrid k f).dispatchAt = s.dispatchAt := rfl
@[simp] theorem State.modGrid_copies (s : State) (k : Nat) (f : Grid → Grid) : (s.modGrid k f).copies = s.copies := rfl
@[simp] theorem State.modGrid_qfe (s : State) (k : Nat) (f : Grid → Grid) : (s.modGrid k f).qfe = s.qfe := rfl
@[simp] theorem State.modGrid_qfeVis (s : State) (k : Nat) (f : Grid → Grid) : (s.modGrid k f).qfeVis = s.qfeVis := rfl
@[simp] theorem State.modGrid_watchdogs (s : State) (k : Nat) (f : Grid → Grid) : (s.modGrid k f).watchdogs = s.watchdogs := rfl
@[simp] theorem State.modGrid_iat (s : State) (k : Nat) (f : Grid → Grid) : (s.modGrid k f).iat = s.iat := rfl
@[simp] theorem State.modGrid_proxy (s : State) (k : Nat) (f : Grid → Grid) : (s.modGrid k f).proxy = s.proxy := rfl
@[simp] theorem State.modGrid_doorbells (s : State) (k : Nat) (f : Grid → Grid) : (s.modGrid k f).doorbells = s.doorbells := rfl
@[simp] theorem State.modGrid_lensRuns (s : State) (k : Nat) (f : Grid → Grid) : (s.modGrid k f).lensRuns = s.lensRuns := rfl
@[simp] theorem State.modGrid_evictions (s : State) (k : Nat) (f : Grid → Grid) : (s.modGrid k f).evictions = s.evictions := rfl
@[simp] theorem State.modGrid_pcfg (s : State) (k : Nat) (f : Grid → Grid) : (s.modGrid k f).pcfg = s.pcfg := rfl
@[simp] theorem State.modGrid_links (s : State) (k : Nat) (f : Grid → Grid) : (s.modGrid k f).links = s.links := rfl
@[simp] theorem State.modGrid_bifurc (s : State) (k : Nat) (f : Grid → Grid) : (s.modGrid k f).bifurc = s.bifurc := rfl
@[simp] theorem State.modGrid_functions (s : State) (k : Nat) (f : Grid → Grid) : (s.modGrid k f).functions = s.functions := rfl
@[simp] theorem State.modGrid_ide (s : State) (k : Nat) (f : Grid → Grid) : (s.modGrid k f).ide = s.ide := rfl
@[simp] theorem State.modGrid_coreReqs (s : State) (k : Nat) (f : Grid → Grid) : (s.modGrid k f).coreReqs = s.coreReqs := rfl
@[simp] theorem State.modGrid_epReqs (s : State) (k : Nat) (f : Grid → Grid) : (s.modGrid k f).epReqs = s.epReqs := rfl
@[simp] theorem State.modGrid_shoot (s : State) (k : Nat) (f : Grid → Grid) : (s.modGrid k f).shoot = s.shoot := rfl
@[simp] theorem State.modGrid_mig (s : State) (k : Nat) (f : Grid → Grid) : (s.modGrid k f).mig = s.mig := rfl
@[simp] theorem State.modGrid_forwards (s : State) (k : Nat) (f : Grid → Grid) : (s.modGrid k f).forwards = s.forwards := rfl
@[simp] theorem State.modGrid_logs (s : State) (k : Nat) (f : Grid → Grid) : (s.modGrid k f).logs = s.logs := rfl
@[simp] theorem State.modGrid_irqs (s : State) (k : Nat) (f : Grid → Grid) : (s.modGrid k f).irqs = s.irqs := rfl
@[simp] theorem State.modGrid_tens (s : State) (k : Nat) (f : Grid → Grid) : (s.modGrid k f).tens = s.tens := rfl
@[simp] theorem State.modGrid_staged (s : State) (k : Nat) (f : Grid → Grid) : (s.modGrid k f).staged = s.staged := rfl
@[simp] theorem State.modGrid_held (s : State) (k : Nat) (f : Grid → Grid) : (s.modGrid k f).held = s.held := rfl
@[simp] theorem State.modGrid_restarting (s : State) (k : Nat) (f : Grid → Grid) : (s.modGrid k f).restarting = s.restarting := rfl
@[simp] theorem State.modGrid_l2mode (s : State) (k : Nat) (f : Grid → Grid) : (s.modGrid k f).l2mode = s.l2mode := rfl
@[simp] theorem State.modGrid_stagedMode (s : State) (k : Nat) (f : Grid → Grid) : (s.modGrid k f).stagedMode = s.stagedMode := rfl
@[simp] theorem State.modGrid_mbox (s : State) (k : Nat) (f : Grid → Grid) : (s.modGrid k f).mbox = s.mbox := rfl
@[simp] theorem State.modGrid_restarts (s : State) (k : Nat) (f : Grid → Grid) : (s.modGrid k f).restarts = s.restarts := rfl
@[simp] theorem State.modGrid_devnum (s : State) (k : Nat) (f : Grid → Grid) : (s.modGrid k f).devnum = s.devnum := rfl
@[simp] theorem State.modGrid_devnumSet (s : State) (k : Nat) (f : Grid → Grid) : (s.modGrid k f).devnumSet = s.devnumSet := rfl
@[simp] theorem State.modGrid_fw (s : State) (k : Nat) (f : Grid → Grid) : (s.modGrid k f).fw = s.fw := rfl
@[simp] theorem State.modGrid_bootFail (s : State) (k : Nat) (f : Grid → Grid) : (s.modGrid k f).bootFail = s.bootFail := rfl
@[simp] theorem State.modGrid_booted (s : State) (k : Nat) (f : Grid → Grid) : (s.modGrid k f).booted = s.booted := rfl
@[simp] theorem State.modGrid_fuse (s : State) (k : Nat) (f : Grid → Grid) : (s.modGrid k f).fuse = s.fuse := rfl
@[simp] theorem State.modGrid_epwin (s : State) (k : Nat) (f : Grid → Grid) : (s.modGrid k f).epwin = s.epwin := rfl
@[simp] theorem State.modGrid_recMbox (s : State) (k : Nat) (f : Grid → Grid) : (s.modGrid k f).recMbox = s.recMbox := rfl
@[simp] theorem State.modGrid_recImage (s : State) (k : Nat) (f : Grid → Grid) : (s.modGrid k f).recImage = s.recImage := rfl
@[simp] theorem State.modGrid_windows (s : State) (k : Nat) (f : Grid → Grid) : (s.modGrid k f).windows = s.windows := rfl
@[simp] theorem State.modGrid_effAuth (s : State) (k : Nat) (f : Grid → Grid) : (s.modGrid k f).effAuth = s.effAuth := rfl
@[simp] theorem State.modGrid_effUp (s : State) (k : Nat) (f : Grid → Grid) : (s.modGrid k f).effUp = s.effUp := rfl
@[simp] theorem State.modGrid_laneSpare (s : State) (k : Nat) (f : Grid → Grid) : (s.modGrid k f).laneSpare = s.laneSpare := rfl
@[simp] theorem State.modGrid_routes (s : State) (k : Nat) (f : Grid → Grid) : (s.modGrid k f).routes = s.routes := rfl
@[simp] theorem State.modGrid_services (s : State) (k : Nat) (f : Grid → Grid) : (s.modGrid k f).services = s.services := rfl
@[simp] theorem State.modGrid_journal (s : State) (k : Nat) (f : Grid → Grid) : (s.modGrid k f).journal = s.journal := rfl
@[simp] theorem State.modGrid_power (s : State) (k : Nat) (f : Grid → Grid) : (s.modGrid k f).power = s.power := rfl
@[simp] theorem State.modGrid_telemetry (s : State) (k : Nat) (f : Grid → Grid) : (s.modGrid k f).telemetry = s.telemetry := rfl
@[simp] theorem State.modGrid_ceTimes (s : State) (k : Nat) (f : Grid → Grid) : (s.modGrid k f).ceTimes = s.ceTimes := rfl
@[simp] theorem State.modGrid_substs (s : State) (k : Nat) (f : Grid → Grid) : (s.modGrid k f).substs = s.substs := rfl
@[simp] theorem State.modGrid_worn (s : State) (k : Nat) (f : Grid → Grid) : (s.modGrid k f).worn = s.worn := rfl
@[simp] theorem State.modGrid_wornOut (s : State) (k : Nat) (f : Grid → Grid) : (s.modGrid k f).wornOut = s.wornOut := rfl
@[simp] theorem State.modGrid_answers (s : State) (k : Nat) (f : Grid → Grid) : (s.modGrid k f).answers = s.answers := rfl
@[simp] theorem State.modGrid_harts (s : State) (k : Nat) (f : Grid → Grid) : (s.modGrid k f).harts = s.harts := rfl
@[simp] theorem State.modGrid_hartAnswers (s : State) (k : Nat) (f : Grid → Grid) : (s.modGrid k f).hartAnswers = s.hartAnswers := rfl

/-! modNode changes nodes. -/
@[simp] theorem State.modNode_agenda (s : State) (k : Nat) (f : Node → Node) : (s.modNode k f).agenda = s.agenda := rfl
@[simp] theorem State.modNode_focus (s : State) (k : Nat) (f : Node → Node) : (s.modNode k f).focus = s.focus := rfl
@[simp] theorem State.modNode_waiting (s : State) (k : Nat) (f : Node → Node) : (s.modNode k f).waiting = s.waiting := rfl
@[simp] theorem State.modNode_ordered (s : State) (k : Nat) (f : Node → Node) : (s.modNode k f).ordered = s.ordered := rfl
@[simp] theorem State.modNode_free (s : State) (k : Nat) (f : Node → Node) : (s.modNode k f).free = s.free := rfl
@[simp] theorem State.modNode_nextId (s : State) (k : Nat) (f : Node → Node) : (s.modNode k f).nextId = s.nextId := rfl
@[simp] theorem State.modNode_seq (s : State) (k : Nat) (f : Node → Node) : (s.modNode k f).seq = s.seq := rfl
@[simp] theorem State.modNode_cycle (s : State) (k : Nat) (f : Node → Node) : (s.modNode k f).cycle = s.cycle := rfl
@[simp] theorem State.modNode_picked (s : State) (k : Nat) (f : Node → Node) : (s.modNode k f).picked = s.picked := rfl
@[simp] theorem State.modNode_pipes (s : State) (k : Nat) (f : Node → Node) : (s.modNode k f).pipes = s.pipes := rfl
@[simp] theorem State.modNode_clocks (s : State) (k : Nat) (f : Node → Node) : (s.modNode k f).clocks = s.clocks := rfl
@[simp] theorem State.modNode_wgs (s : State) (k : Nat) (f : Node → Node) : (s.modNode k f).wgs = s.wgs := rfl
@[simp] theorem State.modNode_cores (s : State) (k : Nat) (f : Node → Node) : (s.modNode k f).cores = s.cores := rfl
@[simp] theorem State.modNode_mem (s : State) (k : Nat) (f : Node → Node) : (s.modNode k f).mem = s.mem := rfl
@[simp] theorem State.modNode_poison (s : State) (k : Nat) (f : Node → Node) : (s.modNode k f).poison = s.poison := rfl
@[simp] theorem State.modNode_lines (s : State) (k : Nat) (f : Node → Node) : (s.modNode k f).lines = s.lines := rfl
@[simp] theorem State.modNode_homes (s : State) (k : Nat) (f : Node → Node) : (s.modNode k f).homes = s.homes := rfl
@[simp] theorem State.modNode_msgs (s : State) (k : Nat) (f : Node → Node) : (s.modNode k f).msgs = s.msgs := rfl
@[simp] theorem State.modNode_deadLinks (s : State) (k : Nat) (f : Node → Node) : (s.modNode k f).deadLinks = s.deadLinks := rfl
@[simp] theorem State.modNode_storeQ (s : State) (k : Nat) (f : Node → Node) : (s.modNode k f).storeQ = s.storeQ := rfl
@[simp] theorem State.modNode_contribs (s : State) (k : Nat) (f : Node → Node) : (s.modNode k f).contribs = s.contribs := rfl
@[simp] theorem State.modNode_fabric (s : State) (k : Nat) (f : Node → Node) : (s.modNode k f).fabric = s.fabric := rfl
@[simp] theorem State.modNode_inbound (s : State) (k : Nat) (f : Node → Node) : (s.modNode k f).inbound = s.inbound := rfl
@[simp] theorem State.modNode_peerAnswers (s : State) (k : Nat) (f : Node → Node) : (s.modNode k f).peerAnswers = s.peerAnswers := rfl
@[simp] theorem State.modNode_posted (s : State) (k : Nat) (f : Node → Node) : (s.modNode k f).posted = s.posted := rfl
@[simp] theorem State.modNode_devWrites (s : State) (k : Nat) (f : Node → Node) : (s.modNode k f).devWrites = s.devWrites := rfl
@[simp] theorem State.modNode_devLoads (s : State) (k : Nat) (f : Node → Node) : (s.modNode k f).devLoads = s.devLoads := rfl
@[simp] theorem State.modNode_l1 (s : State) (k : Nat) (f : Node → Node) : (s.modNode k f).l1 = s.l1 := rfl
@[simp] theorem State.modNode_icache (s : State) (k : Nat) (f : Node → Node) : (s.modNode k f).icache = s.icache := rfl
@[simp] theorem State.modNode_icreqs (s : State) (k : Nat) (f : Node → Node) : (s.modNode k f).icreqs = s.icreqs := rfl
@[simp] theorem State.modNode_regions (s : State) (k : Nat) (f : Node → Node) : (s.modNode k f).regions = s.regions := rfl
@[simp] theorem State.modNode_stewards (s : State) (k : Nat) (f : Node → Node) : (s.modNode k f).stewards = s.stewards := rfl
@[simp] theorem State.modNode_masters (s : State) (k : Nat) (f : Node → Node) : (s.modNode k f).masters = s.masters := rfl
@[simp] theorem State.modNode_prismQ (s : State) (k : Nat) (f : Node → Node) : (s.modNode k f).prismQ = s.prismQ := rfl
@[simp] theorem State.modNode_refreshes (s : State) (k : Nat) (f : Node → Node) : (s.modNode k f).refreshes = s.refreshes := rfl
@[simp] theorem State.modNode_views (s : State) (k : Nat) (f : Node → Node) : (s.modNode k f).views = s.views := rfl
@[simp] theorem State.modNode_arbiters (s : State) (k : Nat) (f : Node → Node) : (s.modNode k f).arbiters = s.arbiters := rfl
@[simp] theorem State.modNode_ptRoots (s : State) (k : Nat) (f : Node → Node) : (s.modNode k f).ptRoots = s.ptRoots := rfl
@[simp] theorem State.modNode_pasidTen (s : State) (k : Nat) (f : Node → Node) : (s.modNode k f).pasidTen = s.pasidTen := rfl
@[simp] theorem State.modNode_portVis (s : State) (k : Nat) (f : Node → Node) : (s.modNode k f).portVis = s.portVis := rfl
@[simp] theorem State.modNode_grids (s : State) (k : Nat) (f : Node → Node) : (s.modNode k f).grids = s.grids := rfl
@[simp] theorem State.modNode_roots (s : State) (k : Nat) (f : Node → Node) : (s.modNode k f).roots = s.roots := rfl
@[simp] theorem State.modNode_queues (s : State) (k : Nat) (f : Node → Node) : (s.modNode k f).queues = s.queues := rfl
@[simp] theorem State.modNode_dispatchAt (s : State) (k : Nat) (f : Node → Node) : (s.modNode k f).dispatchAt = s.dispatchAt := rfl
@[simp] theorem State.modNode_copies (s : State) (k : Nat) (f : Node → Node) : (s.modNode k f).copies = s.copies := rfl
@[simp] theorem State.modNode_qfe (s : State) (k : Nat) (f : Node → Node) : (s.modNode k f).qfe = s.qfe := rfl
@[simp] theorem State.modNode_qfeVis (s : State) (k : Nat) (f : Node → Node) : (s.modNode k f).qfeVis = s.qfeVis := rfl
@[simp] theorem State.modNode_watchdogs (s : State) (k : Nat) (f : Node → Node) : (s.modNode k f).watchdogs = s.watchdogs := rfl
@[simp] theorem State.modNode_iat (s : State) (k : Nat) (f : Node → Node) : (s.modNode k f).iat = s.iat := rfl
@[simp] theorem State.modNode_proxy (s : State) (k : Nat) (f : Node → Node) : (s.modNode k f).proxy = s.proxy := rfl
@[simp] theorem State.modNode_doorbells (s : State) (k : Nat) (f : Node → Node) : (s.modNode k f).doorbells = s.doorbells := rfl
@[simp] theorem State.modNode_lensRuns (s : State) (k : Nat) (f : Node → Node) : (s.modNode k f).lensRuns = s.lensRuns := rfl
@[simp] theorem State.modNode_evictions (s : State) (k : Nat) (f : Node → Node) : (s.modNode k f).evictions = s.evictions := rfl
@[simp] theorem State.modNode_pcfg (s : State) (k : Nat) (f : Node → Node) : (s.modNode k f).pcfg = s.pcfg := rfl
@[simp] theorem State.modNode_links (s : State) (k : Nat) (f : Node → Node) : (s.modNode k f).links = s.links := rfl
@[simp] theorem State.modNode_bifurc (s : State) (k : Nat) (f : Node → Node) : (s.modNode k f).bifurc = s.bifurc := rfl
@[simp] theorem State.modNode_functions (s : State) (k : Nat) (f : Node → Node) : (s.modNode k f).functions = s.functions := rfl
@[simp] theorem State.modNode_ide (s : State) (k : Nat) (f : Node → Node) : (s.modNode k f).ide = s.ide := rfl
@[simp] theorem State.modNode_coreReqs (s : State) (k : Nat) (f : Node → Node) : (s.modNode k f).coreReqs = s.coreReqs := rfl
@[simp] theorem State.modNode_epReqs (s : State) (k : Nat) (f : Node → Node) : (s.modNode k f).epReqs = s.epReqs := rfl
@[simp] theorem State.modNode_shoot (s : State) (k : Nat) (f : Node → Node) : (s.modNode k f).shoot = s.shoot := rfl
@[simp] theorem State.modNode_mig (s : State) (k : Nat) (f : Node → Node) : (s.modNode k f).mig = s.mig := rfl
@[simp] theorem State.modNode_forwards (s : State) (k : Nat) (f : Node → Node) : (s.modNode k f).forwards = s.forwards := rfl
@[simp] theorem State.modNode_logs (s : State) (k : Nat) (f : Node → Node) : (s.modNode k f).logs = s.logs := rfl
@[simp] theorem State.modNode_irqs (s : State) (k : Nat) (f : Node → Node) : (s.modNode k f).irqs = s.irqs := rfl
@[simp] theorem State.modNode_tens (s : State) (k : Nat) (f : Node → Node) : (s.modNode k f).tens = s.tens := rfl
@[simp] theorem State.modNode_staged (s : State) (k : Nat) (f : Node → Node) : (s.modNode k f).staged = s.staged := rfl
@[simp] theorem State.modNode_held (s : State) (k : Nat) (f : Node → Node) : (s.modNode k f).held = s.held := rfl
@[simp] theorem State.modNode_restarting (s : State) (k : Nat) (f : Node → Node) : (s.modNode k f).restarting = s.restarting := rfl
@[simp] theorem State.modNode_l2mode (s : State) (k : Nat) (f : Node → Node) : (s.modNode k f).l2mode = s.l2mode := rfl
@[simp] theorem State.modNode_stagedMode (s : State) (k : Nat) (f : Node → Node) : (s.modNode k f).stagedMode = s.stagedMode := rfl
@[simp] theorem State.modNode_mbox (s : State) (k : Nat) (f : Node → Node) : (s.modNode k f).mbox = s.mbox := rfl
@[simp] theorem State.modNode_restarts (s : State) (k : Nat) (f : Node → Node) : (s.modNode k f).restarts = s.restarts := rfl
@[simp] theorem State.modNode_devnum (s : State) (k : Nat) (f : Node → Node) : (s.modNode k f).devnum = s.devnum := rfl
@[simp] theorem State.modNode_devnumSet (s : State) (k : Nat) (f : Node → Node) : (s.modNode k f).devnumSet = s.devnumSet := rfl
@[simp] theorem State.modNode_fw (s : State) (k : Nat) (f : Node → Node) : (s.modNode k f).fw = s.fw := rfl
@[simp] theorem State.modNode_bootFail (s : State) (k : Nat) (f : Node → Node) : (s.modNode k f).bootFail = s.bootFail := rfl
@[simp] theorem State.modNode_booted (s : State) (k : Nat) (f : Node → Node) : (s.modNode k f).booted = s.booted := rfl
@[simp] theorem State.modNode_fuse (s : State) (k : Nat) (f : Node → Node) : (s.modNode k f).fuse = s.fuse := rfl
@[simp] theorem State.modNode_epwin (s : State) (k : Nat) (f : Node → Node) : (s.modNode k f).epwin = s.epwin := rfl
@[simp] theorem State.modNode_recMbox (s : State) (k : Nat) (f : Node → Node) : (s.modNode k f).recMbox = s.recMbox := rfl
@[simp] theorem State.modNode_recImage (s : State) (k : Nat) (f : Node → Node) : (s.modNode k f).recImage = s.recImage := rfl
@[simp] theorem State.modNode_windows (s : State) (k : Nat) (f : Node → Node) : (s.modNode k f).windows = s.windows := rfl
@[simp] theorem State.modNode_effAuth (s : State) (k : Nat) (f : Node → Node) : (s.modNode k f).effAuth = s.effAuth := rfl
@[simp] theorem State.modNode_effUp (s : State) (k : Nat) (f : Node → Node) : (s.modNode k f).effUp = s.effUp := rfl
@[simp] theorem State.modNode_laneSpare (s : State) (k : Nat) (f : Node → Node) : (s.modNode k f).laneSpare = s.laneSpare := rfl
@[simp] theorem State.modNode_routes (s : State) (k : Nat) (f : Node → Node) : (s.modNode k f).routes = s.routes := rfl
@[simp] theorem State.modNode_services (s : State) (k : Nat) (f : Node → Node) : (s.modNode k f).services = s.services := rfl
@[simp] theorem State.modNode_journal (s : State) (k : Nat) (f : Node → Node) : (s.modNode k f).journal = s.journal := rfl
@[simp] theorem State.modNode_power (s : State) (k : Nat) (f : Node → Node) : (s.modNode k f).power = s.power := rfl
@[simp] theorem State.modNode_telemetry (s : State) (k : Nat) (f : Node → Node) : (s.modNode k f).telemetry = s.telemetry := rfl
@[simp] theorem State.modNode_ceTimes (s : State) (k : Nat) (f : Node → Node) : (s.modNode k f).ceTimes = s.ceTimes := rfl
@[simp] theorem State.modNode_substs (s : State) (k : Nat) (f : Node → Node) : (s.modNode k f).substs = s.substs := rfl
@[simp] theorem State.modNode_worn (s : State) (k : Nat) (f : Node → Node) : (s.modNode k f).worn = s.worn := rfl
@[simp] theorem State.modNode_wornOut (s : State) (k : Nat) (f : Node → Node) : (s.modNode k f).wornOut = s.wornOut := rfl
@[simp] theorem State.modNode_answers (s : State) (k : Nat) (f : Node → Node) : (s.modNode k f).answers = s.answers := rfl
@[simp] theorem State.modNode_harts (s : State) (k : Nat) (f : Node → Node) : (s.modNode k f).harts = s.harts := rfl
@[simp] theorem State.modNode_hartAnswers (s : State) (k : Nat) (f : Node → Node) : (s.modNode k f).hartAnswers = s.hartAnswers := rfl

/-! modCopy changes copies. -/
@[simp] theorem State.modCopy_agenda (s : State) (k : Nat) (f : Copy → Copy) : (s.modCopy k f).agenda = s.agenda := rfl
@[simp] theorem State.modCopy_focus (s : State) (k : Nat) (f : Copy → Copy) : (s.modCopy k f).focus = s.focus := rfl
@[simp] theorem State.modCopy_waiting (s : State) (k : Nat) (f : Copy → Copy) : (s.modCopy k f).waiting = s.waiting := rfl
@[simp] theorem State.modCopy_ordered (s : State) (k : Nat) (f : Copy → Copy) : (s.modCopy k f).ordered = s.ordered := rfl
@[simp] theorem State.modCopy_free (s : State) (k : Nat) (f : Copy → Copy) : (s.modCopy k f).free = s.free := rfl
@[simp] theorem State.modCopy_nextId (s : State) (k : Nat) (f : Copy → Copy) : (s.modCopy k f).nextId = s.nextId := rfl
@[simp] theorem State.modCopy_seq (s : State) (k : Nat) (f : Copy → Copy) : (s.modCopy k f).seq = s.seq := rfl
@[simp] theorem State.modCopy_cycle (s : State) (k : Nat) (f : Copy → Copy) : (s.modCopy k f).cycle = s.cycle := rfl
@[simp] theorem State.modCopy_picked (s : State) (k : Nat) (f : Copy → Copy) : (s.modCopy k f).picked = s.picked := rfl
@[simp] theorem State.modCopy_pipes (s : State) (k : Nat) (f : Copy → Copy) : (s.modCopy k f).pipes = s.pipes := rfl
@[simp] theorem State.modCopy_clocks (s : State) (k : Nat) (f : Copy → Copy) : (s.modCopy k f).clocks = s.clocks := rfl
@[simp] theorem State.modCopy_wgs (s : State) (k : Nat) (f : Copy → Copy) : (s.modCopy k f).wgs = s.wgs := rfl
@[simp] theorem State.modCopy_cores (s : State) (k : Nat) (f : Copy → Copy) : (s.modCopy k f).cores = s.cores := rfl
@[simp] theorem State.modCopy_mem (s : State) (k : Nat) (f : Copy → Copy) : (s.modCopy k f).mem = s.mem := rfl
@[simp] theorem State.modCopy_poison (s : State) (k : Nat) (f : Copy → Copy) : (s.modCopy k f).poison = s.poison := rfl
@[simp] theorem State.modCopy_lines (s : State) (k : Nat) (f : Copy → Copy) : (s.modCopy k f).lines = s.lines := rfl
@[simp] theorem State.modCopy_homes (s : State) (k : Nat) (f : Copy → Copy) : (s.modCopy k f).homes = s.homes := rfl
@[simp] theorem State.modCopy_msgs (s : State) (k : Nat) (f : Copy → Copy) : (s.modCopy k f).msgs = s.msgs := rfl
@[simp] theorem State.modCopy_deadLinks (s : State) (k : Nat) (f : Copy → Copy) : (s.modCopy k f).deadLinks = s.deadLinks := rfl
@[simp] theorem State.modCopy_storeQ (s : State) (k : Nat) (f : Copy → Copy) : (s.modCopy k f).storeQ = s.storeQ := rfl
@[simp] theorem State.modCopy_contribs (s : State) (k : Nat) (f : Copy → Copy) : (s.modCopy k f).contribs = s.contribs := rfl
@[simp] theorem State.modCopy_fabric (s : State) (k : Nat) (f : Copy → Copy) : (s.modCopy k f).fabric = s.fabric := rfl
@[simp] theorem State.modCopy_inbound (s : State) (k : Nat) (f : Copy → Copy) : (s.modCopy k f).inbound = s.inbound := rfl
@[simp] theorem State.modCopy_peerAnswers (s : State) (k : Nat) (f : Copy → Copy) : (s.modCopy k f).peerAnswers = s.peerAnswers := rfl
@[simp] theorem State.modCopy_posted (s : State) (k : Nat) (f : Copy → Copy) : (s.modCopy k f).posted = s.posted := rfl
@[simp] theorem State.modCopy_devWrites (s : State) (k : Nat) (f : Copy → Copy) : (s.modCopy k f).devWrites = s.devWrites := rfl
@[simp] theorem State.modCopy_devLoads (s : State) (k : Nat) (f : Copy → Copy) : (s.modCopy k f).devLoads = s.devLoads := rfl
@[simp] theorem State.modCopy_l1 (s : State) (k : Nat) (f : Copy → Copy) : (s.modCopy k f).l1 = s.l1 := rfl
@[simp] theorem State.modCopy_icache (s : State) (k : Nat) (f : Copy → Copy) : (s.modCopy k f).icache = s.icache := rfl
@[simp] theorem State.modCopy_icreqs (s : State) (k : Nat) (f : Copy → Copy) : (s.modCopy k f).icreqs = s.icreqs := rfl
@[simp] theorem State.modCopy_regions (s : State) (k : Nat) (f : Copy → Copy) : (s.modCopy k f).regions = s.regions := rfl
@[simp] theorem State.modCopy_stewards (s : State) (k : Nat) (f : Copy → Copy) : (s.modCopy k f).stewards = s.stewards := rfl
@[simp] theorem State.modCopy_masters (s : State) (k : Nat) (f : Copy → Copy) : (s.modCopy k f).masters = s.masters := rfl
@[simp] theorem State.modCopy_prismQ (s : State) (k : Nat) (f : Copy → Copy) : (s.modCopy k f).prismQ = s.prismQ := rfl
@[simp] theorem State.modCopy_refreshes (s : State) (k : Nat) (f : Copy → Copy) : (s.modCopy k f).refreshes = s.refreshes := rfl
@[simp] theorem State.modCopy_views (s : State) (k : Nat) (f : Copy → Copy) : (s.modCopy k f).views = s.views := rfl
@[simp] theorem State.modCopy_arbiters (s : State) (k : Nat) (f : Copy → Copy) : (s.modCopy k f).arbiters = s.arbiters := rfl
@[simp] theorem State.modCopy_ptRoots (s : State) (k : Nat) (f : Copy → Copy) : (s.modCopy k f).ptRoots = s.ptRoots := rfl
@[simp] theorem State.modCopy_pasidTen (s : State) (k : Nat) (f : Copy → Copy) : (s.modCopy k f).pasidTen = s.pasidTen := rfl
@[simp] theorem State.modCopy_portVis (s : State) (k : Nat) (f : Copy → Copy) : (s.modCopy k f).portVis = s.portVis := rfl
@[simp] theorem State.modCopy_grids (s : State) (k : Nat) (f : Copy → Copy) : (s.modCopy k f).grids = s.grids := rfl
@[simp] theorem State.modCopy_nodes (s : State) (k : Nat) (f : Copy → Copy) : (s.modCopy k f).nodes = s.nodes := rfl
@[simp] theorem State.modCopy_roots (s : State) (k : Nat) (f : Copy → Copy) : (s.modCopy k f).roots = s.roots := rfl
@[simp] theorem State.modCopy_queues (s : State) (k : Nat) (f : Copy → Copy) : (s.modCopy k f).queues = s.queues := rfl
@[simp] theorem State.modCopy_dispatchAt (s : State) (k : Nat) (f : Copy → Copy) : (s.modCopy k f).dispatchAt = s.dispatchAt := rfl
@[simp] theorem State.modCopy_qfe (s : State) (k : Nat) (f : Copy → Copy) : (s.modCopy k f).qfe = s.qfe := rfl
@[simp] theorem State.modCopy_qfeVis (s : State) (k : Nat) (f : Copy → Copy) : (s.modCopy k f).qfeVis = s.qfeVis := rfl
@[simp] theorem State.modCopy_watchdogs (s : State) (k : Nat) (f : Copy → Copy) : (s.modCopy k f).watchdogs = s.watchdogs := rfl
@[simp] theorem State.modCopy_iat (s : State) (k : Nat) (f : Copy → Copy) : (s.modCopy k f).iat = s.iat := rfl
@[simp] theorem State.modCopy_proxy (s : State) (k : Nat) (f : Copy → Copy) : (s.modCopy k f).proxy = s.proxy := rfl
@[simp] theorem State.modCopy_doorbells (s : State) (k : Nat) (f : Copy → Copy) : (s.modCopy k f).doorbells = s.doorbells := rfl
@[simp] theorem State.modCopy_lensRuns (s : State) (k : Nat) (f : Copy → Copy) : (s.modCopy k f).lensRuns = s.lensRuns := rfl
@[simp] theorem State.modCopy_evictions (s : State) (k : Nat) (f : Copy → Copy) : (s.modCopy k f).evictions = s.evictions := rfl
@[simp] theorem State.modCopy_pcfg (s : State) (k : Nat) (f : Copy → Copy) : (s.modCopy k f).pcfg = s.pcfg := rfl
@[simp] theorem State.modCopy_links (s : State) (k : Nat) (f : Copy → Copy) : (s.modCopy k f).links = s.links := rfl
@[simp] theorem State.modCopy_bifurc (s : State) (k : Nat) (f : Copy → Copy) : (s.modCopy k f).bifurc = s.bifurc := rfl
@[simp] theorem State.modCopy_functions (s : State) (k : Nat) (f : Copy → Copy) : (s.modCopy k f).functions = s.functions := rfl
@[simp] theorem State.modCopy_ide (s : State) (k : Nat) (f : Copy → Copy) : (s.modCopy k f).ide = s.ide := rfl
@[simp] theorem State.modCopy_coreReqs (s : State) (k : Nat) (f : Copy → Copy) : (s.modCopy k f).coreReqs = s.coreReqs := rfl
@[simp] theorem State.modCopy_epReqs (s : State) (k : Nat) (f : Copy → Copy) : (s.modCopy k f).epReqs = s.epReqs := rfl
@[simp] theorem State.modCopy_shoot (s : State) (k : Nat) (f : Copy → Copy) : (s.modCopy k f).shoot = s.shoot := rfl
@[simp] theorem State.modCopy_mig (s : State) (k : Nat) (f : Copy → Copy) : (s.modCopy k f).mig = s.mig := rfl
@[simp] theorem State.modCopy_forwards (s : State) (k : Nat) (f : Copy → Copy) : (s.modCopy k f).forwards = s.forwards := rfl
@[simp] theorem State.modCopy_logs (s : State) (k : Nat) (f : Copy → Copy) : (s.modCopy k f).logs = s.logs := rfl
@[simp] theorem State.modCopy_irqs (s : State) (k : Nat) (f : Copy → Copy) : (s.modCopy k f).irqs = s.irqs := rfl
@[simp] theorem State.modCopy_tens (s : State) (k : Nat) (f : Copy → Copy) : (s.modCopy k f).tens = s.tens := rfl
@[simp] theorem State.modCopy_staged (s : State) (k : Nat) (f : Copy → Copy) : (s.modCopy k f).staged = s.staged := rfl
@[simp] theorem State.modCopy_held (s : State) (k : Nat) (f : Copy → Copy) : (s.modCopy k f).held = s.held := rfl
@[simp] theorem State.modCopy_restarting (s : State) (k : Nat) (f : Copy → Copy) : (s.modCopy k f).restarting = s.restarting := rfl
@[simp] theorem State.modCopy_l2mode (s : State) (k : Nat) (f : Copy → Copy) : (s.modCopy k f).l2mode = s.l2mode := rfl
@[simp] theorem State.modCopy_stagedMode (s : State) (k : Nat) (f : Copy → Copy) : (s.modCopy k f).stagedMode = s.stagedMode := rfl
@[simp] theorem State.modCopy_mbox (s : State) (k : Nat) (f : Copy → Copy) : (s.modCopy k f).mbox = s.mbox := rfl
@[simp] theorem State.modCopy_restarts (s : State) (k : Nat) (f : Copy → Copy) : (s.modCopy k f).restarts = s.restarts := rfl
@[simp] theorem State.modCopy_devnum (s : State) (k : Nat) (f : Copy → Copy) : (s.modCopy k f).devnum = s.devnum := rfl
@[simp] theorem State.modCopy_devnumSet (s : State) (k : Nat) (f : Copy → Copy) : (s.modCopy k f).devnumSet = s.devnumSet := rfl
@[simp] theorem State.modCopy_fw (s : State) (k : Nat) (f : Copy → Copy) : (s.modCopy k f).fw = s.fw := rfl
@[simp] theorem State.modCopy_bootFail (s : State) (k : Nat) (f : Copy → Copy) : (s.modCopy k f).bootFail = s.bootFail := rfl
@[simp] theorem State.modCopy_booted (s : State) (k : Nat) (f : Copy → Copy) : (s.modCopy k f).booted = s.booted := rfl
@[simp] theorem State.modCopy_fuse (s : State) (k : Nat) (f : Copy → Copy) : (s.modCopy k f).fuse = s.fuse := rfl
@[simp] theorem State.modCopy_epwin (s : State) (k : Nat) (f : Copy → Copy) : (s.modCopy k f).epwin = s.epwin := rfl
@[simp] theorem State.modCopy_recMbox (s : State) (k : Nat) (f : Copy → Copy) : (s.modCopy k f).recMbox = s.recMbox := rfl
@[simp] theorem State.modCopy_recImage (s : State) (k : Nat) (f : Copy → Copy) : (s.modCopy k f).recImage = s.recImage := rfl
@[simp] theorem State.modCopy_windows (s : State) (k : Nat) (f : Copy → Copy) : (s.modCopy k f).windows = s.windows := rfl
@[simp] theorem State.modCopy_effAuth (s : State) (k : Nat) (f : Copy → Copy) : (s.modCopy k f).effAuth = s.effAuth := rfl
@[simp] theorem State.modCopy_effUp (s : State) (k : Nat) (f : Copy → Copy) : (s.modCopy k f).effUp = s.effUp := rfl
@[simp] theorem State.modCopy_laneSpare (s : State) (k : Nat) (f : Copy → Copy) : (s.modCopy k f).laneSpare = s.laneSpare := rfl
@[simp] theorem State.modCopy_routes (s : State) (k : Nat) (f : Copy → Copy) : (s.modCopy k f).routes = s.routes := rfl
@[simp] theorem State.modCopy_services (s : State) (k : Nat) (f : Copy → Copy) : (s.modCopy k f).services = s.services := rfl
@[simp] theorem State.modCopy_journal (s : State) (k : Nat) (f : Copy → Copy) : (s.modCopy k f).journal = s.journal := rfl
@[simp] theorem State.modCopy_power (s : State) (k : Nat) (f : Copy → Copy) : (s.modCopy k f).power = s.power := rfl
@[simp] theorem State.modCopy_telemetry (s : State) (k : Nat) (f : Copy → Copy) : (s.modCopy k f).telemetry = s.telemetry := rfl
@[simp] theorem State.modCopy_ceTimes (s : State) (k : Nat) (f : Copy → Copy) : (s.modCopy k f).ceTimes = s.ceTimes := rfl
@[simp] theorem State.modCopy_substs (s : State) (k : Nat) (f : Copy → Copy) : (s.modCopy k f).substs = s.substs := rfl
@[simp] theorem State.modCopy_worn (s : State) (k : Nat) (f : Copy → Copy) : (s.modCopy k f).worn = s.worn := rfl
@[simp] theorem State.modCopy_wornOut (s : State) (k : Nat) (f : Copy → Copy) : (s.modCopy k f).wornOut = s.wornOut := rfl
@[simp] theorem State.modCopy_answers (s : State) (k : Nat) (f : Copy → Copy) : (s.modCopy k f).answers = s.answers := rfl
@[simp] theorem State.modCopy_harts (s : State) (k : Nat) (f : Copy → Copy) : (s.modCopy k f).harts = s.harts := rfl
@[simp] theorem State.modCopy_hartAnswers (s : State) (k : Nat) (f : Copy → Copy) : (s.modCopy k f).hartAnswers = s.hartAnswers := rfl

/-! modCore changes cores. -/
@[simp] theorem State.modCore_agenda (s : State) (k : Nat) (f : Core → Core) : (s.modCore k f).agenda = s.agenda := rfl
@[simp] theorem State.modCore_focus (s : State) (k : Nat) (f : Core → Core) : (s.modCore k f).focus = s.focus := rfl
@[simp] theorem State.modCore_waiting (s : State) (k : Nat) (f : Core → Core) : (s.modCore k f).waiting = s.waiting := rfl
@[simp] theorem State.modCore_ordered (s : State) (k : Nat) (f : Core → Core) : (s.modCore k f).ordered = s.ordered := rfl
@[simp] theorem State.modCore_free (s : State) (k : Nat) (f : Core → Core) : (s.modCore k f).free = s.free := rfl
@[simp] theorem State.modCore_nextId (s : State) (k : Nat) (f : Core → Core) : (s.modCore k f).nextId = s.nextId := rfl
@[simp] theorem State.modCore_seq (s : State) (k : Nat) (f : Core → Core) : (s.modCore k f).seq = s.seq := rfl
@[simp] theorem State.modCore_cycle (s : State) (k : Nat) (f : Core → Core) : (s.modCore k f).cycle = s.cycle := rfl
@[simp] theorem State.modCore_picked (s : State) (k : Nat) (f : Core → Core) : (s.modCore k f).picked = s.picked := rfl
@[simp] theorem State.modCore_pipes (s : State) (k : Nat) (f : Core → Core) : (s.modCore k f).pipes = s.pipes := rfl
@[simp] theorem State.modCore_clocks (s : State) (k : Nat) (f : Core → Core) : (s.modCore k f).clocks = s.clocks := rfl
@[simp] theorem State.modCore_wgs (s : State) (k : Nat) (f : Core → Core) : (s.modCore k f).wgs = s.wgs := rfl
@[simp] theorem State.modCore_mem (s : State) (k : Nat) (f : Core → Core) : (s.modCore k f).mem = s.mem := rfl
@[simp] theorem State.modCore_poison (s : State) (k : Nat) (f : Core → Core) : (s.modCore k f).poison = s.poison := rfl
@[simp] theorem State.modCore_lines (s : State) (k : Nat) (f : Core → Core) : (s.modCore k f).lines = s.lines := rfl
@[simp] theorem State.modCore_homes (s : State) (k : Nat) (f : Core → Core) : (s.modCore k f).homes = s.homes := rfl
@[simp] theorem State.modCore_msgs (s : State) (k : Nat) (f : Core → Core) : (s.modCore k f).msgs = s.msgs := rfl
@[simp] theorem State.modCore_deadLinks (s : State) (k : Nat) (f : Core → Core) : (s.modCore k f).deadLinks = s.deadLinks := rfl
@[simp] theorem State.modCore_storeQ (s : State) (k : Nat) (f : Core → Core) : (s.modCore k f).storeQ = s.storeQ := rfl
@[simp] theorem State.modCore_contribs (s : State) (k : Nat) (f : Core → Core) : (s.modCore k f).contribs = s.contribs := rfl
@[simp] theorem State.modCore_fabric (s : State) (k : Nat) (f : Core → Core) : (s.modCore k f).fabric = s.fabric := rfl
@[simp] theorem State.modCore_inbound (s : State) (k : Nat) (f : Core → Core) : (s.modCore k f).inbound = s.inbound := rfl
@[simp] theorem State.modCore_peerAnswers (s : State) (k : Nat) (f : Core → Core) : (s.modCore k f).peerAnswers = s.peerAnswers := rfl
@[simp] theorem State.modCore_posted (s : State) (k : Nat) (f : Core → Core) : (s.modCore k f).posted = s.posted := rfl
@[simp] theorem State.modCore_devWrites (s : State) (k : Nat) (f : Core → Core) : (s.modCore k f).devWrites = s.devWrites := rfl
@[simp] theorem State.modCore_devLoads (s : State) (k : Nat) (f : Core → Core) : (s.modCore k f).devLoads = s.devLoads := rfl
@[simp] theorem State.modCore_l1 (s : State) (k : Nat) (f : Core → Core) : (s.modCore k f).l1 = s.l1 := rfl
@[simp] theorem State.modCore_icache (s : State) (k : Nat) (f : Core → Core) : (s.modCore k f).icache = s.icache := rfl
@[simp] theorem State.modCore_icreqs (s : State) (k : Nat) (f : Core → Core) : (s.modCore k f).icreqs = s.icreqs := rfl
@[simp] theorem State.modCore_regions (s : State) (k : Nat) (f : Core → Core) : (s.modCore k f).regions = s.regions := rfl
@[simp] theorem State.modCore_stewards (s : State) (k : Nat) (f : Core → Core) : (s.modCore k f).stewards = s.stewards := rfl
@[simp] theorem State.modCore_masters (s : State) (k : Nat) (f : Core → Core) : (s.modCore k f).masters = s.masters := rfl
@[simp] theorem State.modCore_prismQ (s : State) (k : Nat) (f : Core → Core) : (s.modCore k f).prismQ = s.prismQ := rfl
@[simp] theorem State.modCore_refreshes (s : State) (k : Nat) (f : Core → Core) : (s.modCore k f).refreshes = s.refreshes := rfl
@[simp] theorem State.modCore_views (s : State) (k : Nat) (f : Core → Core) : (s.modCore k f).views = s.views := rfl
@[simp] theorem State.modCore_arbiters (s : State) (k : Nat) (f : Core → Core) : (s.modCore k f).arbiters = s.arbiters := rfl
@[simp] theorem State.modCore_ptRoots (s : State) (k : Nat) (f : Core → Core) : (s.modCore k f).ptRoots = s.ptRoots := rfl
@[simp] theorem State.modCore_pasidTen (s : State) (k : Nat) (f : Core → Core) : (s.modCore k f).pasidTen = s.pasidTen := rfl
@[simp] theorem State.modCore_portVis (s : State) (k : Nat) (f : Core → Core) : (s.modCore k f).portVis = s.portVis := rfl
@[simp] theorem State.modCore_grids (s : State) (k : Nat) (f : Core → Core) : (s.modCore k f).grids = s.grids := rfl
@[simp] theorem State.modCore_nodes (s : State) (k : Nat) (f : Core → Core) : (s.modCore k f).nodes = s.nodes := rfl
@[simp] theorem State.modCore_roots (s : State) (k : Nat) (f : Core → Core) : (s.modCore k f).roots = s.roots := rfl
@[simp] theorem State.modCore_queues (s : State) (k : Nat) (f : Core → Core) : (s.modCore k f).queues = s.queues := rfl
@[simp] theorem State.modCore_dispatchAt (s : State) (k : Nat) (f : Core → Core) : (s.modCore k f).dispatchAt = s.dispatchAt := rfl
@[simp] theorem State.modCore_copies (s : State) (k : Nat) (f : Core → Core) : (s.modCore k f).copies = s.copies := rfl
@[simp] theorem State.modCore_qfe (s : State) (k : Nat) (f : Core → Core) : (s.modCore k f).qfe = s.qfe := rfl
@[simp] theorem State.modCore_qfeVis (s : State) (k : Nat) (f : Core → Core) : (s.modCore k f).qfeVis = s.qfeVis := rfl
@[simp] theorem State.modCore_watchdogs (s : State) (k : Nat) (f : Core → Core) : (s.modCore k f).watchdogs = s.watchdogs := rfl
@[simp] theorem State.modCore_iat (s : State) (k : Nat) (f : Core → Core) : (s.modCore k f).iat = s.iat := rfl
@[simp] theorem State.modCore_proxy (s : State) (k : Nat) (f : Core → Core) : (s.modCore k f).proxy = s.proxy := rfl
@[simp] theorem State.modCore_doorbells (s : State) (k : Nat) (f : Core → Core) : (s.modCore k f).doorbells = s.doorbells := rfl
@[simp] theorem State.modCore_lensRuns (s : State) (k : Nat) (f : Core → Core) : (s.modCore k f).lensRuns = s.lensRuns := rfl
@[simp] theorem State.modCore_evictions (s : State) (k : Nat) (f : Core → Core) : (s.modCore k f).evictions = s.evictions := rfl
@[simp] theorem State.modCore_pcfg (s : State) (k : Nat) (f : Core → Core) : (s.modCore k f).pcfg = s.pcfg := rfl
@[simp] theorem State.modCore_links (s : State) (k : Nat) (f : Core → Core) : (s.modCore k f).links = s.links := rfl
@[simp] theorem State.modCore_bifurc (s : State) (k : Nat) (f : Core → Core) : (s.modCore k f).bifurc = s.bifurc := rfl
@[simp] theorem State.modCore_functions (s : State) (k : Nat) (f : Core → Core) : (s.modCore k f).functions = s.functions := rfl
@[simp] theorem State.modCore_ide (s : State) (k : Nat) (f : Core → Core) : (s.modCore k f).ide = s.ide := rfl
@[simp] theorem State.modCore_coreReqs (s : State) (k : Nat) (f : Core → Core) : (s.modCore k f).coreReqs = s.coreReqs := rfl
@[simp] theorem State.modCore_epReqs (s : State) (k : Nat) (f : Core → Core) : (s.modCore k f).epReqs = s.epReqs := rfl
@[simp] theorem State.modCore_shoot (s : State) (k : Nat) (f : Core → Core) : (s.modCore k f).shoot = s.shoot := rfl
@[simp] theorem State.modCore_mig (s : State) (k : Nat) (f : Core → Core) : (s.modCore k f).mig = s.mig := rfl
@[simp] theorem State.modCore_forwards (s : State) (k : Nat) (f : Core → Core) : (s.modCore k f).forwards = s.forwards := rfl
@[simp] theorem State.modCore_logs (s : State) (k : Nat) (f : Core → Core) : (s.modCore k f).logs = s.logs := rfl
@[simp] theorem State.modCore_irqs (s : State) (k : Nat) (f : Core → Core) : (s.modCore k f).irqs = s.irqs := rfl
@[simp] theorem State.modCore_tens (s : State) (k : Nat) (f : Core → Core) : (s.modCore k f).tens = s.tens := rfl
@[simp] theorem State.modCore_staged (s : State) (k : Nat) (f : Core → Core) : (s.modCore k f).staged = s.staged := rfl
@[simp] theorem State.modCore_held (s : State) (k : Nat) (f : Core → Core) : (s.modCore k f).held = s.held := rfl
@[simp] theorem State.modCore_restarting (s : State) (k : Nat) (f : Core → Core) : (s.modCore k f).restarting = s.restarting := rfl
@[simp] theorem State.modCore_l2mode (s : State) (k : Nat) (f : Core → Core) : (s.modCore k f).l2mode = s.l2mode := rfl
@[simp] theorem State.modCore_stagedMode (s : State) (k : Nat) (f : Core → Core) : (s.modCore k f).stagedMode = s.stagedMode := rfl
@[simp] theorem State.modCore_mbox (s : State) (k : Nat) (f : Core → Core) : (s.modCore k f).mbox = s.mbox := rfl
@[simp] theorem State.modCore_restarts (s : State) (k : Nat) (f : Core → Core) : (s.modCore k f).restarts = s.restarts := rfl
@[simp] theorem State.modCore_devnum (s : State) (k : Nat) (f : Core → Core) : (s.modCore k f).devnum = s.devnum := rfl
@[simp] theorem State.modCore_devnumSet (s : State) (k : Nat) (f : Core → Core) : (s.modCore k f).devnumSet = s.devnumSet := rfl
@[simp] theorem State.modCore_fw (s : State) (k : Nat) (f : Core → Core) : (s.modCore k f).fw = s.fw := rfl
@[simp] theorem State.modCore_bootFail (s : State) (k : Nat) (f : Core → Core) : (s.modCore k f).bootFail = s.bootFail := rfl
@[simp] theorem State.modCore_booted (s : State) (k : Nat) (f : Core → Core) : (s.modCore k f).booted = s.booted := rfl
@[simp] theorem State.modCore_fuse (s : State) (k : Nat) (f : Core → Core) : (s.modCore k f).fuse = s.fuse := rfl
@[simp] theorem State.modCore_epwin (s : State) (k : Nat) (f : Core → Core) : (s.modCore k f).epwin = s.epwin := rfl
@[simp] theorem State.modCore_recMbox (s : State) (k : Nat) (f : Core → Core) : (s.modCore k f).recMbox = s.recMbox := rfl
@[simp] theorem State.modCore_recImage (s : State) (k : Nat) (f : Core → Core) : (s.modCore k f).recImage = s.recImage := rfl
@[simp] theorem State.modCore_windows (s : State) (k : Nat) (f : Core → Core) : (s.modCore k f).windows = s.windows := rfl
@[simp] theorem State.modCore_effAuth (s : State) (k : Nat) (f : Core → Core) : (s.modCore k f).effAuth = s.effAuth := rfl
@[simp] theorem State.modCore_effUp (s : State) (k : Nat) (f : Core → Core) : (s.modCore k f).effUp = s.effUp := rfl
@[simp] theorem State.modCore_laneSpare (s : State) (k : Nat) (f : Core → Core) : (s.modCore k f).laneSpare = s.laneSpare := rfl
@[simp] theorem State.modCore_routes (s : State) (k : Nat) (f : Core → Core) : (s.modCore k f).routes = s.routes := rfl
@[simp] theorem State.modCore_services (s : State) (k : Nat) (f : Core → Core) : (s.modCore k f).services = s.services := rfl
@[simp] theorem State.modCore_journal (s : State) (k : Nat) (f : Core → Core) : (s.modCore k f).journal = s.journal := rfl
@[simp] theorem State.modCore_power (s : State) (k : Nat) (f : Core → Core) : (s.modCore k f).power = s.power := rfl
@[simp] theorem State.modCore_telemetry (s : State) (k : Nat) (f : Core → Core) : (s.modCore k f).telemetry = s.telemetry := rfl
@[simp] theorem State.modCore_ceTimes (s : State) (k : Nat) (f : Core → Core) : (s.modCore k f).ceTimes = s.ceTimes := rfl
@[simp] theorem State.modCore_substs (s : State) (k : Nat) (f : Core → Core) : (s.modCore k f).substs = s.substs := rfl
@[simp] theorem State.modCore_worn (s : State) (k : Nat) (f : Core → Core) : (s.modCore k f).worn = s.worn := rfl
@[simp] theorem State.modCore_wornOut (s : State) (k : Nat) (f : Core → Core) : (s.modCore k f).wornOut = s.wornOut := rfl
@[simp] theorem State.modCore_answers (s : State) (k : Nat) (f : Core → Core) : (s.modCore k f).answers = s.answers := rfl
@[simp] theorem State.modCore_harts (s : State) (k : Nat) (f : Core → Core) : (s.modCore k f).harts = s.harts := rfl
@[simp] theorem State.modCore_hartAnswers (s : State) (k : Nat) (f : Core → Core) : (s.modCore k f).hartAnswers = s.hartAnswers := rfl

/-! modSteward changes stewards. -/
@[simp] theorem State.modSteward_agenda (s : State) (k : Nat) (f : Steward → Steward) : (s.modSteward k f).agenda = s.agenda := rfl
@[simp] theorem State.modSteward_focus (s : State) (k : Nat) (f : Steward → Steward) : (s.modSteward k f).focus = s.focus := rfl
@[simp] theorem State.modSteward_waiting (s : State) (k : Nat) (f : Steward → Steward) : (s.modSteward k f).waiting = s.waiting := rfl
@[simp] theorem State.modSteward_ordered (s : State) (k : Nat) (f : Steward → Steward) : (s.modSteward k f).ordered = s.ordered := rfl
@[simp] theorem State.modSteward_free (s : State) (k : Nat) (f : Steward → Steward) : (s.modSteward k f).free = s.free := rfl
@[simp] theorem State.modSteward_nextId (s : State) (k : Nat) (f : Steward → Steward) : (s.modSteward k f).nextId = s.nextId := rfl
@[simp] theorem State.modSteward_seq (s : State) (k : Nat) (f : Steward → Steward) : (s.modSteward k f).seq = s.seq := rfl
@[simp] theorem State.modSteward_cycle (s : State) (k : Nat) (f : Steward → Steward) : (s.modSteward k f).cycle = s.cycle := rfl
@[simp] theorem State.modSteward_picked (s : State) (k : Nat) (f : Steward → Steward) : (s.modSteward k f).picked = s.picked := rfl
@[simp] theorem State.modSteward_pipes (s : State) (k : Nat) (f : Steward → Steward) : (s.modSteward k f).pipes = s.pipes := rfl
@[simp] theorem State.modSteward_clocks (s : State) (k : Nat) (f : Steward → Steward) : (s.modSteward k f).clocks = s.clocks := rfl
@[simp] theorem State.modSteward_wgs (s : State) (k : Nat) (f : Steward → Steward) : (s.modSteward k f).wgs = s.wgs := rfl
@[simp] theorem State.modSteward_cores (s : State) (k : Nat) (f : Steward → Steward) : (s.modSteward k f).cores = s.cores := rfl
@[simp] theorem State.modSteward_mem (s : State) (k : Nat) (f : Steward → Steward) : (s.modSteward k f).mem = s.mem := rfl
@[simp] theorem State.modSteward_poison (s : State) (k : Nat) (f : Steward → Steward) : (s.modSteward k f).poison = s.poison := rfl
@[simp] theorem State.modSteward_lines (s : State) (k : Nat) (f : Steward → Steward) : (s.modSteward k f).lines = s.lines := rfl
@[simp] theorem State.modSteward_homes (s : State) (k : Nat) (f : Steward → Steward) : (s.modSteward k f).homes = s.homes := rfl
@[simp] theorem State.modSteward_msgs (s : State) (k : Nat) (f : Steward → Steward) : (s.modSteward k f).msgs = s.msgs := rfl
@[simp] theorem State.modSteward_deadLinks (s : State) (k : Nat) (f : Steward → Steward) : (s.modSteward k f).deadLinks = s.deadLinks := rfl
@[simp] theorem State.modSteward_storeQ (s : State) (k : Nat) (f : Steward → Steward) : (s.modSteward k f).storeQ = s.storeQ := rfl
@[simp] theorem State.modSteward_contribs (s : State) (k : Nat) (f : Steward → Steward) : (s.modSteward k f).contribs = s.contribs := rfl
@[simp] theorem State.modSteward_fabric (s : State) (k : Nat) (f : Steward → Steward) : (s.modSteward k f).fabric = s.fabric := rfl
@[simp] theorem State.modSteward_inbound (s : State) (k : Nat) (f : Steward → Steward) : (s.modSteward k f).inbound = s.inbound := rfl
@[simp] theorem State.modSteward_peerAnswers (s : State) (k : Nat) (f : Steward → Steward) : (s.modSteward k f).peerAnswers = s.peerAnswers := rfl
@[simp] theorem State.modSteward_posted (s : State) (k : Nat) (f : Steward → Steward) : (s.modSteward k f).posted = s.posted := rfl
@[simp] theorem State.modSteward_devWrites (s : State) (k : Nat) (f : Steward → Steward) : (s.modSteward k f).devWrites = s.devWrites := rfl
@[simp] theorem State.modSteward_devLoads (s : State) (k : Nat) (f : Steward → Steward) : (s.modSteward k f).devLoads = s.devLoads := rfl
@[simp] theorem State.modSteward_l1 (s : State) (k : Nat) (f : Steward → Steward) : (s.modSteward k f).l1 = s.l1 := rfl
@[simp] theorem State.modSteward_icache (s : State) (k : Nat) (f : Steward → Steward) : (s.modSteward k f).icache = s.icache := rfl
@[simp] theorem State.modSteward_icreqs (s : State) (k : Nat) (f : Steward → Steward) : (s.modSteward k f).icreqs = s.icreqs := rfl
@[simp] theorem State.modSteward_regions (s : State) (k : Nat) (f : Steward → Steward) : (s.modSteward k f).regions = s.regions := rfl
@[simp] theorem State.modSteward_masters (s : State) (k : Nat) (f : Steward → Steward) : (s.modSteward k f).masters = s.masters := rfl
@[simp] theorem State.modSteward_prismQ (s : State) (k : Nat) (f : Steward → Steward) : (s.modSteward k f).prismQ = s.prismQ := rfl
@[simp] theorem State.modSteward_refreshes (s : State) (k : Nat) (f : Steward → Steward) : (s.modSteward k f).refreshes = s.refreshes := rfl
@[simp] theorem State.modSteward_views (s : State) (k : Nat) (f : Steward → Steward) : (s.modSteward k f).views = s.views := rfl
@[simp] theorem State.modSteward_arbiters (s : State) (k : Nat) (f : Steward → Steward) : (s.modSteward k f).arbiters = s.arbiters := rfl
@[simp] theorem State.modSteward_ptRoots (s : State) (k : Nat) (f : Steward → Steward) : (s.modSteward k f).ptRoots = s.ptRoots := rfl
@[simp] theorem State.modSteward_pasidTen (s : State) (k : Nat) (f : Steward → Steward) : (s.modSteward k f).pasidTen = s.pasidTen := rfl
@[simp] theorem State.modSteward_portVis (s : State) (k : Nat) (f : Steward → Steward) : (s.modSteward k f).portVis = s.portVis := rfl
@[simp] theorem State.modSteward_grids (s : State) (k : Nat) (f : Steward → Steward) : (s.modSteward k f).grids = s.grids := rfl
@[simp] theorem State.modSteward_nodes (s : State) (k : Nat) (f : Steward → Steward) : (s.modSteward k f).nodes = s.nodes := rfl
@[simp] theorem State.modSteward_roots (s : State) (k : Nat) (f : Steward → Steward) : (s.modSteward k f).roots = s.roots := rfl
@[simp] theorem State.modSteward_queues (s : State) (k : Nat) (f : Steward → Steward) : (s.modSteward k f).queues = s.queues := rfl
@[simp] theorem State.modSteward_dispatchAt (s : State) (k : Nat) (f : Steward → Steward) : (s.modSteward k f).dispatchAt = s.dispatchAt := rfl
@[simp] theorem State.modSteward_copies (s : State) (k : Nat) (f : Steward → Steward) : (s.modSteward k f).copies = s.copies := rfl
@[simp] theorem State.modSteward_qfe (s : State) (k : Nat) (f : Steward → Steward) : (s.modSteward k f).qfe = s.qfe := rfl
@[simp] theorem State.modSteward_qfeVis (s : State) (k : Nat) (f : Steward → Steward) : (s.modSteward k f).qfeVis = s.qfeVis := rfl
@[simp] theorem State.modSteward_watchdogs (s : State) (k : Nat) (f : Steward → Steward) : (s.modSteward k f).watchdogs = s.watchdogs := rfl
@[simp] theorem State.modSteward_iat (s : State) (k : Nat) (f : Steward → Steward) : (s.modSteward k f).iat = s.iat := rfl
@[simp] theorem State.modSteward_proxy (s : State) (k : Nat) (f : Steward → Steward) : (s.modSteward k f).proxy = s.proxy := rfl
@[simp] theorem State.modSteward_doorbells (s : State) (k : Nat) (f : Steward → Steward) : (s.modSteward k f).doorbells = s.doorbells := rfl
@[simp] theorem State.modSteward_lensRuns (s : State) (k : Nat) (f : Steward → Steward) : (s.modSteward k f).lensRuns = s.lensRuns := rfl
@[simp] theorem State.modSteward_evictions (s : State) (k : Nat) (f : Steward → Steward) : (s.modSteward k f).evictions = s.evictions := rfl
@[simp] theorem State.modSteward_pcfg (s : State) (k : Nat) (f : Steward → Steward) : (s.modSteward k f).pcfg = s.pcfg := rfl
@[simp] theorem State.modSteward_links (s : State) (k : Nat) (f : Steward → Steward) : (s.modSteward k f).links = s.links := rfl
@[simp] theorem State.modSteward_bifurc (s : State) (k : Nat) (f : Steward → Steward) : (s.modSteward k f).bifurc = s.bifurc := rfl
@[simp] theorem State.modSteward_functions (s : State) (k : Nat) (f : Steward → Steward) : (s.modSteward k f).functions = s.functions := rfl
@[simp] theorem State.modSteward_ide (s : State) (k : Nat) (f : Steward → Steward) : (s.modSteward k f).ide = s.ide := rfl
@[simp] theorem State.modSteward_coreReqs (s : State) (k : Nat) (f : Steward → Steward) : (s.modSteward k f).coreReqs = s.coreReqs := rfl
@[simp] theorem State.modSteward_epReqs (s : State) (k : Nat) (f : Steward → Steward) : (s.modSteward k f).epReqs = s.epReqs := rfl
@[simp] theorem State.modSteward_shoot (s : State) (k : Nat) (f : Steward → Steward) : (s.modSteward k f).shoot = s.shoot := rfl
@[simp] theorem State.modSteward_mig (s : State) (k : Nat) (f : Steward → Steward) : (s.modSteward k f).mig = s.mig := rfl
@[simp] theorem State.modSteward_forwards (s : State) (k : Nat) (f : Steward → Steward) : (s.modSteward k f).forwards = s.forwards := rfl
@[simp] theorem State.modSteward_logs (s : State) (k : Nat) (f : Steward → Steward) : (s.modSteward k f).logs = s.logs := rfl
@[simp] theorem State.modSteward_irqs (s : State) (k : Nat) (f : Steward → Steward) : (s.modSteward k f).irqs = s.irqs := rfl
@[simp] theorem State.modSteward_tens (s : State) (k : Nat) (f : Steward → Steward) : (s.modSteward k f).tens = s.tens := rfl
@[simp] theorem State.modSteward_staged (s : State) (k : Nat) (f : Steward → Steward) : (s.modSteward k f).staged = s.staged := rfl
@[simp] theorem State.modSteward_held (s : State) (k : Nat) (f : Steward → Steward) : (s.modSteward k f).held = s.held := rfl
@[simp] theorem State.modSteward_restarting (s : State) (k : Nat) (f : Steward → Steward) : (s.modSteward k f).restarting = s.restarting := rfl
@[simp] theorem State.modSteward_l2mode (s : State) (k : Nat) (f : Steward → Steward) : (s.modSteward k f).l2mode = s.l2mode := rfl
@[simp] theorem State.modSteward_stagedMode (s : State) (k : Nat) (f : Steward → Steward) : (s.modSteward k f).stagedMode = s.stagedMode := rfl
@[simp] theorem State.modSteward_mbox (s : State) (k : Nat) (f : Steward → Steward) : (s.modSteward k f).mbox = s.mbox := rfl
@[simp] theorem State.modSteward_restarts (s : State) (k : Nat) (f : Steward → Steward) : (s.modSteward k f).restarts = s.restarts := rfl
@[simp] theorem State.modSteward_devnum (s : State) (k : Nat) (f : Steward → Steward) : (s.modSteward k f).devnum = s.devnum := rfl
@[simp] theorem State.modSteward_devnumSet (s : State) (k : Nat) (f : Steward → Steward) : (s.modSteward k f).devnumSet = s.devnumSet := rfl
@[simp] theorem State.modSteward_fw (s : State) (k : Nat) (f : Steward → Steward) : (s.modSteward k f).fw = s.fw := rfl
@[simp] theorem State.modSteward_bootFail (s : State) (k : Nat) (f : Steward → Steward) : (s.modSteward k f).bootFail = s.bootFail := rfl
@[simp] theorem State.modSteward_booted (s : State) (k : Nat) (f : Steward → Steward) : (s.modSteward k f).booted = s.booted := rfl
@[simp] theorem State.modSteward_fuse (s : State) (k : Nat) (f : Steward → Steward) : (s.modSteward k f).fuse = s.fuse := rfl
@[simp] theorem State.modSteward_epwin (s : State) (k : Nat) (f : Steward → Steward) : (s.modSteward k f).epwin = s.epwin := rfl
@[simp] theorem State.modSteward_recMbox (s : State) (k : Nat) (f : Steward → Steward) : (s.modSteward k f).recMbox = s.recMbox := rfl
@[simp] theorem State.modSteward_recImage (s : State) (k : Nat) (f : Steward → Steward) : (s.modSteward k f).recImage = s.recImage := rfl
@[simp] theorem State.modSteward_windows (s : State) (k : Nat) (f : Steward → Steward) : (s.modSteward k f).windows = s.windows := rfl
@[simp] theorem State.modSteward_effAuth (s : State) (k : Nat) (f : Steward → Steward) : (s.modSteward k f).effAuth = s.effAuth := rfl
@[simp] theorem State.modSteward_effUp (s : State) (k : Nat) (f : Steward → Steward) : (s.modSteward k f).effUp = s.effUp := rfl
@[simp] theorem State.modSteward_laneSpare (s : State) (k : Nat) (f : Steward → Steward) : (s.modSteward k f).laneSpare = s.laneSpare := rfl
@[simp] theorem State.modSteward_routes (s : State) (k : Nat) (f : Steward → Steward) : (s.modSteward k f).routes = s.routes := rfl
@[simp] theorem State.modSteward_services (s : State) (k : Nat) (f : Steward → Steward) : (s.modSteward k f).services = s.services := rfl
@[simp] theorem State.modSteward_journal (s : State) (k : Nat) (f : Steward → Steward) : (s.modSteward k f).journal = s.journal := rfl
@[simp] theorem State.modSteward_power (s : State) (k : Nat) (f : Steward → Steward) : (s.modSteward k f).power = s.power := rfl
@[simp] theorem State.modSteward_telemetry (s : State) (k : Nat) (f : Steward → Steward) : (s.modSteward k f).telemetry = s.telemetry := rfl
@[simp] theorem State.modSteward_ceTimes (s : State) (k : Nat) (f : Steward → Steward) : (s.modSteward k f).ceTimes = s.ceTimes := rfl
@[simp] theorem State.modSteward_substs (s : State) (k : Nat) (f : Steward → Steward) : (s.modSteward k f).substs = s.substs := rfl
@[simp] theorem State.modSteward_worn (s : State) (k : Nat) (f : Steward → Steward) : (s.modSteward k f).worn = s.worn := rfl
@[simp] theorem State.modSteward_wornOut (s : State) (k : Nat) (f : Steward → Steward) : (s.modSteward k f).wornOut = s.wornOut := rfl
@[simp] theorem State.modSteward_answers (s : State) (k : Nat) (f : Steward → Steward) : (s.modSteward k f).answers = s.answers := rfl
@[simp] theorem State.modSteward_harts (s : State) (k : Nat) (f : Steward → Steward) : (s.modSteward k f).harts = s.harts := rfl
@[simp] theorem State.modSteward_hartAnswers (s : State) (k : Nat) (f : Steward → Steward) : (s.modSteward k f).hartAnswers = s.hartAnswers := rfl

/-! modQueue changes queues. -/
@[simp] theorem State.modQueue_agenda (s : State) (k : Nat) (f : Queue → Queue) : (s.modQueue k f).agenda = s.agenda := rfl
@[simp] theorem State.modQueue_focus (s : State) (k : Nat) (f : Queue → Queue) : (s.modQueue k f).focus = s.focus := rfl
@[simp] theorem State.modQueue_waiting (s : State) (k : Nat) (f : Queue → Queue) : (s.modQueue k f).waiting = s.waiting := rfl
@[simp] theorem State.modQueue_ordered (s : State) (k : Nat) (f : Queue → Queue) : (s.modQueue k f).ordered = s.ordered := rfl
@[simp] theorem State.modQueue_free (s : State) (k : Nat) (f : Queue → Queue) : (s.modQueue k f).free = s.free := rfl
@[simp] theorem State.modQueue_nextId (s : State) (k : Nat) (f : Queue → Queue) : (s.modQueue k f).nextId = s.nextId := rfl
@[simp] theorem State.modQueue_seq (s : State) (k : Nat) (f : Queue → Queue) : (s.modQueue k f).seq = s.seq := rfl
@[simp] theorem State.modQueue_cycle (s : State) (k : Nat) (f : Queue → Queue) : (s.modQueue k f).cycle = s.cycle := rfl
@[simp] theorem State.modQueue_picked (s : State) (k : Nat) (f : Queue → Queue) : (s.modQueue k f).picked = s.picked := rfl
@[simp] theorem State.modQueue_pipes (s : State) (k : Nat) (f : Queue → Queue) : (s.modQueue k f).pipes = s.pipes := rfl
@[simp] theorem State.modQueue_clocks (s : State) (k : Nat) (f : Queue → Queue) : (s.modQueue k f).clocks = s.clocks := rfl
@[simp] theorem State.modQueue_wgs (s : State) (k : Nat) (f : Queue → Queue) : (s.modQueue k f).wgs = s.wgs := rfl
@[simp] theorem State.modQueue_cores (s : State) (k : Nat) (f : Queue → Queue) : (s.modQueue k f).cores = s.cores := rfl
@[simp] theorem State.modQueue_mem (s : State) (k : Nat) (f : Queue → Queue) : (s.modQueue k f).mem = s.mem := rfl
@[simp] theorem State.modQueue_poison (s : State) (k : Nat) (f : Queue → Queue) : (s.modQueue k f).poison = s.poison := rfl
@[simp] theorem State.modQueue_lines (s : State) (k : Nat) (f : Queue → Queue) : (s.modQueue k f).lines = s.lines := rfl
@[simp] theorem State.modQueue_homes (s : State) (k : Nat) (f : Queue → Queue) : (s.modQueue k f).homes = s.homes := rfl
@[simp] theorem State.modQueue_msgs (s : State) (k : Nat) (f : Queue → Queue) : (s.modQueue k f).msgs = s.msgs := rfl
@[simp] theorem State.modQueue_deadLinks (s : State) (k : Nat) (f : Queue → Queue) : (s.modQueue k f).deadLinks = s.deadLinks := rfl
@[simp] theorem State.modQueue_storeQ (s : State) (k : Nat) (f : Queue → Queue) : (s.modQueue k f).storeQ = s.storeQ := rfl
@[simp] theorem State.modQueue_contribs (s : State) (k : Nat) (f : Queue → Queue) : (s.modQueue k f).contribs = s.contribs := rfl
@[simp] theorem State.modQueue_fabric (s : State) (k : Nat) (f : Queue → Queue) : (s.modQueue k f).fabric = s.fabric := rfl
@[simp] theorem State.modQueue_inbound (s : State) (k : Nat) (f : Queue → Queue) : (s.modQueue k f).inbound = s.inbound := rfl
@[simp] theorem State.modQueue_peerAnswers (s : State) (k : Nat) (f : Queue → Queue) : (s.modQueue k f).peerAnswers = s.peerAnswers := rfl
@[simp] theorem State.modQueue_posted (s : State) (k : Nat) (f : Queue → Queue) : (s.modQueue k f).posted = s.posted := rfl
@[simp] theorem State.modQueue_devWrites (s : State) (k : Nat) (f : Queue → Queue) : (s.modQueue k f).devWrites = s.devWrites := rfl
@[simp] theorem State.modQueue_devLoads (s : State) (k : Nat) (f : Queue → Queue) : (s.modQueue k f).devLoads = s.devLoads := rfl
@[simp] theorem State.modQueue_l1 (s : State) (k : Nat) (f : Queue → Queue) : (s.modQueue k f).l1 = s.l1 := rfl
@[simp] theorem State.modQueue_icache (s : State) (k : Nat) (f : Queue → Queue) : (s.modQueue k f).icache = s.icache := rfl
@[simp] theorem State.modQueue_icreqs (s : State) (k : Nat) (f : Queue → Queue) : (s.modQueue k f).icreqs = s.icreqs := rfl
@[simp] theorem State.modQueue_regions (s : State) (k : Nat) (f : Queue → Queue) : (s.modQueue k f).regions = s.regions := rfl
@[simp] theorem State.modQueue_stewards (s : State) (k : Nat) (f : Queue → Queue) : (s.modQueue k f).stewards = s.stewards := rfl
@[simp] theorem State.modQueue_masters (s : State) (k : Nat) (f : Queue → Queue) : (s.modQueue k f).masters = s.masters := rfl
@[simp] theorem State.modQueue_prismQ (s : State) (k : Nat) (f : Queue → Queue) : (s.modQueue k f).prismQ = s.prismQ := rfl
@[simp] theorem State.modQueue_refreshes (s : State) (k : Nat) (f : Queue → Queue) : (s.modQueue k f).refreshes = s.refreshes := rfl
@[simp] theorem State.modQueue_views (s : State) (k : Nat) (f : Queue → Queue) : (s.modQueue k f).views = s.views := rfl
@[simp] theorem State.modQueue_arbiters (s : State) (k : Nat) (f : Queue → Queue) : (s.modQueue k f).arbiters = s.arbiters := rfl
@[simp] theorem State.modQueue_ptRoots (s : State) (k : Nat) (f : Queue → Queue) : (s.modQueue k f).ptRoots = s.ptRoots := rfl
@[simp] theorem State.modQueue_pasidTen (s : State) (k : Nat) (f : Queue → Queue) : (s.modQueue k f).pasidTen = s.pasidTen := rfl
@[simp] theorem State.modQueue_portVis (s : State) (k : Nat) (f : Queue → Queue) : (s.modQueue k f).portVis = s.portVis := rfl
@[simp] theorem State.modQueue_grids (s : State) (k : Nat) (f : Queue → Queue) : (s.modQueue k f).grids = s.grids := rfl
@[simp] theorem State.modQueue_nodes (s : State) (k : Nat) (f : Queue → Queue) : (s.modQueue k f).nodes = s.nodes := rfl
@[simp] theorem State.modQueue_roots (s : State) (k : Nat) (f : Queue → Queue) : (s.modQueue k f).roots = s.roots := rfl
@[simp] theorem State.modQueue_dispatchAt (s : State) (k : Nat) (f : Queue → Queue) : (s.modQueue k f).dispatchAt = s.dispatchAt := rfl
@[simp] theorem State.modQueue_copies (s : State) (k : Nat) (f : Queue → Queue) : (s.modQueue k f).copies = s.copies := rfl
@[simp] theorem State.modQueue_qfe (s : State) (k : Nat) (f : Queue → Queue) : (s.modQueue k f).qfe = s.qfe := rfl
@[simp] theorem State.modQueue_qfeVis (s : State) (k : Nat) (f : Queue → Queue) : (s.modQueue k f).qfeVis = s.qfeVis := rfl
@[simp] theorem State.modQueue_watchdogs (s : State) (k : Nat) (f : Queue → Queue) : (s.modQueue k f).watchdogs = s.watchdogs := rfl
@[simp] theorem State.modQueue_iat (s : State) (k : Nat) (f : Queue → Queue) : (s.modQueue k f).iat = s.iat := rfl
@[simp] theorem State.modQueue_proxy (s : State) (k : Nat) (f : Queue → Queue) : (s.modQueue k f).proxy = s.proxy := rfl
@[simp] theorem State.modQueue_doorbells (s : State) (k : Nat) (f : Queue → Queue) : (s.modQueue k f).doorbells = s.doorbells := rfl
@[simp] theorem State.modQueue_lensRuns (s : State) (k : Nat) (f : Queue → Queue) : (s.modQueue k f).lensRuns = s.lensRuns := rfl
@[simp] theorem State.modQueue_evictions (s : State) (k : Nat) (f : Queue → Queue) : (s.modQueue k f).evictions = s.evictions := rfl
@[simp] theorem State.modQueue_pcfg (s : State) (k : Nat) (f : Queue → Queue) : (s.modQueue k f).pcfg = s.pcfg := rfl
@[simp] theorem State.modQueue_links (s : State) (k : Nat) (f : Queue → Queue) : (s.modQueue k f).links = s.links := rfl
@[simp] theorem State.modQueue_bifurc (s : State) (k : Nat) (f : Queue → Queue) : (s.modQueue k f).bifurc = s.bifurc := rfl
@[simp] theorem State.modQueue_functions (s : State) (k : Nat) (f : Queue → Queue) : (s.modQueue k f).functions = s.functions := rfl
@[simp] theorem State.modQueue_ide (s : State) (k : Nat) (f : Queue → Queue) : (s.modQueue k f).ide = s.ide := rfl
@[simp] theorem State.modQueue_coreReqs (s : State) (k : Nat) (f : Queue → Queue) : (s.modQueue k f).coreReqs = s.coreReqs := rfl
@[simp] theorem State.modQueue_epReqs (s : State) (k : Nat) (f : Queue → Queue) : (s.modQueue k f).epReqs = s.epReqs := rfl
@[simp] theorem State.modQueue_shoot (s : State) (k : Nat) (f : Queue → Queue) : (s.modQueue k f).shoot = s.shoot := rfl
@[simp] theorem State.modQueue_mig (s : State) (k : Nat) (f : Queue → Queue) : (s.modQueue k f).mig = s.mig := rfl
@[simp] theorem State.modQueue_forwards (s : State) (k : Nat) (f : Queue → Queue) : (s.modQueue k f).forwards = s.forwards := rfl
@[simp] theorem State.modQueue_logs (s : State) (k : Nat) (f : Queue → Queue) : (s.modQueue k f).logs = s.logs := rfl
@[simp] theorem State.modQueue_irqs (s : State) (k : Nat) (f : Queue → Queue) : (s.modQueue k f).irqs = s.irqs := rfl
@[simp] theorem State.modQueue_tens (s : State) (k : Nat) (f : Queue → Queue) : (s.modQueue k f).tens = s.tens := rfl
@[simp] theorem State.modQueue_staged (s : State) (k : Nat) (f : Queue → Queue) : (s.modQueue k f).staged = s.staged := rfl
@[simp] theorem State.modQueue_held (s : State) (k : Nat) (f : Queue → Queue) : (s.modQueue k f).held = s.held := rfl
@[simp] theorem State.modQueue_restarting (s : State) (k : Nat) (f : Queue → Queue) : (s.modQueue k f).restarting = s.restarting := rfl
@[simp] theorem State.modQueue_l2mode (s : State) (k : Nat) (f : Queue → Queue) : (s.modQueue k f).l2mode = s.l2mode := rfl
@[simp] theorem State.modQueue_stagedMode (s : State) (k : Nat) (f : Queue → Queue) : (s.modQueue k f).stagedMode = s.stagedMode := rfl
@[simp] theorem State.modQueue_mbox (s : State) (k : Nat) (f : Queue → Queue) : (s.modQueue k f).mbox = s.mbox := rfl
@[simp] theorem State.modQueue_restarts (s : State) (k : Nat) (f : Queue → Queue) : (s.modQueue k f).restarts = s.restarts := rfl
@[simp] theorem State.modQueue_devnum (s : State) (k : Nat) (f : Queue → Queue) : (s.modQueue k f).devnum = s.devnum := rfl
@[simp] theorem State.modQueue_devnumSet (s : State) (k : Nat) (f : Queue → Queue) : (s.modQueue k f).devnumSet = s.devnumSet := rfl
@[simp] theorem State.modQueue_fw (s : State) (k : Nat) (f : Queue → Queue) : (s.modQueue k f).fw = s.fw := rfl
@[simp] theorem State.modQueue_bootFail (s : State) (k : Nat) (f : Queue → Queue) : (s.modQueue k f).bootFail = s.bootFail := rfl
@[simp] theorem State.modQueue_booted (s : State) (k : Nat) (f : Queue → Queue) : (s.modQueue k f).booted = s.booted := rfl
@[simp] theorem State.modQueue_fuse (s : State) (k : Nat) (f : Queue → Queue) : (s.modQueue k f).fuse = s.fuse := rfl
@[simp] theorem State.modQueue_epwin (s : State) (k : Nat) (f : Queue → Queue) : (s.modQueue k f).epwin = s.epwin := rfl
@[simp] theorem State.modQueue_recMbox (s : State) (k : Nat) (f : Queue → Queue) : (s.modQueue k f).recMbox = s.recMbox := rfl
@[simp] theorem State.modQueue_recImage (s : State) (k : Nat) (f : Queue → Queue) : (s.modQueue k f).recImage = s.recImage := rfl
@[simp] theorem State.modQueue_windows (s : State) (k : Nat) (f : Queue → Queue) : (s.modQueue k f).windows = s.windows := rfl
@[simp] theorem State.modQueue_effAuth (s : State) (k : Nat) (f : Queue → Queue) : (s.modQueue k f).effAuth = s.effAuth := rfl
@[simp] theorem State.modQueue_effUp (s : State) (k : Nat) (f : Queue → Queue) : (s.modQueue k f).effUp = s.effUp := rfl
@[simp] theorem State.modQueue_laneSpare (s : State) (k : Nat) (f : Queue → Queue) : (s.modQueue k f).laneSpare = s.laneSpare := rfl
@[simp] theorem State.modQueue_routes (s : State) (k : Nat) (f : Queue → Queue) : (s.modQueue k f).routes = s.routes := rfl
@[simp] theorem State.modQueue_services (s : State) (k : Nat) (f : Queue → Queue) : (s.modQueue k f).services = s.services := rfl
@[simp] theorem State.modQueue_journal (s : State) (k : Nat) (f : Queue → Queue) : (s.modQueue k f).journal = s.journal := rfl
@[simp] theorem State.modQueue_power (s : State) (k : Nat) (f : Queue → Queue) : (s.modQueue k f).power = s.power := rfl
@[simp] theorem State.modQueue_telemetry (s : State) (k : Nat) (f : Queue → Queue) : (s.modQueue k f).telemetry = s.telemetry := rfl
@[simp] theorem State.modQueue_ceTimes (s : State) (k : Nat) (f : Queue → Queue) : (s.modQueue k f).ceTimes = s.ceTimes := rfl
@[simp] theorem State.modQueue_substs (s : State) (k : Nat) (f : Queue → Queue) : (s.modQueue k f).substs = s.substs := rfl
@[simp] theorem State.modQueue_worn (s : State) (k : Nat) (f : Queue → Queue) : (s.modQueue k f).worn = s.worn := rfl
@[simp] theorem State.modQueue_wornOut (s : State) (k : Nat) (f : Queue → Queue) : (s.modQueue k f).wornOut = s.wornOut := rfl
@[simp] theorem State.modQueue_answers (s : State) (k : Nat) (f : Queue → Queue) : (s.modQueue k f).answers = s.answers := rfl
@[simp] theorem State.modQueue_harts (s : State) (k : Nat) (f : Queue → Queue) : (s.modQueue k f).harts = s.harts := rfl
@[simp] theorem State.modQueue_hartAnswers (s : State) (k : Nat) (f : Queue → Queue) : (s.modQueue k f).hartAnswers = s.hartAnswers := rfl

/-! modTen changes tens. -/
@[simp] theorem State.modTen_agenda (s : State) (k : Nat) (f : Tenancy → Tenancy) : (s.modTen k f).agenda = s.agenda := rfl
@[simp] theorem State.modTen_focus (s : State) (k : Nat) (f : Tenancy → Tenancy) : (s.modTen k f).focus = s.focus := rfl
@[simp] theorem State.modTen_waiting (s : State) (k : Nat) (f : Tenancy → Tenancy) : (s.modTen k f).waiting = s.waiting := rfl
@[simp] theorem State.modTen_ordered (s : State) (k : Nat) (f : Tenancy → Tenancy) : (s.modTen k f).ordered = s.ordered := rfl
@[simp] theorem State.modTen_free (s : State) (k : Nat) (f : Tenancy → Tenancy) : (s.modTen k f).free = s.free := rfl
@[simp] theorem State.modTen_nextId (s : State) (k : Nat) (f : Tenancy → Tenancy) : (s.modTen k f).nextId = s.nextId := rfl
@[simp] theorem State.modTen_seq (s : State) (k : Nat) (f : Tenancy → Tenancy) : (s.modTen k f).seq = s.seq := rfl
@[simp] theorem State.modTen_cycle (s : State) (k : Nat) (f : Tenancy → Tenancy) : (s.modTen k f).cycle = s.cycle := rfl
@[simp] theorem State.modTen_picked (s : State) (k : Nat) (f : Tenancy → Tenancy) : (s.modTen k f).picked = s.picked := rfl
@[simp] theorem State.modTen_pipes (s : State) (k : Nat) (f : Tenancy → Tenancy) : (s.modTen k f).pipes = s.pipes := rfl
@[simp] theorem State.modTen_clocks (s : State) (k : Nat) (f : Tenancy → Tenancy) : (s.modTen k f).clocks = s.clocks := rfl
@[simp] theorem State.modTen_wgs (s : State) (k : Nat) (f : Tenancy → Tenancy) : (s.modTen k f).wgs = s.wgs := rfl
@[simp] theorem State.modTen_cores (s : State) (k : Nat) (f : Tenancy → Tenancy) : (s.modTen k f).cores = s.cores := rfl
@[simp] theorem State.modTen_mem (s : State) (k : Nat) (f : Tenancy → Tenancy) : (s.modTen k f).mem = s.mem := rfl
@[simp] theorem State.modTen_poison (s : State) (k : Nat) (f : Tenancy → Tenancy) : (s.modTen k f).poison = s.poison := rfl
@[simp] theorem State.modTen_lines (s : State) (k : Nat) (f : Tenancy → Tenancy) : (s.modTen k f).lines = s.lines := rfl
@[simp] theorem State.modTen_homes (s : State) (k : Nat) (f : Tenancy → Tenancy) : (s.modTen k f).homes = s.homes := rfl
@[simp] theorem State.modTen_msgs (s : State) (k : Nat) (f : Tenancy → Tenancy) : (s.modTen k f).msgs = s.msgs := rfl
@[simp] theorem State.modTen_deadLinks (s : State) (k : Nat) (f : Tenancy → Tenancy) : (s.modTen k f).deadLinks = s.deadLinks := rfl
@[simp] theorem State.modTen_storeQ (s : State) (k : Nat) (f : Tenancy → Tenancy) : (s.modTen k f).storeQ = s.storeQ := rfl
@[simp] theorem State.modTen_contribs (s : State) (k : Nat) (f : Tenancy → Tenancy) : (s.modTen k f).contribs = s.contribs := rfl
@[simp] theorem State.modTen_fabric (s : State) (k : Nat) (f : Tenancy → Tenancy) : (s.modTen k f).fabric = s.fabric := rfl
@[simp] theorem State.modTen_inbound (s : State) (k : Nat) (f : Tenancy → Tenancy) : (s.modTen k f).inbound = s.inbound := rfl
@[simp] theorem State.modTen_peerAnswers (s : State) (k : Nat) (f : Tenancy → Tenancy) : (s.modTen k f).peerAnswers = s.peerAnswers := rfl
@[simp] theorem State.modTen_posted (s : State) (k : Nat) (f : Tenancy → Tenancy) : (s.modTen k f).posted = s.posted := rfl
@[simp] theorem State.modTen_devWrites (s : State) (k : Nat) (f : Tenancy → Tenancy) : (s.modTen k f).devWrites = s.devWrites := rfl
@[simp] theorem State.modTen_devLoads (s : State) (k : Nat) (f : Tenancy → Tenancy) : (s.modTen k f).devLoads = s.devLoads := rfl
@[simp] theorem State.modTen_l1 (s : State) (k : Nat) (f : Tenancy → Tenancy) : (s.modTen k f).l1 = s.l1 := rfl
@[simp] theorem State.modTen_icache (s : State) (k : Nat) (f : Tenancy → Tenancy) : (s.modTen k f).icache = s.icache := rfl
@[simp] theorem State.modTen_icreqs (s : State) (k : Nat) (f : Tenancy → Tenancy) : (s.modTen k f).icreqs = s.icreqs := rfl
@[simp] theorem State.modTen_regions (s : State) (k : Nat) (f : Tenancy → Tenancy) : (s.modTen k f).regions = s.regions := rfl
@[simp] theorem State.modTen_stewards (s : State) (k : Nat) (f : Tenancy → Tenancy) : (s.modTen k f).stewards = s.stewards := rfl
@[simp] theorem State.modTen_masters (s : State) (k : Nat) (f : Tenancy → Tenancy) : (s.modTen k f).masters = s.masters := rfl
@[simp] theorem State.modTen_prismQ (s : State) (k : Nat) (f : Tenancy → Tenancy) : (s.modTen k f).prismQ = s.prismQ := rfl
@[simp] theorem State.modTen_refreshes (s : State) (k : Nat) (f : Tenancy → Tenancy) : (s.modTen k f).refreshes = s.refreshes := rfl
@[simp] theorem State.modTen_views (s : State) (k : Nat) (f : Tenancy → Tenancy) : (s.modTen k f).views = s.views := rfl
@[simp] theorem State.modTen_arbiters (s : State) (k : Nat) (f : Tenancy → Tenancy) : (s.modTen k f).arbiters = s.arbiters := rfl
@[simp] theorem State.modTen_ptRoots (s : State) (k : Nat) (f : Tenancy → Tenancy) : (s.modTen k f).ptRoots = s.ptRoots := rfl
@[simp] theorem State.modTen_pasidTen (s : State) (k : Nat) (f : Tenancy → Tenancy) : (s.modTen k f).pasidTen = s.pasidTen := rfl
@[simp] theorem State.modTen_portVis (s : State) (k : Nat) (f : Tenancy → Tenancy) : (s.modTen k f).portVis = s.portVis := rfl
@[simp] theorem State.modTen_grids (s : State) (k : Nat) (f : Tenancy → Tenancy) : (s.modTen k f).grids = s.grids := rfl
@[simp] theorem State.modTen_nodes (s : State) (k : Nat) (f : Tenancy → Tenancy) : (s.modTen k f).nodes = s.nodes := rfl
@[simp] theorem State.modTen_roots (s : State) (k : Nat) (f : Tenancy → Tenancy) : (s.modTen k f).roots = s.roots := rfl
@[simp] theorem State.modTen_queues (s : State) (k : Nat) (f : Tenancy → Tenancy) : (s.modTen k f).queues = s.queues := rfl
@[simp] theorem State.modTen_dispatchAt (s : State) (k : Nat) (f : Tenancy → Tenancy) : (s.modTen k f).dispatchAt = s.dispatchAt := rfl
@[simp] theorem State.modTen_copies (s : State) (k : Nat) (f : Tenancy → Tenancy) : (s.modTen k f).copies = s.copies := rfl
@[simp] theorem State.modTen_qfe (s : State) (k : Nat) (f : Tenancy → Tenancy) : (s.modTen k f).qfe = s.qfe := rfl
@[simp] theorem State.modTen_qfeVis (s : State) (k : Nat) (f : Tenancy → Tenancy) : (s.modTen k f).qfeVis = s.qfeVis := rfl
@[simp] theorem State.modTen_watchdogs (s : State) (k : Nat) (f : Tenancy → Tenancy) : (s.modTen k f).watchdogs = s.watchdogs := rfl
@[simp] theorem State.modTen_iat (s : State) (k : Nat) (f : Tenancy → Tenancy) : (s.modTen k f).iat = s.iat := rfl
@[simp] theorem State.modTen_proxy (s : State) (k : Nat) (f : Tenancy → Tenancy) : (s.modTen k f).proxy = s.proxy := rfl
@[simp] theorem State.modTen_doorbells (s : State) (k : Nat) (f : Tenancy → Tenancy) : (s.modTen k f).doorbells = s.doorbells := rfl
@[simp] theorem State.modTen_lensRuns (s : State) (k : Nat) (f : Tenancy → Tenancy) : (s.modTen k f).lensRuns = s.lensRuns := rfl
@[simp] theorem State.modTen_evictions (s : State) (k : Nat) (f : Tenancy → Tenancy) : (s.modTen k f).evictions = s.evictions := rfl
@[simp] theorem State.modTen_pcfg (s : State) (k : Nat) (f : Tenancy → Tenancy) : (s.modTen k f).pcfg = s.pcfg := rfl
@[simp] theorem State.modTen_links (s : State) (k : Nat) (f : Tenancy → Tenancy) : (s.modTen k f).links = s.links := rfl
@[simp] theorem State.modTen_bifurc (s : State) (k : Nat) (f : Tenancy → Tenancy) : (s.modTen k f).bifurc = s.bifurc := rfl
@[simp] theorem State.modTen_functions (s : State) (k : Nat) (f : Tenancy → Tenancy) : (s.modTen k f).functions = s.functions := rfl
@[simp] theorem State.modTen_ide (s : State) (k : Nat) (f : Tenancy → Tenancy) : (s.modTen k f).ide = s.ide := rfl
@[simp] theorem State.modTen_coreReqs (s : State) (k : Nat) (f : Tenancy → Tenancy) : (s.modTen k f).coreReqs = s.coreReqs := rfl
@[simp] theorem State.modTen_epReqs (s : State) (k : Nat) (f : Tenancy → Tenancy) : (s.modTen k f).epReqs = s.epReqs := rfl
@[simp] theorem State.modTen_shoot (s : State) (k : Nat) (f : Tenancy → Tenancy) : (s.modTen k f).shoot = s.shoot := rfl
@[simp] theorem State.modTen_mig (s : State) (k : Nat) (f : Tenancy → Tenancy) : (s.modTen k f).mig = s.mig := rfl
@[simp] theorem State.modTen_forwards (s : State) (k : Nat) (f : Tenancy → Tenancy) : (s.modTen k f).forwards = s.forwards := rfl
@[simp] theorem State.modTen_logs (s : State) (k : Nat) (f : Tenancy → Tenancy) : (s.modTen k f).logs = s.logs := rfl
@[simp] theorem State.modTen_irqs (s : State) (k : Nat) (f : Tenancy → Tenancy) : (s.modTen k f).irqs = s.irqs := rfl
@[simp] theorem State.modTen_staged (s : State) (k : Nat) (f : Tenancy → Tenancy) : (s.modTen k f).staged = s.staged := rfl
@[simp] theorem State.modTen_held (s : State) (k : Nat) (f : Tenancy → Tenancy) : (s.modTen k f).held = s.held := rfl
@[simp] theorem State.modTen_restarting (s : State) (k : Nat) (f : Tenancy → Tenancy) : (s.modTen k f).restarting = s.restarting := rfl
@[simp] theorem State.modTen_l2mode (s : State) (k : Nat) (f : Tenancy → Tenancy) : (s.modTen k f).l2mode = s.l2mode := rfl
@[simp] theorem State.modTen_stagedMode (s : State) (k : Nat) (f : Tenancy → Tenancy) : (s.modTen k f).stagedMode = s.stagedMode := rfl
@[simp] theorem State.modTen_mbox (s : State) (k : Nat) (f : Tenancy → Tenancy) : (s.modTen k f).mbox = s.mbox := rfl
@[simp] theorem State.modTen_restarts (s : State) (k : Nat) (f : Tenancy → Tenancy) : (s.modTen k f).restarts = s.restarts := rfl
@[simp] theorem State.modTen_devnum (s : State) (k : Nat) (f : Tenancy → Tenancy) : (s.modTen k f).devnum = s.devnum := rfl
@[simp] theorem State.modTen_devnumSet (s : State) (k : Nat) (f : Tenancy → Tenancy) : (s.modTen k f).devnumSet = s.devnumSet := rfl
@[simp] theorem State.modTen_fw (s : State) (k : Nat) (f : Tenancy → Tenancy) : (s.modTen k f).fw = s.fw := rfl
@[simp] theorem State.modTen_bootFail (s : State) (k : Nat) (f : Tenancy → Tenancy) : (s.modTen k f).bootFail = s.bootFail := rfl
@[simp] theorem State.modTen_booted (s : State) (k : Nat) (f : Tenancy → Tenancy) : (s.modTen k f).booted = s.booted := rfl
@[simp] theorem State.modTen_fuse (s : State) (k : Nat) (f : Tenancy → Tenancy) : (s.modTen k f).fuse = s.fuse := rfl
@[simp] theorem State.modTen_epwin (s : State) (k : Nat) (f : Tenancy → Tenancy) : (s.modTen k f).epwin = s.epwin := rfl
@[simp] theorem State.modTen_recMbox (s : State) (k : Nat) (f : Tenancy → Tenancy) : (s.modTen k f).recMbox = s.recMbox := rfl
@[simp] theorem State.modTen_recImage (s : State) (k : Nat) (f : Tenancy → Tenancy) : (s.modTen k f).recImage = s.recImage := rfl
@[simp] theorem State.modTen_windows (s : State) (k : Nat) (f : Tenancy → Tenancy) : (s.modTen k f).windows = s.windows := rfl
@[simp] theorem State.modTen_effAuth (s : State) (k : Nat) (f : Tenancy → Tenancy) : (s.modTen k f).effAuth = s.effAuth := rfl
@[simp] theorem State.modTen_effUp (s : State) (k : Nat) (f : Tenancy → Tenancy) : (s.modTen k f).effUp = s.effUp := rfl
@[simp] theorem State.modTen_laneSpare (s : State) (k : Nat) (f : Tenancy → Tenancy) : (s.modTen k f).laneSpare = s.laneSpare := rfl
@[simp] theorem State.modTen_routes (s : State) (k : Nat) (f : Tenancy → Tenancy) : (s.modTen k f).routes = s.routes := rfl
@[simp] theorem State.modTen_services (s : State) (k : Nat) (f : Tenancy → Tenancy) : (s.modTen k f).services = s.services := rfl
@[simp] theorem State.modTen_journal (s : State) (k : Nat) (f : Tenancy → Tenancy) : (s.modTen k f).journal = s.journal := rfl
@[simp] theorem State.modTen_power (s : State) (k : Nat) (f : Tenancy → Tenancy) : (s.modTen k f).power = s.power := rfl
@[simp] theorem State.modTen_telemetry (s : State) (k : Nat) (f : Tenancy → Tenancy) : (s.modTen k f).telemetry = s.telemetry := rfl
@[simp] theorem State.modTen_ceTimes (s : State) (k : Nat) (f : Tenancy → Tenancy) : (s.modTen k f).ceTimes = s.ceTimes := rfl
@[simp] theorem State.modTen_substs (s : State) (k : Nat) (f : Tenancy → Tenancy) : (s.modTen k f).substs = s.substs := rfl
@[simp] theorem State.modTen_worn (s : State) (k : Nat) (f : Tenancy → Tenancy) : (s.modTen k f).worn = s.worn := rfl
@[simp] theorem State.modTen_wornOut (s : State) (k : Nat) (f : Tenancy → Tenancy) : (s.modTen k f).wornOut = s.wornOut := rfl
@[simp] theorem State.modTen_answers (s : State) (k : Nat) (f : Tenancy → Tenancy) : (s.modTen k f).answers = s.answers := rfl
@[simp] theorem State.modTen_harts (s : State) (k : Nat) (f : Tenancy → Tenancy) : (s.modTen k f).harts = s.harts := rfl
@[simp] theorem State.modTen_hartAnswers (s : State) (k : Nat) (f : Tenancy → Tenancy) : (s.modTen k f).hartAnswers = s.hartAnswers := rfl

/-! modLog changes logs. -/
@[simp] theorem State.modLog_agenda (s : State) (k : Nat) (f : Log → Log) : (s.modLog k f).agenda = s.agenda := rfl
@[simp] theorem State.modLog_focus (s : State) (k : Nat) (f : Log → Log) : (s.modLog k f).focus = s.focus := rfl
@[simp] theorem State.modLog_waiting (s : State) (k : Nat) (f : Log → Log) : (s.modLog k f).waiting = s.waiting := rfl
@[simp] theorem State.modLog_ordered (s : State) (k : Nat) (f : Log → Log) : (s.modLog k f).ordered = s.ordered := rfl
@[simp] theorem State.modLog_free (s : State) (k : Nat) (f : Log → Log) : (s.modLog k f).free = s.free := rfl
@[simp] theorem State.modLog_nextId (s : State) (k : Nat) (f : Log → Log) : (s.modLog k f).nextId = s.nextId := rfl
@[simp] theorem State.modLog_seq (s : State) (k : Nat) (f : Log → Log) : (s.modLog k f).seq = s.seq := rfl
@[simp] theorem State.modLog_cycle (s : State) (k : Nat) (f : Log → Log) : (s.modLog k f).cycle = s.cycle := rfl
@[simp] theorem State.modLog_picked (s : State) (k : Nat) (f : Log → Log) : (s.modLog k f).picked = s.picked := rfl
@[simp] theorem State.modLog_pipes (s : State) (k : Nat) (f : Log → Log) : (s.modLog k f).pipes = s.pipes := rfl
@[simp] theorem State.modLog_clocks (s : State) (k : Nat) (f : Log → Log) : (s.modLog k f).clocks = s.clocks := rfl
@[simp] theorem State.modLog_wgs (s : State) (k : Nat) (f : Log → Log) : (s.modLog k f).wgs = s.wgs := rfl
@[simp] theorem State.modLog_cores (s : State) (k : Nat) (f : Log → Log) : (s.modLog k f).cores = s.cores := rfl
@[simp] theorem State.modLog_mem (s : State) (k : Nat) (f : Log → Log) : (s.modLog k f).mem = s.mem := rfl
@[simp] theorem State.modLog_poison (s : State) (k : Nat) (f : Log → Log) : (s.modLog k f).poison = s.poison := rfl
@[simp] theorem State.modLog_lines (s : State) (k : Nat) (f : Log → Log) : (s.modLog k f).lines = s.lines := rfl
@[simp] theorem State.modLog_homes (s : State) (k : Nat) (f : Log → Log) : (s.modLog k f).homes = s.homes := rfl
@[simp] theorem State.modLog_msgs (s : State) (k : Nat) (f : Log → Log) : (s.modLog k f).msgs = s.msgs := rfl
@[simp] theorem State.modLog_deadLinks (s : State) (k : Nat) (f : Log → Log) : (s.modLog k f).deadLinks = s.deadLinks := rfl
@[simp] theorem State.modLog_storeQ (s : State) (k : Nat) (f : Log → Log) : (s.modLog k f).storeQ = s.storeQ := rfl
@[simp] theorem State.modLog_contribs (s : State) (k : Nat) (f : Log → Log) : (s.modLog k f).contribs = s.contribs := rfl
@[simp] theorem State.modLog_fabric (s : State) (k : Nat) (f : Log → Log) : (s.modLog k f).fabric = s.fabric := rfl
@[simp] theorem State.modLog_inbound (s : State) (k : Nat) (f : Log → Log) : (s.modLog k f).inbound = s.inbound := rfl
@[simp] theorem State.modLog_peerAnswers (s : State) (k : Nat) (f : Log → Log) : (s.modLog k f).peerAnswers = s.peerAnswers := rfl
@[simp] theorem State.modLog_posted (s : State) (k : Nat) (f : Log → Log) : (s.modLog k f).posted = s.posted := rfl
@[simp] theorem State.modLog_devWrites (s : State) (k : Nat) (f : Log → Log) : (s.modLog k f).devWrites = s.devWrites := rfl
@[simp] theorem State.modLog_devLoads (s : State) (k : Nat) (f : Log → Log) : (s.modLog k f).devLoads = s.devLoads := rfl
@[simp] theorem State.modLog_l1 (s : State) (k : Nat) (f : Log → Log) : (s.modLog k f).l1 = s.l1 := rfl
@[simp] theorem State.modLog_icache (s : State) (k : Nat) (f : Log → Log) : (s.modLog k f).icache = s.icache := rfl
@[simp] theorem State.modLog_icreqs (s : State) (k : Nat) (f : Log → Log) : (s.modLog k f).icreqs = s.icreqs := rfl
@[simp] theorem State.modLog_regions (s : State) (k : Nat) (f : Log → Log) : (s.modLog k f).regions = s.regions := rfl
@[simp] theorem State.modLog_stewards (s : State) (k : Nat) (f : Log → Log) : (s.modLog k f).stewards = s.stewards := rfl
@[simp] theorem State.modLog_masters (s : State) (k : Nat) (f : Log → Log) : (s.modLog k f).masters = s.masters := rfl
@[simp] theorem State.modLog_prismQ (s : State) (k : Nat) (f : Log → Log) : (s.modLog k f).prismQ = s.prismQ := rfl
@[simp] theorem State.modLog_refreshes (s : State) (k : Nat) (f : Log → Log) : (s.modLog k f).refreshes = s.refreshes := rfl
@[simp] theorem State.modLog_views (s : State) (k : Nat) (f : Log → Log) : (s.modLog k f).views = s.views := rfl
@[simp] theorem State.modLog_arbiters (s : State) (k : Nat) (f : Log → Log) : (s.modLog k f).arbiters = s.arbiters := rfl
@[simp] theorem State.modLog_ptRoots (s : State) (k : Nat) (f : Log → Log) : (s.modLog k f).ptRoots = s.ptRoots := rfl
@[simp] theorem State.modLog_pasidTen (s : State) (k : Nat) (f : Log → Log) : (s.modLog k f).pasidTen = s.pasidTen := rfl
@[simp] theorem State.modLog_portVis (s : State) (k : Nat) (f : Log → Log) : (s.modLog k f).portVis = s.portVis := rfl
@[simp] theorem State.modLog_grids (s : State) (k : Nat) (f : Log → Log) : (s.modLog k f).grids = s.grids := rfl
@[simp] theorem State.modLog_nodes (s : State) (k : Nat) (f : Log → Log) : (s.modLog k f).nodes = s.nodes := rfl
@[simp] theorem State.modLog_roots (s : State) (k : Nat) (f : Log → Log) : (s.modLog k f).roots = s.roots := rfl
@[simp] theorem State.modLog_queues (s : State) (k : Nat) (f : Log → Log) : (s.modLog k f).queues = s.queues := rfl
@[simp] theorem State.modLog_dispatchAt (s : State) (k : Nat) (f : Log → Log) : (s.modLog k f).dispatchAt = s.dispatchAt := rfl
@[simp] theorem State.modLog_copies (s : State) (k : Nat) (f : Log → Log) : (s.modLog k f).copies = s.copies := rfl
@[simp] theorem State.modLog_qfe (s : State) (k : Nat) (f : Log → Log) : (s.modLog k f).qfe = s.qfe := rfl
@[simp] theorem State.modLog_qfeVis (s : State) (k : Nat) (f : Log → Log) : (s.modLog k f).qfeVis = s.qfeVis := rfl
@[simp] theorem State.modLog_watchdogs (s : State) (k : Nat) (f : Log → Log) : (s.modLog k f).watchdogs = s.watchdogs := rfl
@[simp] theorem State.modLog_iat (s : State) (k : Nat) (f : Log → Log) : (s.modLog k f).iat = s.iat := rfl
@[simp] theorem State.modLog_proxy (s : State) (k : Nat) (f : Log → Log) : (s.modLog k f).proxy = s.proxy := rfl
@[simp] theorem State.modLog_doorbells (s : State) (k : Nat) (f : Log → Log) : (s.modLog k f).doorbells = s.doorbells := rfl
@[simp] theorem State.modLog_lensRuns (s : State) (k : Nat) (f : Log → Log) : (s.modLog k f).lensRuns = s.lensRuns := rfl
@[simp] theorem State.modLog_evictions (s : State) (k : Nat) (f : Log → Log) : (s.modLog k f).evictions = s.evictions := rfl
@[simp] theorem State.modLog_pcfg (s : State) (k : Nat) (f : Log → Log) : (s.modLog k f).pcfg = s.pcfg := rfl
@[simp] theorem State.modLog_links (s : State) (k : Nat) (f : Log → Log) : (s.modLog k f).links = s.links := rfl
@[simp] theorem State.modLog_bifurc (s : State) (k : Nat) (f : Log → Log) : (s.modLog k f).bifurc = s.bifurc := rfl
@[simp] theorem State.modLog_functions (s : State) (k : Nat) (f : Log → Log) : (s.modLog k f).functions = s.functions := rfl
@[simp] theorem State.modLog_ide (s : State) (k : Nat) (f : Log → Log) : (s.modLog k f).ide = s.ide := rfl
@[simp] theorem State.modLog_coreReqs (s : State) (k : Nat) (f : Log → Log) : (s.modLog k f).coreReqs = s.coreReqs := rfl
@[simp] theorem State.modLog_epReqs (s : State) (k : Nat) (f : Log → Log) : (s.modLog k f).epReqs = s.epReqs := rfl
@[simp] theorem State.modLog_shoot (s : State) (k : Nat) (f : Log → Log) : (s.modLog k f).shoot = s.shoot := rfl
@[simp] theorem State.modLog_mig (s : State) (k : Nat) (f : Log → Log) : (s.modLog k f).mig = s.mig := rfl
@[simp] theorem State.modLog_forwards (s : State) (k : Nat) (f : Log → Log) : (s.modLog k f).forwards = s.forwards := rfl
@[simp] theorem State.modLog_irqs (s : State) (k : Nat) (f : Log → Log) : (s.modLog k f).irqs = s.irqs := rfl
@[simp] theorem State.modLog_tens (s : State) (k : Nat) (f : Log → Log) : (s.modLog k f).tens = s.tens := rfl
@[simp] theorem State.modLog_staged (s : State) (k : Nat) (f : Log → Log) : (s.modLog k f).staged = s.staged := rfl
@[simp] theorem State.modLog_held (s : State) (k : Nat) (f : Log → Log) : (s.modLog k f).held = s.held := rfl
@[simp] theorem State.modLog_restarting (s : State) (k : Nat) (f : Log → Log) : (s.modLog k f).restarting = s.restarting := rfl
@[simp] theorem State.modLog_l2mode (s : State) (k : Nat) (f : Log → Log) : (s.modLog k f).l2mode = s.l2mode := rfl
@[simp] theorem State.modLog_stagedMode (s : State) (k : Nat) (f : Log → Log) : (s.modLog k f).stagedMode = s.stagedMode := rfl
@[simp] theorem State.modLog_mbox (s : State) (k : Nat) (f : Log → Log) : (s.modLog k f).mbox = s.mbox := rfl
@[simp] theorem State.modLog_restarts (s : State) (k : Nat) (f : Log → Log) : (s.modLog k f).restarts = s.restarts := rfl
@[simp] theorem State.modLog_devnum (s : State) (k : Nat) (f : Log → Log) : (s.modLog k f).devnum = s.devnum := rfl
@[simp] theorem State.modLog_devnumSet (s : State) (k : Nat) (f : Log → Log) : (s.modLog k f).devnumSet = s.devnumSet := rfl
@[simp] theorem State.modLog_fw (s : State) (k : Nat) (f : Log → Log) : (s.modLog k f).fw = s.fw := rfl
@[simp] theorem State.modLog_bootFail (s : State) (k : Nat) (f : Log → Log) : (s.modLog k f).bootFail = s.bootFail := rfl
@[simp] theorem State.modLog_booted (s : State) (k : Nat) (f : Log → Log) : (s.modLog k f).booted = s.booted := rfl
@[simp] theorem State.modLog_fuse (s : State) (k : Nat) (f : Log → Log) : (s.modLog k f).fuse = s.fuse := rfl
@[simp] theorem State.modLog_epwin (s : State) (k : Nat) (f : Log → Log) : (s.modLog k f).epwin = s.epwin := rfl
@[simp] theorem State.modLog_recMbox (s : State) (k : Nat) (f : Log → Log) : (s.modLog k f).recMbox = s.recMbox := rfl
@[simp] theorem State.modLog_recImage (s : State) (k : Nat) (f : Log → Log) : (s.modLog k f).recImage = s.recImage := rfl
@[simp] theorem State.modLog_windows (s : State) (k : Nat) (f : Log → Log) : (s.modLog k f).windows = s.windows := rfl
@[simp] theorem State.modLog_effAuth (s : State) (k : Nat) (f : Log → Log) : (s.modLog k f).effAuth = s.effAuth := rfl
@[simp] theorem State.modLog_effUp (s : State) (k : Nat) (f : Log → Log) : (s.modLog k f).effUp = s.effUp := rfl
@[simp] theorem State.modLog_laneSpare (s : State) (k : Nat) (f : Log → Log) : (s.modLog k f).laneSpare = s.laneSpare := rfl
@[simp] theorem State.modLog_routes (s : State) (k : Nat) (f : Log → Log) : (s.modLog k f).routes = s.routes := rfl
@[simp] theorem State.modLog_services (s : State) (k : Nat) (f : Log → Log) : (s.modLog k f).services = s.services := rfl
@[simp] theorem State.modLog_journal (s : State) (k : Nat) (f : Log → Log) : (s.modLog k f).journal = s.journal := rfl
@[simp] theorem State.modLog_power (s : State) (k : Nat) (f : Log → Log) : (s.modLog k f).power = s.power := rfl
@[simp] theorem State.modLog_telemetry (s : State) (k : Nat) (f : Log → Log) : (s.modLog k f).telemetry = s.telemetry := rfl
@[simp] theorem State.modLog_ceTimes (s : State) (k : Nat) (f : Log → Log) : (s.modLog k f).ceTimes = s.ceTimes := rfl
@[simp] theorem State.modLog_substs (s : State) (k : Nat) (f : Log → Log) : (s.modLog k f).substs = s.substs := rfl
@[simp] theorem State.modLog_worn (s : State) (k : Nat) (f : Log → Log) : (s.modLog k f).worn = s.worn := rfl
@[simp] theorem State.modLog_wornOut (s : State) (k : Nat) (f : Log → Log) : (s.modLog k f).wornOut = s.wornOut := rfl
@[simp] theorem State.modLog_answers (s : State) (k : Nat) (f : Log → Log) : (s.modLog k f).answers = s.answers := rfl
@[simp] theorem State.modLog_harts (s : State) (k : Nat) (f : Log → Log) : (s.modLog k f).harts = s.harts := rfl
@[simp] theorem State.modLog_hartAnswers (s : State) (k : Nat) (f : Log → Log) : (s.modLog k f).hartAnswers = s.hartAnswers := rfl

/-! rawWrite changes mem. -/
@[simp] theorem State.rawWrite_agenda (s : State) (a : Nat) (b : List Byte) : (s.rawWrite a b).agenda = s.agenda := rfl
@[simp] theorem State.rawWrite_focus (s : State) (a : Nat) (b : List Byte) : (s.rawWrite a b).focus = s.focus := rfl
@[simp] theorem State.rawWrite_waiting (s : State) (a : Nat) (b : List Byte) : (s.rawWrite a b).waiting = s.waiting := rfl
@[simp] theorem State.rawWrite_ordered (s : State) (a : Nat) (b : List Byte) : (s.rawWrite a b).ordered = s.ordered := rfl
@[simp] theorem State.rawWrite_free (s : State) (a : Nat) (b : List Byte) : (s.rawWrite a b).free = s.free := rfl
@[simp] theorem State.rawWrite_nextId (s : State) (a : Nat) (b : List Byte) : (s.rawWrite a b).nextId = s.nextId := rfl
@[simp] theorem State.rawWrite_seq (s : State) (a : Nat) (b : List Byte) : (s.rawWrite a b).seq = s.seq := rfl
@[simp] theorem State.rawWrite_cycle (s : State) (a : Nat) (b : List Byte) : (s.rawWrite a b).cycle = s.cycle := rfl
@[simp] theorem State.rawWrite_picked (s : State) (a : Nat) (b : List Byte) : (s.rawWrite a b).picked = s.picked := rfl
@[simp] theorem State.rawWrite_pipes (s : State) (a : Nat) (b : List Byte) : (s.rawWrite a b).pipes = s.pipes := rfl
@[simp] theorem State.rawWrite_clocks (s : State) (a : Nat) (b : List Byte) : (s.rawWrite a b).clocks = s.clocks := rfl
@[simp] theorem State.rawWrite_wgs (s : State) (a : Nat) (b : List Byte) : (s.rawWrite a b).wgs = s.wgs := rfl
@[simp] theorem State.rawWrite_cores (s : State) (a : Nat) (b : List Byte) : (s.rawWrite a b).cores = s.cores := rfl
@[simp] theorem State.rawWrite_poison (s : State) (a : Nat) (b : List Byte) : (s.rawWrite a b).poison = s.poison := rfl
@[simp] theorem State.rawWrite_lines (s : State) (a : Nat) (b : List Byte) : (s.rawWrite a b).lines = s.lines := rfl
@[simp] theorem State.rawWrite_homes (s : State) (a : Nat) (b : List Byte) : (s.rawWrite a b).homes = s.homes := rfl
@[simp] theorem State.rawWrite_msgs (s : State) (a : Nat) (b : List Byte) : (s.rawWrite a b).msgs = s.msgs := rfl
@[simp] theorem State.rawWrite_deadLinks (s : State) (a : Nat) (b : List Byte) : (s.rawWrite a b).deadLinks = s.deadLinks := rfl
@[simp] theorem State.rawWrite_storeQ (s : State) (a : Nat) (b : List Byte) : (s.rawWrite a b).storeQ = s.storeQ := rfl
@[simp] theorem State.rawWrite_contribs (s : State) (a : Nat) (b : List Byte) : (s.rawWrite a b).contribs = s.contribs := rfl
@[simp] theorem State.rawWrite_fabric (s : State) (a : Nat) (b : List Byte) : (s.rawWrite a b).fabric = s.fabric := rfl
@[simp] theorem State.rawWrite_inbound (s : State) (a : Nat) (b : List Byte) : (s.rawWrite a b).inbound = s.inbound := rfl
@[simp] theorem State.rawWrite_peerAnswers (s : State) (a : Nat) (b : List Byte) : (s.rawWrite a b).peerAnswers = s.peerAnswers := rfl
@[simp] theorem State.rawWrite_posted (s : State) (a : Nat) (b : List Byte) : (s.rawWrite a b).posted = s.posted := rfl
@[simp] theorem State.rawWrite_devWrites (s : State) (a : Nat) (b : List Byte) : (s.rawWrite a b).devWrites = s.devWrites := rfl
@[simp] theorem State.rawWrite_devLoads (s : State) (a : Nat) (b : List Byte) : (s.rawWrite a b).devLoads = s.devLoads := rfl
@[simp] theorem State.rawWrite_l1 (s : State) (a : Nat) (b : List Byte) : (s.rawWrite a b).l1 = s.l1 := rfl
@[simp] theorem State.rawWrite_icache (s : State) (a : Nat) (b : List Byte) : (s.rawWrite a b).icache = s.icache := rfl
@[simp] theorem State.rawWrite_icreqs (s : State) (a : Nat) (b : List Byte) : (s.rawWrite a b).icreqs = s.icreqs := rfl
@[simp] theorem State.rawWrite_regions (s : State) (a : Nat) (b : List Byte) : (s.rawWrite a b).regions = s.regions := rfl
@[simp] theorem State.rawWrite_stewards (s : State) (a : Nat) (b : List Byte) : (s.rawWrite a b).stewards = s.stewards := rfl
@[simp] theorem State.rawWrite_masters (s : State) (a : Nat) (b : List Byte) : (s.rawWrite a b).masters = s.masters := rfl
@[simp] theorem State.rawWrite_prismQ (s : State) (a : Nat) (b : List Byte) : (s.rawWrite a b).prismQ = s.prismQ := rfl
@[simp] theorem State.rawWrite_refreshes (s : State) (a : Nat) (b : List Byte) : (s.rawWrite a b).refreshes = s.refreshes := rfl
@[simp] theorem State.rawWrite_views (s : State) (a : Nat) (b : List Byte) : (s.rawWrite a b).views = s.views := rfl
@[simp] theorem State.rawWrite_arbiters (s : State) (a : Nat) (b : List Byte) : (s.rawWrite a b).arbiters = s.arbiters := rfl
@[simp] theorem State.rawWrite_ptRoots (s : State) (a : Nat) (b : List Byte) : (s.rawWrite a b).ptRoots = s.ptRoots := rfl
@[simp] theorem State.rawWrite_pasidTen (s : State) (a : Nat) (b : List Byte) : (s.rawWrite a b).pasidTen = s.pasidTen := rfl
@[simp] theorem State.rawWrite_portVis (s : State) (a : Nat) (b : List Byte) : (s.rawWrite a b).portVis = s.portVis := rfl
@[simp] theorem State.rawWrite_grids (s : State) (a : Nat) (b : List Byte) : (s.rawWrite a b).grids = s.grids := rfl
@[simp] theorem State.rawWrite_nodes (s : State) (a : Nat) (b : List Byte) : (s.rawWrite a b).nodes = s.nodes := rfl
@[simp] theorem State.rawWrite_roots (s : State) (a : Nat) (b : List Byte) : (s.rawWrite a b).roots = s.roots := rfl
@[simp] theorem State.rawWrite_queues (s : State) (a : Nat) (b : List Byte) : (s.rawWrite a b).queues = s.queues := rfl
@[simp] theorem State.rawWrite_dispatchAt (s : State) (a : Nat) (b : List Byte) : (s.rawWrite a b).dispatchAt = s.dispatchAt := rfl
@[simp] theorem State.rawWrite_copies (s : State) (a : Nat) (b : List Byte) : (s.rawWrite a b).copies = s.copies := rfl
@[simp] theorem State.rawWrite_qfe (s : State) (a : Nat) (b : List Byte) : (s.rawWrite a b).qfe = s.qfe := rfl
@[simp] theorem State.rawWrite_qfeVis (s : State) (a : Nat) (b : List Byte) : (s.rawWrite a b).qfeVis = s.qfeVis := rfl
@[simp] theorem State.rawWrite_watchdogs (s : State) (a : Nat) (b : List Byte) : (s.rawWrite a b).watchdogs = s.watchdogs := rfl
@[simp] theorem State.rawWrite_iat (s : State) (a : Nat) (b : List Byte) : (s.rawWrite a b).iat = s.iat := rfl
@[simp] theorem State.rawWrite_proxy (s : State) (a : Nat) (b : List Byte) : (s.rawWrite a b).proxy = s.proxy := rfl
@[simp] theorem State.rawWrite_doorbells (s : State) (a : Nat) (b : List Byte) : (s.rawWrite a b).doorbells = s.doorbells := rfl
@[simp] theorem State.rawWrite_lensRuns (s : State) (a : Nat) (b : List Byte) : (s.rawWrite a b).lensRuns = s.lensRuns := rfl
@[simp] theorem State.rawWrite_evictions (s : State) (a : Nat) (b : List Byte) : (s.rawWrite a b).evictions = s.evictions := rfl
@[simp] theorem State.rawWrite_pcfg (s : State) (a : Nat) (b : List Byte) : (s.rawWrite a b).pcfg = s.pcfg := rfl
@[simp] theorem State.rawWrite_links (s : State) (a : Nat) (b : List Byte) : (s.rawWrite a b).links = s.links := rfl
@[simp] theorem State.rawWrite_bifurc (s : State) (a : Nat) (b : List Byte) : (s.rawWrite a b).bifurc = s.bifurc := rfl
@[simp] theorem State.rawWrite_functions (s : State) (a : Nat) (b : List Byte) : (s.rawWrite a b).functions = s.functions := rfl
@[simp] theorem State.rawWrite_ide (s : State) (a : Nat) (b : List Byte) : (s.rawWrite a b).ide = s.ide := rfl
@[simp] theorem State.rawWrite_coreReqs (s : State) (a : Nat) (b : List Byte) : (s.rawWrite a b).coreReqs = s.coreReqs := rfl
@[simp] theorem State.rawWrite_epReqs (s : State) (a : Nat) (b : List Byte) : (s.rawWrite a b).epReqs = s.epReqs := rfl
@[simp] theorem State.rawWrite_shoot (s : State) (a : Nat) (b : List Byte) : (s.rawWrite a b).shoot = s.shoot := rfl
@[simp] theorem State.rawWrite_mig (s : State) (a : Nat) (b : List Byte) : (s.rawWrite a b).mig = s.mig := rfl
@[simp] theorem State.rawWrite_forwards (s : State) (a : Nat) (b : List Byte) : (s.rawWrite a b).forwards = s.forwards := rfl
@[simp] theorem State.rawWrite_logs (s : State) (a : Nat) (b : List Byte) : (s.rawWrite a b).logs = s.logs := rfl
@[simp] theorem State.rawWrite_irqs (s : State) (a : Nat) (b : List Byte) : (s.rawWrite a b).irqs = s.irqs := rfl
@[simp] theorem State.rawWrite_tens (s : State) (a : Nat) (b : List Byte) : (s.rawWrite a b).tens = s.tens := rfl
@[simp] theorem State.rawWrite_staged (s : State) (a : Nat) (b : List Byte) : (s.rawWrite a b).staged = s.staged := rfl
@[simp] theorem State.rawWrite_held (s : State) (a : Nat) (b : List Byte) : (s.rawWrite a b).held = s.held := rfl
@[simp] theorem State.rawWrite_restarting (s : State) (a : Nat) (b : List Byte) : (s.rawWrite a b).restarting = s.restarting := rfl
@[simp] theorem State.rawWrite_l2mode (s : State) (a : Nat) (b : List Byte) : (s.rawWrite a b).l2mode = s.l2mode := rfl
@[simp] theorem State.rawWrite_stagedMode (s : State) (a : Nat) (b : List Byte) : (s.rawWrite a b).stagedMode = s.stagedMode := rfl
@[simp] theorem State.rawWrite_mbox (s : State) (a : Nat) (b : List Byte) : (s.rawWrite a b).mbox = s.mbox := rfl
@[simp] theorem State.rawWrite_restarts (s : State) (a : Nat) (b : List Byte) : (s.rawWrite a b).restarts = s.restarts := rfl
@[simp] theorem State.rawWrite_devnum (s : State) (a : Nat) (b : List Byte) : (s.rawWrite a b).devnum = s.devnum := rfl
@[simp] theorem State.rawWrite_devnumSet (s : State) (a : Nat) (b : List Byte) : (s.rawWrite a b).devnumSet = s.devnumSet := rfl
@[simp] theorem State.rawWrite_fw (s : State) (a : Nat) (b : List Byte) : (s.rawWrite a b).fw = s.fw := rfl
@[simp] theorem State.rawWrite_bootFail (s : State) (a : Nat) (b : List Byte) : (s.rawWrite a b).bootFail = s.bootFail := rfl
@[simp] theorem State.rawWrite_booted (s : State) (a : Nat) (b : List Byte) : (s.rawWrite a b).booted = s.booted := rfl
@[simp] theorem State.rawWrite_fuse (s : State) (a : Nat) (b : List Byte) : (s.rawWrite a b).fuse = s.fuse := rfl
@[simp] theorem State.rawWrite_epwin (s : State) (a : Nat) (b : List Byte) : (s.rawWrite a b).epwin = s.epwin := rfl
@[simp] theorem State.rawWrite_recMbox (s : State) (a : Nat) (b : List Byte) : (s.rawWrite a b).recMbox = s.recMbox := rfl
@[simp] theorem State.rawWrite_recImage (s : State) (a : Nat) (b : List Byte) : (s.rawWrite a b).recImage = s.recImage := rfl
@[simp] theorem State.rawWrite_windows (s : State) (a : Nat) (b : List Byte) : (s.rawWrite a b).windows = s.windows := rfl
@[simp] theorem State.rawWrite_effAuth (s : State) (a : Nat) (b : List Byte) : (s.rawWrite a b).effAuth = s.effAuth := rfl
@[simp] theorem State.rawWrite_effUp (s : State) (a : Nat) (b : List Byte) : (s.rawWrite a b).effUp = s.effUp := rfl
@[simp] theorem State.rawWrite_laneSpare (s : State) (a : Nat) (b : List Byte) : (s.rawWrite a b).laneSpare = s.laneSpare := rfl
@[simp] theorem State.rawWrite_routes (s : State) (a : Nat) (b : List Byte) : (s.rawWrite a b).routes = s.routes := rfl
@[simp] theorem State.rawWrite_services (s : State) (a : Nat) (b : List Byte) : (s.rawWrite a b).services = s.services := rfl
@[simp] theorem State.rawWrite_journal (s : State) (a : Nat) (b : List Byte) : (s.rawWrite a b).journal = s.journal := rfl
@[simp] theorem State.rawWrite_power (s : State) (a : Nat) (b : List Byte) : (s.rawWrite a b).power = s.power := rfl
@[simp] theorem State.rawWrite_telemetry (s : State) (a : Nat) (b : List Byte) : (s.rawWrite a b).telemetry = s.telemetry := rfl
@[simp] theorem State.rawWrite_ceTimes (s : State) (a : Nat) (b : List Byte) : (s.rawWrite a b).ceTimes = s.ceTimes := rfl
@[simp] theorem State.rawWrite_substs (s : State) (a : Nat) (b : List Byte) : (s.rawWrite a b).substs = s.substs := rfl
@[simp] theorem State.rawWrite_worn (s : State) (a : Nat) (b : List Byte) : (s.rawWrite a b).worn = s.worn := rfl
@[simp] theorem State.rawWrite_wornOut (s : State) (a : Nat) (b : List Byte) : (s.rawWrite a b).wornOut = s.wornOut := rfl
@[simp] theorem State.rawWrite_answers (s : State) (a : Nat) (b : List Byte) : (s.rawWrite a b).answers = s.answers := rfl
@[simp] theorem State.rawWrite_harts (s : State) (a : Nat) (b : List Byte) : (s.rawWrite a b).harts = s.harts := rfl
@[simp] theorem State.rawWrite_hartAnswers (s : State) (a : Nat) (b : List Byte) : (s.rawWrite a b).hartAnswers = s.hartAnswers := rfl

/-! setLine changes lines. -/
@[simp] theorem State.setLine_agenda (s : State) (l : Line) : (s.setLine l).agenda = s.agenda := rfl
@[simp] theorem State.setLine_focus (s : State) (l : Line) : (s.setLine l).focus = s.focus := rfl
@[simp] theorem State.setLine_waiting (s : State) (l : Line) : (s.setLine l).waiting = s.waiting := rfl
@[simp] theorem State.setLine_ordered (s : State) (l : Line) : (s.setLine l).ordered = s.ordered := rfl
@[simp] theorem State.setLine_free (s : State) (l : Line) : (s.setLine l).free = s.free := rfl
@[simp] theorem State.setLine_nextId (s : State) (l : Line) : (s.setLine l).nextId = s.nextId := rfl
@[simp] theorem State.setLine_seq (s : State) (l : Line) : (s.setLine l).seq = s.seq := rfl
@[simp] theorem State.setLine_cycle (s : State) (l : Line) : (s.setLine l).cycle = s.cycle := rfl
@[simp] theorem State.setLine_picked (s : State) (l : Line) : (s.setLine l).picked = s.picked := rfl
@[simp] theorem State.setLine_pipes (s : State) (l : Line) : (s.setLine l).pipes = s.pipes := rfl
@[simp] theorem State.setLine_clocks (s : State) (l : Line) : (s.setLine l).clocks = s.clocks := rfl
@[simp] theorem State.setLine_wgs (s : State) (l : Line) : (s.setLine l).wgs = s.wgs := rfl
@[simp] theorem State.setLine_cores (s : State) (l : Line) : (s.setLine l).cores = s.cores := rfl
@[simp] theorem State.setLine_mem (s : State) (l : Line) : (s.setLine l).mem = s.mem := rfl
@[simp] theorem State.setLine_poison (s : State) (l : Line) : (s.setLine l).poison = s.poison := rfl
@[simp] theorem State.setLine_homes (s : State) (l : Line) : (s.setLine l).homes = s.homes := rfl
@[simp] theorem State.setLine_msgs (s : State) (l : Line) : (s.setLine l).msgs = s.msgs := rfl
@[simp] theorem State.setLine_deadLinks (s : State) (l : Line) : (s.setLine l).deadLinks = s.deadLinks := rfl
@[simp] theorem State.setLine_storeQ (s : State) (l : Line) : (s.setLine l).storeQ = s.storeQ := rfl
@[simp] theorem State.setLine_contribs (s : State) (l : Line) : (s.setLine l).contribs = s.contribs := rfl
@[simp] theorem State.setLine_fabric (s : State) (l : Line) : (s.setLine l).fabric = s.fabric := rfl
@[simp] theorem State.setLine_inbound (s : State) (l : Line) : (s.setLine l).inbound = s.inbound := rfl
@[simp] theorem State.setLine_peerAnswers (s : State) (l : Line) : (s.setLine l).peerAnswers = s.peerAnswers := rfl
@[simp] theorem State.setLine_posted (s : State) (l : Line) : (s.setLine l).posted = s.posted := rfl
@[simp] theorem State.setLine_devWrites (s : State) (l : Line) : (s.setLine l).devWrites = s.devWrites := rfl
@[simp] theorem State.setLine_devLoads (s : State) (l : Line) : (s.setLine l).devLoads = s.devLoads := rfl
@[simp] theorem State.setLine_l1 (s : State) (l : Line) : (s.setLine l).l1 = s.l1 := rfl
@[simp] theorem State.setLine_icache (s : State) (l : Line) : (s.setLine l).icache = s.icache := rfl
@[simp] theorem State.setLine_icreqs (s : State) (l : Line) : (s.setLine l).icreqs = s.icreqs := rfl
@[simp] theorem State.setLine_regions (s : State) (l : Line) : (s.setLine l).regions = s.regions := rfl
@[simp] theorem State.setLine_stewards (s : State) (l : Line) : (s.setLine l).stewards = s.stewards := rfl
@[simp] theorem State.setLine_masters (s : State) (l : Line) : (s.setLine l).masters = s.masters := rfl
@[simp] theorem State.setLine_prismQ (s : State) (l : Line) : (s.setLine l).prismQ = s.prismQ := rfl
@[simp] theorem State.setLine_refreshes (s : State) (l : Line) : (s.setLine l).refreshes = s.refreshes := rfl
@[simp] theorem State.setLine_views (s : State) (l : Line) : (s.setLine l).views = s.views := rfl
@[simp] theorem State.setLine_arbiters (s : State) (l : Line) : (s.setLine l).arbiters = s.arbiters := rfl
@[simp] theorem State.setLine_ptRoots (s : State) (l : Line) : (s.setLine l).ptRoots = s.ptRoots := rfl
@[simp] theorem State.setLine_pasidTen (s : State) (l : Line) : (s.setLine l).pasidTen = s.pasidTen := rfl
@[simp] theorem State.setLine_portVis (s : State) (l : Line) : (s.setLine l).portVis = s.portVis := rfl
@[simp] theorem State.setLine_grids (s : State) (l : Line) : (s.setLine l).grids = s.grids := rfl
@[simp] theorem State.setLine_nodes (s : State) (l : Line) : (s.setLine l).nodes = s.nodes := rfl
@[simp] theorem State.setLine_roots (s : State) (l : Line) : (s.setLine l).roots = s.roots := rfl
@[simp] theorem State.setLine_queues (s : State) (l : Line) : (s.setLine l).queues = s.queues := rfl
@[simp] theorem State.setLine_dispatchAt (s : State) (l : Line) : (s.setLine l).dispatchAt = s.dispatchAt := rfl
@[simp] theorem State.setLine_copies (s : State) (l : Line) : (s.setLine l).copies = s.copies := rfl
@[simp] theorem State.setLine_qfe (s : State) (l : Line) : (s.setLine l).qfe = s.qfe := rfl
@[simp] theorem State.setLine_qfeVis (s : State) (l : Line) : (s.setLine l).qfeVis = s.qfeVis := rfl
@[simp] theorem State.setLine_watchdogs (s : State) (l : Line) : (s.setLine l).watchdogs = s.watchdogs := rfl
@[simp] theorem State.setLine_iat (s : State) (l : Line) : (s.setLine l).iat = s.iat := rfl
@[simp] theorem State.setLine_proxy (s : State) (l : Line) : (s.setLine l).proxy = s.proxy := rfl
@[simp] theorem State.setLine_doorbells (s : State) (l : Line) : (s.setLine l).doorbells = s.doorbells := rfl
@[simp] theorem State.setLine_lensRuns (s : State) (l : Line) : (s.setLine l).lensRuns = s.lensRuns := rfl
@[simp] theorem State.setLine_evictions (s : State) (l : Line) : (s.setLine l).evictions = s.evictions := rfl
@[simp] theorem State.setLine_pcfg (s : State) (l : Line) : (s.setLine l).pcfg = s.pcfg := rfl
@[simp] theorem State.setLine_links (s : State) (l : Line) : (s.setLine l).links = s.links := rfl
@[simp] theorem State.setLine_bifurc (s : State) (l : Line) : (s.setLine l).bifurc = s.bifurc := rfl
@[simp] theorem State.setLine_functions (s : State) (l : Line) : (s.setLine l).functions = s.functions := rfl
@[simp] theorem State.setLine_ide (s : State) (l : Line) : (s.setLine l).ide = s.ide := rfl
@[simp] theorem State.setLine_coreReqs (s : State) (l : Line) : (s.setLine l).coreReqs = s.coreReqs := rfl
@[simp] theorem State.setLine_epReqs (s : State) (l : Line) : (s.setLine l).epReqs = s.epReqs := rfl
@[simp] theorem State.setLine_shoot (s : State) (l : Line) : (s.setLine l).shoot = s.shoot := rfl
@[simp] theorem State.setLine_mig (s : State) (l : Line) : (s.setLine l).mig = s.mig := rfl
@[simp] theorem State.setLine_forwards (s : State) (l : Line) : (s.setLine l).forwards = s.forwards := rfl
@[simp] theorem State.setLine_logs (s : State) (l : Line) : (s.setLine l).logs = s.logs := rfl
@[simp] theorem State.setLine_irqs (s : State) (l : Line) : (s.setLine l).irqs = s.irqs := rfl
@[simp] theorem State.setLine_tens (s : State) (l : Line) : (s.setLine l).tens = s.tens := rfl
@[simp] theorem State.setLine_staged (s : State) (l : Line) : (s.setLine l).staged = s.staged := rfl
@[simp] theorem State.setLine_held (s : State) (l : Line) : (s.setLine l).held = s.held := rfl
@[simp] theorem State.setLine_restarting (s : State) (l : Line) : (s.setLine l).restarting = s.restarting := rfl
@[simp] theorem State.setLine_l2mode (s : State) (l : Line) : (s.setLine l).l2mode = s.l2mode := rfl
@[simp] theorem State.setLine_stagedMode (s : State) (l : Line) : (s.setLine l).stagedMode = s.stagedMode := rfl
@[simp] theorem State.setLine_mbox (s : State) (l : Line) : (s.setLine l).mbox = s.mbox := rfl
@[simp] theorem State.setLine_restarts (s : State) (l : Line) : (s.setLine l).restarts = s.restarts := rfl
@[simp] theorem State.setLine_devnum (s : State) (l : Line) : (s.setLine l).devnum = s.devnum := rfl
@[simp] theorem State.setLine_devnumSet (s : State) (l : Line) : (s.setLine l).devnumSet = s.devnumSet := rfl
@[simp] theorem State.setLine_fw (s : State) (l : Line) : (s.setLine l).fw = s.fw := rfl
@[simp] theorem State.setLine_bootFail (s : State) (l : Line) : (s.setLine l).bootFail = s.bootFail := rfl
@[simp] theorem State.setLine_booted (s : State) (l : Line) : (s.setLine l).booted = s.booted := rfl
@[simp] theorem State.setLine_fuse (s : State) (l : Line) : (s.setLine l).fuse = s.fuse := rfl
@[simp] theorem State.setLine_epwin (s : State) (l : Line) : (s.setLine l).epwin = s.epwin := rfl
@[simp] theorem State.setLine_recMbox (s : State) (l : Line) : (s.setLine l).recMbox = s.recMbox := rfl
@[simp] theorem State.setLine_recImage (s : State) (l : Line) : (s.setLine l).recImage = s.recImage := rfl
@[simp] theorem State.setLine_windows (s : State) (l : Line) : (s.setLine l).windows = s.windows := rfl
@[simp] theorem State.setLine_effAuth (s : State) (l : Line) : (s.setLine l).effAuth = s.effAuth := rfl
@[simp] theorem State.setLine_effUp (s : State) (l : Line) : (s.setLine l).effUp = s.effUp := rfl
@[simp] theorem State.setLine_laneSpare (s : State) (l : Line) : (s.setLine l).laneSpare = s.laneSpare := rfl
@[simp] theorem State.setLine_routes (s : State) (l : Line) : (s.setLine l).routes = s.routes := rfl
@[simp] theorem State.setLine_services (s : State) (l : Line) : (s.setLine l).services = s.services := rfl
@[simp] theorem State.setLine_journal (s : State) (l : Line) : (s.setLine l).journal = s.journal := rfl
@[simp] theorem State.setLine_power (s : State) (l : Line) : (s.setLine l).power = s.power := rfl
@[simp] theorem State.setLine_telemetry (s : State) (l : Line) : (s.setLine l).telemetry = s.telemetry := rfl
@[simp] theorem State.setLine_ceTimes (s : State) (l : Line) : (s.setLine l).ceTimes = s.ceTimes := rfl
@[simp] theorem State.setLine_substs (s : State) (l : Line) : (s.setLine l).substs = s.substs := rfl
@[simp] theorem State.setLine_worn (s : State) (l : Line) : (s.setLine l).worn = s.worn := rfl
@[simp] theorem State.setLine_wornOut (s : State) (l : Line) : (s.setLine l).wornOut = s.wornOut := rfl
@[simp] theorem State.setLine_answers (s : State) (l : Line) : (s.setLine l).answers = s.answers := rfl
@[simp] theorem State.setLine_harts (s : State) (l : Line) : (s.setLine l).harts = s.harts := rfl
@[simp] theorem State.setLine_hartAnswers (s : State) (l : Line) : (s.setLine l).hartAnswers = s.hartAnswers := rfl

/-! dropLine changes lines. -/
@[simp] theorem State.dropLine_agenda (s : State) (a n : Nat) : (s.dropLine a n).agenda = s.agenda := rfl
@[simp] theorem State.dropLine_focus (s : State) (a n : Nat) : (s.dropLine a n).focus = s.focus := rfl
@[simp] theorem State.dropLine_waiting (s : State) (a n : Nat) : (s.dropLine a n).waiting = s.waiting := rfl
@[simp] theorem State.dropLine_ordered (s : State) (a n : Nat) : (s.dropLine a n).ordered = s.ordered := rfl
@[simp] theorem State.dropLine_free (s : State) (a n : Nat) : (s.dropLine a n).free = s.free := rfl
@[simp] theorem State.dropLine_nextId (s : State) (a n : Nat) : (s.dropLine a n).nextId = s.nextId := rfl
@[simp] theorem State.dropLine_seq (s : State) (a n : Nat) : (s.dropLine a n).seq = s.seq := rfl
@[simp] theorem State.dropLine_cycle (s : State) (a n : Nat) : (s.dropLine a n).cycle = s.cycle := rfl
@[simp] theorem State.dropLine_picked (s : State) (a n : Nat) : (s.dropLine a n).picked = s.picked := rfl
@[simp] theorem State.dropLine_pipes (s : State) (a n : Nat) : (s.dropLine a n).pipes = s.pipes := rfl
@[simp] theorem State.dropLine_clocks (s : State) (a n : Nat) : (s.dropLine a n).clocks = s.clocks := rfl
@[simp] theorem State.dropLine_wgs (s : State) (a n : Nat) : (s.dropLine a n).wgs = s.wgs := rfl
@[simp] theorem State.dropLine_cores (s : State) (a n : Nat) : (s.dropLine a n).cores = s.cores := rfl
@[simp] theorem State.dropLine_mem (s : State) (a n : Nat) : (s.dropLine a n).mem = s.mem := rfl
@[simp] theorem State.dropLine_poison (s : State) (a n : Nat) : (s.dropLine a n).poison = s.poison := rfl
@[simp] theorem State.dropLine_homes (s : State) (a n : Nat) : (s.dropLine a n).homes = s.homes := rfl
@[simp] theorem State.dropLine_msgs (s : State) (a n : Nat) : (s.dropLine a n).msgs = s.msgs := rfl
@[simp] theorem State.dropLine_deadLinks (s : State) (a n : Nat) : (s.dropLine a n).deadLinks = s.deadLinks := rfl
@[simp] theorem State.dropLine_storeQ (s : State) (a n : Nat) : (s.dropLine a n).storeQ = s.storeQ := rfl
@[simp] theorem State.dropLine_contribs (s : State) (a n : Nat) : (s.dropLine a n).contribs = s.contribs := rfl
@[simp] theorem State.dropLine_fabric (s : State) (a n : Nat) : (s.dropLine a n).fabric = s.fabric := rfl
@[simp] theorem State.dropLine_inbound (s : State) (a n : Nat) : (s.dropLine a n).inbound = s.inbound := rfl
@[simp] theorem State.dropLine_peerAnswers (s : State) (a n : Nat) : (s.dropLine a n).peerAnswers = s.peerAnswers := rfl
@[simp] theorem State.dropLine_posted (s : State) (a n : Nat) : (s.dropLine a n).posted = s.posted := rfl
@[simp] theorem State.dropLine_devWrites (s : State) (a n : Nat) : (s.dropLine a n).devWrites = s.devWrites := rfl
@[simp] theorem State.dropLine_devLoads (s : State) (a n : Nat) : (s.dropLine a n).devLoads = s.devLoads := rfl
@[simp] theorem State.dropLine_l1 (s : State) (a n : Nat) : (s.dropLine a n).l1 = s.l1 := rfl
@[simp] theorem State.dropLine_icache (s : State) (a n : Nat) : (s.dropLine a n).icache = s.icache := rfl
@[simp] theorem State.dropLine_icreqs (s : State) (a n : Nat) : (s.dropLine a n).icreqs = s.icreqs := rfl
@[simp] theorem State.dropLine_regions (s : State) (a n : Nat) : (s.dropLine a n).regions = s.regions := rfl
@[simp] theorem State.dropLine_stewards (s : State) (a n : Nat) : (s.dropLine a n).stewards = s.stewards := rfl
@[simp] theorem State.dropLine_masters (s : State) (a n : Nat) : (s.dropLine a n).masters = s.masters := rfl
@[simp] theorem State.dropLine_prismQ (s : State) (a n : Nat) : (s.dropLine a n).prismQ = s.prismQ := rfl
@[simp] theorem State.dropLine_refreshes (s : State) (a n : Nat) : (s.dropLine a n).refreshes = s.refreshes := rfl
@[simp] theorem State.dropLine_views (s : State) (a n : Nat) : (s.dropLine a n).views = s.views := rfl
@[simp] theorem State.dropLine_arbiters (s : State) (a n : Nat) : (s.dropLine a n).arbiters = s.arbiters := rfl
@[simp] theorem State.dropLine_ptRoots (s : State) (a n : Nat) : (s.dropLine a n).ptRoots = s.ptRoots := rfl
@[simp] theorem State.dropLine_pasidTen (s : State) (a n : Nat) : (s.dropLine a n).pasidTen = s.pasidTen := rfl
@[simp] theorem State.dropLine_portVis (s : State) (a n : Nat) : (s.dropLine a n).portVis = s.portVis := rfl
@[simp] theorem State.dropLine_grids (s : State) (a n : Nat) : (s.dropLine a n).grids = s.grids := rfl
@[simp] theorem State.dropLine_nodes (s : State) (a n : Nat) : (s.dropLine a n).nodes = s.nodes := rfl
@[simp] theorem State.dropLine_roots (s : State) (a n : Nat) : (s.dropLine a n).roots = s.roots := rfl
@[simp] theorem State.dropLine_queues (s : State) (a n : Nat) : (s.dropLine a n).queues = s.queues := rfl
@[simp] theorem State.dropLine_dispatchAt (s : State) (a n : Nat) : (s.dropLine a n).dispatchAt = s.dispatchAt := rfl
@[simp] theorem State.dropLine_copies (s : State) (a n : Nat) : (s.dropLine a n).copies = s.copies := rfl
@[simp] theorem State.dropLine_qfe (s : State) (a n : Nat) : (s.dropLine a n).qfe = s.qfe := rfl
@[simp] theorem State.dropLine_qfeVis (s : State) (a n : Nat) : (s.dropLine a n).qfeVis = s.qfeVis := rfl
@[simp] theorem State.dropLine_watchdogs (s : State) (a n : Nat) : (s.dropLine a n).watchdogs = s.watchdogs := rfl
@[simp] theorem State.dropLine_iat (s : State) (a n : Nat) : (s.dropLine a n).iat = s.iat := rfl
@[simp] theorem State.dropLine_proxy (s : State) (a n : Nat) : (s.dropLine a n).proxy = s.proxy := rfl
@[simp] theorem State.dropLine_doorbells (s : State) (a n : Nat) : (s.dropLine a n).doorbells = s.doorbells := rfl
@[simp] theorem State.dropLine_lensRuns (s : State) (a n : Nat) : (s.dropLine a n).lensRuns = s.lensRuns := rfl
@[simp] theorem State.dropLine_evictions (s : State) (a n : Nat) : (s.dropLine a n).evictions = s.evictions := rfl
@[simp] theorem State.dropLine_pcfg (s : State) (a n : Nat) : (s.dropLine a n).pcfg = s.pcfg := rfl
@[simp] theorem State.dropLine_links (s : State) (a n : Nat) : (s.dropLine a n).links = s.links := rfl
@[simp] theorem State.dropLine_bifurc (s : State) (a n : Nat) : (s.dropLine a n).bifurc = s.bifurc := rfl
@[simp] theorem State.dropLine_functions (s : State) (a n : Nat) : (s.dropLine a n).functions = s.functions := rfl
@[simp] theorem State.dropLine_ide (s : State) (a n : Nat) : (s.dropLine a n).ide = s.ide := rfl
@[simp] theorem State.dropLine_coreReqs (s : State) (a n : Nat) : (s.dropLine a n).coreReqs = s.coreReqs := rfl
@[simp] theorem State.dropLine_epReqs (s : State) (a n : Nat) : (s.dropLine a n).epReqs = s.epReqs := rfl
@[simp] theorem State.dropLine_shoot (s : State) (a n : Nat) : (s.dropLine a n).shoot = s.shoot := rfl
@[simp] theorem State.dropLine_mig (s : State) (a n : Nat) : (s.dropLine a n).mig = s.mig := rfl
@[simp] theorem State.dropLine_forwards (s : State) (a n : Nat) : (s.dropLine a n).forwards = s.forwards := rfl
@[simp] theorem State.dropLine_logs (s : State) (a n : Nat) : (s.dropLine a n).logs = s.logs := rfl
@[simp] theorem State.dropLine_irqs (s : State) (a n : Nat) : (s.dropLine a n).irqs = s.irqs := rfl
@[simp] theorem State.dropLine_tens (s : State) (a n : Nat) : (s.dropLine a n).tens = s.tens := rfl
@[simp] theorem State.dropLine_staged (s : State) (a n : Nat) : (s.dropLine a n).staged = s.staged := rfl
@[simp] theorem State.dropLine_held (s : State) (a n : Nat) : (s.dropLine a n).held = s.held := rfl
@[simp] theorem State.dropLine_restarting (s : State) (a n : Nat) : (s.dropLine a n).restarting = s.restarting := rfl
@[simp] theorem State.dropLine_l2mode (s : State) (a n : Nat) : (s.dropLine a n).l2mode = s.l2mode := rfl
@[simp] theorem State.dropLine_stagedMode (s : State) (a n : Nat) : (s.dropLine a n).stagedMode = s.stagedMode := rfl
@[simp] theorem State.dropLine_mbox (s : State) (a n : Nat) : (s.dropLine a n).mbox = s.mbox := rfl
@[simp] theorem State.dropLine_restarts (s : State) (a n : Nat) : (s.dropLine a n).restarts = s.restarts := rfl
@[simp] theorem State.dropLine_devnum (s : State) (a n : Nat) : (s.dropLine a n).devnum = s.devnum := rfl
@[simp] theorem State.dropLine_devnumSet (s : State) (a n : Nat) : (s.dropLine a n).devnumSet = s.devnumSet := rfl
@[simp] theorem State.dropLine_fw (s : State) (a n : Nat) : (s.dropLine a n).fw = s.fw := rfl
@[simp] theorem State.dropLine_bootFail (s : State) (a n : Nat) : (s.dropLine a n).bootFail = s.bootFail := rfl
@[simp] theorem State.dropLine_booted (s : State) (a n : Nat) : (s.dropLine a n).booted = s.booted := rfl
@[simp] theorem State.dropLine_fuse (s : State) (a n : Nat) : (s.dropLine a n).fuse = s.fuse := rfl
@[simp] theorem State.dropLine_epwin (s : State) (a n : Nat) : (s.dropLine a n).epwin = s.epwin := rfl
@[simp] theorem State.dropLine_recMbox (s : State) (a n : Nat) : (s.dropLine a n).recMbox = s.recMbox := rfl
@[simp] theorem State.dropLine_recImage (s : State) (a n : Nat) : (s.dropLine a n).recImage = s.recImage := rfl
@[simp] theorem State.dropLine_windows (s : State) (a n : Nat) : (s.dropLine a n).windows = s.windows := rfl
@[simp] theorem State.dropLine_effAuth (s : State) (a n : Nat) : (s.dropLine a n).effAuth = s.effAuth := rfl
@[simp] theorem State.dropLine_effUp (s : State) (a n : Nat) : (s.dropLine a n).effUp = s.effUp := rfl
@[simp] theorem State.dropLine_laneSpare (s : State) (a n : Nat) : (s.dropLine a n).laneSpare = s.laneSpare := rfl
@[simp] theorem State.dropLine_routes (s : State) (a n : Nat) : (s.dropLine a n).routes = s.routes := rfl
@[simp] theorem State.dropLine_services (s : State) (a n : Nat) : (s.dropLine a n).services = s.services := rfl
@[simp] theorem State.dropLine_journal (s : State) (a n : Nat) : (s.dropLine a n).journal = s.journal := rfl
@[simp] theorem State.dropLine_power (s : State) (a n : Nat) : (s.dropLine a n).power = s.power := rfl
@[simp] theorem State.dropLine_telemetry (s : State) (a n : Nat) : (s.dropLine a n).telemetry = s.telemetry := rfl
@[simp] theorem State.dropLine_ceTimes (s : State) (a n : Nat) : (s.dropLine a n).ceTimes = s.ceTimes := rfl
@[simp] theorem State.dropLine_substs (s : State) (a n : Nat) : (s.dropLine a n).substs = s.substs := rfl
@[simp] theorem State.dropLine_worn (s : State) (a n : Nat) : (s.dropLine a n).worn = s.worn := rfl
@[simp] theorem State.dropLine_wornOut (s : State) (a n : Nat) : (s.dropLine a n).wornOut = s.wornOut := rfl
@[simp] theorem State.dropLine_answers (s : State) (a n : Nat) : (s.dropLine a n).answers = s.answers := rfl
@[simp] theorem State.dropLine_harts (s : State) (a n : Nat) : (s.dropLine a n).harts = s.harts := rfl
@[simp] theorem State.dropLine_hartAnswers (s : State) (a n : Nat) : (s.dropLine a n).hartAnswers = s.hartAnswers := rfl

/-! setHome changes homes. -/
@[simp] theorem State.setHome_agenda (s : State) (h : Home) : (s.setHome h).agenda = s.agenda := rfl
@[simp] theorem State.setHome_focus (s : State) (h : Home) : (s.setHome h).focus = s.focus := rfl
@[simp] theorem State.setHome_waiting (s : State) (h : Home) : (s.setHome h).waiting = s.waiting := rfl
@[simp] theorem State.setHome_ordered (s : State) (h : Home) : (s.setHome h).ordered = s.ordered := rfl
@[simp] theorem State.setHome_free (s : State) (h : Home) : (s.setHome h).free = s.free := rfl
@[simp] theorem State.setHome_nextId (s : State) (h : Home) : (s.setHome h).nextId = s.nextId := rfl
@[simp] theorem State.setHome_seq (s : State) (h : Home) : (s.setHome h).seq = s.seq := rfl
@[simp] theorem State.setHome_cycle (s : State) (h : Home) : (s.setHome h).cycle = s.cycle := rfl
@[simp] theorem State.setHome_picked (s : State) (h : Home) : (s.setHome h).picked = s.picked := rfl
@[simp] theorem State.setHome_pipes (s : State) (h : Home) : (s.setHome h).pipes = s.pipes := rfl
@[simp] theorem State.setHome_clocks (s : State) (h : Home) : (s.setHome h).clocks = s.clocks := rfl
@[simp] theorem State.setHome_wgs (s : State) (h : Home) : (s.setHome h).wgs = s.wgs := rfl
@[simp] theorem State.setHome_cores (s : State) (h : Home) : (s.setHome h).cores = s.cores := rfl
@[simp] theorem State.setHome_mem (s : State) (h : Home) : (s.setHome h).mem = s.mem := rfl
@[simp] theorem State.setHome_poison (s : State) (h : Home) : (s.setHome h).poison = s.poison := rfl
@[simp] theorem State.setHome_lines (s : State) (h : Home) : (s.setHome h).lines = s.lines := rfl
@[simp] theorem State.setHome_msgs (s : State) (h : Home) : (s.setHome h).msgs = s.msgs := rfl
@[simp] theorem State.setHome_deadLinks (s : State) (h : Home) : (s.setHome h).deadLinks = s.deadLinks := rfl
@[simp] theorem State.setHome_storeQ (s : State) (h : Home) : (s.setHome h).storeQ = s.storeQ := rfl
@[simp] theorem State.setHome_contribs (s : State) (h : Home) : (s.setHome h).contribs = s.contribs := rfl
@[simp] theorem State.setHome_fabric (s : State) (h : Home) : (s.setHome h).fabric = s.fabric := rfl
@[simp] theorem State.setHome_inbound (s : State) (h : Home) : (s.setHome h).inbound = s.inbound := rfl
@[simp] theorem State.setHome_peerAnswers (s : State) (h : Home) : (s.setHome h).peerAnswers = s.peerAnswers := rfl
@[simp] theorem State.setHome_posted (s : State) (h : Home) : (s.setHome h).posted = s.posted := rfl
@[simp] theorem State.setHome_devWrites (s : State) (h : Home) : (s.setHome h).devWrites = s.devWrites := rfl
@[simp] theorem State.setHome_devLoads (s : State) (h : Home) : (s.setHome h).devLoads = s.devLoads := rfl
@[simp] theorem State.setHome_l1 (s : State) (h : Home) : (s.setHome h).l1 = s.l1 := rfl
@[simp] theorem State.setHome_icache (s : State) (h : Home) : (s.setHome h).icache = s.icache := rfl
@[simp] theorem State.setHome_icreqs (s : State) (h : Home) : (s.setHome h).icreqs = s.icreqs := rfl
@[simp] theorem State.setHome_regions (s : State) (h : Home) : (s.setHome h).regions = s.regions := rfl
@[simp] theorem State.setHome_stewards (s : State) (h : Home) : (s.setHome h).stewards = s.stewards := rfl
@[simp] theorem State.setHome_masters (s : State) (h : Home) : (s.setHome h).masters = s.masters := rfl
@[simp] theorem State.setHome_prismQ (s : State) (h : Home) : (s.setHome h).prismQ = s.prismQ := rfl
@[simp] theorem State.setHome_refreshes (s : State) (h : Home) : (s.setHome h).refreshes = s.refreshes := rfl
@[simp] theorem State.setHome_views (s : State) (h : Home) : (s.setHome h).views = s.views := rfl
@[simp] theorem State.setHome_arbiters (s : State) (h : Home) : (s.setHome h).arbiters = s.arbiters := rfl
@[simp] theorem State.setHome_ptRoots (s : State) (h : Home) : (s.setHome h).ptRoots = s.ptRoots := rfl
@[simp] theorem State.setHome_pasidTen (s : State) (h : Home) : (s.setHome h).pasidTen = s.pasidTen := rfl
@[simp] theorem State.setHome_portVis (s : State) (h : Home) : (s.setHome h).portVis = s.portVis := rfl
@[simp] theorem State.setHome_grids (s : State) (h : Home) : (s.setHome h).grids = s.grids := rfl
@[simp] theorem State.setHome_nodes (s : State) (h : Home) : (s.setHome h).nodes = s.nodes := rfl
@[simp] theorem State.setHome_roots (s : State) (h : Home) : (s.setHome h).roots = s.roots := rfl
@[simp] theorem State.setHome_queues (s : State) (h : Home) : (s.setHome h).queues = s.queues := rfl
@[simp] theorem State.setHome_dispatchAt (s : State) (h : Home) : (s.setHome h).dispatchAt = s.dispatchAt := rfl
@[simp] theorem State.setHome_copies (s : State) (h : Home) : (s.setHome h).copies = s.copies := rfl
@[simp] theorem State.setHome_qfe (s : State) (h : Home) : (s.setHome h).qfe = s.qfe := rfl
@[simp] theorem State.setHome_qfeVis (s : State) (h : Home) : (s.setHome h).qfeVis = s.qfeVis := rfl
@[simp] theorem State.setHome_watchdogs (s : State) (h : Home) : (s.setHome h).watchdogs = s.watchdogs := rfl
@[simp] theorem State.setHome_iat (s : State) (h : Home) : (s.setHome h).iat = s.iat := rfl
@[simp] theorem State.setHome_proxy (s : State) (h : Home) : (s.setHome h).proxy = s.proxy := rfl
@[simp] theorem State.setHome_doorbells (s : State) (h : Home) : (s.setHome h).doorbells = s.doorbells := rfl
@[simp] theorem State.setHome_lensRuns (s : State) (h : Home) : (s.setHome h).lensRuns = s.lensRuns := rfl
@[simp] theorem State.setHome_evictions (s : State) (h : Home) : (s.setHome h).evictions = s.evictions := rfl
@[simp] theorem State.setHome_pcfg (s : State) (h : Home) : (s.setHome h).pcfg = s.pcfg := rfl
@[simp] theorem State.setHome_links (s : State) (h : Home) : (s.setHome h).links = s.links := rfl
@[simp] theorem State.setHome_bifurc (s : State) (h : Home) : (s.setHome h).bifurc = s.bifurc := rfl
@[simp] theorem State.setHome_functions (s : State) (h : Home) : (s.setHome h).functions = s.functions := rfl
@[simp] theorem State.setHome_ide (s : State) (h : Home) : (s.setHome h).ide = s.ide := rfl
@[simp] theorem State.setHome_coreReqs (s : State) (h : Home) : (s.setHome h).coreReqs = s.coreReqs := rfl
@[simp] theorem State.setHome_epReqs (s : State) (h : Home) : (s.setHome h).epReqs = s.epReqs := rfl
@[simp] theorem State.setHome_shoot (s : State) (h : Home) : (s.setHome h).shoot = s.shoot := rfl
@[simp] theorem State.setHome_mig (s : State) (h : Home) : (s.setHome h).mig = s.mig := rfl
@[simp] theorem State.setHome_forwards (s : State) (h : Home) : (s.setHome h).forwards = s.forwards := rfl
@[simp] theorem State.setHome_logs (s : State) (h : Home) : (s.setHome h).logs = s.logs := rfl
@[simp] theorem State.setHome_irqs (s : State) (h : Home) : (s.setHome h).irqs = s.irqs := rfl
@[simp] theorem State.setHome_tens (s : State) (h : Home) : (s.setHome h).tens = s.tens := rfl
@[simp] theorem State.setHome_staged (s : State) (h : Home) : (s.setHome h).staged = s.staged := rfl
@[simp] theorem State.setHome_held (s : State) (h : Home) : (s.setHome h).held = s.held := rfl
@[simp] theorem State.setHome_restarting (s : State) (h : Home) : (s.setHome h).restarting = s.restarting := rfl
@[simp] theorem State.setHome_l2mode (s : State) (h : Home) : (s.setHome h).l2mode = s.l2mode := rfl
@[simp] theorem State.setHome_stagedMode (s : State) (h : Home) : (s.setHome h).stagedMode = s.stagedMode := rfl
@[simp] theorem State.setHome_mbox (s : State) (h : Home) : (s.setHome h).mbox = s.mbox := rfl
@[simp] theorem State.setHome_restarts (s : State) (h : Home) : (s.setHome h).restarts = s.restarts := rfl
@[simp] theorem State.setHome_devnum (s : State) (h : Home) : (s.setHome h).devnum = s.devnum := rfl
@[simp] theorem State.setHome_devnumSet (s : State) (h : Home) : (s.setHome h).devnumSet = s.devnumSet := rfl
@[simp] theorem State.setHome_fw (s : State) (h : Home) : (s.setHome h).fw = s.fw := rfl
@[simp] theorem State.setHome_bootFail (s : State) (h : Home) : (s.setHome h).bootFail = s.bootFail := rfl
@[simp] theorem State.setHome_booted (s : State) (h : Home) : (s.setHome h).booted = s.booted := rfl
@[simp] theorem State.setHome_fuse (s : State) (h : Home) : (s.setHome h).fuse = s.fuse := rfl
@[simp] theorem State.setHome_epwin (s : State) (h : Home) : (s.setHome h).epwin = s.epwin := rfl
@[simp] theorem State.setHome_recMbox (s : State) (h : Home) : (s.setHome h).recMbox = s.recMbox := rfl
@[simp] theorem State.setHome_recImage (s : State) (h : Home) : (s.setHome h).recImage = s.recImage := rfl
@[simp] theorem State.setHome_windows (s : State) (h : Home) : (s.setHome h).windows = s.windows := rfl
@[simp] theorem State.setHome_effAuth (s : State) (h : Home) : (s.setHome h).effAuth = s.effAuth := rfl
@[simp] theorem State.setHome_effUp (s : State) (h : Home) : (s.setHome h).effUp = s.effUp := rfl
@[simp] theorem State.setHome_laneSpare (s : State) (h : Home) : (s.setHome h).laneSpare = s.laneSpare := rfl
@[simp] theorem State.setHome_routes (s : State) (h : Home) : (s.setHome h).routes = s.routes := rfl
@[simp] theorem State.setHome_services (s : State) (h : Home) : (s.setHome h).services = s.services := rfl
@[simp] theorem State.setHome_journal (s : State) (h : Home) : (s.setHome h).journal = s.journal := rfl
@[simp] theorem State.setHome_power (s : State) (h : Home) : (s.setHome h).power = s.power := rfl
@[simp] theorem State.setHome_telemetry (s : State) (h : Home) : (s.setHome h).telemetry = s.telemetry := rfl
@[simp] theorem State.setHome_ceTimes (s : State) (h : Home) : (s.setHome h).ceTimes = s.ceTimes := rfl
@[simp] theorem State.setHome_substs (s : State) (h : Home) : (s.setHome h).substs = s.substs := rfl
@[simp] theorem State.setHome_worn (s : State) (h : Home) : (s.setHome h).worn = s.worn := rfl
@[simp] theorem State.setHome_wornOut (s : State) (h : Home) : (s.setHome h).wornOut = s.wornOut := rfl
@[simp] theorem State.setHome_answers (s : State) (h : Home) : (s.setHome h).answers = s.answers := rfl
@[simp] theorem State.setHome_harts (s : State) (h : Home) : (s.setHome h).harts = s.harts := rfl
@[simp] theorem State.setHome_hartAnswers (s : State) (h : Home) : (s.setHome h).hartAnswers = s.hartAnswers := rfl

/-! post changes msgs. -/
@[simp] theorem State.post_agenda (s : State) (m : Msg) : (s.post m).agenda = s.agenda := rfl
@[simp] theorem State.post_focus (s : State) (m : Msg) : (s.post m).focus = s.focus := rfl
@[simp] theorem State.post_waiting (s : State) (m : Msg) : (s.post m).waiting = s.waiting := rfl
@[simp] theorem State.post_ordered (s : State) (m : Msg) : (s.post m).ordered = s.ordered := rfl
@[simp] theorem State.post_free (s : State) (m : Msg) : (s.post m).free = s.free := rfl
@[simp] theorem State.post_nextId (s : State) (m : Msg) : (s.post m).nextId = s.nextId := rfl
@[simp] theorem State.post_seq (s : State) (m : Msg) : (s.post m).seq = s.seq := rfl
@[simp] theorem State.post_cycle (s : State) (m : Msg) : (s.post m).cycle = s.cycle := rfl
@[simp] theorem State.post_picked (s : State) (m : Msg) : (s.post m).picked = s.picked := rfl
@[simp] theorem State.post_pipes (s : State) (m : Msg) : (s.post m).pipes = s.pipes := rfl
@[simp] theorem State.post_clocks (s : State) (m : Msg) : (s.post m).clocks = s.clocks := rfl
@[simp] theorem State.post_wgs (s : State) (m : Msg) : (s.post m).wgs = s.wgs := rfl
@[simp] theorem State.post_cores (s : State) (m : Msg) : (s.post m).cores = s.cores := rfl
@[simp] theorem State.post_mem (s : State) (m : Msg) : (s.post m).mem = s.mem := rfl
@[simp] theorem State.post_poison (s : State) (m : Msg) : (s.post m).poison = s.poison := rfl
@[simp] theorem State.post_lines (s : State) (m : Msg) : (s.post m).lines = s.lines := rfl
@[simp] theorem State.post_homes (s : State) (m : Msg) : (s.post m).homes = s.homes := rfl
@[simp] theorem State.post_deadLinks (s : State) (m : Msg) : (s.post m).deadLinks = s.deadLinks := rfl
@[simp] theorem State.post_storeQ (s : State) (m : Msg) : (s.post m).storeQ = s.storeQ := rfl
@[simp] theorem State.post_contribs (s : State) (m : Msg) : (s.post m).contribs = s.contribs := rfl
@[simp] theorem State.post_fabric (s : State) (m : Msg) : (s.post m).fabric = s.fabric := rfl
@[simp] theorem State.post_inbound (s : State) (m : Msg) : (s.post m).inbound = s.inbound := rfl
@[simp] theorem State.post_peerAnswers (s : State) (m : Msg) : (s.post m).peerAnswers = s.peerAnswers := rfl
@[simp] theorem State.post_posted (s : State) (m : Msg) : (s.post m).posted = s.posted := rfl
@[simp] theorem State.post_devWrites (s : State) (m : Msg) : (s.post m).devWrites = s.devWrites := rfl
@[simp] theorem State.post_devLoads (s : State) (m : Msg) : (s.post m).devLoads = s.devLoads := rfl
@[simp] theorem State.post_l1 (s : State) (m : Msg) : (s.post m).l1 = s.l1 := rfl
@[simp] theorem State.post_icache (s : State) (m : Msg) : (s.post m).icache = s.icache := rfl
@[simp] theorem State.post_icreqs (s : State) (m : Msg) : (s.post m).icreqs = s.icreqs := rfl
@[simp] theorem State.post_regions (s : State) (m : Msg) : (s.post m).regions = s.regions := rfl
@[simp] theorem State.post_stewards (s : State) (m : Msg) : (s.post m).stewards = s.stewards := rfl
@[simp] theorem State.post_masters (s : State) (m : Msg) : (s.post m).masters = s.masters := rfl
@[simp] theorem State.post_prismQ (s : State) (m : Msg) : (s.post m).prismQ = s.prismQ := rfl
@[simp] theorem State.post_refreshes (s : State) (m : Msg) : (s.post m).refreshes = s.refreshes := rfl
@[simp] theorem State.post_views (s : State) (m : Msg) : (s.post m).views = s.views := rfl
@[simp] theorem State.post_arbiters (s : State) (m : Msg) : (s.post m).arbiters = s.arbiters := rfl
@[simp] theorem State.post_ptRoots (s : State) (m : Msg) : (s.post m).ptRoots = s.ptRoots := rfl
@[simp] theorem State.post_pasidTen (s : State) (m : Msg) : (s.post m).pasidTen = s.pasidTen := rfl
@[simp] theorem State.post_portVis (s : State) (m : Msg) : (s.post m).portVis = s.portVis := rfl
@[simp] theorem State.post_grids (s : State) (m : Msg) : (s.post m).grids = s.grids := rfl
@[simp] theorem State.post_nodes (s : State) (m : Msg) : (s.post m).nodes = s.nodes := rfl
@[simp] theorem State.post_roots (s : State) (m : Msg) : (s.post m).roots = s.roots := rfl
@[simp] theorem State.post_queues (s : State) (m : Msg) : (s.post m).queues = s.queues := rfl
@[simp] theorem State.post_dispatchAt (s : State) (m : Msg) : (s.post m).dispatchAt = s.dispatchAt := rfl
@[simp] theorem State.post_copies (s : State) (m : Msg) : (s.post m).copies = s.copies := rfl
@[simp] theorem State.post_qfe (s : State) (m : Msg) : (s.post m).qfe = s.qfe := rfl
@[simp] theorem State.post_qfeVis (s : State) (m : Msg) : (s.post m).qfeVis = s.qfeVis := rfl
@[simp] theorem State.post_watchdogs (s : State) (m : Msg) : (s.post m).watchdogs = s.watchdogs := rfl
@[simp] theorem State.post_iat (s : State) (m : Msg) : (s.post m).iat = s.iat := rfl
@[simp] theorem State.post_proxy (s : State) (m : Msg) : (s.post m).proxy = s.proxy := rfl
@[simp] theorem State.post_doorbells (s : State) (m : Msg) : (s.post m).doorbells = s.doorbells := rfl
@[simp] theorem State.post_lensRuns (s : State) (m : Msg) : (s.post m).lensRuns = s.lensRuns := rfl
@[simp] theorem State.post_evictions (s : State) (m : Msg) : (s.post m).evictions = s.evictions := rfl
@[simp] theorem State.post_pcfg (s : State) (m : Msg) : (s.post m).pcfg = s.pcfg := rfl
@[simp] theorem State.post_links (s : State) (m : Msg) : (s.post m).links = s.links := rfl
@[simp] theorem State.post_bifurc (s : State) (m : Msg) : (s.post m).bifurc = s.bifurc := rfl
@[simp] theorem State.post_functions (s : State) (m : Msg) : (s.post m).functions = s.functions := rfl
@[simp] theorem State.post_ide (s : State) (m : Msg) : (s.post m).ide = s.ide := rfl
@[simp] theorem State.post_coreReqs (s : State) (m : Msg) : (s.post m).coreReqs = s.coreReqs := rfl
@[simp] theorem State.post_epReqs (s : State) (m : Msg) : (s.post m).epReqs = s.epReqs := rfl
@[simp] theorem State.post_shoot (s : State) (m : Msg) : (s.post m).shoot = s.shoot := rfl
@[simp] theorem State.post_mig (s : State) (m : Msg) : (s.post m).mig = s.mig := rfl
@[simp] theorem State.post_forwards (s : State) (m : Msg) : (s.post m).forwards = s.forwards := rfl
@[simp] theorem State.post_logs (s : State) (m : Msg) : (s.post m).logs = s.logs := rfl
@[simp] theorem State.post_irqs (s : State) (m : Msg) : (s.post m).irqs = s.irqs := rfl
@[simp] theorem State.post_tens (s : State) (m : Msg) : (s.post m).tens = s.tens := rfl
@[simp] theorem State.post_staged (s : State) (m : Msg) : (s.post m).staged = s.staged := rfl
@[simp] theorem State.post_held (s : State) (m : Msg) : (s.post m).held = s.held := rfl
@[simp] theorem State.post_restarting (s : State) (m : Msg) : (s.post m).restarting = s.restarting := rfl
@[simp] theorem State.post_l2mode (s : State) (m : Msg) : (s.post m).l2mode = s.l2mode := rfl
@[simp] theorem State.post_stagedMode (s : State) (m : Msg) : (s.post m).stagedMode = s.stagedMode := rfl
@[simp] theorem State.post_mbox (s : State) (m : Msg) : (s.post m).mbox = s.mbox := rfl
@[simp] theorem State.post_restarts (s : State) (m : Msg) : (s.post m).restarts = s.restarts := rfl
@[simp] theorem State.post_devnum (s : State) (m : Msg) : (s.post m).devnum = s.devnum := rfl
@[simp] theorem State.post_devnumSet (s : State) (m : Msg) : (s.post m).devnumSet = s.devnumSet := rfl
@[simp] theorem State.post_fw (s : State) (m : Msg) : (s.post m).fw = s.fw := rfl
@[simp] theorem State.post_bootFail (s : State) (m : Msg) : (s.post m).bootFail = s.bootFail := rfl
@[simp] theorem State.post_booted (s : State) (m : Msg) : (s.post m).booted = s.booted := rfl
@[simp] theorem State.post_fuse (s : State) (m : Msg) : (s.post m).fuse = s.fuse := rfl
@[simp] theorem State.post_epwin (s : State) (m : Msg) : (s.post m).epwin = s.epwin := rfl
@[simp] theorem State.post_recMbox (s : State) (m : Msg) : (s.post m).recMbox = s.recMbox := rfl
@[simp] theorem State.post_recImage (s : State) (m : Msg) : (s.post m).recImage = s.recImage := rfl
@[simp] theorem State.post_windows (s : State) (m : Msg) : (s.post m).windows = s.windows := rfl
@[simp] theorem State.post_effAuth (s : State) (m : Msg) : (s.post m).effAuth = s.effAuth := rfl
@[simp] theorem State.post_effUp (s : State) (m : Msg) : (s.post m).effUp = s.effUp := rfl
@[simp] theorem State.post_laneSpare (s : State) (m : Msg) : (s.post m).laneSpare = s.laneSpare := rfl
@[simp] theorem State.post_routes (s : State) (m : Msg) : (s.post m).routes = s.routes := rfl
@[simp] theorem State.post_services (s : State) (m : Msg) : (s.post m).services = s.services := rfl
@[simp] theorem State.post_journal (s : State) (m : Msg) : (s.post m).journal = s.journal := rfl
@[simp] theorem State.post_power (s : State) (m : Msg) : (s.post m).power = s.power := rfl
@[simp] theorem State.post_telemetry (s : State) (m : Msg) : (s.post m).telemetry = s.telemetry := rfl
@[simp] theorem State.post_ceTimes (s : State) (m : Msg) : (s.post m).ceTimes = s.ceTimes := rfl
@[simp] theorem State.post_substs (s : State) (m : Msg) : (s.post m).substs = s.substs := rfl
@[simp] theorem State.post_worn (s : State) (m : Msg) : (s.post m).worn = s.worn := rfl
@[simp] theorem State.post_wornOut (s : State) (m : Msg) : (s.post m).wornOut = s.wornOut := rfl
@[simp] theorem State.post_answers (s : State) (m : Msg) : (s.post m).answers = s.answers := rfl
@[simp] theorem State.post_harts (s : State) (m : Msg) : (s.post m).harts = s.harts := rfl
@[simp] theorem State.post_hartAnswers (s : State) (m : Msg) : (s.post m).hartAnswers = s.hartAnswers := rfl

end Sys2Proof.Machine
end

