-- ==== Sys2Proof/Tests/Slice0.lean ====
section
/-! SUPPORT. The model's own tests: decoded words, ill-formed terms, single steps, and for each statement a state and operands that meet its
hypotheses. -/
namespace Sys2Proof.Tests
set_option Elab.async false
open Sys2Proof.Machine Sys2Proof.Claims

/-! ### Words and states of the tests -/

def v (n : Nat) : Opnd := .reg .v 0 (BitVec.ofNat 8 n)
def o (n : Nat) : Opnd := .reg .o 0 (BitVec.ofNat 8 n)
def sr (n : Nat) : Opnd := .reg .s 0 (BitVec.ofNat 8 n)
def ch (n : Nat) : Opnd := .chan false (BitVec.ofNat 4 n)
/-- Common fields: MOD, U, PRD. -/
def cm (m : Nat) (u : Bool) (p : Nat) : Common := { mod := BitVec.ofNat 4 m, j := false, u := u, pneg := false, prd := BitVec.ofNat 3 p }
def fl (c : Common) (d a b x : Opnd) (ty : BitVec 4) (ty2 : BitVec 4 := 0) (fn : BitVec 12 := 0) : FormL := { com := c, d := d, a := a, b := b, c := x, fn := fn, ty2 := ty2, ty := ty }
def fi (c : Common) (d a : Opnd) (ty : BitVec 4) (imm : BitVec 34) : FormI := { com := c, d := d, a := a, ty := ty, imm := imm }
def fm (c : Common) (d a b : Opnd) (sz : BitVec 3) (off : BitVec 20 := 0) (ord : BitVec 2 := 0) (scope : BitVec 3 := 0) : FormM :=
  { com := c, d := d, a := a, b := b, nt := false, io := false, scope := scope, ord := ord, sph := 0, sgn := false, sz := sz, off := off }
def fk (c : Common) (d a b : Opnd) (kind : BitVec 2) (off : W32) : FormK := { com := c, d := d, a := a, b := b, kind := kind, off := off }
def fe (c : Common) (d a b x : Opnd) (eimm : BitVec 15) (rel acq : Bool := false) (scope : BitVec 3 := 0) : FormE :=
  { com := c, d := d, a := a, b := b, c := x, eimm := eimm, rel := rel, acq := acq, scope := scope }

def sp0 : Split := { wi := 0, mask := BitVec.allOnes 32, mAt := some 0, iss := true }
/-- A group with one split on core 0. -/
def gp (sp : Split) : Group := { grpid := 0, core := 0, sub := 0, slot := 0, created := BitVec.allOnes 32, helper := 0, started := true, table := [some sp, none, none, none, none, none, none, none] }
def wgOf (g : Group) : Workgroup := { bootWg with groups := [g] }
/-- A workgroup whose first group is presented by its first split. -/
def shown (s : State) (w : Workgroup) (gr : Grid) : State := { s with wgs := [w], grids := [gr], focus := some { wg := 0, grp := 0, pos := 0 } }
def ctxOf (w : Workgroup) (g : Group) (sp : Split) (gr : Grid) : Ctx := { foc := { wg := 0, grp := 0, pos := 0 }, wg := w, g := g, sp := sp, gr := gr }

/-- A legal instruction without J issues in such a state. -/
theorem issues_shown {s : State} {w : Workgroup} {g : Group} {sp : Split} {gr : Grid} {i : Instr} {c : Common} (hk : w.key = 0) (hg : w.groups[0]? = some g)
    (hs : g.table[0]? = some (some sp)) (hr : w.grid = gr.id) (hp : sp.phase = .ready) (hi : i.illegal { v := gr.k.vregs, s := gr.k.sregs } = none)
    (hj : c.j = false) (hq : g.rpoison = []) : Issues i c (shown s w gr) (shown s w gr) (ctxOf w g sp gr) := by
  have hl : ({ wg := 0, grp := 0, pos := 0 } : Focus).lookup (shown s w gr) = some (ctxOf w g sp gr) := by
    simp [Focus.lookup, State.wg?, State.grid?, shown, hk, hg, hs, hr, ctxOf]
  exact ⟨ctxOf w g sp gr, hl, hp, hi, by simp [merged, hj], hl, hq⟩

theorem iss {s : State} {w : Workgroup} {g : Group} {sp : Split} {gr : Grid} {i : Instr} {c : Common} (hk : w.key = 0) (hg : w.groups[0]? = some g)
    (hs : g.table[0]? = some (some sp)) (hr : w.grid = gr.id) (hp : sp.phase = .ready) (hi : i.illegal { v := gr.k.vregs, s := gr.k.sregs } = none)
    (hj : c.j = false) (hq : g.rpoison = []) : Issues i c (shown s w gr) (shown s w gr) (ctxOf w g sp gr) := issues_shown hk hg hs hr hp hi hj hq
/-- All of p1 and every condition are set. -/
def gOn (sp : Split) : Group := { gp sp with preds := [(1, BitVec.allOnes 32)], conds := 0xFF }
/-- Each half of Computes has a state: in one no lane executes, in the other some do and their sources are there. -/
def Meets (i : Instr) (c : Common) (srcs : List Src) : Prop :=
  (∃ s t y, Issues i c s t y ∧ Off c y) ∧
  ∃ s t y ws offs, Issues i c s t y ∧ ¬ Off c y ∧ (c.u = false → y.takeWords t (takers c y).length srcs [] [] = .ok (ws, offs))
def legal (i : Instr) : Bool := i.illegal Alloc.max == none
def readable (i : Instr) (c : Common) (srcs : List Src) : Bool := legal i && !c.j && c.prd == 1 && !c.pneg && srcs.all (fun q => (chanOf? q.opnd).isNone)

theorem meets {i : Instr} {c : Common} {srcs : List Src} (h : readable i c srcs = true) : Meets i c srcs := by
  simp only [readable, Bool.and_eq_true, Bool.not_eq_true', beq_iff_eq, List.all_eq_true, Option.isNone_iff_eq_none, legal] at h
  obtain ⟨⟨⟨⟨hl, hj⟩, hp⟩, hn⟩, hs⟩ := h
  refine ⟨⟨_, _, _, issues_shown (s := State.reset) (w := wgOf (gp sp0)) (gr := bootGrid) rfl rfl rfl rfl rfl hl hj rfl, ?_⟩,
    _, _, _, _, _, issues_shown (s := State.reset) (w := wgOf (gOn sp0)) (gr := bootGrid) rfl rfl rfl rfl rfl hl hj rfl, ?_, fun _ => takeWords_regs hs [] []⟩
  · unfold Off
    simp only [Ctx.gwOn, Ctx.active, hp, hn]
    cases c.u <;> decide
  · unfold Off
    simp only [Ctx.gwOn, Ctx.active, hp, hn]
    cases c.u <;> decide

/-- Instructions with their common fields and sources. -/
def readableAll (l : List (Instr × Common × List Src)) : Bool := l.all (fun e => readable e.1 e.2.1 e.2.2)
theorem meets_all {l : List (Instr × Common × List Src)} (h : readableAll l = true) : ∀ e ∈ l, Meets e.1 e.2.1 e.2.2 :=
  fun e he => meets (List.all_eq_true.mp h e he)

/-- A two-source word of tier v, and the group-wide form of it in tier s. -/
def lw (ty : BitVec 4) (m : Nat := 0) (x : Opnd := v 0) (ty2 : BitVec 4 := 0) (fn : BitVec 12 := 0) : FormL := fl (cm m false 1) (v 4) (v 6) (v 8) x ty ty2 fn
def ls (ty : BitVec 4) (m : Nat := 0) (x : Opnd := v 0) : FormL := fl (cm m true 1) (sr 4) (sr 6) (sr 8) x ty
def iw (ty : BitVec 4) (imm : BitVec 34) (m : Nat := 0) : FormI := fi (cm m false 1) (v 4) (v 6) ty imm
def isw (ty : BitVec 4) (imm : BitVec 34) (m : Nat := 0) : FormI := fi (cm m true 1) (sr 4) (sr 6) ty imm
/-- The entries of a list of words of one shape. -/
def rowsL (f : FormL → Instr) (srcs : FormL → List Src) (ws : List FormL) : List (Instr × Common × List Src) := ws.map (fun w => (f w, w.com, srcs w))
def rowsI (f : FormI → Instr) (ws : List FormI) : List (Instr × Common × List Src) := ws.map (fun w => (f w, w.com, [srcOf w.a w.ty]))
def ab (w : FormL) : List Src := [srcOf w.a w.ty, srcOf w.b w.ty]
def a1 (w : FormL) : List Src := [srcOf w.a w.ty]
def a2 (w : FormL) : List Src := [srcOf w.a w.ty, src32Of w.b]

/-! ### Integer and bitwise words -/

theorem witness_IntegerArithmetic : ∀ e ∈
    rowsL .iadd ab [lw tyI8, lw tyI64 8, ls tyN32, ls tyI64 8] ++ rowsI .iaddImm [iw tyI32 0x3FFFFFFFF, isw tyN64 5] ++ rowsL .isub ab [lw tyN16, ls tyI32 8] ++
    rowsI .isubImm [iw tyI64 1, isw tyI32 7] ++ rowsL .imul ab [lw tyI32, lw tyN64, ls tyI64] ++ rowsI .imulImm [iw tyN32 3, isw tyI32 3] ++ rowsL .imulh ab [lw tyI32, ls tyN64] ++
    rowsL .imad (fun w => ab w ++ [srcOf w.c w.ty]) [lw tyI32 0 (v 10), lw tyI64 0 (v 10), ls tyI32 0 (sr 10)] ++ rowsL .imin ab [lw tyI8, ls tyN64] ++ rowsL .imax ab [lw tyN8, ls tyI64] ++
    rowsL .iabs a1 [fl (cm 0 false 1) (v 4) (v 6) (v 0) (v 0) tyI32, fl (cm 8 true 1) (sr 4) (sr 6) (v 0) (v 0) tyI64] ++ rowsL .ineg a1 [fl (cm 0 false 1) (v 4) (v 6) (v 0) (v 0) tyI64, fl (cm 0 true 1) (sr 4) (sr 6) (v 0) (v 0) tyI32],
    Meets e.1 e.2.1 e.2.2 := meets_all (by decide +kernel)

theorem witness_IntegerDivision : ∀ e ∈ rowsL .idiv ab [lw tyI32, lw tyN64, ls tyI64] ++ rowsL .irem ab [lw tyI64, lw tyN32, ls tyN64], Meets e.1 e.2.1 e.2.2 := meets_all (by decide +kernel)

theorem witness_BitwiseLogic : ∀ e ∈
    rowsL .mov a1 [fl (cm 0 false 1) (v 4) (v 6) (v 0) (v 0) tyB32, fl (cm 0 true 1) (sr 4) (sr 6) (v 0) (v 0) tyB64] ++ rowsL .and ab [lw tyB32, ls tyB64] ++ rowsI .andImm [iw tyB64 1, isw tyB32 1] ++
    rowsL .or ab [lw tyB64, ls tyB32] ++ rowsI .orImm [iw tyB32 1, isw tyB64 1] ++ rowsL .xor ab [lw tyB64, ls tyB32] ++ rowsI .xorImm [iw tyB32 1, isw tyB64 1] ++ rowsL .andn ab [lw tyB64, ls tyB32] ++
    rowsL .not a1 [fl (cm 0 false 1) (v 4) (v 6) (v 0) (v 0) tyB32, fl (cm 0 true 1) (sr 4) (sr 6) (v 0) (v 0) tyB64], Meets e.1 e.2.1 e.2.2 := meets_all (by decide +kernel)

theorem witness_Shifts : ∀ e ∈
    rowsL .shl a2 [lw tyB32, ls tyB64] ++ rowsI .shlImm [iw tyB32 32, isw tyB64 64] ++ rowsL .shr a2 [lw tyB32, ls tyB64] ++ rowsI .shrImm [iw tyB32 31, isw tyB64 63] ++
    rowsL .sar a2 [lw tyB32, ls tyB64] ++ rowsI .sarImm [iw tyB32 0, isw tyB64 1] ++ rowsL .rotl a2 [lw tyB32, ls tyB64] ++ rowsI .rotlImm [iw tyB32 33, isw tyB64 65], Meets e.1 e.2.1 e.2.2 := meets_all (by decide +kernel)

theorem witness_BitCountsAndFields : ∀ e ∈ ([Instr.popc, .clz, .ctz, .brev].flatMap (fun f => rowsL f a1 [fl (cm 0 false 1) (v 4) (v 6) (v 0) (v 0) tyB32, fl (cm 0 true 1) (sr 4) (sr 6) (v 0) (v 0) tyB64])) ++
    rowsL .bfx a2 [lw tyI32, ls tyN64] ++ rowsL .bfi (fun w => ab w ++ [src32Of w.c]) [lw tyB32 0 (v 10), ls tyB64 0 (sr 10)], Meets e.1 e.2.1 e.2.2 := meets_all (by decide +kernel)

/-- An instruction issues in a state in which no lane executes and no condition holds, and in one in which all do. -/
def Shows (i : Instr) (c : Common) : Prop :=
  (∃ s t y, Issues i c s t y ∧ y.gwOn c = false ∧ y.active c = 0 ∧ y.real c = 0 ∧ y.othersInFlight = false) ∧
  ∃ s t y, Issues i c s t y ∧ y.gwOn c = true ∧ y.active c = BitVec.allOnes 32 ∧ y.real c = BitVec.allOnes 32 ∧ Splittable y ∧ y.g.rpoison = [] ∧ y.othersInFlight = false
theorem shows_all {l : List (Instr × Common)} (h : l.all (fun e => readable e.1 e.2 []) = true) : ∀ e ∈ l, Shows e.1 e.2 := by
  intro e he
  have h := List.all_eq_true.mp h e he
  simp only [readable, Bool.and_eq_true, Bool.not_eq_true', beq_iff_eq, legal] at h
  obtain ⟨⟨⟨⟨hl, hj⟩, hp⟩, hn⟩, _⟩ := h
  refine ⟨⟨_, _, _, issues_shown (s := State.reset) (w := wgOf (gp sp0)) (gr := bootGrid) rfl rfl rfl rfl rfl hl hj rfl, ?_⟩,
    _, _, _, issues_shown (s := State.reset) (w := wgOf (gOn sp0)) (gr := bootGrid) rfl rfl rfl rfl rfl hl hj rfl, ?_⟩
  · simp only [Ctx.gwOn, Ctx.active, Ctx.real, hp, hn]; decide
  · simp only [Ctx.gwOn, Ctx.active, Ctx.real, Splittable, hp, hn]; decide
/-- An instruction issues while another split of its group has one in flight. -/
def ShowsBehind (i : Instr) (c : Common) : Prop := ∃ s t y, Issues i c s t y ∧ y.real c ≠ 0 ∧ y.othersInFlight = true
theorem behind_all {l : List (Instr × Common)} (h : l.all (fun e => readable e.1 e.2 []) = true) : ∀ e ∈ l, ShowsBehind e.1 e.2 := by
  intro e he
  have h := List.all_eq_true.mp h e he
  simp only [readable, Bool.and_eq_true, Bool.not_eq_true', beq_iff_eq, legal] at h
  obtain ⟨⟨⟨⟨hl, hj⟩, hp⟩, hn⟩, _⟩ := h
  refine ⟨_, _, _, issues_shown (s := State.reset) (w := wgOf { gOn sp0 with spill := [{ sp0 with inFlight := true }] }) (gr := bootGrid) rfl rfl rfl rfl rfl hl hj rfl, ?_⟩
  simp only [Ctx.real, Ctx.active, hp, hn]; decide
/-- The same for words of one form. -/
def rowsOf {α : Type} (f : α → Instr) (c : α → Common) (ws : List α) : List (Instr × Common) := ws.map (fun w => (f w, c w))

theorem witness_ImmediatesAndSpecialRegisters : ∀ e ∈
    [fi (cm 0 false 1) (v 4) (v 0) tyI32 0x3FFFFFFFF, fi (cm 0 true 1) (sr 4) (v 0) tyF64 0x0FF800001, fi (cm 0 false 1) (v 4) (v 0) tyN64 0x200000000, fi (cm 0 false 1) (o 2) (v 0) tyF16 0xFFFF, fi (cm 0 false 1) (ch 3) (v 0) tyI8 0xFF].map (fun w => (Instr.movi w, w.com, [])) ++
    (List.range 0x15).map (fun n => (Instr.movs (fl (cm 0 false 1) (v 4) (v n) (v 0) (v 0) 0), cm 0 false 1, [])),
    Meets e.1 e.2.1 e.2.2 := meets_all (by decide +kernel)

theorem witness_SpecialRegistersSet : ∀ e ∈ rowsOf Instr.sset (·.com) ((List.range 4).map (fun n => fl (cm 0 false 1) (v (0x0E + n)) (v 6) (v 0) (v 0) 0)), Shows e.1 e.2 := shows_all (by decide +kernel)

theorem witness_LaneValueToGroup : ∀ e ∈ rowsOf Instr.movg (·.com) [fl (cm 0 false 1) (sr 4) (v 6) (v 0) (v 0) tyB32, fl (cm 1 false 1) (sr 4) (v 6) (sr 9) (v 0) tyB64], Shows e.1 e.2 := shows_all (by decide +kernel)
theorem witness_LaneValueToGroup_held : ∀ e ∈ rowsOf Instr.movg (·.com) [fl (cm 0 false 1) (sr 4) (v 6) (v 0) (v 0) tyB32], ShowsBehind e.1 e.2 := behind_all (by decide +kernel)

theorem witness_IntegerComparesAndTables : ∀ e ∈ rowsOf Instr.icmp (·.com) ((List.range 6).map (fun n => fl (cm n false 1) (v n) (v 6) (v 8) (v 0) tyI64) ++ [fl (cm 5 true 1) (v 7) (sr 6) (sr 8) (v 0) tyN8]) ++
    rowsOf Instr.icmpImm (·.com) [fi (cm 2 false 1) (v 0) (v 6) tyI8 0x7F, fi (cm 2 true 1) (v 7) (sr 6) tyN64 1] ++ rowsOf Instr.plog (·.com) [fl (cm 0 false 1) (v 2) (v 1) (v 0) (v 7) 0 0 0x96, fl (cm 0 true 1) (v 0) (v 1) (v 2) (v 7) 0 0 0xFF], Shows e.1 e.2 := shows_all (by decide +kernel)

theorem witness_SelectionAndAddresses : ∀ e ∈ rowsL .sel ab [lw tyB32 0 (v 7), ls tyB64 0 (v 7)] ++
    [lw 0 0xF (v 0) 0 0x7FF, lw 0 0x3 (v 0) 0 0x400].map (fun w => (Instr.lea w, w.com, [src64Of w.a, src32Of w.b])) ++ [(Instr.lea (fl (cm 0 true 1) (sr 4) (sr 6) (v 0) (v 0) 0 0 0x800), cm 0 true 1, [src64Of (sr 6)])],
    Meets e.1 e.2.1 e.2.2 := meets_all (by decide +kernel)

/-- ptag of a private, a scratchpad and a global pointer. -/
theorem witness_SelectionAndAddresses_ptag : ∀ p ∈ [2 ^ 60 + 15, 2 * 2 ^ 60 + 1020, 4096], ∃ w s t y, Issues (.ptag w) w.com s t y ∧ (∀ l ∈ lanesOf (y.real w.com), y.tagFault (whole y l w.a true) = none) ∧ y.active w.com ≠ 0 ∧ whole y 31 w.a true = p := by
  intro p hp
  refine ⟨fl (cm 0 false 0) (v 4) (v 6) (v 0) (v 0) 0, _, _, _, issues_shown (s := State.reset) (w := wgOf { gp sp0 with regs := (List.range 32).flatMap (fun l => [(regKey l .v 6, BitVec.ofNat 32 p), (regKey l .v 7, BitVec.ofNat 32 (p / 2 ^ 32))]) }) (gr := bootGrid) rfl rfl rfl rfl rfl ?_ rfl rfl, ?_⟩
  · decide +kernel
  · revert p; decide +kernel

theorem witness_LanesExchange : ∀ e ∈ rowsOf Instr.qxch (·.com) ((List.range 8).map (fun m => fl (cm m false 1) (v 4) (v 6) (v 0) (v 0) tyB64)) ++ rowsOf Instr.shfl (·.com) ((List.range 4).map (fun m => fl (cm m false 1) (v 4) (v 6) (v 9) (v 0) tyB32)), Shows e.1 e.2 := shows_all (by decide +kernel)
theorem witness_LanesExchange_held : ∀ e ∈ rowsOf Instr.qxch (·.com) [fl (cm 7 false 1) (v 4) (v 6) (v 0) (v 0) tyB64] ++ rowsOf Instr.shfl (·.com) [fl (cm 3 false 1) (v 4) (v 6) (v 9) (v 0) tyB32], ShowsBehind e.1 e.2 := behind_all (by decide +kernel)

theorem witness_LanesVote : ∀ e ∈ rowsOf Instr.vote (·.com) [fl (cm 0 false 1) (v 3) (v 2) (v 0) (v 0) 0, fl (cm 1 false 1) (v 3) (v 2) (v 0) (v 0) 0, fl (cm 5 false 1) (v 3) (v 2) (v 0) (v 0) 0, fl (cm 2 false 1) (v 40) (v 2) (v 0) (v 0) 0, fl (cm 2 false 1) (sr 40) (v 2) (v 0) (v 0) 0], Shows e.1 e.2 := shows_all (by decide +kernel)

theorem witness_LanesScanAndReduce : ∀ e ∈ rowsOf Instr.scan (·.com) ([0, 1, 2, 8, 10].map (fun m => fl (cm m false 1) (v 4) (v 6) (v 0) (v 0) tyI32) ++ [3, 4, 5, 13].map (fun m => fl (cm m false 1) (v 4) (v 6) (v 0) (v 0) tyB64)) ++
    rowsOf Instr.gred (·.com) [fl (cm 0 false 1) (sr 4) (v 6) (v 0) (v 0) tyN64, fl (cm 5 false 1) (v 4) (v 6) (v 0) (v 0) tyB32], Shows e.1 e.2 := shows_all (by decide +kernel)

/-! ### Floating point -/

def fabc (w : FormL) : List Src := ab w ++ [srcOf w.c w.ty]
def tys4 : List (BitVec 4) := [tyF16, tyBF16, tyF32, tyF64]

theorem witness_RoundingIsCorrect : ∃ f ∈ [fp16, bf16, fp32, fp64], ∃ rm < 4, ∃ num den : Nat, num ≠ 0 ∧ den ≠ 0 ∧ f.roundRat rm false true num den = (0x8001, fNX ||| fUF) ∧ (rm, num, den) = (2, 1, 2 ^ 30) :=
  ⟨fp16, by simp, 2, by omega, 1, 2 ^ 30, by omega, by decide, by decide +kernel, rfl⟩

theorem witness_FloatSumsAndProducts : ∀ e ∈ ([Instr.fadd, .fsub, .fmul].flatMap (fun f => rowsL f ab (tys4.map (fun t => lw t 0xD) ++ [ls tyF64 3]))) ++ rowsL .ffma fabc (tys4.map (fun t => lw t 6 (v 10)) ++ [ls tyF32 0 (sr 10)]) ++
    rowsI .faddImm [iw tyF16 0xFFFF, isw tyF64 0x07F800000 8] ++ rowsI .fmulImm [iw tyBF16 0x8000, isw tyF32 0x0FFFFFFFF 4], Meets e.1 e.2.1 e.2.2 := meets_all (by decide +kernel)

theorem witness_FloatOrderAndClass : ∀ e ∈ ([Instr.fmin, .fmax].flatMap (fun f => rowsL f ab (tys4.map (fun t => lw t 4) ++ [ls tyF64]))) ++ rowsL .fclass a1 (tys4.map (fun t => fl (cm 0 false 1) (v 4) (v 6) (v 0) (v 0) t) ++ [fl (cm 0 true 1) (sr 4) (sr 6) (v 0) (v 0) tyF64]), Meets e.1 e.2.1 e.2.2 := meets_all (by decide +kernel)
theorem witness_FloatOrderAndClass_fcmp : ∀ e ∈ rowsOf Instr.fcmp (·.com) ((List.range 8).map (fun n => fl (cm 4 false 1) (v n) (v 6) (v 8) (v 0) tyF64 0 (BitVec.ofNat 12 n)) ++ [fl (cm 0 true 1) (v 1) (sr 6) (sr 8) (v 0) tyF16]), Shows e.1 e.2 := shows_all (by decide +kernel)

theorem witness_FloatDivisionRootsAndIntegrals : ∀ e ∈ rowsL .fdiv ab (tys4.map (fun t => lw t 0xF) ++ [ls tyF64]) ++ ([Instr.fsqrt, .frnd].flatMap (fun f => rowsL f a1 (tys4.map (fun t => fl (cm 7 false 1) (v 4) (v 6) (v 0) (v 0) t) ++ [fl (cm 0 true 1) (sr 4) (sr 6) (v 0) (v 0) tyF64]))), Meets e.1 e.2.1 e.2.2 := meets_all (by decide +kernel)

theorem witness_FunctionsFixedResults : ∀ e ∈ ([Instr.frcp, .frsq].flatMap (fun f => rowsL f a1 [fl (cm 4 false 1) (v 4) (v 6) (v 0) (v 0) tyF32, fl (cm 0 false 1) (v 4) (v 6) (v 0) (v 0) tyF64])) ++
    ([Instr.fexp2, .flog2, .ftanh, .fsin, .fcos].flatMap (fun f => rowsL f a1 ([tyF16, tyBF16, tyF32].map (fun t => fl (cm 4 false 1) (v 4) (v 6) (v 0) (v 0) t)))), Meets e.1 e.2.1 e.2.2 := meets_all (by decide +kernel)

theorem witness_ScalingTurnsAndConversions : ∀ e ∈ rowsL .fldx (fun w => [srcOf w.a w.ty, srcOf w.b tyI32]) (tys4.map (fun t => lw t 0xF)) ++ rowsL .frred (fun w => [srcOf w.a w.ty2]) ([tyF32, tyF64].map (fun t => fl (cm 4 false 1) (v 4) (v 6) (v 0) (v 0) tyF32 t)) ++
    rowsL .cvt (fun w => [srcOf w.a w.ty2]) ([(tyI8, tyF64), (tyF16, tyN64), (tyN32, tyI16), (tyF64, tyBF16)].map (fun t => fl (cm 0 false 1) (v 4) (v 6) (v 0) (v 0) t.1 t.2)), Meets e.1 e.2.1 e.2.2 := meets_all (by decide +kernel)

theorem witness_MarkerBlocksAndPacking : ∀ e ∈ rowsL .cvtx (fun w => [src32Of w.a, src32Of w.b]) (tys4.map (fun t => fl (cm 0 false 1) (v 4) (v 6) (v 8) (v 0) t tyM4)) ++ rowsL .funpk (fun w => [src32Of w.a]) ([tyF16, tyBF16, tyM8, tyM4].map (fun t => fl (cm 0 false 1) (v 4) (v 6) (v 0) (v 0) t)), Meets e.1 e.2.1 e.2.2 := meets_all (by decide +kernel)
theorem witness_MarkerBlocksAndPacking_lanes : ∀ e ∈ rowsOf Instr.cvtm (·.com) [fl (cm 0 false 1) (v 4) (v 6) (v 0) (sr 2) tyM8 tyF32, fl (cm 4 false 1) (v 4) (v 6) (v 0) (sr 255) tyM4 tyF64 255] ++ rowsOf Instr.fpack (·.com) ([tyF16, tyM4].map (fun t => fl (cm 0 false 1) (v 4) (v 6) (v 0) (v 0) t)), Shows e.1 e.2 := shows_all (by decide +kernel)
theorem witness_MarkerBlocksAndPacking_held : ∀ e ∈ rowsOf Instr.fpack (·.com) [fl (cm 0 false 1) (v 4) (v 6) (v 0) (v 0) tyM4], ShowsBehind e.1 e.2 := behind_all (by decide +kernel)

/-- Memory whose page tables map, in address space 0, page 0 for fetching, page 1 to HBM for reading and writing, page 2 to CXL, page 3 to a
device and page 4 to HBM for fetching and writing. -/
def withPages (s : State) : State :=
  (((((bootTables { s with ptRoots := [(0, 0x1000)] }).rawWrite 0x5008 (leBytes 8 (2 ^ 63 + 2 ^ 61 + 2 ^ 60 + 0x201000 + 0x700))).rawWrite 0x5010 (leBytes 8 (2 ^ 63 + 2 ^ 61 + 2 ^ 60 + 2 ^ 40 + 0x700))).rawWrite 0x5018
    (leBytes 8 (2 ^ 63 + 2 ^ 61 + 2 ^ 60 + 2 ^ 51 + 0x740))).rawWrite 0x5020 (leBytes 8 (2 ^ 63 + 2 ^ 62 + 2 ^ 61 + 0x204000 + 0x700))).modRegion 1 (fun r => { r with compute := true })
def ms : State := withPages State.reset
/-- One lane with a pointer in v6 and a 64-bit datum in v8. -/
def gPtr (p : Nat) (d : Nat := 0) : Group :=
  { gp { sp0 with mask := 1 } with regs := [(regKey 0 .v 6, BitVec.ofNat 32 p), (regKey 0 .v 7, BitVec.ofNat 32 (p / 2 ^ 32)), (regKey 0 .v 8, BitVec.ofNat 32 d), (regKey 0 .v 9, BitVec.ofNat 32 (d / 2 ^ 32))] }
def okRes : LaneRes → Option Res | .ok r => some r | _ => none
theorem okRes_some {x : LaneRes} {r : Res} (h : okRes x = some r) : x = .ok r := by cases x <;> simp_all [okRes]
theorem pass1 {y : Ctx} {t : State} {u : PtrUse} {k : Need} {ps : List (Nat × Nat)} {l p : Nat} {r : Res} (e : ps = [(l, p)]) (h : okRes (y.laneCheck t u k l p) = some r) :
    LanesPass y t u k ps [{ lane := l, ptr := p, res := r }] := by
  subst e
  exact ⟨rfl, fun q hq => by simp only [List.mem_singleton] at hq; subst hq; exact okRes_some h⟩
def badRes : LaneRes → Option (Nat × Nat × Nat) | .bad c b v _ => some (c, b, v) | _ => none
theorem badRes_some {x : LaneRes} {c b v : Nat} (h : badRes x = some (c, b, v)) : ∃ t, x = .bad c b v t := by
  cases x <;> simp_all [badRes]
def okPtr : Except (Nat × Nat) PtrRes → Option PtrRes | .ok r => some r | _ => none
theorem okPtr_some {x : Except (Nat × Nat) PtrRes} {r : PtrRes} (h : okPtr x = some r) : x = .ok r := by cases x <;> simp_all [okPtr]
/-- The last four bytes of a scratchpad of 4,096. -/
def spTop : Nat := 2 * 2 ^ 60 + 4092
def bigGrid : Grid := { bootGrid with k := { bootKernel with scratch := 4096 } }
theorem hints_ok {y : Ctx} {u : PtrUse} {ps : List (Nat × Nat)} (h : ps.all (fun e => (okPtr (y.checkPtr u e.2)).isSome) = true) :
    ∀ e ∈ ps, ∀ b, y.checkPtr u e.2 ≠ .error (0x06, b) := fun e he b hb => by
  have := List.all_eq_true.mp h e he
  rw [hb] at this; cases this
theorem some_get {α : Type} {x : Option α} {d : α} (h : x.isSome = true) : x = some (x.getD d) := by cases x <;> simp_all


theorem and4 {a b c d r : Prop} (h : a ∧ b ∧ c ∧ d) (k : r) : a ∧ b ∧ c ∧ d ∧ r := ⟨h.1, h.2.1, h.2.2.1, h.2.2.2, k⟩
/-! ### Control flow, traps and waits -/

theorem witness_BranchesAndCalls_0 : ∃ (w : _) (s : State) (t : _) (y : Ctx), Issues (.bra w) w.com s t y :=
  ⟨fk (cm 0 false 0) (v 0) (v 0) (v 0) 1 4, _, _, _, iss (s := State.reset) (w := wgOf (gp sp0)) (gr := bootGrid) rfl rfl rfl rfl rfl (by decide +kernel) rfl rfl⟩

theorem witness_BranchesAndCalls_1 : ∃ (w : _) (s : State) (t : _) (y : Ctx), Issues (.brc w) w.com s t y :=
  ⟨fk (cm 0 true 1) (v 0) (v 0) (v 0) 2 4, _, _, _, iss (s := State.reset) (w := wgOf (gp sp0)) (gr := bootGrid) rfl rfl rfl rfl rfl (by decide +kernel) rfl rfl⟩

theorem witness_BranchesAndCalls_2 : ∃ (w : _) (s : State) (t : _) (y : Ctx), Issues (.brp w) w.com s t y ∧ Splittable y :=
  ⟨fk (cm 0 false 1) (v 0) (v 0) (v 0) 0 0xFFFFFFFF, _, _, _, iss (s := State.reset) (w := wgOf (gOn sp0)) (gr := bootGrid) rfl rfl rfl rfl rfl (by decide +kernel) rfl rfl, ⟨rfl, by decide⟩⟩

theorem witness_BranchesAndCalls_3 : ∃ (w : _) (s : State) (t : _) (y : Ctx), Issues (.jmp w) w.com s t y ∧ Splittable y :=
  ⟨fk (cm 0 false 1) (v 0) (v 6) (v 0) 0 4, _, _, _, iss (s := State.reset) (w := wgOf (gOn sp0)) (gr := bootGrid) rfl rfl rfl rfl rfl (by decide +kernel) rfl rfl, ⟨rfl, by decide⟩⟩

theorem witness_BranchesAndCalls_4 : ∃ (w : _) (s : State) (t : _) (y : Ctx), Issues (.call w) w.com s t y ∧ Splittable y ∧ y.sp.depth ≠ 0xFFFF :=
  ⟨fk (cm 0 false 1) (v 253) (v 0) (v 0) 0 4, _, _, _, iss (s := State.reset) (w := wgOf (gOn { sp0 with depth := 0xFFFE })) (gr := bootGrid) rfl rfl rfl rfl rfl (by decide +kernel) rfl rfl, ⟨rfl, by decide⟩, by decide⟩

theorem witness_BranchesAndCalls_5 : ∃ (w : _) (s : State) (t : _) (y : Ctx), Issues (.calli w) w.com s t y ∧ Splittable y ∧ y.sp.depth ≠ 0xFFFF :=
  ⟨fl (cm 0 false 1) (v 253) (v 6) (v 0) (v 0) 0 0 0, _, _, _, iss (s := State.reset) (w := wgOf (gOn sp0)) (gr := bootGrid) rfl rfl rfl rfl rfl (by decide +kernel) rfl rfl, ⟨rfl, by decide⟩, by decide⟩

theorem witness_BranchesAndCalls_6 : ∃ (w : _) (s : State) (t : _) (y : Ctx), Issues (.ret w) w.com s t y ∧ Splittable y ∧ y.sp.depth ≠ 0 :=
  ⟨fl (cm 0 false 1) (v 0) (v 253) (v 0) (v 0) 0 0 0, _, _, _, iss (s := State.reset) (w := wgOf (gOn { sp0 with depth := 1 })) (gr := bootGrid) rfl rfl rfl rfl rfl (by decide +kernel) rfl rfl, ⟨rfl, by decide⟩, by decide⟩

theorem witness_BranchesAndCalls_7 : ∃ (w : _) (s : State) (t : _) (y : Ctx), Issues (.loop w) w.com s t y ∧ Splittable y :=
  ⟨fk (cm 0 false 1) (v 0) (v 6) (v 0) 0 0xFFFFFFFE, _, _, _, iss (s := State.reset) (w := wgOf (gOn sp0)) (gr := bootGrid) rfl rfl rfl rfl rfl (by decide +kernel) rfl rfl, ⟨rfl, by decide⟩⟩

theorem witness_BranchesAndCalls_8 : ∃ (w : _) (s : State) (t : _) (y : Ctx), Issues (.call w) w.com s t y ∧ y.sp.depth = 0xFFFF ∧ y.real w.com ≠ 0 :=
  ⟨fk (cm 0 false 1) (v 253) (v 0) (v 0) 0 4, _, _, _, iss (s := State.reset) (w := wgOf (gOn { sp0 with depth := 0xFFFF })) (gr := bootGrid) rfl rfl rfl rfl rfl (by decide +kernel) rfl rfl, rfl, by decide⟩

theorem witness_BranchesAndCalls_9 : ∃ (w : _) (s : State) (t : _) (y : Ctx), Issues (.calli w) w.com s t y ∧ y.sp.depth = 0xFFFF ∧ y.real w.com ≠ 0 :=
  ⟨fl (cm 0 false 1) (v 253) (v 6) (v 0) (v 0) 0 0 0, _, _, _, iss (s := State.reset) (w := wgOf (gOn { sp0 with depth := 0xFFFF })) (gr := bootGrid) rfl rfl rfl rfl rfl (by decide +kernel) rfl rfl, rfl, by decide⟩

theorem witness_BranchesAndCalls_10 : ∃ (w : _) (s : State) (t : _) (y : Ctx), Issues (.ret w) w.com s t y ∧ y.sp.depth = 0 ∧ y.real w.com ≠ 0 :=
  ⟨fl (cm 0 false 1) (v 0) (v 253) (v 0) (v 0) 0 0 0, _, _, _, iss (s := State.reset) (w := wgOf (gOn sp0)) (gr := bootGrid) rfl rfl rfl rfl rfl (by decide +kernel) rfl rfl, rfl, by decide⟩

theorem witness_ExitAndWaits_0 : ∃ (w : _) (s : State) (t : _) (y : Ctx), Issues (.nop w) w.com s t y :=
  ⟨fl (cm 0 false 0) (v 0) (v 0) (v 0) (v 0) 0 0 0, _, _, _, iss (s := State.reset) (w := wgOf (gp sp0)) (gr := bootGrid) rfl rfl rfl rfl rfl (by decide +kernel) rfl rfl⟩

theorem witness_ExitAndWaits_1 : ∃ (w : _) (s : State) (t : _) (y : Ctx), Issues (.yield w) w.com s t y :=
  ⟨fl (cm 0 false 0) (v 0) (v 0) (v 0) (v 0) 0 0 0, _, _, _, iss (s := State.reset) (w := wgOf (gp sp0)) (gr := bootGrid) rfl rfl rfl rfl rfl (by decide +kernel) rfl rfl⟩

theorem witness_ExitAndWaits_4 : ∃ (w : _) (s : State) (t : _) (y : Ctx), Issues (.ssync w) w.com s t y :=
  ⟨fl (cm 0 false 0) (v 0) (v 0) (v 0) (v 0) 0 0 0, _, _, _, iss (s := State.reset) (w := wgOf (gp sp0)) (gr := bootGrid) rfl rfl rfl rfl rfl (by decide +kernel) rfl rfl⟩

theorem witness_ExitAndWaits_2 : ∃ (w : _) (s : State) (t : _) (y : Ctx), Issues (.sleep w) w.com s t y ∧ y.active w.com = 0 :=
  ⟨fl (cm 0 false 1) (v 0) (v 6) (v 0) (v 0) 0 0 0, _, _, _, iss (s := State.reset) (w := wgOf (gp sp0)) (gr := bootGrid) rfl rfl rfl rfl rfl (by decide +kernel) rfl rfl, by decide⟩

theorem witness_ExitAndWaits_3 : ∃ (w : _) (s : State) (t : _) (y : Ctx), Issues (.sleep w) w.com s t y ∧ y.active w.com ≠ 0 :=
  ⟨fl (cm 0 false 1) (v 0) (v 6) (v 0) (v 0) 0 0 0, _, _, _, iss (s := State.reset) (w := wgOf (gOn sp0)) (gr := bootGrid) rfl rfl rfl rfl rfl (by decide +kernel) rfl rfl, by decide⟩

theorem witness_ExitAndWaits_5 : ∃ (g : Group) (p : Nat) (f : Split), g.table.length = 8 ∧ g.table[p]? = some (some f) ∧ (∀ q < p, g.table.getD q none = none) ∧ (∀ sp ∈ splits g, atSsync f.wi f.depth sp) :=
  ⟨{ gp { sp0 with phase := .waiting, why := .ssync } with spill := [{ sp0 with phase := .waiting, why := .ssync }] }, 0, { sp0 with phase := .waiting, why := .ssync }, rfl, rfl, by decide, fun sp h => by simp only [splits, gp, List.filterMap, id, List.mem_append, List.mem_cons, List.not_mem_nil, or_false] at h; rcases h with rfl | rfl <;> exact ⟨rfl, rfl, rfl, rfl⟩⟩

theorem witness_ExitAndWaits_6 : ∃ (g : Group), (∀ wi dep, ∃ sp ∈ splits g, ¬ atSsync wi dep sp) :=
  ⟨gp sp0, fun _ _ => ⟨sp0, by simp [splits, gp], by simp [atSsync, sp0]⟩⟩

theorem witness_ExitAndWaits_7 : ∃ (w : _) (s : State) (t : _) (y : Ctx), Issues (.exit w) w.com s t y ∧ y.active w.com = 0 :=
  ⟨fl (cm 0 false 1) (v 0) (v 0) (v 0) (v 0) 0 0 0, _, _, _, iss (s := State.reset) (w := wgOf (gp sp0)) (gr := bootGrid) rfl rfl rfl rfl rfl (by decide +kernel) rfl rfl, by decide⟩

theorem witness_ExitAndWaits_8 : ∃ (w : _) (s : State) (t : _) (y : Ctx), Issues (.exit w) w.com s t y ∧ y.active w.com ≠ 0 :=
  ⟨fl (cm 0 false 1) (v 0) (v 0) (v 0) (v 0) 0 0 0, _, _, _, iss (s := State.reset) (w := wgOf (gOn sp0)) (gr := bootGrid) rfl rfl rfl rfl rfl (by decide +kernel) rfl rfl, by decide⟩

theorem witness_LeaseClockRead_0 : ∃ (w : _) (s : State) (t : _) (y : Ctx), Issues (.getlt w) w.com s t y ∧ Off w.com y :=
  ⟨fl (cm 0 false 1) (v 4) (v 0) (v 0) (v 0) 0 0 0, _, _, _, iss (s := State.reset) (w := wgOf (gp sp0)) (gr := bootGrid) rfl rfl rfl rfl rfl (by decide +kernel) rfl rfl, by unfold Off; decide⟩

theorem witness_LeaseClockRead_1 : ∃ (w : _) (s : State) (t : _) (y : Ctx), Issues (.getlt w) w.com s t y ∧ ¬ Off w.com y ∧ y.sp.pend ≠ [] :=
  ⟨fl (cm 1 false 1) (v 4) (v 0) (v 0) (v 0) 0 0 0, _, _, _, iss (s := State.reset) (w := wgOf (gOn { sp0 with pend := [7] })) (gr := bootGrid) rfl rfl rfl rfl rfl (by decide +kernel) rfl rfl, by unfold Off; decide, by decide⟩

theorem witness_LeaseClockRead_2 : ∃ (w : _) (s : State) (t : _) (y : Ctx), Issues (.getlt w) w.com s t y ∧ ¬ Off w.com y ∧ y.sp.pend = [] :=
  ⟨fl (cm 0 true 1) (sr 4) (v 0) (v 0) (v 0) 0 0 0, _, _, _, iss (s := State.reset) (w := wgOf (gOn sp0)) (gr := bootGrid) rfl rfl rfl rfl rfl (by decide +kernel) rfl rfl, by unfold Off; decide, rfl⟩

theorem witness_TrapsAndTheirEntry_0 : ∃ (i : Instr) (s : State) (x : Ctx) (sub : Nat), s.ctx? = some x ∧ x.sp.phase = .ready ∧ i.illegal x.alloc = some sub :=
  ⟨.iadd (fl (cm 0 false 0) (v 5) (v 1) (v 2) (v 9) tyI32 0 0), shown State.reset (wgOf (gp sp0)) bootGrid, (ctxOf (wgOf (gp sp0)) (gp sp0) sp0 bootGrid), 2, rfl, rfl, by decide +kernel⟩

theorem witness_TrapsAndTheirEntry_1 : ∃ (i : Instr) (s : State) (x : Ctx) (sub : Nat) (b : _), b ∈ i.subs x.alloc ∧ s.ctx? = some x ∧ x.sp.phase = .ready ∧ i.illegal x.alloc = some sub :=
  ⟨.iadd (fl (cm 0 false 0) (v 5) (v 1) (v 2) (v 9) tyI32 0 0), shown State.reset (wgOf (gp sp0)) bootGrid, (ctxOf (wgOf (gp sp0)) (gp sp0) sp0 bootGrid), 2, 2, by decide +kernel, rfl, rfl, by decide +kernel⟩

theorem witness_TrapsAndTheirEntry_3 : ∃ (w : _) (s : State) (t : _) (y : Ctx), Issues (.trap w) w.com s t y :=
  ⟨fl (cm 0 false 1) (v 0) (v 0) (v 0) (v 0) 0 0 0x2C1, _, _, _, iss (s := State.reset) (w := wgOf (gOn sp0)) (gr := bootGrid) rfl rfl rfl rfl rfl (by decide +kernel) rfl rfl⟩

theorem witness_TrapsAndTheirEntry_4 : ∃ (w : _) (s : State) (t : _) (y : Ctx), Issues (.brk w) w.com s t y :=
  ⟨fl (cm 0 false 1) (v 0) (v 0) (v 0) (v 0) 0 0 3, _, _, _, iss (s := State.reset) (w := wgOf (gp sp0)) (gr := bootGrid) rfl rfl rfl rfl rfl (by decide +kernel) rfl rfl⟩

theorem witness_TrapsAndTheirEntry_5 : ∃ (x : Ctx), x.sp.mask &&& ~~~x.g.helper = 0 :=
  ⟨(ctxOf (wgOf ({ gp sp0 with helper := BitVec.allOnes 32 })) ({ gp sp0 with helper := BitVec.allOnes 32 }) sp0 bootGrid), by decide⟩

theorem witness_TrapsAndTheirEntry_6 : ∃ (x : Ctx), x.sp.mask &&& ~~~x.g.helper ≠ 0 ∧ x.gr.k.trap ≠ 0xFFFFFFFF ∧ (∀ l ∈ lanesOf x.sp.mask, (mget 0 x.g.tcause l).getLsbD 23 = false) :=
  ⟨(ctxOf (wgOf (gp sp0)) (gp sp0) sp0 bootGrid), by decide, by decide, by decide +kernel⟩

theorem witness_TrapsAndTheirEntry_7 : ∃ (x : Ctx), x.sp.mask &&& ~~~x.g.helper ≠ 0 ∧ (x.gr.k.trap = 0xFFFFFFFF ∨ (∃ l ∈ lanesOf x.sp.mask, (mget 0 x.g.tcause l).getLsbD 23 = true)) :=
  ⟨(ctxOf (wgOf ({ gp sp0 with tcause := [(31, 0x800000)] })) ({ gp sp0 with tcause := [(31, 0x800000)] }) sp0 bootGrid), by decide, .inr ⟨31, by decide +kernel, by decide +kernel⟩⟩

theorem witness_TrapsAndTheirEntry_8 : ∃ (wg : Nat) (grp : Nat) (pos : Nat) (s : State) (x : Ctx), ({ wg := wg, grp := grp, pos := pos } : Focus).lookup s = some x ∧ x.sp.phase = .waiting ∧ x.sp.why = .trapEntry ∧ x.sp.timer = 0 ∧ x.sp.blk = .none :=
  ⟨0, 0, 0, shown State.reset (wgOf (gp { sp0 with phase := .waiting, why := .trapEntry })) bootGrid, (ctxOf (wgOf (gp { sp0 with phase := .waiting, why := .trapEntry })) (gp { sp0 with phase := .waiting, why := .trapEntry }) { sp0 with phase := .waiting, why := .trapEntry } bootGrid), rfl, rfl, rfl, rfl, rfl⟩

theorem witness_SplitsReturnFromWaits_0 : ∃ (wg : Nat) (grp : Nat) (pos : Nat) (s : State) (w : _) (g : Group) (sp : Split), s.wg? wg = some w ∧ w.groups[grp]? = some g ∧ g.table[pos]? = some (some sp) ∧ sp.phase = .waiting ∧ sp.why = .sleep ∧ sp.timer = 0 :=
  ⟨0, 0, 0, shown State.reset (wgOf (gp { sp0 with phase := .waiting, why := .sleep })) bootGrid, wgOf (gp { sp0 with phase := .waiting, why := .sleep }), gp { sp0 with phase := .waiting, why := .sleep }, { sp0 with phase := .waiting, why := .sleep }, rfl, rfl, rfl, rfl, rfl, rfl⟩

theorem witness_SplitsReturnFromWaits_1 : ∃ (wg : Nat) (grp : Nat) (pos : Nat) (s : State) (w : _) (g : Group) (sp : Split), s.wg? wg = some w ∧ w.groups[grp]? = some g ∧ g.spill[pos]? = some sp ∧ sp.phase = .waiting ∧ sp.why = .sleep ∧ sp.timer = 0 :=
  ⟨0, 0, 0, shown State.reset (wgOf { gp sp0 with spill := [{ sp0 with phase := .waiting, why := .sleep }] }) bootGrid, wgOf { gp sp0 with spill := [{ sp0 with phase := .waiting, why := .sleep }] }, { gp sp0 with spill := [{ sp0 with phase := .waiting, why := .sleep }] }, { sp0 with phase := .waiting, why := .sleep }, rfl, rfl, rfl, rfl, rfl, rfl⟩

theorem witness_SplitsReturnFromWaits_2 : ∃ (wg : Nat) (grp : Nat) (pos : Nat) (s : State) (x : Ctx), ({ wg := wg, grp := grp, pos := pos } : Focus).lookup s = some x ∧ x.sp.phase = .waiting ∧ x.sp.why = .release ∧ x.sp.pend = [] ∧ x.sp.vis < s.clock x.die ∧ x.sp.blk = .none :=
  ⟨0, 0, 0, shown { State.reset with clocks := [5, 0, 0, 0, 0] } (wgOf (gp { sp0 with phase := .waiting, why := .release, vis := 4 })) bootGrid, (ctxOf (wgOf (gp { sp0 with phase := .waiting, why := .release, vis := 4 })) (gp { sp0 with phase := .waiting, why := .release, vis := 4 }) { sp0 with phase := .waiting, why := .release, vis := 4 } bootGrid), rfl, rfl, rfl, rfl, by decide, rfl⟩

theorem witness_SplitsReturnFromWaits_3 : ∃ (wg : Nat) (grp : Nat) (s : State) (w : _) (g : Group) (sp : Split) (rest : List Split) (regular : Bool), s.wg? wg = some w ∧ w.groups[grp]? = some g ∧ g.table.length = 8 ∧ g.spill = sp :: rest ∧ (∃ e ∈ g.table, e ≠ none) ∧ (if regular then 16384 ≤ g.rot ∧ g.changed = false else g.swapDue = true ∧ g.swapAt ≠ some s.cycle) :=
  ⟨0, 0, shown State.reset (wgOf { gp sp0 with rot := 16384, spill := [sp0] }) bootGrid, wgOf { gp sp0 with rot := 16384, spill := [sp0] }, { gp sp0 with rot := 16384, spill := [sp0] }, sp0, [], true, rfl, rfl, rfl, rfl, ⟨some sp0, by decide⟩, by decide⟩

theorem witness_SplitsReturnFromWaits_3_swap : ∃ (wg : Nat) (grp : Nat) (s : State) (w : _) (g : Group) (sp : Split) (rest : List Split) (regular : Bool), s.wg? wg = some w ∧ w.groups[grp]? = some g ∧ g.table.length = 8 ∧ g.spill = sp :: rest ∧ (∃ e ∈ g.table, e ≠ none) ∧ (if regular then 16384 ≤ g.rot ∧ g.changed = false else g.swapDue = true ∧ g.swapAt ≠ some s.cycle) :=
  ⟨0, 0, shown State.reset (wgOf { gp { sp0 with phase := .parked } with swaps := some 4, spill := [sp0] }) bootGrid, wgOf { gp { sp0 with phase := .parked } with swaps := some 4, spill := [sp0] }, { gp { sp0 with phase := .parked } with swaps := some 4, spill := [sp0] }, sp0, [], false, rfl, rfl, rfl, rfl, ⟨some { sp0 with phase := .parked }, by decide⟩, by decide⟩

theorem witness_SplitsReturnFromWaits_4 : ∃ (wg : Nat) (grp : Nat) (s : State) (w : _) (g : Group), s.wg? wg = some w ∧ w.groups[grp]? = some g ∧ g.changed = true :=
  ⟨0, 0, shown State.reset (wgOf { gp sp0 with rot := 16384, changed := true }) bootGrid, wgOf { gp sp0 with rot := 16384, changed := true }, { gp sp0 with rot := 16384, changed := true }, rfl, rfl, rfl⟩

theorem witness_SplitsReturnFromWaits_5 : ∃ (wg : Nat) (grp : Nat) (s : State) (w : _) (g : Group), s.wg? wg = some w ∧ w.groups[grp]? = some g ∧ 16384 ≤ g.rot ∧ g.changed = false ∧ g.spill = [] :=
  ⟨0, 0, shown State.reset (wgOf { gp sp0 with rot := 16384 }) bootGrid, wgOf { gp sp0 with rot := 16384 }, { gp sp0 with rot := 16384 }, rfl, rfl, by decide, rfl, rfl⟩

theorem witness_SplitsReturnFromWaits_6 : ∃ (wg : Nat) (grp : Nat) (pos : Nat) (s : State) (x : Ctx), ({ wg := wg, grp := grp, pos := pos } : Focus).lookup s = some x ∧ x.sp.mAt.isSome = true ∧ 16 ≤ x.sp.inel :=
  ⟨0, 0, 0, shown State.reset (wgOf (gp { sp0 with inel := 16 })) bootGrid, (ctxOf (wgOf (gp { sp0 with inel := 16 })) (gp { sp0 with inel := 16 }) { sp0 with inel := 16 } bootGrid), rfl, rfl, by decide⟩

/-! ### Memory -/

theorem witness_LoadsReadTheirPlaces_0 : ∃ (w : _) (s : State) (t : _) (y : Ctx), Issues (.ld w) w.com s t y ∧ Off w.com y :=
  ⟨fm (cm 8 false 1) (v 4) (v 6) (v 0) 2 0 0 0, _, _, _, iss (s := State.reset) (w := wgOf (gp sp0)) (gr := bootGrid) rfl rfl rfl rfl rfl (by decide +kernel) rfl rfl, by unfold Off; decide⟩

theorem witness_LoadsReadTheirPlaces_1 : ∃ (w : _) (s : State) (t : _) (y : Ctx) (plan : List LanePlan) (u : _) (b : _), Issues (.ld w) w.com s t y ∧ ¬ Off w.com y ∧ LanesPass y t { spaces := [0, 1, 2, 3, 6], hint := w.sph.toNat, width := 2 ^ w.sz.toNat, align := 2 ^ w.sz.toNat, wr := false, gw := w.com.u } .rd (ptrs y w false) plan ∧ (∀ p ∈ plan, t.resPoisoned p.res (2 ^ w.sz.toNat) = false) ∧ LanesRead y (2 ^ w.sz.toNat) (t.markLeaves plan false) plan u b :=
  ⟨fm (cm 8 false 0) (v 4) (v 6) (v 0) 2 0 0 0, _, _, _, [{ lane := 0, ptr := spTop, res := .scr 0 0 4092 }], _, fun _ => [0, 0, 0, 0], iss (s := State.reset) (w := wgOf (gPtr spTop)) (gr := bigGrid) rfl rfl rfl rfl rfl (by decide +kernel) rfl rfl, by unfold Off; decide, pass1 (l := 0) (p := spTop) (by decide +kernel) (by decide +kernel), by decide +kernel, _, _, ⟨rfl, _, rfl, by decide +kernel⟩, rfl, rfl⟩

theorem witness_LoadsReadTheirPlaces_2 : ∃ (w : _) (s : State) (t : _) (y : Ctx) (p : LanePlan) (pa : _) (lf : _) (v : State) (r : State), Issues (.ld w) w.com s t y ∧ ¬ Off w.com y ∧ p.res = .line pa lf ∧ LanesPass y t { spaces := [0, 1, 2, 3, 6], hint := w.sph.toNat, width := 2 ^ w.sz.toNat, align := 2 ^ w.sz.toNat, wr := false, gw := w.com.u } .rd (ptrs y w false) [p] ∧ t.resPoisoned p.res (2 ^ w.sz.toNat) = false ∧ v = t.markLeaves [p] false ∧ y.ownAtomic v p.lane pa (2 ^ w.sz.toNat) = false ∧ y.l1Hit v (pa / 128) = none ∧ v.line? y.die (pa / 128) = none ∧ v.makeRoom y.die y.wg.ten (pa / 128) = some r :=
  ⟨fm (cm 8 false 0) (v 4) (v 6) (v 0) 2 0 0 0, _, _, _, { lane := 0, ptr := 4100, res := .line 0x201004 0x5008 }, 0x201004, 0x5008, _, _, iss (s := ms) (w := wgOf (gPtr 0x1004)) (gr := bootGrid) rfl rfl rfl rfl rfl (by decide +kernel) rfl rfl, by unfold Off; decide, rfl, pass1 (l := 0) (p := 4100) (by decide +kernel) (by decide +kernel), by decide +kernel, rfl, by decide +kernel, by decide +kernel, by decide +kernel, some_get (d := ms) (by decide +kernel)⟩

theorem witness_LoadsReadTheirPlaces_3 : ∃ (w : _) (s : State) (t : _) (y : Ctx) (pre : _) (e : _) (post : _) (c : _) (b : _) (v : _) (t1 : _), Issues (.ld w) w.com s t y ∧ ¬ Off w.com y ∧ ptrs y w false = pre ++ e :: post ∧ (∀ q ∈ pre, ∃ r, y.laneCheck t { spaces := [0, 1, 2, 3, 6], hint := w.sph.toNat, width := 2 ^ w.sz.toNat, align := 2 ^ w.sz.toNat, wr := false, gw := w.com.u } .rd q.1 q.2 = .ok r) ∧ y.laneCheck t { spaces := [0, 1, 2, 3, 6], hint := w.sph.toNat, width := 2 ^ w.sz.toNat, align := 2 ^ w.sz.toNat, wr := false, gw := w.com.u } .rd e.1 e.2 = .bad c b v t1 :=
  by
  obtain ⟨t1, h⟩ := badRes_some (x := (ctxOf (wgOf (gPtr (2 ^ 62))) (gPtr (2 ^ 62)) { sp0 with mask := 1 } bootGrid).laneCheck (shown State.reset (wgOf (gPtr (2 ^ 62))) bootGrid) { spaces := [0, 1, 2, 3, 6], hint := 0, width := 4, align := 4, wr := false } .rd 0 (2 ^ 62)) (c := 6) (b := 1) (v := 2 ^ 62) (by decide +kernel)
  exact ⟨fm (cm 8 false 0) (v 4) (v 6) (v 0) 2 0 0 0, _, _, _, [], (0, 2 ^ 62), [], 6, 1, 2 ^ 62, t1, iss (s := State.reset) (w := wgOf (gPtr (2 ^ 62))) (gr := bootGrid) rfl rfl rfl rfl rfl (by decide +kernel) rfl rfl, by unfold Off; decide, by decide +kernel, fun q hq => absurd hq (List.not_mem_nil), h⟩

theorem witness_StoresGoToTheirPlaces_0 : ∃ (w : _) (s : State) (t : _) (y : Ctx), Issues (.st w) w.com s t y ∧ ptrs y w false = [] :=
  ⟨fm (cm 8 false 1) (v 4) (v 6) (v 0) 2 0 0 0, _, _, _, iss (s := State.reset) (w := wgOf (gp sp0)) (gr := bootGrid) rfl rfl rfl rfl rfl (by decide +kernel) rfl rfl, by decide⟩

theorem witness_StoresGoToTheirPlaces_1 : ∃ (w : _) (s : State) (t : _) (y : Ctx) (plan : List LanePlan), Issues (.st w) w.com s t y ∧ ptrs y w false ≠ [] ∧ LanesPass y t { spaces := [0, 1, 2, 3, 6], hint := w.sph.toNat, width := 2 ^ w.sz.toNat, align := 2 ^ w.sz.toNat, wr := true, gw := w.com.u } .wr (ptrs y w false) plan ∧ Free t y (w.ord.getLsbD 1) w.scope.toNat ∧ (∀ p ∈ plan, plan.any (fun q => q.res == p.res && decide (p.lane < q.lane)) = false → ∃ fl b, Answered y (2 ^ w.sz.toNat) t p fl b) :=
  ⟨fm (cm 8 false 0) (v 4) (v 6) (v 0) 2 0 2 0, _, _, _, [{ lane := 0, ptr := spTop, res := .scr 0 0 4092 }], iss (s := State.reset) (w := wgOf (gPtr spTop)) (gr := bigGrid) rfl rfl rfl rfl rfl (by decide +kernel) rfl rfl, by decide +kernel, pass1 (l := 0) (p := spTop) (by decide +kernel) (by decide +kernel), fun _ => by decide +kernel, fun p hp _ => ⟨0, [], by simp only [List.mem_singleton] at hp; subst hp; exact ⟨rfl, rfl⟩⟩⟩

theorem witness_StoresGoToTheirPlaces_2 : ∃ (w : _) (s : State) (t : _) (y : Ctx), Issues (.st w) w.com s t y ∧ w.com.u = false ∧ y.real w.com ≠ 0 ∧ w.ord.getLsbD 1 = false ∧ (∀ e ∈ ptrs y w false, e.2 / 2 ^ 60 = 2 ∧ e.2 % 2 ^ 60 < 2 ^ 21 ∧ e.2 % 2 ^ w.sz.toNat = 0 ∧ hintOk w.sph.toNat 2 = true ∧ e.2 % 2 ^ 21 + 2 ^ w.sz.toNat ≤ windowBytes y.gr y.wg ∧ (y.win = 0 → 0x400 ≤ e.2 % 2 ^ 21)) ∧ (ptrs y w false).Pairwise (fun a b => a.2 ≠ b.2) ∧ NoFlits y t :=
  ⟨fm (cm 8 false 0) (v 4) (v 6) (v 0) 2 0 0 0, _, _, _, iss (s := State.reset) (w := wgOf (gPtr spTop)) (gr := bigGrid) rfl rfl rfl rfl rfl (by decide +kernel) rfl rfl, rfl, by decide +kernel, by decide, by decide +kernel, by decide +kernel, fun f hf => absurd hf List.not_mem_nil⟩

theorem witness_StoresGoToTheirPlaces_6 : ∃ (t : State) (pa : Nat) (v : State), v = t.askRegion pa true :=
  ⟨ms, 0x201000, _, rfl⟩

theorem witness_StoresGoToTheirPlaces_7 : ∃ (t : State) (pa : Nat) (v : State), v = t.askRegion pa true :=
  ⟨ms, 0x201000, _, rfl⟩

theorem witness_StoresGoToTheirPlaces_3 : ∃ (y : Ctx) (t : State) (lane : Nat) (key : Nat) (win : Nat) (off : Nat) (bs : List Byte) (io : Bool) (und : _) (g : Workgroup) (u : State), t.wg? key = some g ∧ g.phase = .resident ∧ u = y.putStore t lane (.scr key win off) bs .write io und :=
  ⟨ctxOf (wgOf (gPtr 0)) (gPtr 0) sp0 bootGrid, shown State.reset (wgOf (gPtr 0)) bootGrid, 0, 0, 0, 1020, [1, 2, 3, 4], false, [], wgOf (gPtr 0), _, rfl, rfl, rfl⟩

theorem witness_StoresGoToTheirPlaces_4 : ∃ (y : Ctx) (t : State) (lane : Nat) (key : Nat) (win : Nat) (off : Nat) (bs : List Byte) (io : Bool) (und : _) (g : Workgroup) (u : State), t.wg? key = some g ∧ g.phase = .resident ∧ u = y.putStore t lane (.scr key win off) bs .write io und :=
  ⟨ctxOf (wgOf (gPtr 0)) (gPtr 0) sp0 bootGrid, shown State.reset (wgOf (gPtr 0)) bootGrid, 0, 0, 0, 1020, [1, 2, 3, 4], false, [], wgOf (gPtr 0), _, rfl, rfl, rfl⟩

theorem witness_StoresGoToTheirPlaces_5 : ∃ (y : Ctx) (t : State) (lane : Nat) (key : Nat) (win : Nat) (off : Nat) (bs : List Byte) (io : Bool) (und : _) (g : Workgroup) (u : State), t.wg? key = some g ∧ g.phase = .resident ∧ u = y.putStore t lane (.scr key win off) bs .write io und :=
  ⟨ctxOf (wgOf (gPtr 0)) (gPtr 0) sp0 bootGrid, shown State.reset (wgOf (gPtr 0)) bootGrid, 0, 0, 0, 1020, [1, 2, 3, 4], false, [], wgOf (gPtr 0), _, rfl, rfl, rfl⟩

theorem witness_StoresAppliedAtTheirDie_0 : ∃ (id : Nat) (s : State) (q : Store) (l : Line) (bs : List Byte), s.storeQ.find? (fun q => q.id == id) = some q ∧ q.vis = none ∧ s.place (s.forwarded q.pa) = .line ∧ s.storeFirst q = true ∧ q.op = .write ∧ q.under = [] ∧ s.line? q.die (s.forwarded q.pa / 128) = some l ∧ (l.st = .m ∨ l.st = .e) ∧ l.leaving = false ∧ l.hits (s.tenOf q (s.forwarded q.pa)) = true ∧ s.refreshing (s.forwarded q.pa) = false ∧ Ordered l ∧ s.forwarded q.pa % 128 + q.bytes.length ≤ 128 ∧ bs = (if q.wg = noWg then q.bytes else s.programBytes (s.forwarded q.pa) (ofLine l.latest (s.forwarded q.pa) q.bytes.length) q.bytes) :=
  ⟨5, { ms with storeQ := [{ id := 5, die := 2, wg := 0, grp := 0, lane := 3, pa := 0x20107F, bytes := [7], op := .write, io := false }], lines := [{ agent := 2, addr := 0x4020, st := .m, data := List.replicate 128 0 }] }, { id := 5, die := 2, wg := 0, grp := 0, lane := 3, pa := 0x20107F, bytes := [7], op := .write, io := false }, { agent := 2, addr := 0x4020, st := .m, data := List.replicate 128 0 }, _, by decide +kernel, rfl, by decide +kernel, by decide +kernel, rfl, rfl, by decide +kernel, .inl rfl, rfl, by decide +kernel, by decide +kernel, ⟨rfl, by simp, by simp⟩, by decide +kernel, rfl⟩

theorem witness_StoresAppliedAtTheirDie_1 : ∃ (id : Nat) (s : State) (q : Store) (r : State), s.storeQ.find? (fun q => q.id == id) = some q ∧ q.vis = none ∧ s.place (s.forwarded q.pa) = .line ∧ s.storeFirst q = true ∧ q.op = .write ∧ s.line? q.die (s.forwarded q.pa / 128) = none ∧ s.makeRoom q.die (s.tenOf q (s.forwarded q.pa)) (s.forwarded q.pa / 128) = some r :=
  ⟨5, { ms with storeQ := [{ id := 5, die := 2, wg := 0, grp := 0, lane := 3, pa := 0x201000, bytes := [7], op := .write, io := false }] }, { id := 5, die := 2, wg := 0, grp := 0, lane := 3, pa := 0x201000, bytes := [7], op := .write, io := false }, _, by decide +kernel, rfl, by decide +kernel, by decide +kernel, rfl, by decide +kernel, some_get (d := ms) (by decide +kernel)⟩

theorem witness_StoresAppliedAtTheirDie_2 : ∃ (die : Nat) (line : Nat) (s : State) (l : Line), die < 4 ∧ s.place (128 * line) = .line ∧ s.line? die line = some l ∧ l.serves = true :=
  ⟨3, 0x4020, { ms with lines := [{ agent := 3, addr := 0x4020, st := .s, data := List.replicate 128 0 }] }, { agent := 3, addr := 0x4020, st := .s, data := List.replicate 128 0 }, by decide, by decide +kernel, by decide +kernel, rfl⟩

theorem witness_StoresAppliedAtTheirDie_3 : ∃ (die : Nat) (line : Nat) (s : State) (r : State), die < 4 ∧ s.place (128 * line) = .line ∧ s.line? die line = none ∧ s.makeRoom die (s.tenAt (128 * line)) line = some r :=
  ⟨3, 0x4020, ms, _, by decide, by decide +kernel, by decide +kernel, some_get (d := ms) (by decide +kernel)⟩

theorem witness_StoresAppliedAtTheirDie_4 : ∃ (die : Nat) (line : Nat) (s : State) (l : Line), die < 4 ∧ s.place (128 * line) = .line ∧ s.line? die line = some l ∧ l.serves = false :=
  ⟨3, 0x4020, { ms with lines := [{ agent := 3, addr := 0x4020, st := .isD, data := [] }] }, { agent := 3, addr := 0x4020, st := .isD, data := [] }, by decide, by decide +kernel, by decide +kernel, rfl⟩

theorem witness_PointerChecks_0 : ∃ (u : PtrUse) (p : Nat), p < 2 ^ 64 ∧ u.align ≠ 0 :=
  ⟨{ spaces := [0, 6], width := 16, align := 16, wr := true }, 2 ^ 64 - 1, by decide, by decide⟩

theorem witness_CacheCodeAndFences_0 : ∃ (w : _) (s : State) (t : _) (y : Ctx), Issues (.pfch w) w.com s t y ∧ (∀ e ∈ ptrs y w false, ∀ b, y.checkPtr { spaces := [0, 1, 2, 3, 6], hint := w.sph.toNat, width := 0, align := 1, gw := w.com.u, cache := true } e.2 ≠ .error (0x06, b)) :=
  ⟨fm (cm 8 false 0) (v 0) (v 6) (v 0) 0 0 0 0, _, _, _, iss (s := ms) (w := wgOf (gPtr 0x1000)) (gr := bootGrid) rfl rfl rfl rfl rfl (by decide +kernel) rfl rfl, hints_ok (by decide +kernel)⟩

theorem witness_CacheCodeAndFences_1 : ∃ (w : _) (s : State) (t : _) (y : Ctx) (plan : List LanePlan), Issues (.cfls w) w.com s t y ∧ LanesPass y t { spaces := [0, 1, 2, 3, 6], hint := w.sph.toNat, width := 1, align := 1, cache := true } .any (ptrs y w false) plan :=
  ⟨fm (cm 8 false 0) (v 0) (v 6) (v 0) 0 0 0 0, _, _, _, [{ lane := 0, ptr := 4096, res := .line 0x201000 0x5008 }], iss (s := ms) (w := wgOf (gPtr 0x1000)) (gr := bootGrid) rfl rfl rfl rfl rfl (by decide +kernel) rfl rfl, pass1 (l := 0) (p := 4096) (by decide +kernel) (by decide +kernel)⟩

theorem witness_CacheCodeAndFences_2 : ∃ (w : _) (s : State) (t : _) (y : Ctx) (plan : List LanePlan), Issues (.cinv w) w.com s t y ∧ LanesPass y t { spaces := [0, 1, 2, 3, 6], hint := w.sph.toNat, width := 1, align := 1, cache := true } .any (ptrs y w false) plan :=
  ⟨fm (cm 8 false 0) (v 0) (v 6) (v 0) 0 0 0 0, _, _, _, [{ lane := 0, ptr := 4096, res := .line 0x201000 0x5008 }], iss (s := ms) (w := wgOf (gPtr 0x1000)) (gr := bootGrid) rfl rfl rfl rfl rfl (by decide +kernel) rfl rfl, pass1 (l := 0) (p := 4096) (by decide +kernel) (by decide +kernel)⟩

theorem witness_CacheCodeAndFences_3 : ∃ (w : _) (s : State) (t : _) (y : Ctx) (plan : List LanePlan), Issues (.icinv w) w.com s t y ∧ LanesPass y t { spaces := [0], hint := w.sph.toNat, width := 1, align := 1, cache := true } .xw (ptrs y w false) plan :=
  ⟨fm (cm 8 false 0) (v 0) (v 6) (v 0) 0 0 0 0, _, _, _, [{ lane := 0, ptr := 16384, res := .line 0x204000 0x5020 }], iss (s := ms) (w := wgOf (gPtr 0x4000)) (gr := bootGrid) rfl rfl rfl rfl rfl (by decide +kernel) rfl rfl, pass1 (l := 0) (p := 16384) (by decide +kernel) (by decide +kernel)⟩

theorem witness_CacheCodeAndFences_4 : ∃ (w : _) (s : State) (t : _) (y : Ctx), Issues (.csync w) w.com s t y :=
  ⟨fl (cm 0 false 0) (v 0) (v 0) (v 0) (v 0) 0, _, _, _, iss (s := State.reset) (w := wgOf (gp sp0)) (gr := bootGrid) rfl rfl rfl rfl rfl (by decide +kernel) rfl rfl⟩

theorem witness_CacheCodeAndFences_5 : ∃ (w : _) (s : State) (t : _) (y : Ctx), Issues (.fence w) w.com s t y ∧ y.active w.com = 0 :=
  ⟨fl (cm 0 false 1) (v 0) (v 0) (v 0) (v 0) 0 0 0x18, _, _, _, iss (s := State.reset) (w := wgOf (gp sp0)) (gr := bootGrid) rfl rfl rfl rfl rfl (by decide +kernel) rfl rfl, by decide⟩

theorem witness_CacheCodeAndFences_6 : ∃ (w : _) (s : State) (t : _) (y : Ctx), Issues (.fence w) w.com s t y ∧ y.active w.com ≠ 0 ∧ Free t y (w.fn.getLsbD 4) (w.fn.toNat % 8) :=
  ⟨fl (cm 0 false 1) (v 0) (v 0) (v 0) (v 0) 0 0 0x1D, _, _, _, iss (s := State.reset) (w := wgOf (gOn sp0)) (gr := bootGrid) rfl rfl rfl rfl rfl (by decide +kernel) rfl rfl, by decide, fun _ => by decide +kernel⟩

theorem witness_CacheCodeAndFences_7 : ∃ (w : _) (s : State) (t : _) (y : Ctx), Issues (.fence w) w.com s t y ∧ y.active w.com ≠ 0 ∧ w.fn.getLsbD 4 = true ∧ (y.sp.pend ≠ [] ∨ t.passed y.die y.sp.vis = false) :=
  ⟨fl (cm 0 false 1) (v 0) (v 0) (v 0) (v 0) 0 0 0x15, _, _, _, iss (s := State.reset) (w := wgOf (gOn { sp0 with vis := 1 })) (gr := bootGrid) rfl rfl rfl rfl rfl (by decide +kernel) rfl rfl, by decide, by decide, .inr (by decide +kernel)⟩

theorem witness_AtomicsAreReadModifyWrites_0 : ∃ (w : _) (s : State) (t : _) (y : Ctx), Issues (.atom w) w.com s t y ∧ NoAtom y w :=
  ⟨fm (cm 8 false 1) (v 4) (v 6) (v 8) 2 0 0 0, _, _, _, iss (s := State.reset) (w := wgOf (gp sp0)) (gr := bootGrid) rfl rfl rfl rfl rfl (by decide +kernel) rfl rfl, by unfold NoAtom; decide⟩

theorem witness_AtomicsAreReadModifyWrites_1 : ∃ (w : _) (s : State) (t : _) (y : Ctx) (plan : List LanePlan) (u : _) (got : Nat → List Byte) (r : Nat → Nat × Flags) (fl : Nat → Flags), Issues (.atom w) w.com s t y ∧ ¬ NoAtom y w ∧ LanesPass y t { spaces := [0, 1, 2, 3, 6], hint := w.sph.toNat, width := 2 ^ w.sz.toNat, align := 2 ^ w.sz.toNat, wr := true, gw := w.com.u } .rdwr (ptrs y w true) plan ∧ (∀ p ∈ plan, t.resPoisoned p.res (2 ^ w.sz.toNat) = false) ∧ Free t y (w.ord.getLsbD 1) w.scope.toNat ∧ (∀ p ∈ plan, AtomReady y (2 ^ w.sz.toNat) t p (got p.lane) ∧ (match p.res with | .peer _ _ => Answered y (2 ^ w.sz.toNat) t p (fl p.lane) (got p.lane) | _ => fl p.lane = 0)) ∧ LanesUpdate y w got ((answersUsed y t).markLeaves plan true) plan u r :=
  ⟨fm (cm 8 false 0) (v 4) (v 6) (v 8) 2 0 0 0, _, _, _, [{ lane := 0, ptr := spTop, res := .scr 0 0 4092 }], _, fun _ => [], fun _ => (0, 0), fun _ => 0, iss (s := State.reset) (w := wgOf (gPtr spTop 5)) (gr := bigGrid) rfl rfl rfl rfl rfl (by decide +kernel) rfl rfl, by unfold NoAtom; decide, pass1 (l := 0) (p := spTop) (by decide +kernel) (by decide +kernel), by decide +kernel, fun _ => by decide +kernel, fun p hp => (by simp only [List.mem_singleton] at hp; subst hp; exact ⟨trivial, rfl⟩), _, 0, 0, ⟨wgOf (gPtr spTop 5), 5, by rfl, by decide +kernel, by decide +kernel, rfl⟩, rfl, rfl⟩

theorem witness_AtomicsAreReadModifyWrites_2 : ∃ (w : _) (s : State) (t : _) (y : Ctx), Issues (.red w) w.com s t y ∧ (if w.com.u && (y.sp.mask &&& ~~~y.g.helper) == 0 then [] else ptrs y w true) = [] :=
  ⟨fm (cm 8 false 1) (v 0) (v 6) (v 8) 2 0 0 0, _, _, _, iss (s := State.reset) (w := wgOf (gp sp0)) (gr := bootGrid) rfl rfl rfl rfl rfl (by decide +kernel) rfl rfl, by decide⟩

theorem witness_AtomicsAreReadModifyWrites_3 : ∃ (w : _) (s : State) (t : _) (y : Ctx) (plan : List LanePlan), Issues (.red w) w.com s t y ∧ (if w.com.u && (y.sp.mask &&& ~~~y.g.helper) == 0 then [] else ptrs y w true) ≠ [] ∧ LanesPass y t { spaces := [0, 1, 2, 3, 6], hint := w.sph.toNat, width := 2 ^ w.sz.toNat, align := 2 ^ w.sz.toNat, wr := true, gw := w.com.u } .wr (ptrs y w true) plan ∧ Free t y (w.ord.getLsbD 1) w.scope.toNat ∧ OnPart plan ∧ NoFlits y t :=
  ⟨fm (cm 8 false 0) (v 0) (v 6) (v 8) 2 0 0 0, _, _, _, [{ lane := 0, ptr := spTop, res := .scr 0 0 4092 }], iss (s := State.reset) (w := wgOf (gPtr spTop 5)) (gr := bigGrid) rfl rfl rfl rfl rfl (by decide +kernel) rfl rfl, by decide +kernel, pass1 (l := 0) (p := spTop) (by decide +kernel) (by decide +kernel), fun _ => by decide +kernel, (fun p hp => by simp only [List.mem_singleton] at hp; subst hp; trivial), fun f hf => absurd hf List.not_mem_nil⟩

theorem witness_AtomicsAreReadModifyWrites_4 : ∃ (w : FormM) (y : Ctx) (v : State) (u : State) (p : LanePlan) (old : _) (fl : Flags) (key : _) (win : _) (off : _), p.res = .scr key win off ∧ v.resPoisoned p.res (2 ^ w.sz.toNat) = false ∧ LaneUpdates y w v p [] u old fl :=
  ⟨fm (cm 8 false 0) (v 0) (v 6) (v 8) 2 0 0 0, ctxOf (wgOf (gPtr spTop 5)) (gPtr spTop 5) { sp0 with mask := 1 } bigGrid, shown State.reset (wgOf (gPtr spTop 5)) bigGrid, _, { lane := 0, ptr := spTop, res := .scr 0 0 4092 }, 0, 0, 0, 0, 4092, rfl, by decide +kernel, wgOf (gPtr spTop 5), 5, rfl, by decide +kernel, by decide +kernel, rfl⟩

theorem witness_AtomicsAreReadModifyWrites_5 : ∃ (w : FormM) (v : State) (p : LanePlan) (pa : _) (lf : _), p.res = .line pa lf ∧ v.resPoisoned p.res (2 ^ w.sz.toNat) = true :=
  ⟨fm (cm 8 false 0) (v 0) (v 6) (v 8) 2 0 0 0, ms.poisonSectors 0x201000 4, { lane := 0, ptr := 4096, res := .line 0x201000 0x5008 }, 0x201000, 0x5008, rfl, by decide +kernel⟩

theorem witness_AtomicsAreReadModifyWrites_6 : ∃ (w : FormM) (y : Ctx) (v : State) (p : LanePlan) (pa : _) (lf : _) (b : _) (cmp : _), p.res = .line pa lf ∧ v.resPoisoned p.res (2 ^ w.sz.toNat) = false ∧ (b, cmp) = y.atomArgs w p.lane :=
  ⟨fm (cm 8 false 0) (v 0) (v 6) (v 8) 2 0 0 0, ctxOf (wgOf (gPtr 0x1000 5)) (gPtr 0x1000 5) { sp0 with mask := 1 } bootGrid, ms, { lane := 0, ptr := 4096, res := .line 0x201000 0x5008 }, 0x201000, 0x5008, _, _, rfl, by decide +kernel, rfl⟩

theorem witness_AtomicsAreReadModifyWrites_7 : ∃ (sz : BitVec 3) (old : Nat) (b : Nat), (sz = 2 ∨ sz = 3) ∧ old < 2 ^ (8 * 2 ^ sz.toNat) ∧ b < 2 ^ (8 * 2 ^ sz.toNat) :=
  ⟨3, 2 ^ 64 - 1, 1, .inr rfl, by decide, by decide⟩

theorem witness_SequencedReductions_0 : ∃ (w : _) (s : State) (t : _) (y : Ctx), Issues (.reds w) w.com s t y ∧ ptrs y w true = [] :=
  ⟨fm (cm 8 false 1) (v 0) (v 6) (v 8) 2 0 0 0, _, _, _, iss (s := State.reset) (w := wgOf (gp sp0)) (gr := bootGrid) rfl rfl rfl rfl rfl (by decide +kernel) rfl rfl, by decide⟩

theorem witness_SequencedReductions_1 : ∃ (w : _) (s : State) (t : _) (y : Ctx) (plan : List LanePlan), Issues (.reds w) w.com s t y ∧ ptrs y w true ≠ [] ∧ LanesPass y t { spaces := [0, 6], hint := w.sph.toNat, width := 16, align := 16, wr := true, gw := w.com.u } .wr (ptrs y w true) plan ∧ 256 < (t.contribs.filter (fun c => c.wg == y.wg.key && !c.atHome)).length + plan.length :=
  ⟨fm (cm 8 false 0) (v 0) (v 6) (v 8) 2 0 0 0, _, _, _, [{ lane := 0, ptr := 4096, res := .line 0x201000 0x5008 }], iss (s := { ms with contribs := List.replicate 256 { id := 9, wg := 0, grp := 0, lane := 0, cell := 0x1000, pa := 0x201000, idx := 0, val := 1, mod := 0, sgn := false, sz := 2 } }) (w := wgOf (gPtr 0x1000)) (gr := bootGrid) rfl rfl rfl rfl rfl (by decide +kernel) rfl rfl, by decide +kernel, pass1 (l := 0) (p := 4096) (by decide +kernel) (by decide +kernel), by decide +kernel⟩

theorem witness_SequencedReductions_2 : ∃ (w : _) (s : State) (t : _) (y : Ctx) (plan : List LanePlan), Issues (.reds w) w.com s t y ∧ ptrs y w true ≠ [] ∧ LanesPass y t { spaces := [0, 6], hint := w.sph.toNat, width := 16, align := 16, wr := true, gw := w.com.u } .wr (ptrs y w true) plan ∧ (t.contribs.filter (fun c => c.wg == y.wg.key && !c.atHome)).length + plan.length ≤ 256 ∧ Free t y (w.ord.getLsbD 1) w.scope.toNat ∧ NearBy plan ∧ (∀ f ∈ t.fabric, f.rejected = true → f.wg ≠ y.wg.key ∨ f.grp ≠ y.foc.grp) :=
  ⟨fm (cm 8 false 0) (v 0) (v 6) (v 8) 2 0 0 0, _, _, _, [{ lane := 0, ptr := 4096, res := .line 0x201000 0x5008 }], iss (s := { ms with contribs := List.replicate 255 { id := 9, wg := 0, grp := 0, lane := 0, cell := 0x1000, pa := 0x201000, idx := 0, val := 1, mod := 0, sgn := false, sz := 2 } }) (w := wgOf (gPtr 0x1000)) (gr := bootGrid) rfl rfl rfl rfl rfl (by decide +kernel) rfl rfl, by decide +kernel, pass1 (l := 0) (p := 4096) (by decide +kernel) (by decide +kernel), by decide +kernel, fun _ => by decide +kernel, fun p hp => by simp only [List.mem_singleton] at hp; subst hp; trivial, fun f hf => absurd hf List.not_mem_nil⟩

theorem witness_SequencedReductions_3 : ∃ (id : Nat) (s : State) (c : Contrib) (next : Nat), s.contribs.find? (fun c => c.id == id) = some c ∧ c.peer = none ∧ s.poisoned (s.forwarded c.pa) 16 = false ∧ (∀ k ∈ s.contribs, k.atHome = true → k.id ≠ c.id → s.forwarded k.pa ≠ s.forwarded c.pa ∨ k.idx ≠ c.idx) ∧ next = leNat (s.cohLatest (s.forwarded c.pa + 8) 4) ∧ (c.idx.toNat + 2 ^ 32 - next) % 2 ^ 32 = 0 ∧ s.homeReady (s.forwarded c.pa) = false :=
  ⟨9, { ms with contribs := [{ id := 9, wg := 0, grp := 0, lane := 0, cell := 0x1000, pa := 0x201000, idx := 0, val := 1, mod := 0, sgn := false, sz := 2 }] }, { id := 9, wg := 0, grp := 0, lane := 0, cell := 0x1000, pa := 0x201000, idx := 0, val := 1, mod := 0, sgn := false, sz := 2 }, _, by decide +kernel, rfl, by decide +kernel, by decide +kernel, rfl, by decide +kernel, by decide +kernel⟩

theorem witness_SequencedReductions_4 : ∃ (id : Nat) (s : State) (c : Contrib) (next : Nat), s.contribs.find? (fun c => c.id == id) = some c ∧ c.peer = none ∧ s.poisoned (s.forwarded c.pa) 16 = false ∧ (∀ k ∈ s.contribs, k.atHome = true → k.id ≠ c.id → s.forwarded k.pa ≠ s.forwarded c.pa ∨ k.idx ≠ c.idx) ∧ next = leNat (s.cohLatest (s.forwarded c.pa + 8) 4) ∧ (c.idx.toNat + 2 ^ 32 - next) % 2 ^ 32 = 0 ∧ s.homeReady (s.forwarded c.pa) = true :=
  ⟨9, { ms with contribs := [{ id := 9, wg := 0, grp := 0, lane := 0, cell := 0x1000, pa := 0x201000, idx := 0, val := 1, mod := 0, sgn := false, sz := 2 }], lines := [{ agent := 0, addr := 0x4020, st := .m, data := List.replicate 128 0 }] }, { id := 9, wg := 0, grp := 0, lane := 0, cell := 0x1000, pa := 0x201000, idx := 0, val := 1, mod := 0, sgn := false, sz := 2 }, _, by decide +kernel, rfl, by decide +kernel, by decide +kernel, rfl, by decide +kernel, by decide +kernel⟩

theorem witness_SequencedReductions_5 : ∃ (id : Nat) (s : State) (c : Contrib) (next : Nat), s.contribs.find? (fun c => c.id == id) = some c ∧ c.peer = none ∧ s.poisoned (s.forwarded c.pa) 16 = false ∧ (∀ k ∈ s.contribs, k.atHome = true → k.id ≠ c.id → s.forwarded k.pa ≠ s.forwarded c.pa ∨ k.idx ≠ c.idx) ∧ next = leNat (s.cohLatest (s.forwarded c.pa + 8) 4) ∧ 0 < (c.idx.toNat + 2 ^ 32 - next) % 2 ^ 32 ∧ (c.idx.toNat + 2 ^ 32 - next) % 2 ^ 32 < 2 ^ 31 :=
  ⟨9, { ms with contribs := [{ id := 9, wg := 0, grp := 0, lane := 0, cell := 0x1000, pa := 0x201000, idx := 1, val := 1, mod := 0, sgn := false, sz := 2 }] }, { id := 9, wg := 0, grp := 0, lane := 0, cell := 0x1000, pa := 0x201000, idx := 1, val := 1, mod := 0, sgn := false, sz := 2 }, _, by decide +kernel, rfl, by decide +kernel, by decide +kernel, rfl, by decide +kernel, by decide +kernel⟩

theorem witness_SequencedReductions_6 : ∃ (id : Nat) (s : State) (c : Contrib) (next : Nat), s.contribs.find? (fun c => c.id == id) = some c ∧ c.peer = none ∧ s.poisoned (s.forwarded c.pa) 16 = false ∧ (∀ k ∈ s.contribs, k.atHome = true → k.id ≠ c.id → s.forwarded k.pa ≠ s.forwarded c.pa ∨ k.idx ≠ c.idx) ∧ next = leNat (s.cohLatest (s.forwarded c.pa + 8) 4) ∧ 2 ^ 31 ≤ (c.idx.toNat + 2 ^ 32 - next) % 2 ^ 32 :=
  ⟨9, { ms with contribs := [{ id := 9, wg := 0, grp := 0, lane := 0, cell := 0x1000, pa := 0x201000, idx := 0x80000000, val := 1, mod := 0, sgn := false, sz := 2 }] }, { id := 9, wg := 0, grp := 0, lane := 0, cell := 0x1000, pa := 0x201000, idx := 0x80000000, val := 1, mod := 0, sgn := false, sz := 2 }, _, by decide +kernel, rfl, by decide +kernel, by decide +kernel, rfl, by decide +kernel⟩

theorem witness_SequencedReductions_7 : ∃ (id : Nat) (s : State) (c : Contrib), s.contribs.find? (fun c => c.id == id && !c.atHome) = some c ∧ c.away = false ∧ (s.contribGap c < 256 ∨ 2 ^ 31 ≤ s.contribGap c) ∧ (∀ k, s.wg? c.wg = some k → k.phase ≠ .saved) :=
  ⟨9, { ms with contribs := [{ id := 9, wg := 0, grp := 0, lane := 0, cell := 0x1000, pa := 0x201000, idx := 255, val := 1, mod := 0, sgn := false, sz := 2 }] }, { id := 9, wg := 0, grp := 0, lane := 0, cell := 0x1000, pa := 0x201000, idx := 255, val := 1, mod := 0, sgn := false, sz := 2 }, by decide +kernel, rfl, by decide +kernel, fun k hk => nomatch (show (none : Option Workgroup) = some k from hk)⟩

theorem witness_SequencedReductions_8 : ∃ (id : Nat) (s : State) (c : Contrib), s.contribs.find? (fun c => c.id == id && !c.atHome) = some c ∧ c.away = false ∧ 256 ≤ s.contribGap c ∧ s.contribGap c < 2 ^ 31 :=
  ⟨9, { ms with contribs := [{ id := 9, wg := 0, grp := 0, lane := 0, cell := 0x1000, pa := 0x201000, idx := 256, val := 1, mod := 0, sgn := false, sz := 2 }] }, { id := 9, wg := 0, grp := 0, lane := 0, cell := 0x1000, pa := 0x201000, idx := 256, val := 1, mod := 0, sgn := false, sz := 2 }, by decide +kernel, rfl, by decide +kernel, by decide +kernel⟩

theorem witness_SequencedReductions_9 : ∃ (id : Nat) (s : State) (c : Contrib), s.contribs.find? (fun c => c.id == id && !c.atHome) = some c ∧ c.away = true ∧ (∀ k, s.wg? c.wg = some k → k.phase ≠ .saved) :=
  ⟨9, { ms with contribs := [{ id := 9, wg := 0, grp := 0, lane := 0, cell := 0x1000, pa := 0x201000, idx := 255, val := 1, mod := 0, sgn := false, sz := 2, away := true }] }, { id := 9, wg := 0, grp := 0, lane := 0, cell := 0x1000, pa := 0x201000, idx := 255, val := 1, mod := 0, sgn := false, sz := 2, away := true }, by decide +kernel, rfl, fun k hk => nomatch (show (none : Option Workgroup) = some k from hk)⟩

/-! ### Synchronisation -/

theorem witness_BarrierInstructions_0 : ∃ (w : _) (s : State) (t : _) (y : Ctx), Issues (.binit w) w.com s t y ∧ y.real w.com = 0 :=
  ⟨fe (cm 0 false 1) (v 0) (v 0) (v 0) (v 0) 0 false false 0, _, _, _, iss (s := State.reset) (w := wgOf (gp sp0)) (gr := bootGrid) rfl rfl rfl rfl rfl (by decide +kernel) rfl rfl, by decide⟩

theorem witness_BarrierInstructions_2 : ∃ (w : _) (s : State) (t : _) (y : Ctx), Issues (.barr w) w.com s t y ∧ y.real w.com = 0 :=
  ⟨fe (cm 0 false 1) (v 0) (v 0) (v 0) (v 0) 0 false false 0, _, _, _, iss (s := State.reset) (w := wgOf (gp sp0)) (gr := bootGrid) rfl rfl rfl rfl rfl (by decide +kernel) rfl rfl, by decide⟩

theorem witness_BarrierInstructions_4 : ∃ (w : _) (s : State) (t : _) (y : Ctx), Issues (.barw w) w.com s t y ∧ y.real w.com = 0 :=
  ⟨fe (cm 0 false 1) (v 0) (v 0) (v 0) (v 0) 0 false false 0, _, _, _, iss (s := State.reset) (w := wgOf (gp sp0)) (gr := bootGrid) rfl rfl rfl rfl rfl (by decide +kernel) rfl rfl, by decide⟩

theorem witness_BarrierInstructions_7 : ∃ (w : _) (s : State) (t : _) (y : Ctx), Issues (.bwait w) w.com s t y ∧ y.real w.com = 0 :=
  ⟨fe (cm 0 false 1) (v 0) (v 0) (v 0) (v 0) 0 false false 0, _, _, _, iss (s := State.reset) (w := wgOf (gp sp0)) (gr := bootGrid) rfl rfl rfl rfl rfl (by decide +kernel) rfl rfl, by decide⟩

theorem witness_BarrierInstructions_9 : ∃ (w : _) (s : State) (t : _) (y : Ctx), Issues (.bexp w) w.com s t y ∧ y.real w.com = 0 :=
  ⟨fe (cm 0 false 1) (v 0) (v 0) (v 0) (v 0) 0 false false 0, _, _, _, iss (s := State.reset) (w := wgOf (gp sp0)) (gr := bootGrid) rfl rfl rfl rfl rfl (by decide +kernel) rfl rfl, by decide⟩

theorem witness_BarrierInstructions_11 : ∃ (w : _) (s : State) (t : _) (y : Ctx), Issues (.bqry w) w.com s t y ∧ y.real w.com = 0 :=
  ⟨fe (cm 0 false 1) (v 0) (v 0) (v 0) (v 0) 0 false false 0, _, _, _, iss (s := State.reset) (w := wgOf (gp sp0)) (gr := bootGrid) rfl rfl rfl rfl rfl (by decide +kernel) rfl rfl, by decide⟩

theorem witness_BarrierInstructions_1 : ∃ (w : _) (s : State) (t : _) (y : Ctx) (r : BarRef) (ptr : Nat) (n : Nat), Issues (.binit w) w.com s t y ∧ y.real w.com ≠ 0 ∧ Names y t w (lowestLane (y.real w.com)) r ptr ∧ n = whole y (lowestLane (y.real w.com)) w.b false :=
  ⟨fe (cm 0 false 0) (v 0) (v 0) (v 6) (v 0) 63 false false 0, _, _, _, _, _, 4095, iss (s := State.reset) (w := wgOf (gPtr 4095)) (gr := bootGrid) rfl rfl rfl rfl rfl (by decide +kernel) rfl rfl, by decide, ⟨rfl, rfl⟩, rfl⟩

theorem witness_BarrierInstructions_3 : ∃ (w : _) (s : State) (t : _) (y : Ctx) (r : BarRef) (ptr : Nat), Issues (.barr w) w.com s t y ∧ y.real w.com ≠ 0 ∧ Names y t w (lowestLane (y.real w.com)) r ptr ∧ (t.bar r).err = false ∧ Free t y w.rel w.scope.toNat :=
  ⟨fe (cm 0 false 0) (v 0) (v 0) (v 0) (v 0) 63 true false 2, _, _, _, _, _, iss (s := State.reset) (w := wgOf (gPtr 1)) (gr := bootGrid) rfl rfl rfl rfl rfl (by decide +kernel) rfl rfl, by decide, ⟨rfl, rfl⟩, by decide +kernel, fun _ => by decide +kernel⟩

theorem witness_BarrierInstructions_5 : ∃ (w : _) (s : State) (t : _) (y : Ctx) (r : BarRef) (ptr : Nat), Issues (.barw w) w.com s t y ∧ y.real w.com ≠ 0 ∧ Names y t w (lowestLane (y.real w.com)) r ptr ∧ (t.bar r).err = false ∧ y.sp.arrived = true :=
  ⟨fe (cm 0 false 0) (v 0) (v 0) (v 0) (v 0) 63 false false 0, _, _, _, _, _, iss (s := State.reset) (w := wgOf ({ gPtr 1 with table := [some { sp0 with mask := 1, arrived := true }, none, none, none, none, none, none, none] })) (gr := bootGrid) rfl rfl rfl rfl rfl (by decide +kernel) rfl rfl, by decide, ⟨rfl, rfl⟩, by decide +kernel, rfl⟩

theorem witness_BarrierInstructions_6 : ∃ (w : _) (s : State) (t : _) (y : Ctx) (r : BarRef) (ptr : Nat), Issues (.barw w) w.com s t y ∧ y.real w.com ≠ 0 ∧ Names y t w (lowestLane (y.real w.com)) r ptr ∧ (t.bar r).err = false ∧ y.sp.arrived = false ∧ Free t y w.rel w.scope.toNat :=
  ⟨fe (cm 0 false 0) (v 0) (v 0) (v 0) (v 0) 63 true false 2, _, _, _, _, _, iss (s := State.reset) (w := wgOf (gPtr 1)) (gr := bootGrid) rfl rfl rfl rfl rfl (by decide +kernel) rfl rfl, by decide, ⟨rfl, rfl⟩, by decide +kernel, rfl, fun _ => by decide +kernel⟩

theorem witness_BarrierInstructions_8 : ∃ (w : _) (s : State) (t : _) (y : Ctx) (r : BarRef) (ptr : Nat), Issues (.bwait w) w.com s t y ∧ y.real w.com ≠ 0 ∧ Names y t w (lowestLane (y.real w.com)) r ptr ∧ (t.bar r).err = false :=
  ⟨fe (cm 0 false 0) (v 0) (v 0) (v 0) (v 0) 63 false false 0, _, _, _, _, _, iss (s := State.reset) (w := wgOf (gPtr 1)) (gr := bootGrid) rfl rfl rfl rfl rfl (by decide +kernel) rfl rfl, by decide, ⟨rfl, rfl⟩, by decide +kernel⟩

theorem witness_BarrierInstructions_10 : ∃ (w : _) (s : State) (t : _) (y : Ctx) (r : BarRef) (ptr : Nat), Issues (.bexp w) w.com s t y ∧ y.real w.com ≠ 0 ∧ Names y t w (lowestLane (y.real w.com)) r ptr ∧ (t.bar r).err = false ∧ Free t y w.rel w.scope.toNat :=
  ⟨fe (cm 2 false 0) (v 0) (v 0) (v 0) (v 0) 63 true false 2, _, _, _, _, _, iss (s := State.reset) (w := wgOf (gPtr 1)) (gr := bootGrid) rfl rfl rfl rfl rfl (by decide +kernel) rfl rfl, by decide, ⟨rfl, rfl⟩, by decide +kernel, fun _ => by decide +kernel⟩

theorem witness_BarrierInstructions_by_pointer : ∃ (w : _) (s : State) (t : _) (y : Ctx) (r : BarRef) (ptr : Nat), Issues (.bqry w) w.com s t y ∧ y.real w.com ≠ 0 ∧ Names y t w (lowestLane (y.real w.com)) r ptr :=
  ⟨fe (cm 8 false 0) (v 0) (v 6) (v 0) (v 0) 0 false false 0, _, _, _, _, _, iss (s := State.reset) (w := wgOf (gPtr (2 * 2 ^ 60 + 0x3F0))) (gr := bootGrid) rfl rfl rfl rfl rfl (by decide +kernel) rfl rfl, by decide, ⟨rfl, 16, 0, 0x3F0, okPtr_some (by decide +kernel), by decide, rfl⟩⟩

theorem witness_BarrierInstructions_12 : ∃ (w : _) (s : State) (t : _) (y : Ctx) (r : BarRef) (ptr : Nat), Issues (.bqry w) w.com s t y ∧ y.real w.com ≠ 0 ∧ Names y t w (lowestLane (y.real w.com)) r ptr :=
  ⟨fe (cm 0 false 0) (v 0) (v 0) (v 0) (v 0) 63 false false 0, _, _, _, _, _, iss (s := State.reset) (w := wgOf (gPtr 1)) (gr := bootGrid) rfl rfl rfl rfl rfl (by decide +kernel) rfl rfl, by decide, ⟨rfl, rfl⟩⟩

theorem witness_BarrierInstructions_13 : ∃ (i : Instr) (c : Common) (s : State) (t : _) (y : Ctx) (w : FormE) (r : BarRef) (ptr : Nat), (i = .barr w ∨ i = .barw w ∨ i = .bwait w ∨ i = .bexp w) ∧ c = w.com ∧ Issues i c s t y ∧ y.real c ≠ 0 ∧ Names y t w (lowestLane (y.real c)) r ptr ∧ (t.bar r).err = true :=
  ⟨Instr.barr (fe (cm 0 false 0) (v 0) (v 0) (v 0) (v 0) 63 false false 0), _, _, _, _, fe (cm 0 false 0) (v 0) (v 0) (v 0) (v 0) 63 false false 0, _, _, .inl rfl, rfl, iss (s := { State.reset.modCore 0 (fun c => { c with scr := [(16 * 63, 0x40)] }) with focus := none }) (w := wgOf (gPtr 1)) (gr := bootGrid) rfl rfl rfl rfl rfl (by decide +kernel) rfl rfl, by decide, ⟨rfl, rfl⟩, by decide +kernel⟩

theorem witness_BarrierObjects_1 : ∃ (o : BarObj) (tag : _), tag % 16 ≠ o.gen :=
  ⟨({ gen := 0, pin := false, pout := false, err := false, pend := 0, exp := 1, inb := 0, outb := 0 } : BarObj), 17, by decide⟩

theorem witness_BarrierObjects_2 : ∃ (o : BarObj) (tag : _), tag % 16 = o.gen :=
  ⟨({ gen := 15, pin := true, pout := true, err := false, pend := 4095, exp := 4095, inb := 2 ^ 47 - 1, outb := -(2 ^ 47) } : BarObj), 31, by decide⟩

theorem witness_BarrierObjects_3 : ∃ (o : BarObj) (tag : _), tag % 16 = o.gen :=
  ⟨({ gen := 15, pin := true, pout := true, err := false, pend := 4095, exp := 4095, inb := 2 ^ 47 - 1, outb := -(2 ^ 47) } : BarObj), 15, by decide⟩

theorem witness_BarrierObjects_6 : ∃ (o : BarObj), o.err = false ∧ o.pend = 0 ∧ o.inb = 0 ∧ o.outb = 0 :=
  ⟨({ gen := 0, pin := false, pout := false, err := false, pend := 0, exp := 1, inb := 0, outb := 0 } : BarObj), rfl, rfl, rfl, rfl⟩

theorem witness_BarrierObjects_7 : ∃ (o : BarObj), (o.err = true ∨ o.pend ≠ 0 ∨ o.inb ≠ 0 ∨ o.outb ≠ 0) :=
  ⟨({ gen := 15, pin := true, pout := true, err := false, pend := 4095, exp := 4095, inb := 2 ^ 47 - 1, outb := -(2 ^ 47) } : BarObj), .inr (.inl (by decide))⟩

theorem witness_BarrierObjects_8 : ∃ (o : BarObj), o.gen < 16 ∧ o.pend < 4096 ∧ o.exp < 4096 ∧ -(2 ^ 47) ≤ o.inb ∧ o.inb < 2 ^ 47 ∧ -(2 ^ 47) ≤ o.outb ∧ o.outb < 2 ^ 47 :=
  ⟨({ gen := 15, pin := true, pout := true, err := false, pend := 4095, exp := 4095, inb := 2 ^ 47 - 1, outb := -(2 ^ 47) } : BarObj), by decide, by decide, by decide, by decide, by decide, by decide, by decide⟩

theorem witness_BarrierObjects_9 : ∃ (s : State) (r : BarRef) (w : Workgroup) (o : BarObj) (q : Nat) (f : BarObj → BarObj × Nat) (v : State) (x : State), s.wg? r.wg = some w ∧ w.phase = .resident ∧ (o, q) = f (s.bar r) ∧ v = s.scrWrite w r.win (16 * r.id) (leBytes 16 o.complete.toNat) ∧ (if q = 0 then x = v else ∃ c : LogRec, c.code = 0x20 ∧ c.aux = q + 256 * r.id ∧ c.uno = w.cores.getD r.win 0 ∧ c.ctx = w.ctx ∧ c.ten = w.ten ∧ x = v.logRec c ∧ c.unit = w.cores.getD r.win 0 / 48 ∧ c.sev = 1 ∧ c.src = 5 ∧ c.pasid = 0 ∧ c.va = 0 ∧ c.pa = 0) :=
  ⟨shown State.reset (wgOf (gPtr 1)) bootGrid, { wg := 0, win := 0, id := 63 }, wgOf (gPtr 1), _, 2, (fun b => b.fail 2), _, _, rfl, rfl, by rfl, rfl, ⟨{ code := 0x20, sev := 1, unit := 0, uno := 0, ten := 0, ctx := 0, src := 5, aux := 2 + 256 * 63, pasid := 0, va := 0, pa := 0 }, rfl, rfl, rfl, rfl, rfl, rfl, rfl, rfl, rfl, rfl, rfl, rfl⟩⟩

theorem witness_CountersAddAndWait_0 : ∃ (w : _) (s : State) (t : _) (y : Ctx), Issues (.cntadd w) w.com s t y ∧ y.real w.com = 0 :=
  ⟨fe (cm 0 false 1) (v 0) (v 0) (v 0) (v 0) 0 false false 0, _, _, _, iss (s := State.reset) (w := wgOf (gp sp0)) (gr := bootGrid) rfl rfl rfl rfl rfl (by decide +kernel) rfl rfl, by decide⟩

theorem witness_CountersAddAndWait_1 : ∃ (w : _) (s : State) (t : _) (y : Ctx) (p : LanePlan) (v : State) (key : Nat) (win : Nat) (off : Nat) (g : Workgroup), Issues (.cntadd w) w.com s t y ∧ y.real w.com ≠ 0 ∧ LanesPass y t { spaces := [0, 2, 3, 6], width := 8, align := 8, wr := true, gw := w.com.u } .wr [(lowestLane (y.real w.com), whole y (lowestLane (y.real w.com)) w.a true)] [p] ∧ Free t y w.rel w.scope.toNat ∧ t.resPoisoned p.res 8 = false ∧ NoFlits y t ∧ v = (answersUsed y t).markLeaves [p] true ∧ p.res = .scr key win off ∧ v.wg? key = some g ∧ v.resPoisoned p.res 8 = false :=
  ⟨fe (cm 0 false 0) (v 0) (v 6) (v 8) (v 0) 0 true false 4, _, _, _, { lane := 0, ptr := (2 * 2 ^ 60 + 4088), res := .scr 0 0 4088 }, _, 0, 0, 4088, _, iss (s := State.reset) (w := wgOf (gPtr (2 * 2 ^ 60 + 4088) 1)) (gr := bigGrid) rfl rfl rfl rfl rfl (by decide +kernel) rfl rfl, by decide, pass1 (l := 0) (p := (2 * 2 ^ 60 + 4088)) (by decide +kernel) (by decide +kernel), fun _ => by decide +kernel, by decide +kernel, fun f hf => absurd hf List.not_mem_nil, rfl, rfl, rfl, by decide +kernel⟩

theorem witness_CountersAddAndWait_2 : ∃ (w : _) (s : State) (t : _) (y : Ctx) (p : LanePlan) (v : State) (pa : Nat) (lf : Nat), Issues (.cntadd w) w.com s t y ∧ y.real w.com ≠ 0 ∧ LanesPass y t { spaces := [0, 2, 3, 6], width := 8, align := 8, wr := true, gw := w.com.u } .wr [(lowestLane (y.real w.com), whole y (lowestLane (y.real w.com)) w.a true)] [p] ∧ Free t y w.rel w.scope.toNat ∧ t.resPoisoned p.res 8 = false ∧ NoFlits y t ∧ v = (answersUsed y t).markLeaves [p] true ∧ p.res = .line pa lf ∧ v.resPoisoned p.res 8 = false :=
  ⟨fe (cm 0 false 0) (v 0) (v 6) (v 8) (v 0) 0 true false 4, _, _, _, { lane := 0, ptr := 0x1FF8, res := .line 0x201FF8 0x5008 }, _, _, _, iss (s := ms) (w := wgOf (gPtr 0x1FF8 1)) (gr := bootGrid) rfl rfl rfl rfl rfl (by decide +kernel) rfl rfl, by decide, pass1 (l := 0) (p := 8184) (by decide +kernel) (by decide +kernel), fun _ => by decide +kernel, by decide +kernel, fun f hf => absurd hf List.not_mem_nil, rfl, rfl, by decide +kernel⟩

theorem witness_CountersAddAndWait_3 : ∃ (w : _) (s : State) (t : _) (y : Ctx), Issues (.cntwait w) w.com s t y ∧ y.real w.com = 0 :=
  ⟨fe (cm 0 false 1) (v 0) (v 0) (v 0) (v 0) 0 false false 0, _, _, _, iss (s := State.reset) (w := wgOf (gp sp0)) (gr := bootGrid) rfl rfl rfl rfl rfl (by decide +kernel) rfl rfl, by decide⟩

theorem witness_CountersAddAndWait_4 : ∃ (w : _) (s : State) (t : _) (y : Ctx) (p : LanePlan) (v : State) (n : Nat) (key : Nat) (win : Nat) (off : Nat) (g : Workgroup), Issues (.cntwait w) w.com s t y ∧ y.real w.com ≠ 0 ∧ LanesPass y t { spaces := [0, 2, 3, 6], width := 8, align := 8 } .rd [(lowestLane (y.real w.com), whole y (lowestLane (y.real w.com)) w.a true)] [p] ∧ v = t.markLeaves [p] false ∧ n = whole y (lowestLane (y.real w.com)) w.b true ∧ NoFlits y v ∧ NoLoads y v ∧ p.res = .scr key win off ∧ v.wg? key = some g ∧ v.resPoisoned p.res 8 = false :=
  ⟨fe (cm 0 false 0) (v 0) (v 6) (v 8) (v 0) 0 false true 4, _, _, _, { lane := 0, ptr := (2 * 2 ^ 60 + 4088), res := .scr 0 0 4088 }, _, _, 0, 0, 4088, _, iss (s := State.reset) (w := wgOf (gPtr (2 * 2 ^ 60 + 4088) 1)) (gr := bigGrid) rfl rfl rfl rfl rfl (by decide +kernel) rfl rfl, by decide, pass1 (l := 0) (p := (2 * 2 ^ 60 + 4088)) (by decide +kernel) (by decide +kernel), rfl, rfl, fun f hf => absurd hf List.not_mem_nil, fun f hf => absurd hf List.not_mem_nil, rfl, rfl, by decide +kernel⟩

theorem witness_CountersAddAndWait_5 : ∃ (w : _) (s : State) (t : _) (y : Ctx) (p : LanePlan) (v : State) (n : Nat) (pa : Nat) (lf : Nat), Issues (.cntwait w) w.com s t y ∧ y.real w.com ≠ 0 ∧ LanesPass y t { spaces := [0, 2, 3, 6], width := 8, align := 8 } .rd [(lowestLane (y.real w.com), whole y (lowestLane (y.real w.com)) w.a true)] [p] ∧ v = t.markLeaves [p] false ∧ n = whole y (lowestLane (y.real w.com)) w.b true ∧ NoFlits y v ∧ NoLoads y v ∧ p.res = .line pa lf ∧ v.resPoisoned p.res 8 = false :=
  ⟨fe (cm 0 false 0) (v 0) (v 6) (v 8) (v 0) 0 false true 4, _, _, _, { lane := 0, ptr := 0x1FF8, res := .line 0x201FF8 0x5008 }, _, _, _, _, iss (s := ms) (w := wgOf (gPtr 0x1FF8 1)) (gr := bootGrid) rfl rfl rfl rfl rfl (by decide +kernel) rfl rfl, by decide, pass1 (l := 0) (p := 8184) (by decide +kernel) (by decide +kernel), rfl, rfl, fun f hf => absurd hf List.not_mem_nil, fun f hf => absurd hf List.not_mem_nil, rfl, by decide +kernel⟩

theorem witness_CountersAddAndWait_6 : ∃ (w : _) (s : State) (t : _) (y : Ctx) (p : LanePlan) (v : State) (n : Nat) (pa : Nat) (lf : Nat), Issues (.cntwait w) w.com s t y ∧ y.real w.com ≠ 0 ∧ LanesPass y t { spaces := [0, 2, 3, 6], width := 8, align := 8 } .rd [(lowestLane (y.real w.com), whole y (lowestLane (y.real w.com)) w.a true)] [p] ∧ v = t.markLeaves [p] false ∧ n = whole y (lowestLane (y.real w.com)) w.b true ∧ NoFlits y v ∧ NoLoads y v ∧ p.res = .line pa lf ∧ v.resPoisoned p.res 8 = true :=
  ⟨fe (cm 0 false 0) (v 0) (v 6) (v 8) (v 0) 0 false true 4, _, _, _, { lane := 0, ptr := 0x1FF8, res := .line 0x201FF8 0x5008 }, _, _, _, _, iss (s := (ms.poisonSectors 0x201FE0 32)) (w := wgOf (gPtr 0x1FF8 1)) (gr := bootGrid) rfl rfl rfl rfl rfl (by decide +kernel) rfl rfl, by decide, pass1 (l := 0) (p := 8184) (by decide +kernel) (by decide +kernel), rfl, rfl, fun f hf => absurd hf List.not_mem_nil, fun f hf => absurd hf List.not_mem_nil, rfl, by decide +kernel⟩

theorem witness_ChannelsBindAndTell_0 : ∃ (w : _) (s : State) (t : _) (y : Ctx), Issues (.chbind w) w.com s t y ∧ y.real w.com = 0 :=
  ⟨fe (cm 0 false 1) (v 0) (v 0) (v 0) (v 0) 64 false false 0, _, _, _, iss (s := State.reset) (w := wgOf (gp sp0)) (gr := bootGrid) rfl rfl rfl rfl rfl (by decide +kernel) rfl rfl, by decide⟩

theorem witness_ChannelsBindAndTell_1 : ∃ (w : _) (s : State) (t : _) (y : Ctx) (l : Nat) (ch : Nat), Issues (.chbind w) w.com s t y ∧ y.real w.com ≠ 0 ∧ l = lowestLane (y.real w.com) ∧ ch = w.eimm.toNat % 16 ∧ w.com.mod.getLsbD 2 = true :=
  ⟨fe (cm 4 false 0) (v 0) (v 0) (v 0) (v 0) 15 false false 0, _, _, _, _, _, iss (s := State.reset) (w := wgOf (gPtr 0)) (gr := bootGrid) rfl rfl rfl rfl rfl (by decide +kernel) rfl rfl, by decide, rfl, rfl, rfl⟩

theorem witness_ChannelsBindAndTell_2 : ∃ (w : _) (s : State) (t : _) (y : Ctx) (l : Nat) (ch : Nat), Issues (.chbind w) w.com s t y ∧ y.real w.com ≠ 0 ∧ l = lowestLane (y.real w.com) ∧ ch = w.eimm.toNat % 16 ∧ w.com.mod.getLsbD 2 = false ∧ (y.wg.chan ch).v = true :=
  ⟨fe (cm 0 false 0) (v 0) (v 0) (v 0) (v 0) 67 false false 0, _, _, _, _, _, iss (s := State.reset) (w := { wgOf (gPtr 0) with chans := (wgOf (gPtr 0)).chans.set 3 { v := true, kind := 0, ptr := 2 ^ 61 + 0x400 } }) (gr := bootGrid) rfl rfl rfl rfl rfl (by decide +kernel) rfl rfl, by decide, rfl, rfl, rfl, by decide +kernel⟩

theorem witness_ChannelsBindAndTell_3 : ∃ (w : _) (s : State) (t : _) (y : Ctx) (l : Nat) (ch : Nat), Issues (.chbind w) w.com s t y ∧ y.real w.com ≠ 0 ∧ l = lowestLane (y.real w.com) ∧ ch = w.eimm.toNat % 16 ∧ w.com.mod.getLsbD 2 = false ∧ (y.wg.chan ch).v = false ∧ bitOf y.gr.k.chmask ch = false :=
  ⟨fe (cm 0 false 0) (v 0) (v 0) (v 0) (v 0) 67 false false 0, _, _, _, _, _, iss (s := State.reset) (w := wgOf (gPtr 0)) (gr := { bootGrid with k := { bootKernel with chmask := 0xFFF7 } }) rfl rfl rfl rfl rfl (by decide +kernel) rfl rfl, by decide, rfl, rfl, rfl, by decide +kernel, by decide +kernel⟩

theorem witness_ChannelsBindAndTell_4 : ∃ (w : _) (s : State) (t : _) (y : Ctx) (l : Nat) (ch : Nat) (p : Nat) (off : Nat), Issues (.chbind w) w.com s t y ∧ y.real w.com ≠ 0 ∧ l = lowestLane (y.real w.com) ∧ ch = w.eimm.toNat % 16 ∧ w.com.mod = 0 ∧ (y.wg.chan ch).v = false ∧ bitOf y.gr.k.chmask ch = true ∧ p = whole y l w.a true ∧ p / 2 ^ 21 = 2 ^ 40 ∧ off = p % 2 ^ 21 ∧ off % 16 = 0 ∧ 0x400 ≤ off ∧ off + 16 + 4 * 2 ^ (w.eimm.toNat / 16 % 32) ≤ windowBytes y.gr y.wg :=
  ⟨fe (cm 0 false 0) (v 0) (v 6) (v 0) (v 0) 67 false false 0, _, _, _, _, _, _, _, iss (s := State.reset) (w := wgOf (gPtr (2 ^ 61 + 4096 - 16 - 64))) (gr := { bootGrid with k := { bootKernel with scratch := 4096, chmask := 8 } }) rfl rfl rfl rfl rfl (by decide +kernel) rfl rfl, by decide, rfl, rfl, rfl, by decide +kernel, by decide +kernel, rfl, by decide +kernel, rfl, by decide +kernel, by decide +kernel, by decide +kernel⟩

theorem witness_ChannelsBindAndTell_6 : ∃ (w : _) (s : State) (t : _) (y : Ctx), Issues (.chstat w) w.com s t y ∧ Off w.com y :=
  ⟨fl (cm 0 false 1) (v 4) (v 3) (v 0) (v 0) 0, _, _, _, iss (s := State.reset) (w := wgOf (gp sp0)) (gr := bootGrid) rfl rfl rfl rfl rfl (by decide +kernel) rfl rfl, by unfold Off; decide⟩

theorem witness_ChannelsBindAndTell_7 : ∃ (w : _) (s : State) (t : _) (y : Ctx), Issues (.chstat w) w.com s t y ∧ ¬ Off w.com y :=
  ⟨fl (cm 0 false 0) (v 4) (v 15) (v 0) (v 0) 0, _, _, _, iss (s := State.reset) (w := wgOf (gPtr 0)) (gr := bootGrid) rfl rfl rfl rfl rfl (by decide +kernel) rfl rfl, by unfold Off; decide⟩

theorem witness_ChannelsBindAndTell_8 : ∃ (w : _) (s : State) (t : _) (y : Ctx), Issues (.dbell w) w.com s t y ∧ y.real w.com = 0 :=
  ⟨fe (cm 0 false 1) (v 0) (v 0) (v 0) (v 0) 0 false false 0, _, _, _, iss (s := State.reset) (w := wgOf (gp sp0)) (gr := bootGrid) rfl rfl rfl rfl rfl (by decide +kernel) rfl rfl, by decide⟩

theorem witness_ChannelsBindAndTell_9 : ∃ (w : _) (s : State) (t : _) (y : Ctx) (c : Chan), Issues (.dbell w) w.com s t y ∧ y.real w.com ≠ 0 ∧ c = y.wg.chan (w.eimm.toNat % 16) :=
  ⟨fe (cm 0 false 0) (v 0) (v 0) (v 0) (v 0) 3 false false 0, _, _, _, _, iss (s := State.reset) (w := wgOf (gPtr 0)) (gr := bootGrid) rfl rfl rfl rfl rfl (by decide +kernel) rfl rfl, by decide, rfl⟩

theorem witness_ChannelsBindAndTell_5 : ∃ (w : _) (s : State) (t : _) (y : Ctx) (l : Nat) (ch : Nat) (p : Nat) (v : State) (b : List Byte) (q : LanePlan), Issues (.chbind w) w.com s t y ∧ y.real w.com ≠ 0 ∧ l = lowestLane (y.real w.com) ∧ ch = w.eimm.toNat % 16 ∧ (w.com.mod = 1 ∨ w.com.mod = 2 ∨ w.com.mod = 3) ∧ (y.wg.chan ch).v = false ∧ bitOf y.gr.k.chmask ch = true ∧ p = whole y l w.a true ∧ p % 64 = 0 ∧ LanesPass y t { spaces := [0], width := 64, align := 1 } .rd [(l, p)] [q] ∧ t.resPoisoned q.res 64 = false ∧ v = t.markLeaves [q] false ∧ v.vread y.gr.pasid (p % 2 ^ 56) 64 = some b ∧ b.length = 64 ∧ bindingOk w.com.mod.toNat b = true ∧ (w.com.mod = 3 ∨ fieldAt b 0x18 8 = 0 ∨ v.granted y.wg.ten (fieldAt b 0x18 8) = true) :=
  ⟨fe (cm 1 false 0) (v 0) (v 6) (v 0) (v 0) 3 false false 0, _, _, _, _, _, _, _, [0, 0, 0, 0, 0, 0, 0, 0, 2, 0, 0, 0, 1] ++ List.replicate 51 0, { lane := 0, ptr := 4096, res := .line 0x201000 0x5008 }, iss (s := (ms.rawWrite 0x201008 (leBytes 5 (2 + 2 ^ 32)))) (w := wgOf (gPtr 0x1000)) (gr := { bootGrid with k := { bootKernel with chmask := 8 } }) rfl rfl rfl rfl rfl (by decide +kernel) rfl rfl, by decide, rfl, rfl, .inl rfl, by decide +kernel, by decide +kernel, rfl, by decide +kernel, pass1 (l := 0) (p := 4096) (by decide +kernel) (by decide +kernel), by decide +kernel, rfl, by decide +kernel, by decide +kernel, by decide +kernel, by decide +kernel⟩

/-! ### Matrix unit -/

theorem one_lane {α : Type} {p : α → Prop} {a : α} (h : p a) : ∀ l ∈ [a], p l := fun l hl => by rw [List.mem_singleton.mp hl]; exact h
theorem rows_free {y : Ctx} {t : State} {rows : List Nat} (h : (t.core y.g.core).mops = []) : RowsFree y t rows := by
  unfold RowsFree; simp [h]
/-- A group of one lane with accumulator rows 0 to 15, an offset in v6 and a word in v8. -/
def gAcc (p d : Nat) : Group := { gPtr p d with alimit := 16 }
def accGrid : Grid := { bootGrid with k := { bootKernel with scratch := 32768, acc := 16 } }
/-- Array 1 of core 0 taken by the first workgroup, with live data of a format. -/
def arrState (fmt : Nat) : State := State.reset.modArray 0 1 (fun a => { a with owner := some 0, live := { a.live with valid := true, fmt := fmt } })

theorem witness_MatrixCommands_0 : ∃ (w : _) (s : State) (t : _) (y : Ctx), Issues (.mlds w) w.com s t y ∧ y.real w.com = 0 :=
  ⟨fe (cm 0 false 1) (v 0) (v 0) (v 0) (v 0) 0 false false 0, _, _, _, iss (s := State.reset) (w := wgOf (gp sp0)) (gr := bootGrid) rfl rfl rfl rfl rfl (by decide +kernel) rfl rfl, by decide⟩

theorem witness_MatrixCommands_1 : ∃ (w : _) (s : State) (t : _) (y : Ctx) (l : Nat) (n : Nat) (fmt : Nat) (p : Nat) (st : Nat) (pl : Plane), Issues (.mlds w) w.com s t y ∧ y.real w.com ≠ 0 ∧ l = lowestLane (y.real w.com) ∧ n = w.eimm.toNat % 2 ∧ fmt = w.eimm.toNat / 2 % 16 ∧ p = whole y l w.a false ∧ st = whole y l w.b false ∧ MayTake y t n ∧ p % 16 = 0 ∧ st % 16 = 0 ∧ 208 ≤ st ∧ p + 127 * st + 208 ≤ windowBytes y.gr y.wg ∧ (fmt = 1 → ∀ j < 128, ∀ m < 6, (t.scrRead y.wg y.win (p + j * st + 192) 12).getD (2 * m) 0 = (t.scrRead y.wg y.win (p + j * st + 192) 12).getD (2 * m + 1) 0) ∧ pl = { cols := (List.range 128).map (fun j => t.scrRead y.wg y.win (p + j * st) 192), scales := (List.range 128).map (fun j => (List.range 6).map (fun m => (t.scrRead y.wg y.win (p + j * st + 192 + (if fmt = 1 then 2 * m else m)) 1).headD 0)), fmt := fmt, valid := true, poison := (List.range 128).any (fun j => t.scrPoisoned y.wg y.win (p + j * st) 208) } :=
  ⟨fe (cm 0 false 0) (v 0) (v 6) (v 8) (v 0) 5 false false 0, _, _, _, _, _, _, _, _, _, iss (s := State.reset) (w := wgOf (gAcc 6144 208)) (gr := accGrid) rfl rfl rfl rfl rfl (by decide +kernel) rfl rfl, by decide, rfl, rfl, rfl, rfl, rfl, .inl (by decide +kernel), by decide, by decide, by decide, by decide, fun h => absurd h (by decide), rfl⟩

theorem witness_MatrixCommands_m4 : ∃ (w : _) (s : State) (t : _) (y : Ctx) (l : Nat) (n : Nat) (fmt : Nat) (p : Nat) (st : Nat) (pl : Plane), Issues (.mlds w) w.com s t y ∧ y.real w.com ≠ 0 ∧ l = lowestLane (y.real w.com) ∧ n = w.eimm.toNat % 2 ∧ fmt = w.eimm.toNat / 2 % 16 ∧ p = whole y l w.a false ∧ st = whole y l w.b false ∧ MayTake y t n ∧ p % 16 = 0 ∧ st % 16 = 0 ∧ 208 ≤ st ∧ p + 127 * st + 208 ≤ windowBytes y.gr y.wg ∧ (fmt = 1 → ∀ j < 128, ∀ m < 6, (t.scrRead y.wg y.win (p + j * st + 192) 12).getD (2 * m) 0 = (t.scrRead y.wg y.win (p + j * st + 192) 12).getD (2 * m + 1) 0) ∧ pl = { cols := (List.range 128).map (fun j => t.scrRead y.wg y.win (p + j * st) 192), scales := (List.range 128).map (fun j => (List.range 6).map (fun m => (t.scrRead y.wg y.win (p + j * st + 192 + (if fmt = 1 then 2 * m else m)) 1).headD 0)), fmt := fmt, valid := true, poison := (List.range 128).any (fun j => t.scrPoisoned y.wg y.win (p + j * st) 208) } :=
  ⟨fe (cm 0 false 0) (v 0) (v 6) (v 8) (v 0) 3 false false 0, _, _, _, _, _, _, _, _, _, iss (s := State.reset) (w := wgOf (gAcc 6144 208)) (gr := accGrid) rfl rfl rfl rfl rfl (by decide +kernel) rfl rfl, by decide, rfl, rfl, rfl, rfl, rfl, .inl (by decide +kernel), by decide, by decide, by decide, by decide, fun _ => by decide +kernel, rfl⟩

theorem witness_MatrixCommands_2 : ∃ (w : _) (s : State) (t : _) (y : Ctx), Issues (.mswp w) w.com s t y ∧ y.real w.com = 0 :=
  ⟨fe (cm 0 false 1) (v 0) (v 0) (v 0) (v 0) 0 false false 0, _, _, _, iss (s := State.reset) (w := wgOf (gp sp0)) (gr := bootGrid) rfl rfl rfl rfl rfl (by decide +kernel) rfl rfl, by decide⟩

theorem witness_MatrixCommands_3 : ∃ (w : _) (s : State) (t : _) (y : Ctx) (n : Nat), Issues (.mswp w) w.com s t y ∧ y.real w.com ≠ 0 ∧ n = w.eimm.toNat % 2 ∧ MayTake y t n :=
  ⟨fe (cm 0 false 0) (v 0) (v 0) (v 0) (v 0) 1 false false 0, _, _, _, _, iss (s := arrState 0) (w := wgOf (gAcc 0 0)) (gr := bootGrid) rfl rfl rfl rfl rfl (by decide +kernel) rfl rfl, by decide, rfl, .inr (by decide +kernel)⟩

theorem witness_MatrixCommands_4 : ∃ (a : Arr) (d : ArrCmd) (pre : List ArrCmd) (post : List ArrCmd), a.queue = pre ++ post ∧ (∀ c ∈ pre, NoLater c d) ∧ (∀ c q, post = c :: q → ¬ NoLater c d) :=
  ⟨{ queue := [.swap 3 0, .swap 4 3] }, .swap 4 2, [.swap 3 0], [.swap 4 3], rfl, one_lane (by unfold NoLater; decide), fun c q h => by cases h; unfold NoLater; decide⟩

theorem witness_MatrixCommands_6 : ∃ (w : _) (s : State) (t : _) (y : Ctx), Issues (.mma w) w.com s t y ∧ y.real w.com = 0 :=
  ⟨fe (cm 0 false 1) (sr 4) (v 6) (v 8) (v 0) 0 false false 0, _, _, _, iss (s := State.reset) (w := wgOf (gp sp0)) (gr := bootGrid) rfl rfl rfl rfl rfl (by decide +kernel) rfl rfl, by decide⟩

theorem witness_MatrixCommands_7_pair : ∃ (w : _) (s : State) (t : _) (y : Ctx) (ls : List Nat) (n : Nat) (pair : Bool) (nb : Nat) (fw : W32) (first : Nat → Nat) (off : Nat → Nat) (named : List Nat), Issues (.mma w) w.com s t y ∧ ls = lanesOf (y.real w.com) ∧ ls ≠ [] ∧ n = w.eimm.toNat % 2 ∧ (∀ l ∈ ls, word32 y l w.b = fw) ∧ fwLegal fw = true ∧ pair = decide (fwAcc fw = 1) ∧ nb = (if fwAf fw < 2 then 208 else 192) ∧ ((t.core y.g.core).array n).owner = some y.wg.key ∧ ((t.core y.g.core).array n).liveNext = (true, fwBf fw) ∧ (∀ l, first l = y.g.abase + whole y 0 w.d false + (if pair then 2 * l else l)) ∧ (∀ l, off l = whole y l w.a false) ∧ (∀ l ∈ ls, InWindow y (first l) (if pair then 2 else 1) ∧ (pair = true → first l % 2 = 0) ∧ off l % 16 = 0 ∧ off l + nb ≤ windowBytes y.gr y.wg) ∧ named = ls.flatMap (fun l => if pair then [coreRow y (first l), coreRow y (first l) + 1] else [coreRow y (first l)]) ∧ ¬ RowsFree y t named :=
  ⟨fe (cm 0 false 0) (sr 4) (v 6) (v 8) (v 0) 1 false false 0, _, _, _, [0], 1, true, 192, 392, _, _, [0, 1], iss (s := ((arrState 8).modCore 0 (fun c => { c with mops := [{ id := 9, wg := 0, rows := [1], doneAt := 0 }] }))) (w := wgOf (gAcc 32576 392)) (gr := accGrid) rfl rfl rfl rfl rfl (by decide +kernel) rfl rfl, by decide +kernel, by decide, rfl, one_lane (by decide +kernel), and4 (by decide +kernel) ⟨by decide +kernel, fun _ => rfl, fun _ => rfl, one_lane ⟨⟨by decide +kernel, by decide +kernel⟩, by decide +kernel, by decide +kernel, by decide +kernel⟩, by decide +kernel, fun h => absurd (h { id := 9, wg := 0, rows := [1], doneAt := 0 } (by decide +kernel) 1 (by decide)) (by decide +kernel)⟩⟩

theorem witness_MatrixCommands_8_pair : ∃ (w : _) (s : State) (t : _) (y : Ctx) (ls : List Nat) (n : Nat) (pair : Bool) (nb : Nat) (fw : W32) (first : Nat → Nat) (off : Nat → Nat) (named : List Nat) (qs : List (List RowJob)) (u : State) (v : State), Issues (.mma w) w.com s t y ∧ ls = lanesOf (y.real w.com) ∧ ls ≠ [] ∧ n = w.eimm.toNat % 2 ∧ (∀ l ∈ ls, word32 y l w.b = fw) ∧ fwLegal fw = true ∧ pair = decide (fwAcc fw = 1) ∧ nb = (if fwAf fw < 2 then 208 else 192) ∧ ((t.core y.g.core).array n).owner = some y.wg.key ∧ ((t.core y.g.core).array n).liveNext = (true, fwBf fw) ∧ (∀ l, first l = y.g.abase + whole y 0 w.d false + (if pair then 2 * l else l)) ∧ (∀ l, off l = whole y l w.a false) ∧ (∀ l ∈ ls, InWindow y (first l) (if pair then 2 else 1) ∧ (pair = true → first l % 2 = 0) ∧ off l % 16 = 0 ∧ off l + nb ≤ windowBytes y.gr y.wg) ∧ named = ls.flatMap (fun l => if pair then [coreRow y (first l), coreRow y (first l) + 1] else [coreRow y (first l)]) ∧ RowsFree y t named ∧ qs = ((List.range 4).map (fun q => (ls.filter (fun l => l / 8 == q)).map (fun l => ({ lane := l, row := coreRow y (first l), bytes := t.scrRead y.wg y.win (off l) nb, poison := t.scrPoisoned y.wg y.win (off l) nb } : RowJob)))).filter (· != []) ∧ u = { t with nextId := t.nextId + 1 } ∧ v = u.modCore y.g.core (fun c => { c with mops := c.mops ++ [{ id := t.nextId, wg := y.wg.key, rows := named, mma := some (fw, w.com.mod.getLsbD 0, w.com.mod.getLsbD 1), quarters := qs, doneAt := t.cycle }] }) :=
  ⟨fe (cm 0 false 0) (sr 4) (v 6) (v 8) (v 0) 1 false false 0, _, _, _, [0], 1, true, 192, 392, _, _, [0, 1], _, _, _, iss (s := (arrState 8)) (w := wgOf (gAcc 32576 392)) (gr := accGrid) rfl rfl rfl rfl rfl (by decide +kernel) rfl rfl, by decide +kernel, by decide, rfl, one_lane (by decide +kernel), and4 (by decide +kernel) ⟨by decide +kernel, fun _ => rfl, fun _ => rfl, one_lane ⟨⟨by decide +kernel, by decide +kernel⟩, by decide +kernel, by decide +kernel, by decide +kernel⟩, by decide +kernel, rows_free (by decide +kernel), rfl, rfl, rfl⟩⟩

theorem witness_MatrixCommands_8_row : ∃ (w : _) (s : State) (t : _) (y : Ctx) (ls : List Nat) (n : Nat) (pair : Bool) (nb : Nat) (fw : W32) (first : Nat → Nat) (off : Nat → Nat) (named : List Nat) (qs : List (List RowJob)) (u : State) (v : State), Issues (.mma w) w.com s t y ∧ ls = lanesOf (y.real w.com) ∧ ls ≠ [] ∧ n = w.eimm.toNat % 2 ∧ (∀ l ∈ ls, word32 y l w.b = fw) ∧ fwLegal fw = true ∧ pair = decide (fwAcc fw = 1) ∧ nb = (if fwAf fw < 2 then 208 else 192) ∧ ((t.core y.g.core).array n).owner = some y.wg.key ∧ ((t.core y.g.core).array n).liveNext = (true, fwBf fw) ∧ (∀ l, first l = y.g.abase + whole y 0 w.d false + (if pair then 2 * l else l)) ∧ (∀ l, off l = whole y l w.a false) ∧ (∀ l ∈ ls, InWindow y (first l) (if pair then 2 else 1) ∧ (pair = true → first l % 2 = 0) ∧ off l % 16 = 0 ∧ off l + nb ≤ windowBytes y.gr y.wg) ∧ named = ls.flatMap (fun l => if pair then [coreRow y (first l), coreRow y (first l) + 1] else [coreRow y (first l)]) ∧ RowsFree y t named ∧ qs = ((List.range 4).map (fun q => (ls.filter (fun l => l / 8 == q)).map (fun l => ({ lane := l, row := coreRow y (first l), bytes := t.scrRead y.wg y.win (off l) nb, poison := t.scrPoisoned y.wg y.win (off l) nb } : RowJob)))).filter (· != []) ∧ u = { t with nextId := t.nextId + 1 } ∧ v = u.modCore y.g.core (fun c => { c with mops := c.mops ++ [{ id := t.nextId, wg := y.wg.key, rows := named, mma := some (fw, w.com.mod.getLsbD 0, w.com.mod.getLsbD 1), quarters := qs, doneAt := t.cycle }] }) :=
  ⟨fe (cm 0 false 0) (sr 4) (v 6) (v 8) (v 0) 1 false false 0, _, _, _, [0], 1, false, 208, 0, _, _, [0], _, _, _, iss (s := (arrState 0)) (w := wgOf (gAcc 32560 0)) (gr := accGrid) rfl rfl rfl rfl rfl (by decide +kernel) rfl rfl, by decide +kernel, by decide, rfl, one_lane (by decide +kernel), and4 (by decide +kernel) ⟨by decide +kernel, fun _ => rfl, fun _ => rfl, one_lane ⟨⟨by decide +kernel, by decide +kernel⟩, by decide +kernel, by decide +kernel, by decide +kernel⟩, by decide +kernel, rows_free (by decide +kernel), rfl, rfl, rfl⟩⟩

theorem witness_MatrixRows_0 : ∃ (w : _) (s : State) (t : _) (y : Ctx), Issues (.accz w) w.com s t y ∧ y.real w.com = 0 :=
  ⟨fe (cm 0 false 1) (v 0) (sr 4) (sr 6) (v 0) 0 false false 0, _, _, _, iss (s := State.reset) (w := wgOf (gp sp0)) (gr := bootGrid) rfl rfl rfl rfl rfl (by decide +kernel) rfl rfl, by decide⟩

theorem witness_MatrixRows_1 : ∃ (w : _) (s : State) (t : _) (y : Ctx) (l : Nat) (first : Nat) (n : Nat) (rows : List Nat), Issues (.accz w) w.com s t y ∧ y.real w.com ≠ 0 ∧ l = lowestLane (y.real w.com) ∧ first = y.g.abase + whole y l w.a false ∧ n = whole y l w.b false ∧ 1 ≤ n ∧ n ≤ 2048 ∧ InWindow y first n ∧ rows = (List.range n).map (fun k => coreRow y (first + k)) ∧ RowsFree y t rows :=
  ⟨fe (cm 0 false 0) (v 0) (sr 4) (sr 6) (v 0) 0 false false 0, _, _, _, _, _, _, _, iss (s := State.reset) (w := wgOf ({ gAcc 0 0 with sregs := [(4, 14), (6, 2)] })) (gr := accGrid) rfl rfl rfl rfl rfl (by decide +kernel) rfl rfl, by decide, rfl, rfl, rfl, by decide +kernel, by decide +kernel, ⟨by decide +kernel, by decide +kernel⟩, rfl, rows_free (by decide +kernel)⟩

theorem witness_MatrixRows_2 : ∃ (w : _) (s : State) (t : _) (y : Ctx), Issues (.mwin w) w.com s t y ∧ y.real w.com = 0 :=
  ⟨fl (cm 0 false 1) (v 0) (v 6) (v 8) (v 10) 0, _, _, _, iss (s := State.reset) (w := wgOf (gp sp0)) (gr := bootGrid) rfl rfl rfl rfl rfl (by decide +kernel) rfl rfl, by decide⟩

theorem witness_MatrixRows_3 : ∃ (w : _) (s : State) (t : _) (y : Ctx) (l : Nat) (id : Nat) (lo : Nat) (hi : Nat), Issues (.mwin w) w.com s t y ∧ y.real w.com ≠ 0 ∧ l = lowestLane (y.real w.com) ∧ id = whole y l w.a false ∧ lo = whole y l w.b false ∧ hi = whole y l w.c false :=
  ⟨fl (cm 0 false 0) (v 0) (v 6) (v 8) (v 10) 0, _, _, _, _, _, _, _, iss (s := State.reset) (w := wgOf (gAcc 1 16)) (gr := bootGrid) rfl rfl rfl rfl rfl (by decide +kernel) rfl rfl, by decide, rfl, rfl, rfl, rfl⟩

theorem witness_MatrixRows_4 : ∃ (w : _) (s : State) (t : _) (y : Ctx), Issues (.ldacc w) w.com s t y ∧ y.real w.com = 0 :=
  ⟨fe (cm 0 false 1) (sr 4) (v 6) (v 0) (v 0) 0 false false 0, _, _, _, iss (s := State.reset) (w := wgOf (gp sp0)) (gr := bootGrid) rfl rfl rfl rfl rfl (by decide +kernel) rfl rfl, by decide⟩

theorem witness_MatrixRows_6 : ∃ (w : _) (s : State) (t : _) (y : Ctx), Issues (.stacc w) w.com s t y ∧ y.real w.com = 0 :=
  ⟨fe (cm 0 false 1) (sr 4) (v 6) (v 0) (v 0) 0 false false 0, _, _, _, iss (s := State.reset) (w := wgOf (gp sp0)) (gr := bootGrid) rfl rfl rfl rfl rfl (by decide +kernel) rfl rfl, by decide⟩

theorem witness_MatrixRows_5_row : ∃ (w : _) (s : State) (t : _) (y : Ctx) (ls : List Nat) (pair : Bool) (n : Nat) (first : Nat → Nat) (off : Nat → Nat) (named : List Nat), Issues (.ldacc w) w.com s t y ∧ ls = lanesOf (y.real w.com) ∧ ls ≠ [] ∧ pair = w.com.mod.getLsbD 0 ∧ n = (if pair then 1024 else 512) ∧ (∀ l, first l = y.g.abase + whole y 0 w.d false + (if pair then 2 * l else l)) ∧ (∀ l, off l = whole y l w.a false) ∧ (∀ l ∈ ls, InWindow y (first l) (if pair then 2 else 1) ∧ (pair = true → first l % 2 = 0) ∧ off l % 16 = 0 ∧ off l + n ≤ windowBytes y.gr y.wg) ∧ named = ls.flatMap (fun l => if pair then [coreRow y (first l), coreRow y (first l) + 1] else [coreRow y (first l)]) ∧ RowsFree y t named ∧ Free t y w.rel w.scope.toNat :=
  ⟨fe (cm 0 false 0) (sr 4) (v 6) (v 0) (v 0) 0 false true 2, _, _, _, [0], false, 512, _, _, [15], iss (s := State.reset) (w := wgOf ({ gAcc 32256 0 with sregs := [(4, 15)] })) (gr := accGrid) rfl rfl rfl rfl rfl (by decide +kernel) rfl rfl, by decide +kernel, by decide, by decide +kernel, by decide +kernel, fun _ => rfl, fun _ => rfl, one_lane ⟨⟨by decide +kernel, by decide +kernel⟩, by decide +kernel, by decide +kernel, by decide +kernel⟩, by decide +kernel, rows_free (by decide +kernel), fun _ => by decide +kernel⟩

theorem witness_MatrixRows_5_pair : ∃ (w : _) (s : State) (t : _) (y : Ctx) (ls : List Nat) (pair : Bool) (n : Nat) (first : Nat → Nat) (off : Nat → Nat) (named : List Nat), Issues (.ldacc w) w.com s t y ∧ ls = lanesOf (y.real w.com) ∧ ls ≠ [] ∧ pair = w.com.mod.getLsbD 0 ∧ n = (if pair then 1024 else 512) ∧ (∀ l, first l = y.g.abase + whole y 0 w.d false + (if pair then 2 * l else l)) ∧ (∀ l, off l = whole y l w.a false) ∧ (∀ l ∈ ls, InWindow y (first l) (if pair then 2 else 1) ∧ (pair = true → first l % 2 = 0) ∧ off l % 16 = 0 ∧ off l + n ≤ windowBytes y.gr y.wg) ∧ named = ls.flatMap (fun l => if pair then [coreRow y (first l), coreRow y (first l) + 1] else [coreRow y (first l)]) ∧ RowsFree y t named ∧ Free t y w.rel w.scope.toNat :=
  ⟨fe (cm 1 false 0) (sr 4) (v 6) (v 0) (v 0) 0 false true 2, _, _, _, [0], true, 1024, _, _, [14, 15], iss (s := State.reset) (w := wgOf ({ gAcc 31744 0 with sregs := [(4, 14)] })) (gr := accGrid) rfl rfl rfl rfl rfl (by decide +kernel) rfl rfl, by decide +kernel, by decide, by decide +kernel, by decide +kernel, fun _ => rfl, fun _ => rfl, one_lane ⟨⟨by decide +kernel, by decide +kernel⟩, by decide +kernel, by decide +kernel, by decide +kernel⟩, by decide +kernel, rows_free (by decide +kernel), fun _ => by decide +kernel⟩

theorem witness_MatrixRows_7_row : ∃ (w : _) (s : State) (t : _) (y : Ctx) (ls : List Nat) (pair : Bool) (n : Nat) (first : Nat → Nat) (off : Nat → Nat) (named : List Nat), Issues (.stacc w) w.com s t y ∧ ls = lanesOf (y.real w.com) ∧ ls ≠ [] ∧ pair = w.com.mod.getLsbD 0 ∧ n = (if pair then 1024 else 512) ∧ (∀ l, first l = y.g.abase + whole y 0 w.d false + (if pair then 2 * l else l)) ∧ (∀ l, off l = whole y l w.a false) ∧ (∀ l ∈ ls, InWindow y (first l) (if pair then 2 else 1) ∧ (pair = true → first l % 2 = 0) ∧ off l % 16 = 0 ∧ off l + n ≤ windowBytes y.gr y.wg ∧ (y.win = 0 → 0x400 ≤ off l)) ∧ named = ls.flatMap (fun l => if pair then [coreRow y (first l), coreRow y (first l) + 1] else [coreRow y (first l)]) ∧ RowsFree y t named ∧ (∀ r ∈ named, r ∉ (t.core y.g.core).accPoison) ∧ Free t y w.rel w.scope.toNat :=
  ⟨fe (cm 0 false 0) (sr 4) (v 6) (v 0) (v 0) 0 true false 2, _, _, _, [0], false, 512, _, _, [15], iss (s := State.reset) (w := wgOf ({ gAcc 32256 0 with sregs := [(4, 15)] })) (gr := accGrid) rfl rfl rfl rfl rfl (by decide +kernel) rfl rfl, by decide +kernel, by decide, by decide +kernel, by decide +kernel, fun _ => rfl, fun _ => rfl, one_lane ⟨⟨by decide +kernel, by decide +kernel⟩, by decide +kernel, by decide +kernel, by decide +kernel, by decide +kernel⟩, by decide +kernel, rows_free (by decide +kernel), by decide +kernel, fun _ => by decide +kernel⟩

theorem witness_MatrixRows_7_pair : ∃ (w : _) (s : State) (t : _) (y : Ctx) (ls : List Nat) (pair : Bool) (n : Nat) (first : Nat → Nat) (off : Nat → Nat) (named : List Nat), Issues (.stacc w) w.com s t y ∧ ls = lanesOf (y.real w.com) ∧ ls ≠ [] ∧ pair = w.com.mod.getLsbD 0 ∧ n = (if pair then 1024 else 512) ∧ (∀ l, first l = y.g.abase + whole y 0 w.d false + (if pair then 2 * l else l)) ∧ (∀ l, off l = whole y l w.a false) ∧ (∀ l ∈ ls, InWindow y (first l) (if pair then 2 else 1) ∧ (pair = true → first l % 2 = 0) ∧ off l % 16 = 0 ∧ off l + n ≤ windowBytes y.gr y.wg ∧ (y.win = 0 → 0x400 ≤ off l)) ∧ named = ls.flatMap (fun l => if pair then [coreRow y (first l), coreRow y (first l) + 1] else [coreRow y (first l)]) ∧ RowsFree y t named ∧ (∀ r ∈ named, r ∉ (t.core y.g.core).accPoison) ∧ Free t y w.rel w.scope.toNat :=
  ⟨fe (cm 1 false 0) (sr 4) (v 6) (v 0) (v 0) 0 true false 2, _, _, _, [0], true, 1024, _, _, [14, 15], iss (s := State.reset) (w := wgOf ({ gAcc 31744 0 with sregs := [(4, 14)] })) (gr := accGrid) rfl rfl rfl rfl rfl (by decide +kernel) rfl rfl, by decide +kernel, by decide, by decide +kernel, by decide +kernel, fun _ => rfl, fun _ => rfl, one_lane ⟨⟨by decide +kernel, by decide +kernel⟩, by decide +kernel, by decide +kernel, by decide +kernel, by decide +kernel⟩, by decide +kernel, rows_free (by decide +kernel), by decide +kernel, fun _ => by decide +kernel⟩

theorem witness_MatrixRows_8 : ∃ (w : _) (s : State) (t : _) (y : Ctx), Issues (.accq w) w.com s t y ∧ y.real w.com = 0 :=
  ⟨fe (cm 0 false 1) (sr 4) (v 6) (v 8) (v 0) 0 false false 0, _, _, _, iss (s := State.reset) (w := wgOf (gp sp0)) (gr := bootGrid) rfl rfl rfl rfl rfl (by decide +kernel) rfl rfl, by decide⟩

theorem witness_MatrixRows_9_5 : ∃ (w : _) (s : State) (t : _) (y : Ctx) (ls : List Nat) (bo : Nat) (fw : W32) (first : Nat → Nat) (off : Nat → Nat), Issues (.accq w) w.com s t y ∧ ls = lanesOf (y.real w.com) ∧ ls ≠ [] ∧ bo = w.eimm.toNat % 16 ∧ (∀ l ∈ ls, word32 y l w.b = fw) ∧ fw.extractLsb' 24 8 = 0 ∧ fwBf fw = 0 ∧ fwZf fw = false ∧ (fwAcc fw = 0 ∧ (fwAf fw = 0 ∨ fwAf fw = 1 ∨ fwAf fw = 5 ∨ fwAf fw = 6) ∨ fwAcc fw = 2 ∧ fwAf fw = 2) ∧ (fwAf fw = 0 → bo ≤ 2) ∧ (fwAf fw = 1 → bo ≤ 8) ∧ (∀ l, first l = y.g.abase + whole y 0 w.d false + l) ∧ (∀ l, off l = whole y l w.a false) ∧ (∀ l ∈ ls, InWindow y (first l) 1 ∧ off l % 16 = 0 ∧ ∀ q ∈ accqSegs (fwAf fw) bo (off l), q.1 + q.2 ≤ windowBytes y.gr y.wg ∧ (y.win = 0 → 0x400 ≤ q.1)) ∧ RowsFree y t (ls.map (fun l => coreRow y (first l))) ∧ Free t y w.rel w.scope.toNat :=
  ⟨fe (cm 0 false 0) (sr 4) (v 6) (v 8) (v 0) 0 true false 2, _, _, _, [0], 0, 5, _, _, iss (s := State.reset) (w := wgOf (gAcc 4096 5)) (gr := accGrid) rfl rfl rfl rfl rfl (by decide +kernel) rfl rfl, by decide +kernel, by decide, rfl, one_lane (by decide +kernel), and4 (by decide +kernel) ⟨by decide +kernel, by decide +kernel, fun _ => rfl, fun _ => rfl, one_lane ⟨⟨by decide +kernel, by decide +kernel⟩, by decide +kernel, by decide +kernel⟩, rows_free (by decide +kernel), fun _ => by decide +kernel⟩⟩

theorem witness_MatrixRows_9_222 : ∃ (w : _) (s : State) (t : _) (y : Ctx) (ls : List Nat) (bo : Nat) (fw : W32) (first : Nat → Nat) (off : Nat → Nat), Issues (.accq w) w.com s t y ∧ ls = lanesOf (y.real w.com) ∧ ls ≠ [] ∧ bo = w.eimm.toNat % 16 ∧ (∀ l ∈ ls, word32 y l w.b = fw) ∧ fw.extractLsb' 24 8 = 0 ∧ fwBf fw = 0 ∧ fwZf fw = false ∧ (fwAcc fw = 0 ∧ (fwAf fw = 0 ∨ fwAf fw = 1 ∨ fwAf fw = 5 ∨ fwAf fw = 6) ∨ fwAcc fw = 2 ∧ fwAf fw = 2) ∧ (fwAf fw = 0 → bo ≤ 2) ∧ (fwAf fw = 1 → bo ≤ 8) ∧ (∀ l, first l = y.g.abase + whole y 0 w.d false + l) ∧ (∀ l, off l = whole y l w.a false) ∧ (∀ l ∈ ls, InWindow y (first l) 1 ∧ off l % 16 = 0 ∧ ∀ q ∈ accqSegs (fwAf fw) bo (off l), q.1 + q.2 ≤ windowBytes y.gr y.wg ∧ (y.win = 0 → 0x400 ≤ q.1)) ∧ RowsFree y t (ls.map (fun l => coreRow y (first l))) ∧ Free t y w.rel w.scope.toNat :=
  ⟨fe (cm 0 false 0) (sr 4) (v 6) (v 8) (v 0) 0 true false 2, _, _, _, [0], 0, 514, _, _, iss (s := State.reset) (w := wgOf (gAcc 4096 514)) (gr := accGrid) rfl rfl rfl rfl rfl (by decide +kernel) rfl rfl, by decide +kernel, by decide, rfl, one_lane (by decide +kernel), and4 (by decide +kernel) ⟨by decide +kernel, by decide +kernel, fun _ => rfl, fun _ => rfl, one_lane ⟨⟨by decide +kernel, by decide +kernel⟩, by decide +kernel, by decide +kernel⟩, rows_free (by decide +kernel), fun _ => by decide +kernel⟩⟩

theorem witness_MatrixRows_9_1 : ∃ (w : _) (s : State) (t : _) (y : Ctx) (ls : List Nat) (bo : Nat) (fw : W32) (first : Nat → Nat) (off : Nat → Nat), Issues (.accq w) w.com s t y ∧ ls = lanesOf (y.real w.com) ∧ ls ≠ [] ∧ bo = w.eimm.toNat % 16 ∧ (∀ l ∈ ls, word32 y l w.b = fw) ∧ fw.extractLsb' 24 8 = 0 ∧ fwBf fw = 0 ∧ fwZf fw = false ∧ (fwAcc fw = 0 ∧ (fwAf fw = 0 ∨ fwAf fw = 1 ∨ fwAf fw = 5 ∨ fwAf fw = 6) ∨ fwAcc fw = 2 ∧ fwAf fw = 2) ∧ (fwAf fw = 0 → bo ≤ 2) ∧ (fwAf fw = 1 → bo ≤ 8) ∧ (∀ l, first l = y.g.abase + whole y 0 w.d false + l) ∧ (∀ l, off l = whole y l w.a false) ∧ (∀ l ∈ ls, InWindow y (first l) 1 ∧ off l % 16 = 0 ∧ ∀ q ∈ accqSegs (fwAf fw) bo (off l), q.1 + q.2 ≤ windowBytes y.gr y.wg ∧ (y.win = 0 → 0x400 ≤ q.1)) ∧ RowsFree y t (ls.map (fun l => coreRow y (first l))) ∧ Free t y w.rel w.scope.toNat :=
  ⟨fe (cm 0 false 0) (sr 4) (v 6) (v 8) (v 0) 8 true false 2, _, _, _, [0], 8, 1, _, _, iss (s := State.reset) (w := wgOf (gAcc 4096 1)) (gr := accGrid) rfl rfl rfl rfl rfl (by decide +kernel) rfl rfl, by decide +kernel, by decide, rfl, one_lane (by decide +kernel), and4 (by decide +kernel) ⟨by decide +kernel, by decide +kernel, fun _ => rfl, fun _ => rfl, one_lane ⟨⟨by decide +kernel, by decide +kernel⟩, by decide +kernel, by decide +kernel⟩, rows_free (by decide +kernel), fun _ => by decide +kernel⟩⟩

theorem witness_MatrixRows_10 : ∃ (fw : _), fwAf fw = 2 :=
  ⟨0x202, rfl⟩

theorem witness_MatrixIntegerSums_0 : ∃ (w : W32) (ra : List Byte) (cb : List Byte) (acc : Nat) (start : Nat) (prod : Nat → Int), fwLegal w = true ∧ fwAcc w = 2 ∧ acc < 2 ^ 32 ∧ start = (if fwZf w then 0 else acc) ∧ (∀ k, prod k = intElem (fwAf w) ra k * intElem (fwBf w) cb k) ∧ fwSat w = false :=
  ⟨0x222, [], [], 2 ^ 32 - 1, _, _, by decide +kernel, by decide +kernel, by decide +kernel, rfl, fun _ => rfl, by decide +kernel⟩

theorem witness_MatrixIntegerSums_1 : ∃ (w : W32) (ra : List Byte) (cb : List Byte) (acc : Nat) (start : Nat) (prod : Nat → Int) (z : Int) (n : Nat), fwLegal w = true ∧ fwAcc w = 2 ∧ acc < 2 ^ 32 ∧ start = (if fwZf w then 0 else acc) ∧ (∀ k, prod k = intElem (fwAf w) ra k * intElem (fwBf w) cb k) ∧ fwSat w = true ∧ (z, n) = clampSum (BitVec.ofNat 32 start).toInt ((List.range (intElems (fwAf w) / 32)).map (fun b => ((List.range 32).map (fun i => prod (32 * b + i))).sum)) :=
  ⟨0x1244, [], [], 2 ^ 32 - 1, _, _, _, _, by decide +kernel, by decide +kernel, by decide +kernel, rfl, fun _ => rfl, by decide +kernel, rfl⟩

theorem witness_MatrixIntegerSums_2 : ∃ (w : W32) (i : _), i < 128 ∧ fwAcc w ≠ 1 :=
  ⟨0, 127, by decide, by decide⟩

theorem witness_MatrixUnitActs_0 : ∃ (s : State) (core : Nat) (arr : Nat) (p : Plane) (r : Nat) (b : Nat) (q : List ArrCmd), ((s.core core).array arr).queue = .load p r b :: q :=
  ⟨State.reset.modArray 0 1 (fun a => { a with queue := [.load {} 5 2] }), 0, 1, {}, 5, 2, [], by decide +kernel⟩

theorem witness_MatrixUnitActs_1 : ∃ (a : Arr), a.queue = [] :=
  ⟨{}, rfl⟩

theorem witness_MatrixUnitActs_2 : ∃ (a : Arr) (c : ArrCmd) (q : List ArrCmd) (r : Nat) (b : Nat), a.queue = c :: q ∧ c = .swap r b :=
  ⟨{ queue := [.swap 3 1] }, .swap 3 1, [], 3, 1, rfl, rfl⟩

theorem witness_MatrixUnitActs_3 : ∃ (a : Arr) (c : ArrCmd) (q : List ArrCmd), a.queue = c :: q ∧ (∀ r b, c ≠ .swap r b) :=
  ⟨{ queue := [.quarter 3 4 1] }, .quarter 3 4 1, [], rfl, fun r b h => by cases h⟩

theorem witness_MatrixUnitActs_4 : ∃ (s : State) (core : Nat) (arr : Nat) (op : Nat) (at_ : Nat) (b : Nat) (q : List ArrCmd), ((s.core core).array arr).queue = .quarter op at_ b :: q ∧ (s.cycle < at_ + 2 + 4 ∨ s.cycle < ((s.core core).array arr).busyUntil) :=
  ⟨State.reset.modArray 0 1 (fun a => { a with queue := [.quarter 3 0 1] }), 0, 1, 3, 0, 1, [], by decide +kernel, .inl (by decide +kernel)⟩

theorem witness_MatrixUnitActs_5 : ∃ (s : State) (core : Nat) (arr : Nat) (op : Nat) (at_ : Nat) (b : Nat) (q : List ArrCmd) (m : Mop) (w : W32) (z : Bool) (ftz : Bool) (ops : _) (rest : _) (t : State) (rows : Nat), ((s.core core).array arr).queue = .quarter op at_ b :: q ∧ at_ + 2 + 4 ≤ s.cycle ∧ ((s.core core).array arr).busyUntil ≤ s.cycle ∧ (s.core core).mops.find? (fun m => m.id == op) = some m ∧ m.mma = some (w, z, ftz) ∧ (ops, rest) = takeQuarters s.cycle (fwAf w) (s.core core).mops 32 (.quarter op at_ b :: q) ∧ (t, rows) = ops.foldl (s.enterQuarter core arr (fwAf w) s.cycle) (s, 0) :=
  ⟨{ State.reset.modCore 0 (fun c => { c with arrays := [{}, { queue := [.quarter 3 0 1] }], mops := [{ id := 3, wg := 0, rows := [0], mma := some (0, false, true), quarters := [[]], doneAt := 0 }] }) with cycle := 6 }, 0, 1, 3, 0, 1, [], { id := 3, wg := 0, rows := [0], mma := some (0, false, true), quarters := [[]], doneAt := 0 }, 0, false, true, _, _, _, _, by decide +kernel, by decide +kernel, by decide +kernel, by decide +kernel, rfl, rfl, rfl⟩

theorem witness_MatrixUnitActs_6 : ∃ (now : Nat) (af : Nat) (ms : List Mop) (left : Nat) (op : Nat) (at_ : Nat) (m : Mop) (w : W32) (z : Bool) (ftz : Bool), ms.find? (fun m : Mop => m.id == op) = some m ∧ m.mma = some (w, z, ftz) ∧ (now < at_ + 2 ∨ (fwAf w = af ∧ left < (m.quarters.headD []).length)) :=
  ⟨1, 0, [{ id := 3, wg := 0, rows := [0], mma := some (0, false, true), quarters := [[]], doneAt := 0 }], 32, 3, 0, { id := 3, wg := 0, rows := [0], mma := some (0, false, true), quarters := [[]], doneAt := 0 }, 0, false, true, rfl, rfl, .inl (by decide)⟩

theorem witness_MatrixUnitActs_6_full : ∃ (now : Nat) (af : Nat) (ms : List Mop) (left : Nat) (op : Nat) (at_ : Nat) (m : Mop) (w : W32) (z : Bool) (ftz : Bool), ms.find? (fun m : Mop => m.id == op) = some m ∧ m.mma = some (w, z, ftz) ∧ (now < at_ + 2 ∨ (fwAf w = af ∧ left < (m.quarters.headD []).length)) :=
  ⟨2, 0, [{ id := 3, wg := 0, rows := [0], mma := some (0, false, true), quarters := [[{ lane := 0, row := 0, bytes := [] }]], doneAt := 0 }], 0, 3, 0, { id := 3, wg := 0, rows := [0], mma := some (0, false, true), quarters := [[{ lane := 0, row := 0, bytes := [] }]], doneAt := 0 }, 0, false, true, rfl, rfl, .inr (by decide)⟩

theorem witness_MatrixUnitActs_7 : ∃ (now : Nat) (af : Nat) (ms : List Mop) (left : Nat) (op : Nat) (at_ : Nat) (q : List ArrCmd) (m : Mop) (w : W32) (z : Bool) (ftz : Bool) (r : _), ms.find? (fun m : Mop => m.id == op) = some m ∧ m.mma = some (w, z, ftz) ∧ at_ + 2 ≤ now ∧ fwAf w ≠ af ∧ r = takeQuarters now af ms left q :=
  ⟨2, 1, [{ id := 3, wg := 0, rows := [0], mma := some (0, false, true), quarters := [[]], doneAt := 0 }], 32, 3, 0, [], { id := 3, wg := 0, rows := [0], mma := some (0, false, true), quarters := [[]], doneAt := 0 }, 0, false, true, _, rfl, rfl, by decide, by decide, rfl⟩

theorem witness_MatrixUnitActs_8 : ∃ (now : Nat) (af : Nat) (ms : List Mop) (left : Nat) (op : Nat) (at_ : Nat) (q : List ArrCmd) (m : Mop) (w : W32) (z : Bool) (ftz : Bool) (r : _), ms.find? (fun m : Mop => m.id == op) = some m ∧ m.mma = some (w, z, ftz) ∧ at_ + 2 ≤ now ∧ fwAf w = af ∧ (m.quarters.headD []).length ≤ left ∧ r = takeQuarters now af (ms.map (fun k => if k.id = op then { k with quarters := k.quarters.tail } else k)) (left - (m.quarters.headD []).length) q :=
  ⟨2, 0, [{ id := 3, wg := 0, rows := [0], mma := some (0, false, true), quarters := [[{ lane := 0, row := 0, bytes := [] }]], doneAt := 0 }], 1, 3, 0, [], { id := 3, wg := 0, rows := [0], mma := some (0, false, true), quarters := [[{ lane := 0, row := 0, bytes := [] }]], doneAt := 0 }, 0, false, true, _, rfl, rfl, by decide, by decide, by decide, rfl⟩

theorem witness_MatrixUnitActs_9 : ∃ (c : ArrCmd), (∀ o k b, c ≠ ArrCmd.quarter o k b) :=
  ⟨.swap 0 0, fun o k b h => by cases h⟩

theorem witness_MatrixUnitActs_10 : ∃ (s : State) (core : Nat) (op : Nat) (m : Mop), m.mma.isSome = true ∧ (s.core core).mops.find? (fun m => m.id == op && m.mma.isSome) = some m :=
  ⟨State.reset.modCore 0 (fun c => { c with mops := [{ id := 3, wg := 0, rows := [0], mma := some (0, false, true), quarters := [[]], doneAt := 0 }] }), 0, 3, { id := 3, wg := 0, rows := [0], mma := some (0, false, true), quarters := [[]], doneAt := 0 }, rfl, by decide +kernel⟩

theorem witness_MatrixUnitActs_11 : ∃ (s : State) (core : Nat) (op : Nat) (m : Mop), m.mma = none ∧ (s.core core).mops.find? (fun m => m.id == op && m.mma.isNone) = some m :=
  ⟨State.reset.modCore 0 (fun c => { c with mops := [{ id := 3, wg := 0, rows := [0], doneAt := 9 }] }), 0, 3, { id := 3, wg := 0, rows := [0], doneAt := 9 }, rfl, by decide +kernel⟩

/-! ### Views and copies -/

/-- A view of four rows, one master block each, with its tags at 0x1800 and a master entry of WT 5 for each block. -/
def testView (policy : Nat) : View :=
  { id := 1, ptr := 0x7000, space := 0, ten := 0, mbase := 0, mstride := 4096, rows := 4, cols := 8, row0 := 0, vrows := 4, col0 := 0, vcols := 8, vbase := 0, vstride := 16, sbase := 0, tags := 0x1800, stats := 0, ctl := 1024 * policy, mdev := 0, vidx := 0, pasid := 0, owner := 0 }
/-- Two tag entries of that view in memory. -/
def vs (policy t0 t1 : Nat) : State :=
  { (ms.rawWrite 0x201800 (leBytes 8 t0)).rawWrite 0x201808 (leBytes 8 t1) with
    views := [testView policy], masters := (List.range 4).map (fun m => { die := 0, pa := 4096 * m, wt := 5, deps := [(1, m)] }) }
def viewGrid : Grid := { bootGrid with views := [0, 0x7000] }
def gRows (row n : Nat) : Group := gPtr row n
/-- A tag entry: V, F and TAG. -/
def tagOf (v f : Nat) (t : Nat) : Nat := v * 2 ^ 63 + f * 2 ^ 62 + t
theorem fresh_tag {t : State} {v : View} {m : Nat} (h : (match t.masterOf v m with | some k => bitOf (t.tagEntry v m) 63 && !bitOf (t.tagEntry v m) 62 && decide (k.wt ≤ t.tagEntry v m % 2 ^ 48) | none => false) = true) : FreshTag t v m := by
  unfold FreshTag
  cases e : t.masterOf v m with
  | none => rw [e] at h; cases h
  | some k => rw [e] at h; simp only [Bool.and_eq_true, Bool.not_eq_true', decide_eq_true_eq] at h; exact ⟨k, rfl, h.1.1, h.1.2, h.2⟩
theorem stale_tag {t : State} {v : View} {m : Nat} (h : (match t.masterOf v m with | some k => bitOf (t.tagEntry v m) 63 && !bitOf (t.tagEntry v m) 62 && decide (k.wt ≤ t.tagEntry v m % 2 ^ 48) | none => false) = false) : ¬ FreshTag t v m := by
  rintro ⟨k, e, h1, h2, h3⟩
  rw [e] at h; simp only [h1, h2, Bool.not_false, Bool.and_true, Bool.true_and, decide_eq_false_iff_not] at h; exact h h3
theorem faulted_tag {t : State} {v : View} {m : Nat} (h : bitOf (t.tagEntry v m) 62 = true) : FaultedTag t v m := h
theorem sound_tag {t : State} {v : View} {m : Nat} (h : bitOf (t.tagEntry v m) 62 = false) : ¬ FaultedTag t v m := by
  unfold FaultedTag; simp [h]
theorem two {p : Nat → Prop} (h0 : p 0) (h1 : p 1) : ∀ m ∈ [0, 1], p m := fun m hm => by
  simp only [List.mem_cons, List.not_mem_nil, or_false] at hm
  rcases hm with rfl | rfl <;> assumption
theorem no_flits {y : Ctx} {t : State} (h : t.fabric = []) : NoFlits y t := by unfold NoFlits; simp [h]
theorem slot_holds {y : Ctx} {t : State} {k : Nat} {v : View} (h : y.gr.views.getD k 0 ≠ 0) (e : t.views.find? (fun q => q.ptr == y.gr.views.getD k 0 && q.space == y.gr.pasid) = some v) : SlotHolds y t k v := ⟨h, e⟩

theorem witness_ViewInstructions_0 : ∃ (w : _) (s : State) (t : _) (y : Ctx), Issues (.vsync w) w.com s t y ∧ y.real w.com = 0 :=
  ⟨fe (cm 0 false 1) (v 0) (v 6) (v 8) (v 0) 1 false false 0, _, _, _, iss (s := State.reset) (w := wgOf (gp sp0)) (gr := bootGrid) rfl rfl rfl rfl rfl (by decide +kernel) rfl rfl, by decide⟩

theorem witness_ViewInstructions_1 : ∃ (w : _) (s : State) (t : _) (y : Ctx) (l : Nat) (slot : Nat) (row : Nat) (n : Nat), Issues (.vsync w) w.com s t y ∧ y.real w.com ≠ 0 ∧ l = lowestLane (y.real w.com) ∧ slot = w.eimm.toNat % 16 ∧ row = whole y l w.a false ∧ n = whole y l w.b false ∧ y.gr.views.getD slot 0 = 0 :=
  ⟨fe (cm 0 false 0) (v 0) (v 6) (v 8) (v 0) 0 false false 0, _, _, _, _, 0, _, _, iss (s := State.reset) (w := wgOf (gRows 0 1)) (gr := viewGrid) rfl rfl rfl rfl rfl (by decide +kernel) rfl rfl, by decide, rfl, rfl, rfl, rfl, by decide +kernel⟩

theorem witness_ViewInstructions_2 : ∃ (w : _) (s : State) (t : _) (y : Ctx) (l : Nat) (slot : Nat) (row : Nat) (n : Nat) (v : View), Issues (.vsync w) w.com s t y ∧ y.real w.com ≠ 0 ∧ l = lowestLane (y.real w.com) ∧ slot = w.eimm.toNat % 16 ∧ row = whole y l w.a false ∧ n = whole y l w.b false ∧ SlotHolds y t slot v ∧ ¬ RowsIn v row n :=
  ⟨fe (cm 0 false 0) (v 0) (v 6) (v 8) (v 0) 1 false false 0, _, _, _, _, 1, _, _, testView 0, iss (s := vs 0 0 0) (w := wgOf (gRows 3 2)) (gr := viewGrid) rfl rfl rfl rfl rfl (by decide +kernel) rfl rfl, by decide, rfl, rfl, rfl, rfl, slot_holds (by decide) (by decide +kernel), by unfold RowsIn; decide +kernel⟩

theorem witness_ViewInstructions_3 : ∃ (w : _) (s : State) (t : _) (y : Ctx) (l : Nat) (slot : Nat) (row : Nat) (n : Nat) (v : View) (ms : List Nat), Issues (.vsync w) w.com s t y ∧ y.real w.com ≠ 0 ∧ l = lowestLane (y.real w.com) ∧ slot = w.eimm.toNat % 16 ∧ row = whole y l w.a false ∧ n = whole y l w.b false ∧ SlotHolds y t slot v ∧ RowsIn v row n ∧ NoFlits y t ∧ ms = (List.range v.count).filter (fun m => v.holds row n (v.block0 + m)) ∧ v.policy ≠ 1 ∧ y.writesOpen t (.here v) ms = true :=
  ⟨fe (cm 0 false 0) (v 0) (v 6) (v 8) (v 0) 1 false false 0, _, _, _, _, 1, _, _, testView 0, [0, 1], iss (s := { vs 0 (tagOf 1 0 5) (tagOf 1 0 5) with storeQ := [{ id := 5, die := 0, wg := 0, grp := 0, lane := 0, pa := 4095, bytes := [7], op := .write, io := false }] }) (w := wgOf ({ gRows 0 2 with table := [some { sp0 with mask := 1, pend := [5] }, none, none, none, none, none, none, none] })) (gr := viewGrid) rfl rfl rfl rfl rfl (by decide +kernel) rfl rfl, by decide, rfl, rfl, rfl, rfl, slot_holds (by decide) (by decide +kernel), by unfold RowsIn; decide +kernel, no_flits rfl, by decide +kernel, by decide +kernel, by decide +kernel⟩

theorem witness_ViewInstructions_4 : ∃ (w : _) (s : State) (t : _) (y : Ctx) (l : Nat) (slot : Nat) (row : Nat) (n : Nat) (v : View) (ms : List Nat), Issues (.vsync w) w.com s t y ∧ y.real w.com ≠ 0 ∧ l = lowestLane (y.real w.com) ∧ slot = w.eimm.toNat % 16 ∧ row = whole y l w.a false ∧ n = whole y l w.b false ∧ SlotHolds y t slot v ∧ RowsIn v row n ∧ NoFlits y t ∧ ms = (List.range v.count).filter (fun m => v.holds row n (v.block0 + m)) ∧ v.policy = 1 :=
  ⟨fe (cm 0 false 0) (v 0) (v 6) (v 8) (v 0) 1 false false 0, _, _, _, _, 1, _, _, testView 1, [0, 1], iss (s := vs 1 (tagOf 1 0 4) (tagOf 1 0 4)) (w := wgOf (gRows 0 2)) (gr := viewGrid) rfl rfl rfl rfl rfl (by decide +kernel) rfl rfl, by decide, rfl, rfl, rfl, rfl, slot_holds (by decide) (by decide +kernel), by unfold RowsIn; decide +kernel, no_flits rfl, by decide +kernel, rfl⟩

theorem witness_ViewInstructions_5 : ∃ (w : _) (s : State) (t : _) (y : Ctx) (l : Nat) (slot : Nat) (row : Nat) (n : Nat) (v : View) (ms : List Nat), Issues (.vsync w) w.com s t y ∧ y.real w.com ≠ 0 ∧ l = lowestLane (y.real w.com) ∧ slot = w.eimm.toNat % 16 ∧ row = whole y l w.a false ∧ n = whole y l w.b false ∧ SlotHolds y t slot v ∧ RowsIn v row n ∧ NoFlits y t ∧ ms = (List.range v.count).filter (fun m => v.holds row n (v.block0 + m)) ∧ y.writesOpen t (.here v) ms = false ∧ v.policy = 0 ∧ (∃ m ∈ ms, ¬ FreshTag t v m ∧ ¬ FaultedTag t v m) :=
  ⟨fe (cm 0 false 0) (v 0) (v 6) (v 8) (v 0) 1 false false 0, _, _, _, _, 1, _, _, testView 0, [0, 1], iss (s := vs 0 (tagOf 1 0 5) (tagOf 1 0 4)) (w := wgOf (gRows 0 2)) (gr := viewGrid) rfl rfl rfl rfl rfl (by decide +kernel) rfl rfl, by decide, rfl, rfl, rfl, rfl, slot_holds (by decide) (by decide +kernel), by unfold RowsIn; decide +kernel, no_flits rfl, by decide +kernel, by decide +kernel, rfl, ⟨1, by decide, stale_tag (by decide +kernel), sound_tag (by decide +kernel)⟩⟩

theorem witness_ViewInstructions_6 : ∃ (w : _) (s : State) (t : _) (y : Ctx) (l : Nat) (slot : Nat) (row : Nat) (n : Nat) (v : View) (ms : List Nat) (m : Nat), Issues (.vsync w) w.com s t y ∧ y.real w.com ≠ 0 ∧ l = lowestLane (y.real w.com) ∧ slot = w.eimm.toNat % 16 ∧ row = whole y l w.a false ∧ n = whole y l w.b false ∧ SlotHolds y t slot v ∧ RowsIn v row n ∧ NoFlits y t ∧ ms = (List.range v.count).filter (fun m => v.holds row n (v.block0 + m)) ∧ y.writesOpen t (.here v) ms = false ∧ v.policy = 0 ∧ (∀ m ∈ ms, FreshTag t v m ∨ FaultedTag t v m) ∧ Lowest ms (FaultedTag t v) m :=
  ⟨fe (cm 0 false 0) (v 0) (v 6) (v 8) (v 0) 1 false false 0, _, _, _, _, 1, _, _, testView 0, [0, 1], 1, iss (s := vs 0 (tagOf 1 0 5) (tagOf 0 1 0)) (w := wgOf (gRows 0 2)) (gr := viewGrid) rfl rfl rfl rfl rfl (by decide +kernel) rfl rfl, by decide, rfl, rfl, rfl, rfl, slot_holds (by decide) (by decide +kernel), by unfold RowsIn; decide +kernel, no_flits rfl, by decide +kernel, by decide +kernel, rfl, two (.inl (fresh_tag (by decide +kernel))) (.inr (faulted_tag (by decide +kernel))), ⟨by decide, faulted_tag (by decide +kernel), two (fun h => absurd h (sound_tag (by decide +kernel))) (fun _ => Nat.le_refl 1)⟩⟩

theorem witness_ViewInstructions_7 : ∃ (w : _) (s : State) (t : _) (y : Ctx) (l : Nat) (slot : Nat) (row : Nat) (n : Nat) (v : View) (ms : List Nat) (m : Nat), Issues (.vsync w) w.com s t y ∧ y.real w.com ≠ 0 ∧ l = lowestLane (y.real w.com) ∧ slot = w.eimm.toNat % 16 ∧ row = whole y l w.a false ∧ n = whole y l w.b false ∧ SlotHolds y t slot v ∧ RowsIn v row n ∧ NoFlits y t ∧ ms = (List.range v.count).filter (fun m => v.holds row n (v.block0 + m)) ∧ y.writesOpen t (.here v) ms = false ∧ v.policy = 2 ∧ Lowest ms (FaultedTag t v) m :=
  ⟨fe (cm 0 false 0) (v 0) (v 6) (v 8) (v 0) 1 false false 0, _, _, _, _, 1, _, _, testView 2, [0, 1], 1, iss (s := vs 2 (tagOf 1 0 4) (tagOf 0 1 0)) (w := wgOf (gRows 0 2)) (gr := viewGrid) rfl rfl rfl rfl rfl (by decide +kernel) rfl rfl, by decide, rfl, rfl, rfl, rfl, slot_holds (by decide) (by decide +kernel), by unfold RowsIn; decide +kernel, no_flits rfl, by decide +kernel, by decide +kernel, rfl, ⟨by decide, faulted_tag (by decide +kernel), two (fun h => absurd h (sound_tag (by decide +kernel))) (fun _ => Nat.le_refl 1)⟩⟩

theorem witness_ViewInstructions_8 : ∃ (w : _) (s : State) (t : _) (y : Ctx) (l : Nat) (slot : Nat) (row : Nat) (n : Nat) (v : View) (ms : List Nat) (m : Nat), Issues (.vsync w) w.com s t y ∧ y.real w.com ≠ 0 ∧ l = lowestLane (y.real w.com) ∧ slot = w.eimm.toNat % 16 ∧ row = whole y l w.a false ∧ n = whole y l w.b false ∧ SlotHolds y t slot v ∧ RowsIn v row n ∧ NoFlits y t ∧ ms = (List.range v.count).filter (fun m => v.holds row n (v.block0 + m)) ∧ y.writesOpen t (.here v) ms = false ∧ v.policy = 2 ∧ (∀ m ∈ ms, ¬ FaultedTag t v m) ∧ Lowest ms (fun k => ¬ FreshTag t v k) m :=
  ⟨fe (cm 0 false 0) (v 0) (v 6) (v 8) (v 0) 1 false false 0, _, _, _, _, 1, _, _, testView 2, [0, 1], 1, iss (s := vs 2 (tagOf 1 0 5) (tagOf 1 0 4)) (w := wgOf (gRows 0 2)) (gr := viewGrid) rfl rfl rfl rfl rfl (by decide +kernel) rfl rfl, by decide, rfl, rfl, rfl, rfl, slot_holds (by decide) (by decide +kernel), by unfold RowsIn; decide +kernel, no_flits rfl, by decide +kernel, by decide +kernel, rfl, two (sound_tag (by decide +kernel)) (sound_tag (by decide +kernel)), ⟨by decide, stale_tag (by decide +kernel), two (fun h => absurd (fresh_tag (by decide +kernel)) h) (fun _ => Nat.le_refl 1)⟩⟩

theorem witness_ViewInstructions_9 : ∃ (w : _) (s : State) (t : _) (y : Ctx) (l : Nat) (slot : Nat) (row : Nat) (n : Nat) (v : View) (ms : List Nat), Issues (.vsync w) w.com s t y ∧ y.real w.com ≠ 0 ∧ l = lowestLane (y.real w.com) ∧ slot = w.eimm.toNat % 16 ∧ row = whole y l w.a false ∧ n = whole y l w.b false ∧ SlotHolds y t slot v ∧ RowsIn v row n ∧ NoFlits y t ∧ ms = (List.range v.count).filter (fun m => v.holds row n (v.block0 + m)) ∧ y.writesOpen t (.here v) ms = false ∧ (∀ m ∈ ms, FreshTag t v m) :=
  ⟨fe (cm 0 false 0) (v 0) (v 6) (v 8) (v 0) 1 false false 0, _, _, _, _, 1, _, _, testView 0, [0, 1], iss (s := vs 0 (tagOf 1 0 5) (tagOf 1 0 5)) (w := wgOf (gRows 0 2)) (gr := viewGrid) rfl rfl rfl rfl rfl (by decide +kernel) rfl rfl, by decide, rfl, rfl, rfl, rfl, slot_holds (by decide) (by decide +kernel), by unfold RowsIn; decide +kernel, no_flits rfl, by decide +kernel, by decide +kernel, two (fresh_tag (by decide +kernel)) (fresh_tag (by decide +kernel))⟩

theorem witness_ViewInstructions_10 : ∃ (w : _) (s : State) (t : _) (y : Ctx), Issues (.vchk w) w.com s t y ∧ y.active w.com = 0 :=
  ⟨fe (cm 0 false 1) (v 2) (v 6) (v 8) (v 0) 0, _, _, _, iss (s := State.reset) (w := wgOf (gp sp0)) (gr := bootGrid) rfl rfl rfl rfl rfl (by decide +kernel) rfl rfl, by decide⟩

theorem witness_ViewInstructions_11 : ∃ (w : _) (s : State) (t : _) (y : Ctx) (slot : Nat) (v : View) (l : Nat), Issues (.vchk w) w.com s t y ∧ slot = w.eimm.toNat % 16 ∧ SlotHolds y t slot v ∧ (∀ k ∈ lanesOf (y.real w.com), k < l → ElemIn v (whole y k w.a false) (whole y k w.b false)) ∧ ¬ ElemIn v (whole y l w.a false) (whole y l w.b false) ∧ l ∈ lanesOf (y.real w.com) :=
  ⟨fe (cm 0 false 0) (v 2) (v 6) (v 8) (v 0) 1, _, _, _, 1, testView 0, 0, iss (s := vs 0 0 0) (w := wgOf (gRows 3 8)) (gr := viewGrid) rfl rfl rfl rfl rfl (by decide +kernel) rfl rfl, rfl, slot_holds (by decide) (by decide +kernel), fun k _ h => absurd h (Nat.not_lt_zero k), by unfold ElemIn; decide +kernel, by decide +kernel⟩

theorem witness_ViewInstructions_12 : ∃ (w : _) (s : State) (t : _) (y : Ctx) (slot : Nat) (v : View), Issues (.vchk w) w.com s t y ∧ slot = w.eimm.toNat % 16 ∧ SlotHolds y t slot v ∧ y.active w.com ≠ 0 ∧ (∀ l ∈ lanesOf (y.real w.com), ElemIn v (whole y l w.a false) (whole y l w.b false)) ∧ NoFlits y t :=
  ⟨fe (cm 0 false 0) (v 2) (v 6) (v 8) (v 0) 1, _, _, _, 1, testView 0, iss (s := vs 0 0 0) (w := wgOf (gRows 3 7)) (gr := viewGrid) rfl rfl rfl rfl rfl (by decide +kernel) rfl rfl, rfl, slot_holds (by decide) (by decide +kernel), by decide +kernel, by unfold ElemIn; decide +kernel, no_flits rfl⟩

theorem witness_ViewInstructions_13 : ∃ (w : _) (s : State) (t : _) (y : Ctx), Issues (.vreq w) w.com s t y ∧ y.real w.com = 0 :=
  ⟨fe (cm 0 false 1) (v 0) (v 6) (v 8) (v 0) 1 false false 0, _, _, _, iss (s := State.reset) (w := wgOf (gp sp0)) (gr := bootGrid) rfl rfl rfl rfl rfl (by decide +kernel) rfl rfl, by decide⟩

theorem witness_ViewInstructions_14 : ∃ (w : _) (s : State) (t : _) (y : Ctx) (l : Nat) (slot : Nat) (v : View) (row : Nat) (n : Nat), Issues (.vreq w) w.com s t y ∧ y.real w.com ≠ 0 ∧ l = lowestLane (y.real w.com) ∧ slot = w.eimm.toNat % 16 ∧ row = whole y l w.a false ∧ n = whole y l w.b false ∧ SlotHolds y t slot v :=
  ⟨fe (cm 0 false 0) (v 0) (v 6) (v 8) (v 0) 1 false false 0, _, _, _, _, 1, testView 0, _, _, iss (s := vs 0 0 0) (w := wgOf (gRows 3 1)) (gr := viewGrid) rfl rfl rfl rfl rfl (by decide +kernel) rfl rfl, by decide, rfl, rfl, rfl, rfl, slot_holds (by decide) (by decide +kernel)⟩

theorem witness_ViewBlocksAndQueues_0 : ∃ (v : View), 0 < v.mstride ∧ v.cols * v.es ≤ v.mstride ∧ v.colHi ≤ v.cols ∧ v.colLo < v.colHi ∧ 4096 % v.es = 0 ∧ v.mbase % v.es = 0 ∧ v.mstride % v.es = 0 :=
  ⟨testView 0, by decide, by decide, by decide, by decide, by decide, by decide, by decide⟩

theorem witness_ViewBlocksAndQueues_1 : ∃ (m : Master), m.queued = true :=
  ⟨{ die := 0, pa := 0, wt := 0, deps := [], queued := true }, rfl⟩

theorem witness_ViewBlocksAndQueues_2 : ∃ (m : Master), m.queued = false :=
  ⟨{ die := 0, pa := 0, wt := 0, deps := [], queued := false }, rfl⟩

/-- A descriptor of a copy of n bytes in one row from the scratchpad to it, with a control word. -/
def copyDesc (n ctl : Nat) : List Byte :=
  leBytes 8 (2 * 2 ^ 60 + 0x800) ++ leBytes 8 (2 * 2 ^ 60 + 0x900) ++ leBytes 4 n ++ leBytes 4 1 ++ leBytes 4 1 ++ leBytes 4 ctl ++ List.replicate 96 0
def copyState (n ctl : Nat) : State := ms.modCore 0 (fun c => { c with scr := (copyDesc n ctl).zipIdx.map (fun e => (0xC00 + e.2, e.1)) })
def copyOf (s : State) (n ctl : Nat) : Copy := Copy.ofBytes s.nextId (.wg 0 0) 0 0 0x1000 8 false false 0 (copyDesc n ctl)

theorem witness_CopyInstructions_off_cpy : ∃ (i : Instr) (w : FormE) (op : Nat) (s : State) (t : _) (y : Ctx), (i = .cpy w ∧ op = 0x08 ∨ i = .cpyr w ∧ op = 0x09 ∨ i = .cpyg w ∧ op = 0x0A) ∧ Issues i w.com s t y ∧ y.real w.com = 0 :=
  ⟨.cpy (fe (cm 0 false 1) (v 0) (v 0) (v 0) (v 0) 0 false false 0), fe (cm 0 false 1) (v 0) (v 0) (v 0) (v 0) 0 false false 0, 8, _, _, _, .inl ⟨rfl, rfl⟩, iss (s := State.reset) (w := wgOf (gp sp0)) (gr := bootGrid) rfl rfl rfl rfl rfl (by decide +kernel) rfl rfl, by decide⟩

theorem witness_CopyInstructions_off_cpyr : ∃ (i : Instr) (w : FormE) (op : Nat) (s : State) (t : _) (y : Ctx), (i = .cpy w ∧ op = 0x08 ∨ i = .cpyr w ∧ op = 0x09 ∨ i = .cpyg w ∧ op = 0x0A) ∧ Issues i w.com s t y ∧ y.real w.com = 0 :=
  ⟨.cpyr (fe (cm 0 false 1) (v 0) (v 0) (v 0) (v 0) 0 false false 0), fe (cm 0 false 1) (v 0) (v 0) (v 0) (v 0) 0 false false 0, 9, _, _, _, .inr (.inl ⟨rfl, rfl⟩), iss (s := State.reset) (w := wgOf (gp sp0)) (gr := bootGrid) rfl rfl rfl rfl rfl (by decide +kernel) rfl rfl, by decide⟩

theorem witness_CopyInstructions_off_cpyg : ∃ (i : Instr) (w : FormE) (op : Nat) (s : State) (t : _) (y : Ctx), (i = .cpy w ∧ op = 0x08 ∨ i = .cpyr w ∧ op = 0x09 ∨ i = .cpyg w ∧ op = 0x0A) ∧ Issues i w.com s t y ∧ y.real w.com = 0 :=
  ⟨.cpyg (fe (cm 0 false 1) (v 0) (v 0) (v 0) (v 0) 0 false false 0), fe (cm 0 false 1) (v 0) (v 0) (v 0) (v 0) 0 false false 0, 10, _, _, _, .inr (.inr ⟨rfl, rfl⟩), iss (s := State.reset) (w := wgOf (gp sp0)) (gr := bootGrid) rfl rfl rfl rfl rfl (by decide +kernel) rfl rfl, by decide⟩

theorem witness_CopyInstructions_1 : ∃ (i : Instr) (w : FormE) (op : Nat) (s : State) (t : _) (y : Ctx) (l : Nat), (i = .cpy w ∧ op = 0x08 ∨ i = .cpyr w ∧ op = 0x09 ∨ i = .cpyg w ∧ op = 0x0A) ∧ Issues i w.com s t y ∧ y.real w.com ≠ 0 ∧ l = lowestLane (y.real w.com) ∧ y.g.grpid ≠ y.gr.k.producer :=
  ⟨.cpy (fe (cm 0 false 0) (v 0) (v 6) (v 0) (v 0) 0 false false 0), fe (cm 0 false 0) (v 0) (v 6) (v 0) (v 0) 0 false false 0, 8, _, _, _, _, .inl ⟨rfl, rfl⟩, iss (s := ms) (w := wgOf (gPtr 0x1000)) (gr := { bootGrid with k := { bootKernel with producer := 1 } }) rfl rfl rfl rfl rfl (by decide +kernel) rfl rfl, by decide, rfl, by decide +kernel⟩

theorem witness_CopyInstructions_2 : ∃ (i : Instr) (w : FormE) (op : Nat) (s : State) (t : _) (y : Ctx) (l : Nat) (p : Nat) (q : LanePlan) (r : State) (u : State) (b : List Byte) (c : Copy) (cause : Nat) (sub : Nat) (v : Nat), (i = .cpy w ∧ op = 0x08 ∨ i = .cpyr w ∧ op = 0x09 ∨ i = .cpyg w ∧ op = 0x0A) ∧ Issues i w.com s t y ∧ y.real w.com ≠ 0 ∧ l = lowestLane (y.real w.com) ∧ y.g.grpid = y.gr.k.producer ∧ p = whole y l w.a true ∧ LanesPass y t { spaces := [0, 2], width := 128, align := 128 } .rd [(l, p)] [q] ∧ r = t.markLeaves [q] false ∧ StoresAreHome y t ∧ DescAt y r q u b ∧ c = Copy.ofBytes u.nextId (.wg y.wg.key y.foc.grp) y.g.core y.gr.pasid p op w.acq w.rel w.scope.toNat b ∧ c.fault b y.wg.clsize (windowBytes y.gr y.wg) y.win (decide (1 < y.wg.cores.length)) = some (cause, sub, v) :=
  ⟨.cpy (fe (cm 0 false 0) (v 0) (v 6) (v 0) (v 0) 0 false false 0), fe (cm 0 false 0) (v 0) (v 6) (v 0) (v 0) 0 false false 0, 8, _, _, _, _, 2 * 2 ^ 60 + 0xC00, { lane := 0, ptr := 2 * 2 ^ 60 + 0xC00, res := .scr 0 0 0xC00 }, _, _, copyDesc 0 0, _, 9, 3, 3, .inl ⟨rfl, rfl⟩, iss (s := copyState 0 0) (w := wgOf (gPtr (2 * 2 ^ 60 + 0xC00))) (gr := bigGrid) rfl rfl rfl rfl rfl (by decide +kernel) rfl rfl, by decide, rfl, rfl, by decide +kernel, pass1 (l := 0) (p := 2 * 2 ^ 60 + 0xC00) (by decide +kernel) (by decide +kernel), rfl, (by unfold StoresAreHome; decide +kernel), ⟨rfl, wgOf (gPtr (2 * 2 ^ 60 + 0xC00)), by rfl, by decide +kernel, by decide +kernel⟩, rfl, by decide +kernel⟩

theorem witness_CopyInstructions_3 : ∃ (i : Instr) (w : FormE) (op : Nat) (s : State) (t : _) (y : Ctx) (l : Nat) (p : Nat) (q : LanePlan) (r : State) (u : State) (b : List Byte) (c : Copy), (i = .cpy w ∧ op = 0x08 ∨ i = .cpyr w ∧ op = 0x09 ∨ i = .cpyg w ∧ op = 0x0A) ∧ Issues i w.com s t y ∧ y.real w.com ≠ 0 ∧ l = lowestLane (y.real w.com) ∧ y.g.grpid = y.gr.k.producer ∧ p = whole y l w.a true ∧ LanesPass y t { spaces := [0, 2], width := 128, align := 128 } .rd [(l, p)] [q] ∧ r = t.markLeaves [q] false ∧ StoresAreHome y t ∧ DescAt y r q u b ∧ c = Copy.ofBytes u.nextId (.wg y.wg.key y.foc.grp) y.g.core y.gr.pasid p op w.acq w.rel w.scope.toNat b ∧ c.fault b y.wg.clsize (windowBytes y.gr y.wg) y.win (decide (1 < y.wg.cores.length)) = none ∧ 15 ≤ (copiesOf u y.wg.key).length :=
  ⟨.cpy (fe (cm 0 false 0) (v 0) (v 6) (v 0) (v 0) 0 false false 0), fe (cm 0 false 0) (v 0) (v 6) (v 0) (v 0) 0 false false 0, 8, _, _, _, _, 2 * 2 ^ 60 + 0xC00, { lane := 0, ptr := 2 * 2 ^ 60 + 0xC00, res := .scr 0 0 0xC00 }, _, _, copyDesc 16 0, _, .inl ⟨rfl, rfl⟩, iss (s := { copyState 16 0 with copies := List.replicate 15 (copyOf State.reset 16 0) }) (w := wgOf (gPtr (2 * 2 ^ 60 + 0xC00))) (gr := bigGrid) rfl rfl rfl rfl rfl (by decide +kernel) rfl rfl, by decide, rfl, rfl, by decide +kernel, pass1 (l := 0) (p := 2 * 2 ^ 60 + 0xC00) (by decide +kernel) (by decide +kernel), rfl, (by unfold StoresAreHome; decide +kernel), ⟨rfl, wgOf (gPtr (2 * 2 ^ 60 + 0xC00)), by rfl, by decide +kernel, by decide +kernel⟩, rfl, by decide +kernel, by decide +kernel⟩

theorem witness_CopyInstructions_4 : ∃ (i : Instr) (w : FormE) (op : Nat) (s : State) (t : _) (y : Ctx) (l : Nat) (p : Nat) (q : LanePlan) (r : State) (u : State) (b : List Byte) (c : Copy) (d : Copy) (v : State), (i = .cpy w ∧ op = 0x08 ∨ i = .cpyr w ∧ op = 0x09 ∨ i = .cpyg w ∧ op = 0x0A) ∧ Issues i w.com s t y ∧ y.real w.com ≠ 0 ∧ l = lowestLane (y.real w.com) ∧ y.g.grpid = y.gr.k.producer ∧ p = whole y l w.a true ∧ LanesPass y t { spaces := [0, 2], width := 128, align := 128 } .rd [(l, p)] [q] ∧ r = t.markLeaves [q] false ∧ StoresAreHome y t ∧ DescAt y r q u b ∧ c = Copy.ofBytes u.nextId (.wg y.wg.key y.foc.grp) y.g.core y.gr.pasid p op w.acq w.rel w.scope.toNat b ∧ c.fault b y.wg.clsize (windowBytes y.gr y.wg) y.win (decide (1 < y.wg.cores.length)) = none ∧ (copiesOf u y.wg.key).length < 15 ∧ (∀ k ∈ copiesOf u y.wg.key, k.replay = false) ∧ y.wg.phase ≠ .starting ∧ (c.cmp = 1 → c.cptr / 2 ^ 60 = 2) ∧ d = { c with gtag := if c.cmp = 1 then (u.bar { wg := y.wg.key, win := y.wg.cores.findIdx (· == y.g.core), id := c.cptr % 2 ^ 21 / 16 }).gen else 0 } ∧ v = ({ u with nextId := u.nextId + 1, copies := u.copies ++ [d] } : State) :=
  ⟨.cpy (fe (cm 0 false 0) (v 0) (v 6) (v 0) (v 0) 0 false false 0), fe (cm 0 false 0) (v 0) (v 6) (v 0) (v 0) 0 false false 0, 8, _, _, _, _, 2 * 2 ^ 60 + 0xC00, { lane := 0, ptr := 2 * 2 ^ 60 + 0xC00, res := .scr 0 0 0xC00 }, _, _, copyDesc 16 0, _, _, _, .inl ⟨rfl, rfl⟩, iss (s := { copyState 16 0 with copies := List.replicate 14 (copyOf State.reset 16 0) }) (w := wgOf (gPtr (2 * 2 ^ 60 + 0xC00))) (gr := bigGrid) rfl rfl rfl rfl rfl (by decide +kernel) rfl rfl, by decide, rfl, rfl, by decide +kernel, pass1 (l := 0) (p := 2 * 2 ^ 60 + 0xC00) (by decide +kernel) (by decide +kernel), rfl, (by unfold StoresAreHome; decide +kernel), ⟨rfl, wgOf (gPtr (2 * 2 ^ 60 + 0xC00)), by rfl, by decide +kernel, by decide +kernel⟩, rfl, by decide +kernel, by decide +kernel, by decide +kernel, by decide, by decide +kernel, rfl, rfl⟩

/-- Descriptors from a control word and the fields of the list: SRC, DST, N0, N1, N2, CPTR, CVAL, IDX, STG, STGSZ. -/
def cd (op ctl src dst n0 n1 n2 cptr cval idx stg stgsz : Nat) : List Byte × Copy :=
  let b := leBytes 8 src ++ leBytes 8 dst ++ leBytes 4 n0 ++ leBytes 4 n1 ++ leBytes 4 n2 ++ leBytes 4 ctl ++ List.replicate 32 0 ++ leBytes 8 cptr ++ leBytes 8 cval ++ leBytes 8 idx ++ leBytes 4 stg ++ leBytes 4 stgsz ++ List.replicate 32 0
  (b, Copy.ofBytes 1 (.wg 0 0) 0 0 0x1000 op false false 0 b)
def spp (x : Nat) : Nat := 2 * 2 ^ 60 + x

theorem witness_CopyDescriptorChecks_0 : ∃ (c : Copy) (b : List Byte), c.reservedBad b = true :=
  ⟨(cd 8 (2 ^ 31) (spp 0x800) (spp 0x900) 16 1 1 0 0 0 0 0).2, (cd 8 (2 ^ 31) (spp 0x800) (spp 0x900) 16 1 1 0 0 0 0 0).1, by decide +kernel⟩

theorem witness_CopyDescriptorChecks_1 : ∃ (c : Copy) (b : List Byte), c.reservedBad b = false ∧ c.codeBad = true :=
  ⟨(cd 8 (5 * 32) (spp 0x800) (spp 0x900) 16 1 1 0 0 0 0 0).2, (cd 8 (5 * 32) (spp 0x800) (spp 0x900) 16 1 1 0 0 0 0 0).1, by decide +kernel, by decide +kernel⟩

theorem witness_CopyDescriptorChecks_2 : ∃ (c : Copy) (b : List Byte), c.reservedBad b = false ∧ c.codeBad = false ∧ c.limitBad = true :=
  ⟨(cd 8 0 (spp 0x800) (spp 0x900) (2 ^ 24 + 1) 1 1 0 0 0 0 0).2, (cd 8 0 (spp 0x800) (spp 0x900) (2 ^ 24 + 1) 1 1 0 0 0 0 0).1, by decide +kernel, by decide +kernel, by decide +kernel⟩

theorem witness_CopyDescriptorChecks_3_space : ∃ (c : Copy) (b : List Byte) (clsize : Nat) (f : Nat × Nat × Nat), c.reservedBad b = false ∧ c.codeBad = false ∧ c.limitBad = false ∧ c.spaceFault clsize = some f :=
  ⟨(cd 8 0 (2 ^ 60 + 0x800) (spp 0x900) 16 1 1 0 0 0 0 0).2, (cd 8 0 (2 ^ 60 + 0x800) (spp 0x900) 16 1 1 0 0 0 0 0).1, 1, _, by decide +kernel, by decide +kernel, by decide +kernel, some_get (d := (0, 0, 0)) (by decide +kernel)⟩

theorem witness_CopyDescriptorChecks_3_zero_bit : ∃ (c : Copy) (b : List Byte) (clsize : Nat) (f : Nat × Nat × Nat), c.reservedBad b = false ∧ c.codeBad = false ∧ c.limitBad = false ∧ c.spaceFault clsize = some f :=
  ⟨(cd 8 0 (spp (2 ^ 21)) (spp 0x900) 16 1 1 0 0 0 0 0).2, (cd 8 0 (spp (2 ^ 21)) (spp 0x900) 16 1 1 0 0 0 0 0).1, 1, _, by decide +kernel, by decide +kernel, by decide +kernel, some_get (d := (0, 0, 0)) (by decide +kernel)⟩

theorem witness_CopyDescriptorChecks_3_rank : ∃ (c : Copy) (b : List Byte) (clsize : Nat) (f : Nat × Nat × Nat), c.reservedBad b = false ∧ c.codeBad = false ∧ c.limitBad = false ∧ c.spaceFault clsize = some f :=
  ⟨(cd 8 0 (3 * 2 ^ 60 + 2 ^ 21) (spp 0x900) 16 1 1 0 0 0 0 0).2, (cd 8 0 (3 * 2 ^ 60 + 2 ^ 21) (spp 0x900) 16 1 1 0 0 0 0 0).1, 1, _, by decide +kernel, by decide +kernel, by decide +kernel, some_get (d := (0, 0, 0)) (by decide +kernel)⟩

theorem witness_CopyDescriptorChecks_4 : ∃ (c : Copy) (b : List Byte) (clsize : Nat), c.reservedBad b = false ∧ c.codeBad = false ∧ c.limitBad = false ∧ c.spaceFault clsize = none ∧ c.alignBad = true :=
  ⟨(cd 8 (4 * 32) (spp 0x800) (spp 0x908) 16 1 1 0 0 0 0 0).2, (cd 8 (4 * 32) (spp 0x800) (spp 0x908) 16 1 1 0 0 0 0 0).1, 1, by decide +kernel⟩

theorem witness_CopyDescriptorChecks_5 : ∃ (c : Copy) (b : List Byte) (clsize : Nat) (size : Nat) (own : Nat) (span : Bool), c.fault b clsize size own span = none :=
  ⟨(cd 8 0 0 (spp 0xFF0) 16 1 1 0 0 0 0 0).2, (cd 8 0 0 (spp 0xFF0) 16 1 1 0 0 0 0 0).1, 1, 4096, 0, false, by decide +kernel⟩

theorem witness_CopyDescriptorChecks_6 : ∃ (c : Copy) (b : List Byte) (clsize : Nat) (size : Nat) (own : Nat) (span : Bool), c.fault b clsize size own span = none ∧ c.opf = 0x0A :=
  ⟨(cd 10 1 0 (spp 0xFF0) 16 1 1 0 0 0x1000 0 0).2, (cd 10 1 0 (spp 0xFF0) 16 1 1 0 0 0x1000 0 0).1, 1, 4096, 0, false, by decide +kernel, by decide +kernel⟩

theorem witness_CopyDescriptorChecks_7 : ∃ (c : Copy) (b : List Byte) (clsize : Nat) (size : Nat) (own : Nat) (span : Bool), c.fault b clsize size own span = none ∧ c.opf = 0x09 :=
  ⟨(cd 9 (2 * 32 + 2 * 4096) 0 0 16 1 1 0 0 0 0x800 512).2, (cd 9 (2 * 32 + 2 * 4096) 0 0 16 1 1 0 0 0 0x800 512).1, 1, 4096, 0, false, by decide +kernel, by decide +kernel⟩

theorem witness_CopyDescriptorChecks_8 : ∃ (c : Copy) (b : List Byte) (clsize : Nat) (size : Nat) (own : Nat) (span : Bool), c.fault b clsize size own span = none ∧ c.cmp = 1 :=
  ⟨(cd 8 4 0 (spp 0xFF0) 16 1 1 (spp 0x3F0) 0 0 0 0).2, (cd 8 4 0 (spp 0xFF0) 16 1 1 (spp 0x3F0) 0 0 0 0).1, 1, 4096, 0, false, by decide +kernel, by decide +kernel⟩

theorem witness_CopyDescriptorChecks_9 : ∃ (c : Copy) (b : List Byte) (clsize : Nat) (size : Nat) (own : Nat) (span : Bool), c.fault b clsize size own span = none ∧ c.cmp = 2 :=
  ⟨(cd 8 8 0 (spp 0xFF0) 16 1 1 (spp 0x800) 1 0 0 0).2, (cd 8 8 0 (spp 0xFF0) 16 1 1 (spp 0x800) 1 0 0 0).1, 1, 4096, 0, false, by decide +kernel, by decide +kernel⟩

theorem witness_CopyDescriptorChecks_10 : ∃ (c : Copy) (b : List Byte) (clsize : Nat) (size : Nat) (own : Nat) (span : Bool) (p : Nat) (r : Nat) (k : Nat), c.fault b clsize size own span = none ∧ (ptrSpace c.dst = 2 ∨ ptrSpace c.dst = 3) ∧ p < c.n2 ∧ r < c.n1 ∧ k < c.n0 :=
  ⟨(cd 8 0 0 (spp 0xFF0) 16 1 1 0 0 0 0 0).2, (cd 8 0 0 (spp 0xFF0) 16 1 1 0 0 0 0 0).1, 1, 4096, 0, false, 0, 0, 15, by decide +kernel⟩

theorem witness_CopyDescriptorChecks_11 : ∃ (c : Copy) (b : List Byte) (clsize : Nat) (size : Nat) (own : Nat) (span : Bool) (p : Nat) (r : Nat) (k : Nat), c.fault b clsize size own span = none ∧ (ptrSpace c.dst = 2 ∨ ptrSpace c.dst = 3) ∧ (ptrSpace c.dst = 2 → own = 0) ∧ (ptrSpace c.dst = 3 → span = true → c.dst / 2 ^ 56 % 16 = 0) ∧ p < c.n2 ∧ r < c.n1 ∧ k < c.n0 :=
  ⟨(cd 8 0 0 (spp 0x400) 16 1 1 0 0 0 0 0).2, (cd 8 0 0 (spp 0x400) 16 1 1 0 0 0 0 0).1, 1, 4096, 0, false, 0, 0, 15, by decide +kernel⟩

theorem witness_CopyDescriptorChecks_12 : ∃ (c : Copy) (b : List Byte) (clsize : Nat) (size : Nat) (own : Nat) (span : Bool) (p : Nat) (r : Nat) (k : Nat), c.fault b clsize size own span = none ∧ (ptrSpace c.src = 2 ∨ ptrSpace c.src = 3) ∧ c.opf ≠ 0x0A ∧ p < c.n2 ∧ r < c.n1 ∧ k < c.n0 :=
  ⟨(cd 8 0 (spp 0xFF0) 0 16 1 1 0 0 0 0 0).2, (cd 8 0 (spp 0xFF0) 0 16 1 1 0 0 0 0 0).1, 1, 4096, 0, false, 0, 0, 15, by decide +kernel⟩

/-- What an engine's step answers. -/
def okIO {α : Type} : EngIO α → Option (α × State) | .ok a t => some (a, t) | _ => none
theorem io_ok {α : Type} {x : EngIO α} {d : α × State} (h : (okIO x).isSome = true) : x = .ok ((okIO x).getD d).1 ((okIO x).getD d).2 := by cases x <;> simp_all [okIO]
def okPlan : EngPlan → Option (List (Nat × Nat × EngPlace)) | .ok p => some p | _ => none
theorem plan_ok {x : EngPlan} {d : List (Nat × Nat × EngPlace)} (h : (okPlan x).isSome = true) : x = .ok ((okPlan x).getD d) := by cases x <;> simp_all [okPlan]
def cc (x : List Byte × Copy) (core : Nat) : Copy := { x.2 with core := core }
def oneCopy (c : Copy) : State := { shown ms (wgOf (gPtr 0)) bigGrid with copies := [c] }

theorem witness_CopiesMoveAndEnd_0 : ∃ (s : State) (id : Nat) (c : Copy) (n : Nat) (src : Nat) (dst : Nat) (b : List (Byte × Bool)) (t : State) (c1 : Copy) (u : State), AtWork s id c ∧ c.gathers = false ∧ s.countDue c = false ∧ c.moveDue = true ∧ n = Nat.min (c.n0 - c.moved % c.n0) (512 - (if c.cmp = 1 ∧ c.out = true then src else dst) % 512) ∧ src = wrapNat 64 ((c.src : Int) + (c.moved / (c.n0 * c.n1) : Nat) * c.ss2 + (c.moved / c.n0 % c.n1 : Nat) * c.ss1 + (c.moved % c.n0 : Nat)) ∧ dst = wrapNat 64 ((c.dst : Int) + (c.moved / (c.n0 * c.n1) : Nat) * c.ds2 + (c.moved / c.n0 % c.n1 : Nat) * c.ds1 + (c.moved % c.n0 : Nat)) ∧ s.rowOk c src n = true ∧ leaves c.src src n = none ∧ leaves c.dst dst n = none ∧ s.engRead c src n = .ok b t ∧ (c.lens && b.any Prod.snd) = false ∧ t.engWrite c dst b = .ok c1 u :=
  ⟨oneCopy (cd 8 0 (spp 0x800) (spp 0x900) 16 1 1 0 0 0 0 0).2, 1, (cd 8 0 (spp 0x800) (spp 0x900) 16 1 1 0 0 0 0 0).2, 16, spp 0x800, spp 0x900, _, _, _, _, ⟨by decide +kernel, by decide +kernel, by decide +kernel⟩, and4 (by decide +kernel) (and4 (by decide +kernel) ⟨by decide +kernel, io_ok (d := ([], oneCopy (cd 8 0 (spp 0x800) (spp 0x900) 16 1 1 0 0 0 0 0).2)) (by decide +kernel), by decide +kernel, io_ok (d := ((cd 8 0 (spp 0x800) (spp 0x900) 16 1 1 0 0 0 0 0).2, oneCopy (cd 8 0 (spp 0x800) (spp 0x900) 16 1 1 0 0 0 0 0).2)) (by decide +kernel)⟩)⟩

theorem witness_CopiesMoveAndEnd_1 : ∃ (s : State) (c : Copy) (key : Nat) (win : Nat) (p : Nat) (n : Nat) (w : Workgroup), c.owner = .wg key win ∧ s.wg? key = some w ∧ ptrSpace p = 2 ∧ p % 4096 + n ≤ 4096 ∧ 0 < n :=
  ⟨oneCopy (cd 8 0 (spp 0x800) (spp 0x900) 16 1 1 0 0 0 0 0).2, (cd 8 0 (spp 0x800) (spp 0x900) 16 1 1 0 0 0 0 0).2, 0, 0, spp 0xFFF, 1, wgOf (gPtr 0), by decide +kernel⟩

theorem witness_CopiesMoveAndEnd_2 : ∃ (s : State) (id : Nat) (c : Copy) (r : BarRef), AtWork s id c ∧ c.gathers = false ∧ s.countDue c = true ∧ s.copyBar c = some r :=
  ⟨oneCopy { (cd 8 4 (spp 0x800) (spp 0x900) 16 1 1 (spp 0x3F0) 0 0 0 0).2 with moved := 16 }, 1, { (cd 8 4 (spp 0x800) (spp 0x900) 16 1 1 (spp 0x3F0) 0 0 0 0).2 with moved := 16 }, { wg := 0, win := 0, id := 63 }, ⟨by decide +kernel, by decide +kernel, by decide +kernel⟩, by decide +kernel, by decide +kernel, by decide +kernel⟩

/-- A reduction of 16 bytes at work, what it reads, where it goes and what it leaves. -/
def redCopy : Copy := (cd 9 (2 * 32 + 2 * 4096) (spp 0x800) (spp 0x900) 16 1 1 0 0 0 0xA00 512).2
def redState : State := oneCopy redCopy
def redRead : List (Byte × Bool) × State := (okIO (redState.engRead redCopy (spp 0x800) 16)).getD ([], redState)
def redPlan : List (Nat × Nat × EngPlace) := (okPlan (redRead.2.engPlan redCopy .wr (16 / 4096 + 2) (spp 0x900) 16)).getD []
def redDone : State × Copy × Flags := (redRead.2.scrWrite (wgOf (gPtr 0)) 0 (redCopy.stg + 64) (redRead.1.map Prod.fst)).applyElems redCopy (2 ^ redCopy.esz) (16 / 2 ^ redCopy.esz + redPlan.length + 1) redPlan redRead.1
theorem triple {α β γ : Type} (x : α × β × γ) : (x.1, x.2.1, x.2.2) = x := rfl

theorem witness_CopiesMoveAndEnd_3 : ∃ (s : State) (id : Nat) (c : Copy) (w : Workgroup) (win : Nat) (n : Nat) (src : Nat) (dst : Nat) (b : List (Byte × Bool)) (t : State) (ps : List (Nat × Nat × EngPlace)) (u : State) (d : Copy) (fl : Flags), s.copy? id = some c ∧ s.copyStopped c = false ∧ c.reduces = true ∧ c.moved < c.total ∧ c.staging s = some (w, win) ∧ n = Nat.min (c.n0 - c.moved % c.n0) ((c.stgsz - 64) / 2 ^ c.esz * 2 ^ c.esz) ∧ src = c.srcAt c.moved none ∧ dst = c.dstAt c.moved ∧ leaves c.src src n = none ∧ leaves c.dst dst n = none ∧ ¬ (ptrSpace dst = 6 ∧ bitsOf dst 49 11 ≠ s.devnum) ∧ s.engRead c src n = .ok b t ∧ t.engPlan c .wr (n / 4096 + 2) dst n = .ok ps ∧ (u, d, fl) = (t.scrWrite w win (c.stg + 64) (b.map Prod.fst)).applyElems c (2 ^ c.esz) (n / 2 ^ c.esz + ps.length + 1) ps b :=
  ⟨redState, 1, redCopy, wgOf (gPtr 0), 0, 16, spp 0x800, spp 0x900, redRead.1, redRead.2, redPlan, redDone.1, redDone.2.1, redDone.2.2, and4 (by decide +kernel) (and4 (by decide +kernel) ⟨by decide +kernel, by decide +kernel, by decide +kernel, io_ok (d := ([], redState)) (by decide +kernel), plan_ok (d := []) (by decide +kernel), triple redDone⟩)⟩

theorem witness_CopiesMoveAndEnd_4 : ∃ (s : State) (id : Nat) (c : Copy), s.copy? id = some c ∧ s.copyStopped c = false ∧ s.copyOver c = true ∧ c.cmp ≠ 2 :=
  ⟨oneCopy { (cd 8 0 (spp 0x800) (spp 0x900) 16 1 1 0 0 0 0 0).2 with moved := 16 }, 1, { (cd 8 0 (spp 0x800) (spp 0x900) 16 1 1 0 0 0 0 0).2 with moved := 16 }, by decide +kernel, by decide +kernel, by decide +kernel, by decide +kernel⟩

theorem witness_CopiesMoveAndEnd_5 : ∃ (s : State) (id : Nat) (c : Copy) (u : State), s.copy? id = some c ∧ s.copyStopped c = false ∧ s.copyOver c = true ∧ c.cmp = 2 ∧ s.copyCount c c.cval = .ok () u :=
  ⟨oneCopy ({ (cd 8 8 (spp 0x800) (spp 0x900) 16 1 1 0x1FF8 1 0 0 0).2 with moved := 16 }), 1, { (cd 8 8 (spp 0x800) (spp 0x900) 16 1 1 0x1FF8 1 0 0 0).2 with moved := 16 }, _, by decide +kernel, by decide +kernel, by decide +kernel, by decide +kernel, io_ok (d := ((), ms)) (by decide +kernel)⟩

theorem witness_CopiesMoveAndEnd_6 : ∃ (c : Copy) (k : Nat) (g : Nat), c.owner = .wg k g :=
  ⟨(cd 8 0 (spp 0x800) (spp 0x900) 16 1 1 0 0 0 0 0).2, 0, 0, rfl⟩

theorem witness_CopiesMoveAndEnd_7 : ∃ (s : State) (id : Nat) (code : Nat) (fspc : Nat) (addr : W64) (c : Copy) (c1 : Copy) (u : State), s.copy? id = some c ∧ c.failed = none ∧ code ≠ 0xA ∧ (s.dropFlits id).writeRecord c (c.record s code fspc addr.toNat 0) = .ok c1 u :=
  ⟨oneCopy (cd 8 0 (spp 0x800) (spp 0x900) 16 1 1 0 0 0 0 0).2, 1, 6, 0, 0, (cd 8 0 (spp 0x800) (spp 0x900) 16 1 1 0 0 0 0 0).2, _, _, by decide +kernel, by decide +kernel, by decide, io_ok (d := ((cd 8 0 (spp 0x800) (spp 0x900) 16 1 1 0 0 0 0 0).2, ms)) (by decide +kernel)⟩

theorem witness_CopiesMoveAndEnd_8 : ∃ (s : State) (id : Nat) (c : Copy) (w : Workgroup) (key : Nat) (g : Nat) (code1 : Nat) (fspc1 : Nat) (a1 : Nat) (u : State), s.copy? id = some c ∧ c.owner = .wg key g ∧ s.wg? key = some w ∧ c.failed = some (code1, fspc1, a1) ∧ s.copyVisible c = true ∧ s.failTarget c = .ok () u :=
  ⟨oneCopy { (cd 8 0 (spp 0x800) (spp 0x900) 16 1 1 0 0 0 0 0).2 with failed := some (6, 0, 0) }, 1, { (cd 8 0 (spp 0x800) (spp 0x900) 16 1 1 0 0 0 0 0).2 with failed := some (6, 0, 0) }, wgOf (gPtr 0), 0, 0, 6, 0, 0, _, and4 (by decide +kernel) ⟨by decide +kernel, io_ok (d := ((), ms)) (by decide +kernel)⟩⟩

theorem witness_CopiesMoveAndEnd_9 : ∃ (c : Copy), c.cmp = 0 :=
  ⟨(cd 8 0 (spp 0x800) (spp 0x900) 16 1 1 0 0 0 0 0).2, by decide +kernel⟩

theorem witness_CopiesMoveAndEnd_10 : ∃ (s : State) (c : Copy) (r : BarRef), c.cmp = 1 ∧ s.copyBar c = some r :=
  ⟨oneCopy { (cd 8 4 (spp 0x800) (spp 0x900) 16 1 1 (spp 0x3F0) 0 0 0 0).2 with moved := 16 }, { (cd 8 4 (spp 0x800) (spp 0x900) 16 1 1 (spp 0x3F0) 0 0 0 0).2 with moved := 16 }, { wg := 0, win := 0, id := 63 }, by decide +kernel, by decide +kernel⟩

theorem witness_CopiesMoveAndEnd_11 : ∃ (s : State) (c : Copy) (u : State), c.cmp = 2 ∧ s.copyCount c ((c.cval + 2 ^ 63) % 2 ^ 64) = .ok () u :=
  ⟨oneCopy ({ (cd 8 8 (spp 0x800) (spp 0x900) 16 1 1 0x1FF8 1 0 0 0).2 with moved := 16 }), { (cd 8 8 (spp 0x800) (spp 0x900) 16 1 1 0x1FF8 1 0 0 0).2 with moved := 16 }, _, by decide +kernel, io_ok (d := ((), ms)) (by decide +kernel)⟩

theorem witness_CopiesMoveAndEnd_12 : ∃ (code : Nat) (fspc : Nat) (fdet : Nat) (k : Nat), code < 256 ∧ fspc < 256 ∧ fdet < 256 ∧ k < 32 :=
  ⟨255, 255, 255, 31, by decide, by decide, by decide, by decide⟩

/-! ### System calls, spawns and coherence -/

def aNode : Node := { num := 0, st := .running, ten := 0, pasid := 0, prio := 0, q := none, root := 7, weight := 2, preds := [], tag := 0, sigaddr := 0, sigval := 0, resaddr := 0 }
def aRoot : Root := { id := 7, q := 0, ten := 0, pasid := 0, prio := 0, tag := 0, sigaddr := 0, sigval := 0, resaddr := 0 }
def spawnState : State := { ms with nodes := [aNode], roots := [aRoot] }
def lane0 : Ctx := ctxOf (wgOf (gPtr 0x1000 1)) (gPtr 0x1000 1) { sp0 with mask := 1 } bootGrid

theorem witness_SystemCallsAndSpawns_0 : ∃ (w : _) (s : State) (t : _) (y : Ctx), Issues (.syscall w) w.com s t y ∧ y.real w.com = 0 :=
  ⟨fl (cm 0 false 1) (v 0) (v 6) (v 0) (v 0) 0, _, _, _, iss (s := State.reset) (w := wgOf (gp sp0)) (gr := bootGrid) rfl rfl rfl rfl rfl (by decide +kernel) rfl rfl, by decide⟩

theorem witness_SystemCallsAndSpawns_1 : ∃ (w : _) (s : State) (t : _) (y : Ctx) (p : LanePlan), Issues (.syscall w) w.com s t y ∧ y.real w.com ≠ 0 ∧ LanesPass y t { spaces := [0], width := 64, align := 64 } .rd [(lowestLane (y.real w.com), whole y (lowestLane (y.real w.com)) w.a true)] [p] ∧ Free t y true 5 :=
  ⟨fl (cm 0 false 0) (v 0) (v 6) (v 0) (v 0) 0, _, _, _, { lane := 0, ptr := 4096, res := .line 0x201000 0x5008 }, iss (s := ms) (w := wgOf (gPtr 0x1000 1)) (gr := bootGrid) rfl rfl rfl rfl rfl (by decide +kernel) rfl rfl, by decide, pass1 (l := 0) (p := 4096) (by decide +kernel) (by decide +kernel), fun _ => by decide +kernel⟩

theorem witness_SystemCallsAndSpawns_2 : ∃ (s : State) (y : Ctx) (ptr : Nat) (n : Node) (r : SvcReq), s.node? y.gr.node = some n ∧ r = ({ id := s.nextId, ten := y.wg.ten, pasid := y.gr.pasid, ptr := ptr, root := (if n.root = 0 then 2 * y.gr.node else 2 * n.root + 1), ctx := y.wg.ctx, grid := y.gr.id, wg := y.wg.key, grp := y.foc.grp, queued := decide ((s.services.filter (fun q => q.ten == y.wg.ten && q.queued)).length < serviceRoom) } : SvcReq) :=
  ⟨spawnState, lane0, 0x1000, aNode, _, by decide +kernel, rfl⟩

theorem witness_SystemCallsAndSpawns_3 : ∃ (s : State) (id : Nat) (r : SvcReq), s.services.find? (fun q => q.id == id && !q.queued) = some r :=
  ⟨{ State.reset with services := [{ id := 5, ten := 0, pasid := 0, ptr := 0x1000, root := 15, ctx := 0, grid := 0, wg := 0, grp := 0, queued := false }] }, 5, { id := 5, ten := 0, pasid := 0, ptr := 0x1000, root := 15, ctx := 0, grid := 0, wg := 0, grp := 0, queued := false }, by decide +kernel⟩

theorem witness_SystemCallsAndSpawns_4 : ∃ (w : _) (s : State) (t : _) (y : Ctx), Issues (.spawn w) w.com s t y ∧ y.real w.com = 0 :=
  ⟨fe (cm 0 false 1) (v 4) (v 6) (v 8) (v 0) 0 false false 0, _, _, _, iss (s := State.reset) (w := wgOf (gp sp0)) (gr := bootGrid) rfl rfl rfl rfl rfl (by decide +kernel) rfl rfl, by decide⟩

theorem read_some {α β γ : Type} {x : α × Option (β × γ)} {d : β × γ} (h : x.2.isSome = true) : x = (x.1, some ((x.2.getD d).1, (x.2.getD d).2)) := by
  obtain ⟨a, b⟩ := x
  cases b <;> simp_all
def rdState : State := { ms with lines := [{ agent := 0, addr := 0x4020, st := .e, data := List.replicate 128 0 }] }

theorem witness_SystemCallsAndSpawns_5 : ∃ (w : _) (s : State) (t : _) (y : Ctx) (p : LanePlan) (b : List Byte) (bad : Bool) (v : State) (share : Nat) (r : Nat) (u : State), Issues (.spawn w) w.com s t y ∧ y.real w.com ≠ 0 ∧ LanesPass y t { spaces := [0], width := 64, align := 64 } .rd [(lowestLane (y.real w.com), whole y (lowestLane (y.real w.com)) w.a true)] [p] ∧ Free t y w.rel w.scope.toNat ∧ y.descBytes t 64 p = (v, some (b, bad)) ∧ share = whole y (lowestLane (y.real w.com)) w.b false ∧ y.spawnChild (v.markLeaves [p] false) share b bad = .ok r u :=
  ⟨fe (cm 0 false 0) (v 4) (v 6) (v 8) (v 0) 0 false false 0, _, _, _, { lane := 0, ptr := 4096, res := .line 0x201000 0x5008 }, ((lane0.descBytes (shown rdState (wgOf (gPtr 0x1000 1)) bootGrid) 64 { lane := 0, ptr := 4096, res := .line 0x201000 0x5008 }).2.getD ([], true)).1, ((lane0.descBytes (shown rdState (wgOf (gPtr 0x1000 1)) bootGrid) 64 { lane := 0, ptr := 4096, res := .line 0x201000 0x5008 }).2.getD ([], true)).2, (lane0.descBytes (shown rdState (wgOf (gPtr 0x1000 1)) bootGrid) 64 { lane := 0, ptr := 4096, res := .line 0x201000 0x5008 }).1, _, ((okIO (lane0.spawnChild ((lane0.descBytes (shown rdState (wgOf (gPtr 0x1000 1)) bootGrid) 64 { lane := 0, ptr := 4096, res := .line 0x201000 0x5008 }).1.markLeaves [{ lane := 0, ptr := 4096, res := .line 0x201000 0x5008 }] false) 1 ((lane0.descBytes (shown rdState (wgOf (gPtr 0x1000 1)) bootGrid) 64 { lane := 0, ptr := 4096, res := .line 0x201000 0x5008 }).2.getD ([], true)).1 ((lane0.descBytes (shown rdState (wgOf (gPtr 0x1000 1)) bootGrid) 64 { lane := 0, ptr := 4096, res := .line 0x201000 0x5008 }).2.getD ([], true)).2)).getD (0, ms)).1, ((okIO (lane0.spawnChild ((lane0.descBytes (shown rdState (wgOf (gPtr 0x1000 1)) bootGrid) 64 { lane := 0, ptr := 4096, res := .line 0x201000 0x5008 }).1.markLeaves [{ lane := 0, ptr := 4096, res := .line 0x201000 0x5008 }] false) 1 ((lane0.descBytes (shown rdState (wgOf (gPtr 0x1000 1)) bootGrid) 64 { lane := 0, ptr := 4096, res := .line 0x201000 0x5008 }).2.getD ([], true)).1 ((lane0.descBytes (shown rdState (wgOf (gPtr 0x1000 1)) bootGrid) 64 { lane := 0, ptr := 4096, res := .line 0x201000 0x5008 }).2.getD ([], true)).2)).getD (0, ms)).2, iss (s := rdState) (w := wgOf (gPtr 0x1000 1)) (gr := bootGrid) rfl rfl rfl rfl rfl (by decide +kernel) rfl rfl, by decide, pass1 (l := 0) (p := 4096) (by decide +kernel) (by decide +kernel), fun _ => by decide +kernel, read_some (by decide +kernel), rfl, io_ok (by decide +kernel)⟩

theorem witness_SystemCallsAndSpawns_6 : ∃ (s : State) (y : Ctx) (share : Nat) (n : Node) (r : Root), s.node? y.gr.node = some n ∧ s.roots.find? (fun k => k.id == n.root) = some r ∧ (share = 0 ∨ n.weight ≤ share) :=
  ⟨spawnState, lane0, 2, aNode, aRoot, by decide +kernel, by decide +kernel, .inr (by decide)⟩

theorem witness_SystemCallsAndSpawns_7 : ∃ (s : State) (y : Ctx) (share : Nat) (n : Node) (r : Root), s.node? y.gr.node = some n ∧ s.roots.find? (fun k => k.id == n.root) = some r ∧ share ≠ 0 ∧ share < n.weight ∧ s.poolFull = true :=
  ⟨{ spawnState with nodes := aNode :: List.replicate 4095 aNode }, lane0, 1, aNode, aRoot, by rfl, by decide +kernel, by decide, by decide, by decide +kernel⟩

theorem witness_SystemCallsAndSpawns_8 : ∃ (s : State) (y : Ctx) (share : Nat) (b : List Byte) (bad : Bool) (n : Node) (r : Root) (num : Nat) (v : State), s.node? y.gr.node = some n ∧ s.roots.find? (fun k => k.id == n.root) = some r ∧ share ≠ 0 ∧ share < n.weight ∧ s.poolFull = false ∧ y.spawnChild s share b bad = .ok num v :=
  ⟨spawnState, lane0, 1, [], true, aNode, aRoot, ((okIO (lane0.spawnChild spawnState 1 [] true)).getD (0, ms)).1, ((okIO (lane0.spawnChild spawnState 1 [] true)).getD (0, ms)).2, by decide +kernel, by decide +kernel, by decide, by decide, by decide +kernel, io_ok (by decide +kernel)⟩

/-- A state with one home record of line 0x4020, one message about it and lines of agents. -/
def coh (h : Home) (m : Msg) (ls : List Line) : State := { ms with homes := [h], msgs := [m], lines := ls }
def hm (st : HomeSt) (o : Option Nat) (sh : List Nat) : Home := { addr := 0x4020, st := st, owner := o, sharers := sh }
def mg (k : MsgKind) (a : Nat) : Msg := { kind := k, agent := a, addr := 0x4020 }
def ln (a : Nat) (st : LineSt) : Line := { agent := a, addr := 0x4020, st := st, data := List.replicate 128 0 }

theorem witness_CoherenceAtHome_0 : ∃ (s : State) (a : Nat) (ln : Nat) (m : Msg) (h : Home), AtRest s ln h ∧ s.arriving .gets a ln = some m ∧ (a ≠ 4 ∨ (s.line? 4 ln).isSome) ∧ h.owner = none ∧ h.sharers = [] :=
  ⟨coh (hm .i none []) (mg .gets 4) [ln 4 .isD], 4, 0x4020, mg .gets 4, hm .i none [], ⟨by decide +kernel, rfl, rfl⟩, by decide +kernel, .inr (by decide +kernel), rfl, rfl⟩

theorem witness_CoherenceAtHome_1 : ∃ (s : State) (a : Nat) (ln : Nat) (m : Msg) (h : Home), AtRest s ln h ∧ s.arriving .gets a ln = some m ∧ (a ≠ 4 ∨ (s.line? 4 ln).isSome) ∧ h.owner = none ∧ h.sharers ≠ [] :=
  ⟨coh (hm .s none [1]) (mg .gets 0) [ln 0 .isD], 0, 0x4020, mg .gets 0, hm .s none [1], ⟨by decide +kernel, rfl, rfl⟩, by decide +kernel, .inl (by decide), rfl, by decide⟩

theorem witness_CoherenceAtHome_2 : ∃ (s : State) (a : Nat) (ln : Nat) (m : Msg) (h : Home) (o : Nat), AtRest s ln h ∧ s.arriving .gets a ln = some m ∧ (a ≠ 4 ∨ (s.line? 4 ln).isSome) ∧ h.owner = some o ∧ o ≠ a :=
  ⟨coh (hm .m (some 3) []) (mg .gets 0) [ln 0 .isD], 0, 0x4020, mg .gets 0, hm .m (some 3) [], 3, ⟨by decide +kernel, rfl, rfl⟩, by decide +kernel, .inl (by decide), rfl, by decide⟩

theorem witness_CoherenceAtHome_3 : ∃ (s : State) (a : Nat) (ln : Nat) (m : Msg) (h : Home) (i : Instr) (others : List Nat), AtRest s ln h ∧ ((i = .getm (.agent a) ln ∧ s.arriving .getm a ln = some m ∧ (a ≠ 4 ∨ (s.line? 4 ln).isSome)) ∨ (i = .upg a ln ∧ s.arriving .upg a ln = some m ∧ h.owner ≠ some a ∧ h.sharers.contains a = false)) ∧ others = h.sharers.filter (· != a) ∧ others = [] ∧ h.owner = none :=
  ⟨coh (hm .s none [0]) (mg .getm 0) [ln 0 .imAD], 0, 0x4020, mg .getm 0, hm .s none [0], .getm (.agent 0) 0x4020, [], ⟨by decide +kernel, rfl, rfl⟩, .inl ⟨rfl, by decide +kernel, .inl (by decide)⟩, rfl, rfl, rfl⟩

theorem witness_CoherenceAtHome_4 : ∃ (s : State) (a : Nat) (ln : Nat) (m : Msg) (h : Home) (i : Instr) (others : List Nat) (o : Nat), AtRest s ln h ∧ ((i = .getm (.agent a) ln ∧ s.arriving .getm a ln = some m ∧ (a ≠ 4 ∨ (s.line? 4 ln).isSome)) ∨ (i = .upg a ln ∧ s.arriving .upg a ln = some m ∧ h.owner ≠ some a ∧ h.sharers.contains a = false)) ∧ others = h.sharers.filter (· != a) ∧ others = [] ∧ h.owner = some o ∧ o ≠ a :=
  ⟨coh (hm .m (some 3) []) (mg .upg 0) [ln 0 .smA], 0, 0x4020, mg .upg 0, hm .m (some 3) [], .upg 0 0x4020, [], 3, ⟨by decide +kernel, rfl, rfl⟩, .inr ⟨rfl, by decide +kernel, by decide, by decide⟩, rfl, rfl, rfl, by decide⟩

theorem witness_CoherenceAtHome_5 : ∃ (s : State) (a : Nat) (ln : Nat) (m : Msg) (h : Home) (i : Instr) (others : List Nat), AtRest s ln h ∧ ((i = .getm (.agent a) ln ∧ s.arriving .getm a ln = some m ∧ (a ≠ 4 ∨ (s.line? 4 ln).isSome)) ∨ (i = .upg a ln ∧ s.arriving .upg a ln = some m ∧ h.owner ≠ some a ∧ h.sharers.contains a = false)) ∧ others = h.sharers.filter (· != a) ∧ others ≠ [] :=
  ⟨coh (hm .s none [0, 2]) (mg .getm 0) [ln 0 .imAD], 0, 0x4020, mg .getm 0, hm .s none [0, 2], .getm (.agent 0) 0x4020, [2], ⟨by decide +kernel, rfl, rfl⟩, .inl ⟨rfl, by decide +kernel, .inl (by decide)⟩, by decide, by decide⟩

theorem witness_CoherenceAtHome_6 : ∃ (s : State) (a : Nat) (ln : Nat) (m : Msg) (h : Home) (others : List Nat), AtRest s ln h ∧ s.arriving .upg a ln = some m ∧ (h.owner = some a ∨ (h.owner = none ∧ h.sharers.contains a = true)) ∧ others = h.sharers.filter (· != a) :=
  ⟨coh (hm .o (some 0) [2]) (mg .upg 0) [ln 0 .omA], 0, 0x4020, mg .upg 0, hm .o (some 0) [2], [2], ⟨by decide +kernel, rfl, rfl⟩, by decide +kernel, .inl rfl, by decide⟩

theorem witness_CoherenceAtHome_7 : ∃ (s : State) (a : Nat) (ln : Nat) (m : Msg) (h : Home) (k : MsgKind) (i : Instr), AtRest s ln h ∧ (k, i) ∈ [(MsgKind.putm, Instr.putm a ln), (.puto, .puto a ln), (.pute, .pute a ln)] ∧ s.arriving k a ln = some m ∧ (∀ l, s.line? a ln = some l → l.st = .miA ∨ l.st = .iiA) ∧ h.owner = some a ∧ (∀ l, s.line? a ln = some l → s.linePassed l = true) :=
  ⟨coh (hm .m (some 0) []) (mg .putm 0) [ln 0 .miA], 0, 0x4020, mg .putm 0, hm .m (some 0) [], .putm, .putm 0 0x4020, ⟨by decide +kernel, rfl, rfl⟩, by decide, by decide +kernel, fun l e => .inl (Option.some.inj (show some (ln 0 .miA) = some l from e) ▸ rfl), rfl, fun l e => (Option.some.inj (show some (ln 0 .miA) = some l from e)) ▸ by decide +kernel⟩

theorem witness_CoherenceAtHome_8 : ∃ (s : State) (a : Nat) (ln : Nat) (m : Msg) (h : Home) (k : MsgKind) (i : Instr), AtRest s ln h ∧ (k, i) ∈ [(MsgKind.putm, Instr.putm a ln), (.puto, .puto a ln), (.pute, .pute a ln)] ∧ s.arriving k a ln = some m ∧ (∀ l, s.line? a ln = some l → l.st = .miA ∨ l.st = .iiA) ∧ h.owner ≠ some a :=
  ⟨coh (hm .m (some 2) []) (mg .puto 0) [ln 0 .miA], 0, 0x4020, mg .puto 0, hm .m (some 2) [], .puto, .puto 0 0x4020, ⟨by decide +kernel, rfl, rfl⟩, by decide, by decide +kernel, fun l e => .inl (Option.some.inj (show some (ln 0 .miA) = some l from e) ▸ rfl), by decide⟩

theorem witness_CoherenceAtHome_9 : ∃ (s : State) (a : Nat) (ln : Nat) (m : Msg) (k : MsgKind) (i : Instr), (((k, i) ∈ [(MsgKind.gets, Instr.gets (.agent a) ln), (.getm, .getm (.agent a) ln)] ∧ (a ≠ 4 ∨ (s.line? 4 ln).isSome)) ∨ (k = .upg ∧ i = .upg a ln) ∨ ((k, i) ∈ [(MsgKind.putm, Instr.putm a ln), (.puto, .puto a ln), (.pute, .pute a ln)] ∧ ∀ l, s.line? a ln = some l → l.st = .miA ∨ l.st = .iiA)) ∧ s.arriving k a ln = some m ∧ (s.home ln).busy ≠ none :=
  ⟨coh ({ hm .s none [0, 2] with busy := some .inv, acks := [1, 2] }) (mg .gets 0) [], 0, 0x4020, mg .gets 0, .gets, .gets (.agent 0) 0x4020, .inl ⟨by decide, .inl (by decide)⟩, by decide +kernel, by decide +kernel⟩

theorem witness_CoherenceAtHome_10 : ∃ (s : State) (a : Nat) (ln : Nat) (m : Msg) (h : Home), s.home ln = h ∧ s.arriving .invack a ln = some m ∧ h.busy = some .inv ∧ h.acks.contains a = true ∧ h.acks.filter (· != a) ≠ [] :=
  ⟨coh ({ hm .s none [0, 2] with busy := some .inv, acks := [1, 2] }) (mg .invack 1) [], 1, 0x4020, mg .invack 1, { hm .s none [0, 2] with busy := some .inv, acks := [1, 2] }, by decide +kernel, by decide +kernel, rfl, rfl, by decide⟩

theorem witness_CoherenceAtHome_11 : ∃ (s : State) (a : Nat) (ln : Nat) (m : Msg) (h : Home), s.home ln = h ∧ s.arriving .invack a ln = some m ∧ h.busy = some .inv ∧ h.acks.contains a = true ∧ h.acks.filter (· != a) = [] ∧ h.owner = none :=
  ⟨coh ({ hm .s none [0] with busy := some .inv, acks := [1] }) (mg .invack 1) [], 1, 0x4020, mg .invack 1, { hm .s none [0] with busy := some .inv, acks := [1] }, by decide +kernel, by decide +kernel, rfl, rfl, rfl, rfl⟩

theorem witness_CoherenceAtHome_12 : ∃ (s : State) (a : Nat) (ln : Nat) (m : Msg) (h : Home), s.home ln = h ∧ s.arriving .done a ln = some m ∧ h.who = a ∧ h.busy = some .fs :=
  ⟨coh ({ hm .s none [0] with busy := some .fs, who := 1, owner := some 2 }) (mg .done 1) [], 1, 0x4020, mg .done 1, { hm .s none [0] with busy := some .fs, who := 1, owner := some 2 }, by decide +kernel, by decide +kernel, rfl, rfl⟩

theorem witness_CoherenceAtHome_13 : ∃ (s : State) (a : Nat) (ln : Nat) (m : Msg) (h : Home), s.home ln = h ∧ s.arriving .done a ln = some m ∧ h.who = a ∧ h.busy = some .fm :=
  ⟨coh ({ hm .s none [0] with busy := some .fm, who := 1, owner := some 2 }) (mg .done 1) [], 1, 0x4020, mg .done 1, { hm .s none [0] with busy := some .fm, who := 1, owner := some 2 }, by decide +kernel, by decide +kernel, rfl, rfl⟩

theorem witness_CoherenceAtHome_14 : ∃ (s : State) (ln : Nat) (h : Home) (v : State), s.home ln = h ∧ h.since + 2 ^ 20 ≤ s.cycle ∧ h.busy = some .inv ∧ v = s.logTimeout ln 1 :=
  ⟨{ coh ({ hm .s none [0, 2] with busy := some .inv, acks := [1, 2] }) (mg .gets 0) [] with cycle := 2 ^ 20 }, 0x4020, { hm .s none [0, 2] with busy := some .inv, acks := [1, 2] }, _, by decide +kernel, by decide +kernel, rfl, rfl⟩

theorem witness_CoherenceAtHome_15 : ∃ (s : State) (ln : Nat) (h : Home) (o : Nat) (v : State), s.home ln = h ∧ h.since + 2 ^ 20 ≤ s.cycle ∧ h.busy = some .fs ∧ h.owner = some o ∧ v = (s.logTimeout ln 3).removeOwner o ln :=
  ⟨{ coh ({ hm .s none [0] with busy := some .fs, who := 1, owner := some 2 }) (mg .gets 0) [] with cycle := 2 ^ 20 }, 0x4020, { hm .s none [0] with busy := some .fs, who := 1, owner := some 2 }, 2, _, by decide +kernel, by decide +kernel, rfl, rfl, rfl⟩

theorem witness_CoherenceAtHome_17 : ∃ (s : State) (o : Nat) (ln : Nat) (l : Line), s.line? o ln = some l ∧ (l.st = .m ∨ l.st = .o) :=
  ⟨coh (hm .i none []) (mg .gets 0) [ln 0 .o], 0, 0x4020, ln 0 .o, by decide +kernel, .inr rfl⟩

theorem witness_CoherenceAtHome_19 : ∃ (s : State) (a : Nat), a ∈ s.deadLinks :=
  ⟨{ State.reset with deadLinks := [4] }, 4, by decide⟩

def carved : State := { State.reset with lines := [ln 4 .m], tens := [(3, { st := 2, vmid := 9, carve := [(0x201000, 128)] })] }
def hartLd : HartAcc := { hart := 5, guest := some 8, pa := 0x201000, op := .load 8 }
def hartSt : HartAcc := { hart := 31, guest := none, pa := 0x201078, op := .store [1, 2, 3, 4, 5, 6, 7, 8] }

theorem witness_CoherenceAtHome_20 : ∃ (s : State) (c : HartAcc) (n : Nat) (u : State) (t : Nat) (e : LogRec) (k : Nat), n = hartLen c.op ∧ u = s.modHart c.hart (fun k => { k with guest := c.guest }) ∧ c.hart < 32 ∧ c.pa % 128 + n ≤ 128 ∧ u.hartRefused c.guest c.pa n = some t ∧ e = { unit := 4, code := 0x41, ten := t, src := 12, uno := c.hart, pa := c.pa } ∧ c.op = .load k :=
  ⟨carved, hartLd, _, _, 3, _, 8, rfl, rfl, by decide, by decide, by decide +kernel, rfl, rfl⟩

theorem witness_CoherenceAtHome_21 : ∃ (s : State) (c : HartAcc) (n : Nat) (u : State) (t : Nat) (e : LogRec) (b : List Byte), n = hartLen c.op ∧ u = s.modHart c.hart (fun k => { k with guest := c.guest }) ∧ c.hart < 32 ∧ c.pa % 128 + n ≤ 128 ∧ u.hartRefused c.guest c.pa n = some t ∧ e = { unit := 4, code := 0x41, ten := t, src := 12, uno := c.hart, pa := c.pa } ∧ c.op = .store b :=
  ⟨carved, hartSt, _, _, 3, _, [1, 2, 3, 4, 5, 6, 7, 8], rfl, rfl, by decide, by decide, by decide +kernel, rfl, rfl⟩

theorem witness_CoherenceAtHome_22 : ∃ (s : State) (c : HartAcc) (n : Nat) (u : State) (l : Line) (k : Nat), n = hartLen c.op ∧ u = s.modHart c.hart (fun k => { k with guest := c.guest }) ∧ c.hart < 32 ∧ c.pa % 128 + n ≤ 128 ∧ u.hartRefused c.guest c.pa n = none ∧ u.line? 4 (c.pa / 128) = some l ∧ l.st.stable = true ∧ u.computeSide c.pa = false ∧ u.homeMoves c.pa = false ∧ c.op = .load k ∧ u.poisoned c.pa n = false :=
  ⟨carved, { hartLd with guest := some 9 }, _, _, ln 4 .m, 8, rfl, rfl, by decide, by decide, and4 (by decide +kernel) ⟨by decide +kernel, rfl, by decide +kernel⟩⟩

theorem witness_CoherenceAtHome_23 : ∃ (s : State) (c : HartAcc) (n : Nat) (u : State) (l : Line) (b : List Byte), n = hartLen c.op ∧ u = s.modHart c.hart (fun k => { k with guest := c.guest }) ∧ c.hart < 32 ∧ c.pa % 128 + n ≤ 128 ∧ u.hartRefused c.guest c.pa n = none ∧ u.line? 4 (c.pa / 128) = some l ∧ l.st.stable = true ∧ u.computeSide c.pa = false ∧ u.homeMoves c.pa = false ∧ c.op = .store b ∧ l.st = .m :=
  ⟨carved, { hartSt with guest := some 9 }, _, _, ln 4 .m, [1, 2, 3, 4, 5, 6, 7, 8], rfl, rfl, by decide, by decide, and4 (by decide +kernel) ⟨by decide +kernel, rfl, by decide +kernel⟩⟩

theorem witness_CoherenceAtHome_24 : ∃ (s : State) (g : Option Nat) (pa : _) (n : Nat) (t : Nat), s.hartRefused g pa n = some t :=
  ⟨carved, none, 0x20107F, 1, 3, by decide +kernel⟩

theorem witness_CoherenceAtAgents_0 : ∃ (s : State) (a : Nat) (ln : Nat) (m : Msg) (ack : Msg), s.arriving .inv a ln = some m ∧ ack = ({ kind := .invack, agent := a, addr := ln } : Msg) ∧ s.line? a ln = none :=
  ⟨coh (hm .s none [0]) (mg .inv 0) [], 0, 0x4020, mg .inv 0, _, by decide +kernel, rfl, by decide +kernel⟩

theorem witness_CoherenceAtAgents_1 : ∃ (s : State) (a : Nat) (ln : Nat) (m : Msg) (ack : Msg) (l : Line), s.arriving .inv a ln = some m ∧ ack = ({ kind := .invack, agent := a, addr := ln } : Msg) ∧ s.line? a ln = some l ∧ l.data ≠ [] ∧ s.linePassed l = false :=
  ⟨coh (hm .s none [0]) (mg .inv 0) [{ ln 0 .m with writes := [{ vis := 9, off := 0, bytes := [1] }], wts := 9 }], 0, 0x4020, mg .inv 0, _, { ln 0 .m with writes := [{ vis := 9, off := 0, bytes := [1] }], wts := 9 }, by decide +kernel, rfl, by decide +kernel, by decide, by decide +kernel⟩

theorem witness_CoherenceAtAgents_2 : ∃ (s : State) (a : Nat) (ln : Nat) (m : Msg) (ack : Msg) (l : Line), s.arriving .inv a ln = some m ∧ ack = ({ kind := .invack, agent := a, addr := ln } : Msg) ∧ s.line? a ln = some l ∧ l.data ≠ [] ∧ s.linePassed l = true :=
  ⟨coh (hm .s none [0]) (mg .inv 0) [ln 0 .s], 0, 0x4020, mg .inv 0, _, ln 0 .s, by decide +kernel, rfl, by decide +kernel, by decide, by decide +kernel⟩

theorem witness_CoherenceAtAgents_3 : ∃ (s : State) (a : Nat) (ln : Nat) (m : Msg) (l : Line), s.arriving .fwds a ln = some m ∧ s.line? a ln = some l ∧ l.data ≠ [] ∧ s.linePassed l = false :=
  ⟨coh (hm .s none [0]) (mg .fwds 0) [{ ln 0 .m with writes := [{ vis := 9, off := 0, bytes := [1] }], wts := 9 }], 0, 0x4020, mg .fwds 0, { ln 0 .m with writes := [{ vis := 9, off := 0, bytes := [1] }], wts := 9 }, by decide +kernel, by decide +kernel, by decide, by decide +kernel⟩

theorem witness_CoherenceAtAgents_4 : ∃ (s : State) (a : Nat) (ln : Nat) (m : Msg) (l : Line), s.arriving .fwds a ln = some m ∧ s.line? a ln = some l ∧ l.data ≠ [] ∧ s.linePassed l = true :=
  ⟨coh (hm .s none [0]) (mg .fwds 0) [ln 0 .m], 0, 0x4020, mg .fwds 0, ln 0 .m, by decide +kernel, by decide +kernel, by decide, by decide +kernel⟩

theorem witness_CoherenceAtAgents_5 : ∃ (s : State) (a : Nat) (ln : Nat) (m : Msg) (l : Line), s.arriving .fwdm a ln = some m ∧ s.line? a ln = some l ∧ l.data ≠ [] ∧ s.linePassed l = false :=
  ⟨coh (hm .s none [0]) (mg .fwdm 0) [{ ln 0 .m with writes := [{ vis := 9, off := 0, bytes := [1] }], wts := 9 }], 0, 0x4020, mg .fwdm 0, { ln 0 .m with writes := [{ vis := 9, off := 0, bytes := [1] }], wts := 9 }, by decide +kernel, by decide +kernel, by decide, by decide +kernel⟩

theorem witness_CoherenceAtAgents_6 : ∃ (s : State) (a : Nat) (ln : Nat) (m : Msg) (l : Line), s.arriving .fwdm a ln = some m ∧ s.line? a ln = some l ∧ l.data ≠ [] ∧ s.linePassed l = true :=
  ⟨coh (hm .s none [0]) (mg .fwdm 0) [ln 0 .m], 0, 0x4020, mg .fwdm 0, ln 0 .m, by decide +kernel, by decide +kernel, by decide, by decide +kernel⟩

theorem witness_CoherenceAtAgents_8 : ∃ (l : Line), l.leaving = true :=
  ⟨{ ln 0 .isD with leaving := true }, rfl⟩

theorem witness_CoherenceAtAgents_14 : ∃ (s : State) (a : Nat) (ln : Nat) (l : Line) (u : State), s.line? a ln = some l ∧ u = s.setLine { l with asks := [] } ∧ l.asks = [] :=
  ⟨coh (hm .s none [0]) (mg .inv 0) [ln 0 .e], 0, 0x4020, ln 0 .e, _, by decide +kernel, rfl, rfl⟩

theorem witness_CoherenceAtAgents_15 : ∃ (s : State) (a : Nat) (ln : Nat) (l : Line) (u : State) (who : Nat) (lease : Nat), s.line? a ln = some l ∧ u = s.setLine { l with asks := [] } ∧ l.asks = [(who, lease)] :=
  ⟨coh (hm .s none [0]) (mg .inv 0) [{ ln 0 .e with asks := [(3, 9)] }], 0, 0x4020, { ln 0 .e with asks := [(3, 9)] }, _, 3, 9, by decide +kernel, rfl, rfl⟩

theorem witness_CoherenceAtAgents_10 : ∃ (s : State) (a : Nat) (ln : Nat) (m : Msg) (l : Line) (fin : Msg), s.arriving .data a ln = some m ∧ s.line? a ln = some l ∧ fin = ({ kind := .done, agent := a, addr := ln } : Msg) ∧ l.st = .isD ∧ m.give = .e :=
  ⟨coh (hm .s none [0]) ({ mg .data 0 with give := .e }) [ln 0 .isD], 0, 0x4020, { mg .data 0 with give := .e }, ln 0 .isD, _, by decide +kernel, by decide +kernel, rfl, rfl, rfl⟩

theorem witness_CoherenceAtAgents_11 : ∃ (s : State) (a : Nat) (ln : Nat) (m : Msg) (l : Line) (fin : Msg), s.arriving .data a ln = some m ∧ s.line? a ln = some l ∧ fin = ({ kind := .done, agent := a, addr := ln } : Msg) ∧ l.st = .isD ∧ m.give = .s :=
  ⟨coh (hm .s none [0]) ({ mg .data 0 with give := .s }) [ln 0 .isD], 0, 0x4020, { mg .data 0 with give := .s }, ln 0 .isD, _, by decide +kernel, by decide +kernel, rfl, rfl, rfl⟩

theorem witness_CoherenceAtAgents_12 : ∃ (s : State) (a : Nat) (ln : Nat) (m : Msg) (l : Line) (fin : Msg), s.arriving .data a ln = some m ∧ s.line? a ln = some l ∧ fin = ({ kind := .done, agent := a, addr := ln } : Msg) ∧ l.st = .imAD :=
  ⟨coh (hm .s none [0]) ({ mg .data 0 with give := .m }) [ln 0 .imAD], 0, 0x4020, { mg .data 0 with give := .m }, ln 0 .imAD, _, by decide +kernel, by decide +kernel, rfl, rfl⟩

theorem witness_CoherenceAtAgents_16 : ∃ (s : State) (a : Nat) (ln : Nat) (m : Msg) (l : Line), s.arriving .grant a ln = some m ∧ s.line? a ln = some l :=
  ⟨coh (hm .s none [0]) (mg .grant 0) [ln 0 .smA], 0, 0x4020, mg .grant 0, ln 0 .smA, by decide +kernel, by decide +kernel⟩

theorem witness_CoherenceAtAgents_17 : ∃ (s : State) (a : Nat) (ln : Nat) (q : Store), s.storeQ = [q] ∧ q.die = a ∧ s.forwarded q.pa / 128 = ln :=
  ⟨{ ms with storeQ := [{ id := 5, die := 2, wg := 0, grp := 0, lane := 3, pa := 0x201000, bytes := [7], op := .write, io := false }] }, 2, 0x4020, { id := 5, die := 2, wg := 0, grp := 0, lane := 3, pa := 0x201000, bytes := [7], op := .write, io := false }, rfl, rfl, by decide +kernel⟩

theorem witness_CoherenceAtAgents_18 : ∃ (s : State) (a : Nat) (ln : Nat) (m : Msg), s.arriving .putack a ln = some m :=
  ⟨coh (hm .s none [0]) (mg .putack 0) [], 0, 0x4020, mg .putack 0, by decide +kernel⟩

theorem witness_CoherenceAtAgents_19 : ∃ (s : State) (a : Nat) (ln : Nat) (m : Msg), s.arriving .putstale a ln = some m :=
  ⟨coh (hm .s none [0]) (mg .putstale 0) [], 0, 0x4020, mg .putstale 0, by decide +kernel⟩

theorem witness_CoherenceAtAgents_20 : ∃ (s : State) (a : Nat) (ln : Nat) (l : Line) (i : Instr) (k : MsgKind) (st : LineSt), s.line? a ln = some l ∧ l.leaving = false ∧ (i, k, st) ∈ [(Instr.putm a ln, MsgKind.putm, LineSt.m), (.puto a ln, .puto, .o), (.pute a ln, .pute, .e)] ∧ l.st = st :=
  ⟨coh (hm .m (some 0) []) (mg .inv 1) [ln 0 .e], 0, 0x4020, ln 0 .e, .pute 0 0x4020, .pute, .e, by decide +kernel, rfl, by decide, rfl⟩

/-! ### Regions, fabric and arrivals -/

def okDem : Demand → Option (Nat × Nat × Nat) | .ok a b c => some (a, b, c) | _ => none
theorem dem_ok {x : Demand} {a b c : Nat} (h : okDem x = some (a, b, c)) : x = .ok a b c := by cases x <;> simp_all [okDem]
def aLine (st : LineSt) : Line := { agent := 0, addr := 0x4020, st := st, data := List.replicate 128 0 }
def aWindow (r w : Bool) : Window := { peer := 0x7FF, v := true, rd := r, w := w, base := 0, size := 4096, va := 0x1000 }
/-- An entry of the interrupt table: kind, value and address, with a function of rid 1 that may use it. -/
def iatState (kind val va : Nat) : State :=
  { ms with iat := [(0, BitVec.ofNat 128 (1 + 2 * kind + 2 ^ 20 * val + 2 ^ 72 * va))], functions := [{ rid := 1, port := 0, link := 0, ten := some 0 }] }
def aMsi : Msi := { rid := 1, port := 0, off := 0, len := 4, data := 0 }
def aFlit (post : Bool) : Flit := { id := 5, wg := 0, grp := 0, lane := 0, wi := 0, ptr := 0, op := .store [1], posted := post }
def iatWord (s : State) : Nat := (mget 0 s.iat 0).toNat
/-- A workgroup in its image, and one whose channel 3 is a mailbox on a ring of the scratchpad. -/
def savedWg : Workgroup := { wgOf (gPtr 0) with phase := .saved }

theorem witness_RegionsAndArrivals_0 : ∃ (s : State) (r : Nat), (s.region r).moving = false :=
  ⟨State.reset, 0, by decide +kernel⟩

theorem witness_RegionsAndArrivals_1 : ∃ (s : State) (r : Nat) (v : State), (s.region r).moving = true ∧ s.recalled r = true ∧ v = (s.lines.filter (fun l => lineIn r l.addr && l.st.owns)).foldl (fun (s : State) l => s.rawWrite (128 * l.addr) l.latest) s ∧ (s.storeQ.all (fun q => hbmRegion (s.forwarded q.pa) != r)) = true :=
  ⟨{ ms.modRegion 1 (fun r => { r with moving := true, compute := true }) with lines := [aLine .m] }, 1, _, by decide +kernel, by decide +kernel, rfl, by decide +kernel⟩

theorem witness_RegionsAndArrivals_2 : ∃ (s : State) (r : Nat) (l : Line), s.recalled r = true ∧ l ∈ s.lines ∧ lineIn r l.addr = true :=
  ⟨{ ms.modRegion 1 (fun r => { r with moving := true, compute := true }) with lines := [aLine .m] }, 1, aLine .m, by decide +kernel, by decide +kernel, by decide +kernel⟩

theorem witness_RegionsAndArrivals_4 : ∃ (d : Nat), d < 4 :=
  ⟨3, by decide⟩

def aStore (v : Option Nat) : Store := { id := 5, die := 0, wg := 0, grp := 0, lane := 3, pa := 0x201000, bytes := [7], op := .write, io := false, vis := v }

theorem witness_RegionsAndArrivals_5 : ∃ (s : State) (d : Nat), (∀ q ∈ s.storeQ, q.die = d → q.vis = none) :=
  ⟨{ State.reset with storeQ := [aStore none] }, 0, by decide⟩

theorem witness_RegionsAndArrivals_6 : ∃ (s : State), s.posted = [] :=
  ⟨State.reset, rfl⟩

theorem witness_RegionsAndArrivals_7 : ∃ (s : State), (∀ f ∈ s.fabric, f.vis = none) ∧ s.inbound = [] :=
  ⟨State.reset, (fun _ hf => absurd hf List.not_mem_nil), rfl⟩

theorem witness_RegionsAndArrivals_8 : ∃ (s : State) (id : Nat) (c : Nat) (r : IcReq) (v : State), s.icreqs.find? (fun r => r.id == id) = some r ∧ r.left.contains c = true ∧ v = { s with icache := s.icache.map (fun b => if b.core = c ∧ b.addr = r.addr then { b with stale := some s.cycle, known := none } else b) } ∧ r.left.filter (· != c) ≠ [] :=
  ⟨{ State.reset with icreqs := [{ id := 5, die := 0, addr := 0, left := [3, 4] }] }, 5, 3, { id := 5, die := 0, addr := 0, left := [3, 4] }, _, by decide +kernel, by decide +kernel, rfl, by decide +kernel⟩

theorem witness_RegionsAndArrivals_9 : ∃ (s : State) (id : Nat) (c : Nat) (r : IcReq) (v : State), s.icreqs.find? (fun r => r.id == id) = some r ∧ r.left.contains c = true ∧ v = { s with icache := s.icache.map (fun b => if b.core = c ∧ b.addr = r.addr then { b with stale := some s.cycle, known := none } else b) } ∧ r.left.filter (· != c) = [] :=
  ⟨{ State.reset with icreqs := [{ id := 5, die := 0, addr := 0, left := [3] }] }, 5, 3, { id := 5, die := 0, addr := 0, left := [3] }, _, by decide +kernel, by decide +kernel, rfl, by decide +kernel⟩

theorem witness_RegionsAndArrivals_10 : ∃ (s : State) (key : Nat) (w : Workgroup), s.wg? key = some w :=
  ⟨shown State.reset (wgOf (gPtr 0)) bootGrid, 0, wgOf (gPtr 0), by decide +kernel⟩

theorem witness_RegionsAndArrivals_11 : ∃ (s : State) (key : Nat) (w : Workgroup), s.wg? key = some w :=
  ⟨shown State.reset (wgOf (gPtr 0)) bootGrid, 0, wgOf (gPtr 0), by decide +kernel⟩

theorem witness_RegionsAndArrivals_12 : ∃ (s : State) (n : Nat) (p : Proxy), s.proxy[n]? = some p ∧ s.passed p.die p.vis = true ∧ p.pend = [] ∧ (∀ q ∈ s.proxy.take n, q.addr ≠ p.addr) ∧ s.bellLost p.addr = false :=
  ⟨{ State.reset with proxy := [{ addr := 8, value := 1, die := 0, vis := 0, pend := [] }] }, 0, { addr := 8, value := 1, die := 0, vis := 0, pend := [] }, by decide +kernel, by decide +kernel, rfl, by decide, by decide +kernel⟩

theorem witness_RegionsAndArrivals_14 : ∃ (s : State) (id : Nat) (ans : PeerAns) (f : Flit), s.fabric.find? (fun f => f.id == id && f.vis.isNone) = some f ∧ f.posted = true ∧ ans = .retry :=
  ⟨{ State.reset with fabric := [aFlit true] }, 5, .retry, aFlit true, by decide +kernel, rfl, rfl⟩

theorem witness_RegionsAndArrivals_15 : ∃ (s : State) (id : Nat) (ans : PeerAns) (f : Flit), s.fabric.find? (fun f => f.id == id && f.vis.isNone) = some f ∧ f.posted = false ∧ ans = .retry :=
  ⟨{ State.reset with fabric := [aFlit false] }, 5, .retry, aFlit false, by decide +kernel, rfl, rfl⟩

theorem witness_RegionsAndArrivals_16 : ∃ (s : State) (id : Nat) (ans : PeerAns) (f : Flit), s.fabric.find? (fun f => f.id == id && f.vis.isNone) = some f ∧ f.posted = false ∧ ans ≠ .retry :=
  ⟨{ State.reset with fabric := [aFlit false] }, 5, .ok [] 0, aFlit false, by decide +kernel, rfl, by decide⟩

theorem witness_RegionsAndArrivals_17 : ∃ (s : State) (id : Nat) (ans : PeerAns) (f : Flit) (b : List Byte) (v : State), s.fabric.find? (fun f => f.id == id && f.vis.isNone) = some f ∧ f.posted = true ∧ f.chan = none ∧ ans = .ok b 0 ∧ v = ({ s with fabric := s.fabric.filter (fun g => g.id != id) } : State).settle f.wg f.grp id 0 :=
  ⟨{ State.reset with fabric := [aFlit true] }, 5, .ok [] 0, aFlit true, [], _, by decide +kernel, rfl, rfl, rfl, rfl⟩

theorem witness_RegionsAndArrivals_18 : ∃ (s : State) (id : Nat) (f : Flit), s.fabric.find? (fun f => f.id == id && f.posted && f.vis.isNone) = some f :=
  ⟨{ State.reset with fabric := [aFlit true] }, 5, aFlit true, by decide +kernel⟩

theorem witness_RegionsAndArrivals_19 : ∃ (s : State) (src : Nat) (off : Nat), s.window? src off = none :=
  ⟨State.reset, 7, 0, by decide +kernel⟩

theorem witness_RegionsAndArrivals_20 : ∃ (s : State) (src : Nat) (off : Nat) (op : PeerOp) (w : Window), s.window? src off = some w ∧ w.permits (peerNeed op) = false :=
  ⟨{ ms with windows := [(0, aWindow true false)] }, 7, 0, .store [1], aWindow true false, by decide +kernel, by decide +kernel⟩

theorem witness_RegionsAndArrivals_21 : ∃ (s : State) (src : Nat) (off : Nat) (op : PeerOp) (w : Window) (pa : Nat) (at_ : Nat) (mt : Nat) (v : State) (n : Nat), s.window? src off = some w ∧ w.permits (peerNeed op) = true ∧ s.demand srcWindow w.pasid (w.va + (off - w.base)) (peerNeed op) = .ok pa at_ mt ∧ paKind pa ≠ .reg ∧ v = s.markPte at_ (peerNeed op != .rd) ∧ op = .load n ∧ v.homeMoves (v.forwarded pa) = false ∧ v.poisoned pa n = false :=
  ⟨{ ms with windows := [(0, aWindow true true)] }, 7, 0, .load 8, aWindow true true, 0x201000, 0x5008, 0, _, 8, by decide +kernel, by decide +kernel, dem_ok (by decide +kernel), by decide +kernel, rfl, rfl, by decide +kernel, by decide +kernel⟩

theorem witness_RegionsAndArrivals_22 : ∃ (s : State) (src : Nat) (off : Nat) (op : PeerOp) (w : Window) (pa : Nat) (at_ : Nat) (mt : Nat) (v : State) (b : List Byte) (u : State) (vis : Map Nat), s.window? src off = some w ∧ w.permits (peerNeed op) = true ∧ s.demand srcWindow w.pasid (w.va + (off - w.base)) (peerNeed op) = .ok pa at_ mt ∧ paKind pa ≠ .reg ∧ v = s.markPte at_ (peerNeed op != .rd) ∧ op = .store b ∧ v.cohWrite pa (v.programBytes pa (v.cohLatest pa b.length) b) = (u, vis) :=
  ⟨{ ms with windows := [(0, aWindow true true)] }, 7, 0, .store [1], aWindow true true, 0x201000, 0x5008, 0, _, [1], (({ ms with windows := [(0, aWindow true true)] }.markPte 0x5008 true).cohWrite 0x201000 [1]).1, (({ ms with windows := [(0, aWindow true true)] }.markPte 0x5008 true).cohWrite 0x201000 [1]).2, by decide +kernel, by decide +kernel, dem_ok (by decide +kernel), by decide +kernel, rfl, rfl, rfl⟩

theorem witness_RegionsAndArrivals_23 : ∃ (s : State) (key : Nat) (loff : Nat) (w : Workgroup) (gr : Grid) (c : Nat), s.wg? key = some w ∧ s.grid? w.grid = some gr ∧ c < 16 ∧ (w.chan c).v = true ∧ (w.chan c).kind = 3 ∧ s.chanRing gr (w.chan c) = loff ∧ ringHeld s w loff < ringCap s w loff ∧ (∀ d < 16, d ≠ c → (w.chan d).v = false) :=
  ⟨shown (ms.rawWrite 0x201024 [0, 8]) ({ wgOf (gPtr 0) with chans := (wgOf (gPtr 0)).chans.set 3 { v := true, kind := 3, ptr := 0x1000 } }) bigGrid, 0, 0x800, { wgOf (gPtr 0) with chans := (wgOf (gPtr 0)).chans.set 3 { v := true, kind := 3, ptr := 0x1000 } }, bigGrid, 3, by decide +kernel⟩

theorem witness_RegionsAndArrivals_24 : ∃ (s : State) (m : Msi) (e : Nat) (i : Instr), e = (mget 0 s.iat (m.data.toNat % 4096)).toNat ∧ s.fnCut m.rid = false ∧ i ∈ [Instr.iatBarrierArrival m, .iatCounterAdd m, .iatKernelInterrupt m] ∧ s.msiReason m ≠ 0 :=
  ⟨{ iatState 0 1 0 with functions := [] }, aMsi, iatWord ({ iatState 0 1 0 with functions := [] }), .iatCounterAdd aMsi, rfl, by decide +kernel, by decide +kernel, by decide +kernel⟩

theorem witness_RegionsAndArrivals_25 : ∃ (s : State) (m : Msi) (e : Nat) (i : Instr), e = (mget 0 s.iat (m.data.toNat % 4096)).toNat ∧ s.fnCut m.rid = false ∧ i ∈ [Instr.iatBarrierArrival m, .iatCounterAdd m, .iatKernelInterrupt m] ∧ s.msiReason m = 0 ∧ s.waiting = [] ∧ s.allPassed (mget [] s.portVis m.port) = true ∧ iatBad e = true :=
  ⟨(iatState 1 1 4), aMsi, iatWord (iatState 1 1 4), Instr.iatCounterAdd aMsi, rfl, by decide +kernel, by decide +kernel, by decide +kernel, rfl, by decide +kernel, by decide +kernel⟩

theorem witness_RegionsAndArrivals_26 : ∃ (s : State) (m : Msi) (e : Nat) (i : Instr), e = (mget 0 s.iat (m.data.toNat % 4096)).toNat ∧ s.fnCut m.rid = false ∧ i ∈ [Instr.iatBarrierArrival m, .iatCounterAdd m, .iatKernelInterrupt m] ∧ s.msiReason m = 0 ∧ s.waiting = [] ∧ s.allPassed (mget [] s.portVis m.port) = true ∧ iatBad e = false ∧ iatKind e = 2 :=
  ⟨(iatState 2 1 0), aMsi, iatWord (iatState 2 1 0), Instr.iatKernelInterrupt aMsi, rfl, by decide +kernel, by decide +kernel, by decide +kernel, rfl, by decide +kernel, by decide +kernel, by decide +kernel⟩

theorem witness_RegionsAndArrivals_27 : ∃ (s : State) (m : Msi) (e : Nat) (i : Instr) (nd : Need) (pa : Nat) (at_ : Nat) (mt : Nat) (v : State), e = (mget 0 s.iat (m.data.toNat % 4096)).toNat ∧ s.fnCut m.rid = false ∧ i ∈ [Instr.iatBarrierArrival m, .iatCounterAdd m, .iatKernelInterrupt m] ∧ s.msiReason m = 0 ∧ s.waiting = [] ∧ s.allPassed (mget [] s.portVis m.port) = true ∧ s.demand srcIat (iatPasid e) (iatVa e) nd = .ok pa at_ mt ∧ paKind pa ≠ .reg ∧ s.homeMoves pa = false ∧ s.poisoned pa 8 = false ∧ iatBad e = false ∧ v = s.markPte at_ (nd == .wr) ∧ nd = .wr ∧ iatKind e = 1 :=
  ⟨(iatState 1 1 0x1FF8), aMsi, iatWord (iatState 1 1 0x1FF8), Instr.iatCounterAdd aMsi, .wr, 0x201FF8, 0x5008, 0, _, rfl, by decide +kernel, by decide +kernel, by decide +kernel, rfl, by decide +kernel, dem_ok (by decide +kernel), by decide +kernel, by decide +kernel, by decide +kernel, rfl, rfl, by decide +kernel⟩

theorem witness_RegionsAndArrivals_28 : ∃ (s : State) (m : Msi) (e : Nat) (i : Instr) (nd : Need) (pa : Nat) (at_ : Nat) (mt : Nat) (v : State) (t : Nat), e = (mget 0 s.iat (m.data.toNat % 4096)).toNat ∧ s.fnCut m.rid = false ∧ i ∈ [Instr.iatBarrierArrival m, .iatCounterAdd m, .iatKernelInterrupt m] ∧ s.msiReason m = 0 ∧ s.waiting = [] ∧ s.allPassed (mget [] s.portVis m.port) = true ∧ s.demand srcIat (iatPasid e) (iatVa e) nd = .ok pa at_ mt ∧ paKind pa ≠ .reg ∧ s.homeMoves pa = false ∧ s.poisoned pa 8 = false ∧ iatBad e = false ∧ v = s.markPte at_ (nd == .wr) ∧ nd = .rd ∧ iatKind e = 0 ∧ t = leNat (v.cohRead pa 8) ∧ (bitOf t 63 = false ∨ bitsOf t 26 37 ≠ 0 ∨ v.wgs.find? (fun w => w.ten == iatTen e && w.ctx == bitsOf t 0 20) = none) :=
  ⟨(iatState 0 4095 0x1000), aMsi, iatWord (iatState 0 4095 0x1000), Instr.iatBarrierArrival aMsi, .rd, 0x201000, 0x5008, 0, _, _, rfl, by decide +kernel, by decide +kernel, by decide +kernel, rfl, by decide +kernel, dem_ok (by decide +kernel), by decide +kernel, by decide +kernel, by decide +kernel, by decide +kernel, rfl, rfl, by decide +kernel, rfl, .inl (by decide +kernel)⟩

theorem witness_RegionsAndArrivals_29 : ∃ (s : State) (m : Msi) (e : Nat) (i : Instr) (nd : Need) (pa : Nat) (at_ : Nat) (mt : Nat) (v : State) (t : Nat) (w : Workgroup), e = (mget 0 s.iat (m.data.toNat % 4096)).toNat ∧ s.fnCut m.rid = false ∧ i ∈ [Instr.iatBarrierArrival m, .iatCounterAdd m, .iatKernelInterrupt m] ∧ s.msiReason m = 0 ∧ s.waiting = [] ∧ s.allPassed (mget [] s.portVis m.port) = true ∧ s.demand srcIat (iatPasid e) (iatVa e) nd = .ok pa at_ mt ∧ paKind pa ≠ .reg ∧ s.homeMoves pa = false ∧ s.poisoned pa 8 = false ∧ iatBad e = false ∧ v = s.markPte at_ (nd == .wr) ∧ nd = .rd ∧ iatKind e = 0 ∧ t = leNat (v.cohRead pa 8) ∧ bitOf t 63 = true ∧ bitsOf t 26 37 = 0 ∧ v.wgs.find? (fun w => w.ten == iatTen e && w.ctx == bitsOf t 0 20) = some w ∧ (∀ c < 16, (w.chan c).v = false) :=
  ⟨{ iatState 0 1 0x1000 with mem := ((iatState 0 1 0x1000).rawWrite 0x201000 (leBytes 8 (2 ^ 63))).mem, wgs := [wgOf (gPtr 0)], grids := [bootGrid] }, aMsi, iatWord ({ iatState 0 1 0x1000 with mem := ((iatState 0 1 0x1000).rawWrite 0x201000 (leBytes 8 (2 ^ 63))).mem, wgs := [wgOf (gPtr 0)], grids := [bootGrid] }), .iatBarrierArrival aMsi, .rd, 0x201000, 0x5008, 0, _, _, wgOf (gPtr 0), rfl, by decide +kernel, by decide +kernel, by decide +kernel, rfl, by decide +kernel, dem_ok (by decide +kernel), by decide +kernel, by decide +kernel, by decide +kernel, by decide +kernel, rfl, rfl, by decide +kernel, rfl, by decide +kernel, by decide +kernel, by decide +kernel, by decide +kernel⟩

theorem witness_RegionsAndArrivals_30 : ∃ (s : State) (key : Nat) (w : Workgroup), s.wg? key = some w ∧ w.phase = .saved :=
  ⟨shown ms savedWg bootGrid, 0, savedWg, by decide +kernel, rfl⟩

theorem witness_RegionsAndArrivals_31 : ∃ (s : State) (key : Nat) (w : Workgroup), s.wg? key = some w ∧ w.phase = .saved :=
  ⟨shown ms savedWg bootGrid, 0, savedWg, by decide +kernel, rfl⟩

theorem witness_RegionsAndArrivals_32 : ∃ (s : State) (key : Nat) (w : Workgroup), s.wg? key = some w ∧ w.phase = .saved :=
  ⟨shown ms savedWg bootGrid, 0, savedWg, by decide +kernel, rfl⟩

theorem witness_RegionsAndArrivals_33 : ∃ (s : State) (key : Nat) (w : Workgroup), s.wg? key = some w ∧ w.phase = .saved :=
  ⟨shown ms savedWg bootGrid, 0, savedWg, by decide +kernel, rfl⟩

/-! ### Queues -/

theorem io_unit {x : EngIO Unit} {d : Unit × State} (h : (okIO x).isSome = true) : x = .ok () ((okIO x).getD d).2 := by cases x <;> simp_all [okIO]
theorem triple_true {α β : Type} {x : α × β × Bool} (h : x.2.2 = true) : x = (x.1, x.2.1, true) := by obtain ⟨a, b, c⟩ := x; subst h; rfl
theorem some_pair {α β : Type} {x : Option (α × β)} {d : α × β} (h : x.isSome = true) : x = some ((x.getD d).1, (x.getD d).2) := by cases x <;> simp_all
def failIO {α : Type} : EngIO α → Option (Nat × Nat × State) | .fail a b t => some (a, b, t) | _ => none
theorem io_fail {α : Type} {x : EngIO α} {d : Nat × Nat × State} (h : (failIO x).isSome = true) : x = .fail ((failIO x).getD d).1 ((failIO x).getD d).2.1 ((failIO x).getD d).2.2 := by cases x <;> simp_all [failIO]
def okPk : Packet → Option (List Byte × State) | .ok b t => some (b, t) | _ => none
theorem pk_ok {x : Packet} {d : List Byte × State} (h : (okPk x).isSome = true) : x = .ok ((okPk x).getD d).1 ((okPk x).getD d).2 := by cases x <;> simp_all [okPk]
def badPk : Packet → Option (Nat × State) | .bad b t => some (b, t) | _ => none
theorem pk_bad {x : Packet} {d : Nat × State} (h : (badPk x).isSome = true) : x = .bad ((badPk x).getD d).1 ((badPk x).getD d).2 := by cases x <;> simp_all [badPk]
def okParsed : Parsed → Option (State × Node) | .done t n => some (t, n) | _ => none
theorem parsed_ok {x : Parsed} {d : State × Node} (h : (okParsed x).isSome = true) : x = .done ((okParsed x).getD d).1 ((okParsed x).getD d).2 := by cases x <;> simp_all [okParsed]
/-- A queue with one packet at 0x1000. -/
def qu : Queue := { st := 1, base := 0x1000, log2depth := 4, rung := 1 }
def qs (b : List Byte) (k : Queue) : State := { ms.rawWrite 0x201000 b with queues := [(0, k)] }
def pk (b : List Byte) (k : Queue) : List Byte × State := (okPk ((qs b k).nextPacket 0)).getD ([], ms)
/-- A packet: OP, FLAGS, the address at 0x08 and the byte at 0x18. -/
def pkt (op flags addr x18 : Nat) : List Byte := leBytes 8 (op + 256 * flags) ++ leBytes 8 addr ++ leBytes 8 1 ++ leBytes 8 x18 ++ List.replicate 32 0
def cnt (b : List Byte) (k : Queue) (n : Need) : EngIO Unit := (pk b k).2.counterAt ((qs b k).queue 0).pasid (fieldAt (pk b k).1 8 8) n
def cntW (b : List Byte) (k : Queue) : EngIO Unit := (pk b k).2.counterAt ((qs b k).queue 0).pasid ((qs b k).queue 0).waddr .rd

theorem witness_QueuePackets_0 : ∃ (s : State) (q : Nat) (v : W64) (k : Queue) (n : Nat), s.queue q = k ∧ n = v.toNat % 2 ^ 32 ∧ q < 256 ∧ k.st = 1 ∧ (s.qfeCore (q / 64)).stopped = false ∧ (s.qfeCore (q / 64)).restart = none :=
  ⟨{ qs [] qu with queues := [(255, qu)] }, 255, 5, qu, _, by decide +kernel, rfl, by decide, rfl, by decide +kernel, by decide +kernel⟩

theorem witness_QueuePackets_2 : ∃ (s : State) (q : Nat) (t : State) (b : List Byte) (op : Nat) (u : State), s.nextPacket q = .ok b t ∧ op = fieldAt b 0 1 ∧ op = 1 ∧ zeroBytes b 0x18 40 = true ∧ t.counterAt (s.queue q).pasid (fieldAt b 8 8) .wr = .ok () u :=
  ⟨qs (pkt 1 0 0x1FF8 0) (qu), 0, (pk (pkt 1 0 0x1FF8 0) (qu)).2, (pk (pkt 1 0 0x1FF8 0) (qu)).1, _, ((okIO (cnt (pkt 1 0 0x1FF8 0) (qu) .wr)).getD ((), ms)).2, pk_ok (by decide +kernel), rfl, by decide +kernel, by decide +kernel, io_unit (d := ((), ms)) (by decide +kernel)⟩

theorem witness_QueuePackets_3 : ∃ (s : State) (q : Nat) (t : State) (b : List Byte) (op : Nat) (u : State), s.nextPacket q = .ok b t ∧ op = fieldAt b 0 1 ∧ op = 2 ∧ (s.queue q).waddr = 0 ∧ zeroBytes b 0x18 40 = true ∧ t.counterAt (s.queue q).pasid (fieldAt b 8 8) .rd = .ok () u :=
  ⟨qs (pkt 2 0 0x1FF8 0) (qu), 0, (pk (pkt 2 0 0x1FF8 0) (qu)).2, (pk (pkt 2 0 0x1FF8 0) (qu)).1, _, ((okIO (cnt (pkt 2 0 0x1FF8 0) (qu) .rd)).getD ((), ms)).2, pk_ok (by decide +kernel), rfl, by decide +kernel, by decide +kernel, by decide +kernel, io_unit (d := ((), ms)) (by decide +kernel)⟩

theorem witness_QueuePackets_4 : ∃ (s : State) (q : Nat) (t : State) (b : List Byte) (op : Nat) (u : State), s.nextPacket q = .ok b t ∧ op = fieldAt b 0 1 ∧ op = 2 ∧ (s.queue q).waddr ≠ 0 ∧ t.counterAt (s.queue q).pasid (s.queue q).waddr .rd = .ok () u :=
  ⟨qs (pkt 2 0 0x1FF8 0) ({ qu with waddr := 0x1FF8, wtgt := 3 }), 0, (pk (pkt 2 0 0x1FF8 0) ({ qu with waddr := 0x1FF8, wtgt := 3 })).2, (pk (pkt 2 0 0x1FF8 0) ({ qu with waddr := 0x1FF8, wtgt := 3 })).1, _, ((okIO (cntW (pkt 2 0 0x1FF8 0) ({ qu with waddr := 0x1FF8, wtgt := 3 }))).getD ((), ms)).2, pk_ok (by decide +kernel), rfl, by decide +kernel, by decide +kernel, io_unit (d := ((), ms)) (by decide +kernel)⟩

theorem witness_QueuePackets_5 : ∃ (s : State) (q : Nat) (t : State) (b : List Byte) (op : Nat), s.nextPacket q = .ok b t ∧ op = fieldAt b 0 1 ∧ op = 0 ∧ zeroBytes b 8 56 = true :=
  ⟨qs (leBytes 8 0) (qu), 0, (pk (leBytes 8 0) (qu)).2, (pk (leBytes 8 0) (qu)).1, _, pk_ok (by decide +kernel), rfl, by decide +kernel, by decide +kernel⟩

theorem witness_QueuePackets_6_copy : ∃ (s : State) (q : Nat) (t : State) (b : List Byte) (op : Nat) (num : Nat) (i : Instr) (u : State) (n : Node), s.nextPacket q = .ok b t ∧ op = fieldAt b 0 1 ∧ (op, i) ∈ [(3, Instr.copy q num), (4, .view q num), (5, .spawnRoot q num), (6, .launch q num)] ∧ t.parsePacket (s.queue q).ten (s.queue q).pasid (s.queue q).prio false b = .done u n :=
  ⟨qs (leBytes 8 3) (qu), 0, (pk (leBytes 8 3) (qu)).2, (pk (leBytes 8 3) (qu)).1, 3, 9, .copy 0 9, ((okParsed ((pk (leBytes 8 3) (qu)).2.parsePacket 0 0 0 false (pk (leBytes 8 3) (qu)).1)).getD (ms, aNode)).1, ((okParsed ((pk (leBytes 8 3) (qu)).2.parsePacket 0 0 0 false (pk (leBytes 8 3) (qu)).1)).getD (ms, aNode)).2, pk_ok (by decide +kernel), by decide +kernel, by decide, parsed_ok (by decide +kernel)⟩

theorem witness_QueuePackets_6_view : ∃ (s : State) (q : Nat) (t : State) (b : List Byte) (op : Nat) (num : Nat) (i : Instr) (u : State) (n : Node), s.nextPacket q = .ok b t ∧ op = fieldAt b 0 1 ∧ (op, i) ∈ [(3, Instr.copy q num), (4, .view q num), (5, .spawnRoot q num), (6, .launch q num)] ∧ t.parsePacket (s.queue q).ten (s.queue q).pasid (s.queue q).prio false b = .done u n :=
  ⟨qs (leBytes 8 4) (qu), 0, (pk (leBytes 8 4) (qu)).2, (pk (leBytes 8 4) (qu)).1, 4, 9, .view 0 9, ((okParsed ((pk (leBytes 8 4) (qu)).2.parsePacket 0 0 0 false (pk (leBytes 8 4) (qu)).1)).getD (ms, aNode)).1, ((okParsed ((pk (leBytes 8 4) (qu)).2.parsePacket 0 0 0 false (pk (leBytes 8 4) (qu)).1)).getD (ms, aNode)).2, pk_ok (by decide +kernel), by decide +kernel, by decide, parsed_ok (by decide +kernel)⟩

theorem witness_QueuePackets_6_spawnRoot : ∃ (s : State) (q : Nat) (t : State) (b : List Byte) (op : Nat) (num : Nat) (i : Instr) (u : State) (n : Node), s.nextPacket q = .ok b t ∧ op = fieldAt b 0 1 ∧ (op, i) ∈ [(3, Instr.copy q num), (4, .view q num), (5, .spawnRoot q num), (6, .launch q num)] ∧ t.parsePacket (s.queue q).ten (s.queue q).pasid (s.queue q).prio false b = .done u n :=
  ⟨qs (leBytes 8 5) (qu), 0, (pk (leBytes 8 5) (qu)).2, (pk (leBytes 8 5) (qu)).1, 5, 9, .spawnRoot 0 9, ((okParsed ((pk (leBytes 8 5) (qu)).2.parsePacket 0 0 0 false (pk (leBytes 8 5) (qu)).1)).getD (ms, aNode)).1, ((okParsed ((pk (leBytes 8 5) (qu)).2.parsePacket 0 0 0 false (pk (leBytes 8 5) (qu)).1)).getD (ms, aNode)).2, pk_ok (by decide +kernel), by decide +kernel, by decide, parsed_ok (by decide +kernel)⟩

theorem witness_QueuePackets_6_launch : ∃ (s : State) (q : Nat) (t : State) (b : List Byte) (op : Nat) (num : Nat) (i : Instr) (u : State) (n : Node), s.nextPacket q = .ok b t ∧ op = fieldAt b 0 1 ∧ (op, i) ∈ [(3, Instr.copy q num), (4, .view q num), (5, .spawnRoot q num), (6, .launch q num)] ∧ t.parsePacket (s.queue q).ten (s.queue q).pasid (s.queue q).prio false b = .done u n :=
  ⟨qs (leBytes 8 6) (qu), 0, (pk (leBytes 8 6) (qu)).2, (pk (leBytes 8 6) (qu)).1, 6, 9, .launch 0 9, ((okParsed ((pk (leBytes 8 6) (qu)).2.parsePacket 0 0 0 false (pk (leBytes 8 6) (qu)).1)).getD (ms, aNode)).1, ((okParsed ((pk (leBytes 8 6) (qu)).2.parsePacket 0 0 0 false (pk (leBytes 8 6) (qu)).1)).getD (ms, aNode)).2, pk_ok (by decide +kernel), by decide +kernel, by decide, parsed_ok (by decide +kernel)⟩

theorem witness_QueuePackets_7 : ∃ (s : State) (q : Nat) (t : State) (b : List Byte) (op : Nat), s.nextPacket q = .ok b t ∧ op = fieldAt b 0 1 ∧ op = 0 ∧ zeroBytes b 8 56 = false :=
  ⟨qs (pkt 0 0 8 0) (qu), 0, (pk (pkt 0 0 8 0) (qu)).2, (pk (pkt 0 0 8 0) (qu)).1, _, pk_ok (by decide +kernel), rfl, by decide +kernel, by decide +kernel⟩

theorem witness_QueuePackets_8 : ∃ (s : State) (q : Nat) (t : State) (b : List Byte) (op : Nat), s.nextPacket q = .ok b t ∧ op = fieldAt b 0 1 ∧ zeroBytes b 0x18 40 = false ∧ op = 1 :=
  ⟨qs (pkt 1 0 0x1FF8 1) (qu), 0, (pk (pkt 1 0 0x1FF8 1) (qu)).2, (pk (pkt 1 0 0x1FF8 1) (qu)).1, _, pk_ok (by decide +kernel), rfl, by decide +kernel, by decide +kernel⟩

theorem witness_QueuePackets_9 : ∃ (s : State) (q : Nat) (t : State) (b : List Byte) (op : Nat), s.nextPacket q = .ok b t ∧ op = fieldAt b 0 1 ∧ zeroBytes b 0x18 40 = false ∧ op = 2 ∧ (s.queue q).waddr = 0 :=
  ⟨qs (pkt 2 0 0x1FF8 1) (qu), 0, (pk (pkt 2 0 0x1FF8 1) (qu)).2, (pk (pkt 2 0 0x1FF8 1) (qu)).1, _, pk_ok (by decide +kernel), rfl, by decide +kernel, by decide +kernel, by decide +kernel⟩

theorem witness_QueuePackets_10 : ∃ (s : State) (q : Nat) (t : State) (b : List Byte) (op : Nat) (c : Nat) (a : Nat) (u : State), s.nextPacket q = .ok b t ∧ op = fieldAt b 0 1 ∧ op = 1 ∧ zeroBytes b 0x18 40 = true ∧ t.counterAt (s.queue q).pasid (fieldAt b 8 8) .wr = .fail c a u :=
  ⟨qs (pkt 1 0 0x1FFC 0) (qu), 0, (pk (pkt 1 0 0x1FFC 0) (qu)).2, (pk (pkt 1 0 0x1FFC 0) (qu)).1, _, ((failIO (cnt (pkt 1 0 0x1FFC 0) (qu) .wr)).getD (0, 0, ms)).1, ((failIO (cnt (pkt 1 0 0x1FFC 0) (qu) .wr)).getD (0, 0, ms)).2.1, ((failIO (cnt (pkt 1 0 0x1FFC 0) (qu) .wr)).getD (0, 0, ms)).2.2, pk_ok (by decide +kernel), rfl, by decide +kernel, by decide +kernel, io_fail (x := cnt (pkt 1 0 0x1FFC 0) (qu) .wr) (d := (0, 0, ms)) (by decide +kernel)⟩

theorem witness_QueuePackets_11 : ∃ (va : Nat), va % 8 ≠ 0 :=
  ⟨0x1FFC, by decide⟩

theorem witness_QueuePackets_12 : ∃ (s : State) (q : Nat) (c : Nat) (t : State) (num : Nat) (i : Instr), s.nextPacket q = .bad c t ∧ i ∈ [Instr.signal q, .wait q, .waitMet q, .nopPacket q, .copy q num, .view q num, .spawnRoot q num, .launch q num] :=
  ⟨qs (pkt 7 0 0 0) qu, 0, ((badPk ((qs (pkt 7 0 0 0) qu).nextPacket 0)).getD (0, ms)).1, ((badPk ((qs (pkt 7 0 0 0) qu).nextPacket 0)).getD (0, ms)).2, 9, .launch 0 9, pk_bad (by decide +kernel), by decide⟩

theorem witness_QueuePackets_13 : ∃ (s : State) (q : Nat) (num : Nat) (i : Instr), s.nextPacket q = .idle ∧ i ∈ [Instr.signal q, .wait q, .waitMet q, .nopPacket q, .copy q num, .view q num, .spawnRoot q num, .launch q num] :=
  ⟨qs [] { qu with st := 2 }, 0, 9, .launch 0 9, (by unfold State.nextPacket; exact if_pos (by decide +kernel)), by decide⟩

theorem witness_QueuePackets_14 : ∃ (s : State) (q : Nat) (b : List Byte) (t : State), s.queueOpen q = true ∧ s.qfeRead (s.queue q).pasid (s.queue q).packetAt 64 = .ok b t ∧ 7 ≤ fieldAt b 0 1 ∧ fieldAt b 0 1 < 16 ∧ fieldAt b 1 1 < 2 ∧ fieldAt b 2 2 = 0 :=
  ⟨qs (pkt 15 1 0 0) (qu), 0, ((okIO ((qs (pkt 15 1 0 0) (qu)).qfeRead 0 0x1000 64)).getD ([], ms)).1, ((okIO ((qs (pkt 15 1 0 0) (qu)).qfeRead 0 0x1000 64)).getD ([], ms)).2, by decide +kernel, io_ok (by decide +kernel), by decide +kernel, by decide +kernel, by decide +kernel, by decide +kernel⟩

theorem witness_QueuePackets_15 : ∃ (s : State) (q : Nat) (b : List Byte) (t : State), s.queueOpen q = true ∧ s.qfeRead (s.queue q).pasid (s.queue q).packetAt 64 = .ok b t ∧ (16 ≤ fieldAt b 0 1 ∨ 4 ≤ fieldAt b 1 1 ∨ fieldAt b 2 2 ≠ 0) :=
  ⟨qs (pkt 16 0 0 0) (qu), 0, ((okIO ((qs (pkt 16 0 0 0) (qu)).qfeRead 0 0x1000 64)).getD ([], ms)).1, ((okIO ((qs (pkt 16 0 0 0) (qu)).qfeRead 0 0x1000 64)).getD ([], ms)).2, by decide +kernel, io_ok (by decide +kernel), .inl (by decide +kernel)⟩

theorem witness_QueuePackets_16 : ∃ (s : State) (q : Nat) (b : List Byte) (t : State), s.queueOpen q = true ∧ s.qfeRead (s.queue q).pasid (s.queue q).packetAt 64 = .ok b t ∧ headerBad b = 0 ∧ ((fieldAt b 1 1 % 2 = 1 ∧ (s.queue q).nout ≠ 0) ∨ (3 ≤ fieldAt b 0 1 ∧ s.poolFull = true) ∨ (s.qfeCore (q / 64)).mayTake (q % 64) (fieldAt b 0 1) s.cycle = false) :=
  ⟨qs (pkt 6 1 0 0) ({ qu with nout := 1 }), 0, ((okIO ((qs (pkt 6 1 0 0) ({ qu with nout := 1 })).qfeRead 0 0x1000 64)).getD ([], ms)).1, ((okIO ((qs (pkt 6 1 0 0) ({ qu with nout := 1 })).qfeRead 0 0x1000 64)).getD ([], ms)).2, by decide +kernel, io_ok (by decide +kernel), by decide +kernel, .inl (by decide +kernel)⟩

theorem witness_QueuePackets_17 : ∃ (s : State) (q : Nat) (b : List Byte) (t : State), s.queueOpen q = true ∧ s.qfeRead (s.queue q).pasid (s.queue q).packetAt 64 = .ok b t ∧ headerBad b = 0 ∧ (fieldAt b 1 1 % 2 = 0 ∨ (s.queue q).nout = 0) ∧ (fieldAt b 0 1 < 3 ∨ s.poolFull = false) ∧ (s.qfeCore (q / 64)).mayTake (q % 64) (fieldAt b 0 1) s.cycle = true :=
  ⟨qs (pkt 6 0 0 0) ({ qu with nout := 1 }), 0, ((okIO ((qs (pkt 6 0 0 0) ({ qu with nout := 1 })).qfeRead 0 0x1000 64)).getD ([], ms)).1, ((okIO ((qs (pkt 6 0 0 0) ({ qu with nout := 1 })).qfeRead 0 0x1000 64)).getD ([], ms)).2, by decide +kernel, io_ok (by decide +kernel), by decide +kernel, .inl (by decide +kernel), .inr (by decide +kernel), by decide +kernel⟩

theorem witness_QueuePackets_18 : ∃ (c : QfeCore) (now : Nat), c.ends ≤ now :=
  ⟨{ ends := 5 }, 5, by decide⟩

theorem witness_QueuePackets_19 : ∃ (c : QfeCore) (now : Nat), now < c.ends ∧ c.ends ≠ now + 16 :=
  ⟨{ ends := 40 }, 5, by decide, by decide⟩

theorem witness_QueuePackets_20 : ∃ (s : State) (q : Nat), q < 256 ∧ s.queueOpen q = true :=
  ⟨qs (pkt 2 0 0x1FF8 0) qu, 0, by decide, by decide +kernel⟩

theorem witness_QueuePackets_21 : ∃ (s : State) (q : Nat) (c : SlotCmd) (u : State), q < 256 ∧ s.queueOpen q = true ∧ c = .waitEnd q ∧ u = s.command q 2 c :=
  ⟨qs (pkt 2 0 0x1FF8 0) qu, 0, .waitEnd 0, _, by decide, by decide +kernel, rfl, rfl⟩

theorem witness_QueuePackets_22 : ∃ (s : State) (c : Nat) (k : SlotCmd) (r : List SlotCmd) (v : State) (q : Nat) (a : Nat) (x : W64) (old : Map Nat) (u : State) (vis : Map Nat), (s.qfeCore c).slots = k :: r ∧ s.slotAdvance c 0 ≠ s ∧ v = s.modQfe c (fun f => { f with slots := r }) ∧ k = .signal q a x false old ∧ s.allPassed old = true ∧ v.vupdate (s.queue q).pasid a 8 .wr (.add x.toNat) = some (u, vis) :=
  ⟨{ qs (pkt 2 0 0x1FF8 0) qu with qfe := [(0, { slots := [.signal 0 0x1FF8 1 false []] })] }, 0, .signal 0 0x1FF8 1 false [], [], _, 0, 0x1FF8, 1, [], (((({ qs (pkt 2 0 0x1FF8 0) qu with qfe := [(0, { slots := [.signal 0 0x1FF8 1 false []] })] } : State).modQfe 0 (fun f => { f with slots := [] })).vupdate (({ qs (pkt 2 0 0x1FF8 0) qu with qfe := [(0, { slots := [.signal 0 0x1FF8 1 false []] })] } : State).queue 0).pasid 0x1FF8 8 .wr (.add 1)).getD (ms, [])).1, (((({ qs (pkt 2 0 0x1FF8 0) qu with qfe := [(0, { slots := [.signal 0 0x1FF8 1 false []] })] } : State).modQfe 0 (fun f => { f with slots := [] })).vupdate (({ qs (pkt 2 0 0x1FF8 0) qu with qfe := [(0, { slots := [.signal 0 0x1FF8 1 false []] })] } : State).queue 0).pasid 0x1FF8 8 .wr (.add 1)).getD (ms, [])).2, by decide +kernel, by decide +kernel, rfl, rfl, rfl, some_pair (by decide +kernel)⟩

theorem witness_QueuePackets_23 : ∃ (s : State) (c : Nat) (k : SlotCmd) (r : List SlotCmd) (v : State) (q : Nat) (a : Nat) (x : W64) (old : Map Nat) (u : State) (vis : Map Nat), (s.qfeCore c).slots = k :: r ∧ s.slotAdvance c 0 ≠ s ∧ v = s.modQfe c (fun f => { f with slots := r }) ∧ k = .signal q a x true old ∧ s.allPassed old = true ∧ v.vwrite (s.queue q).pasid a (leBytes 8 x.toNat) = (u, vis, true) :=
  ⟨{ qs (pkt 2 0 0x1FF8 0) qu with qfe := [(0, { slots := [.signal 0 0x1FF8 1 true []] })] }, 0, .signal 0 0x1FF8 1 true [], [], _, 0, 0x1FF8, 1, [], ((({ qs (pkt 2 0 0x1FF8 0) qu with qfe := [(0, { slots := [.signal 0 0x1FF8 1 true []] })] } : State).modQfe 0 (fun f => { f with slots := [] })).vwrite (({ qs (pkt 2 0 0x1FF8 0) qu with qfe := [(0, { slots := [.signal 0 0x1FF8 1 true []] })] } : State).queue 0).pasid 0x1FF8 (leBytes 8 ((1 : W64).toNat))).1, ((({ qs (pkt 2 0 0x1FF8 0) qu with qfe := [(0, { slots := [.signal 0 0x1FF8 1 true []] })] } : State).modQfe 0 (fun f => { f with slots := [] })).vwrite (({ qs (pkt 2 0 0x1FF8 0) qu with qfe := [(0, { slots := [.signal 0 0x1FF8 1 true []] })] } : State).queue 0).pasid 0x1FF8 (leBytes 8 ((1 : W64).toNat))).2.1, by decide +kernel, by decide +kernel, rfl, rfl, rfl, triple_true (by decide +kernel)⟩

theorem witness_QueuePackets_26 : ∃ (s : State) (c : Nat) (q : Nat) (a : Nat) (x : W64) (st : Bool) (old : Map Nat) (r : List SlotCmd), (s.qfeCore c).slots = .signal q a x st old :: r ∧ s.allPassed old = false :=
  ⟨{ qs (pkt 2 0 0x1FF8 0) qu with qfe := [(0, { slots := [.signal 0 0x1FF8 1 false [(0, 9)]] })] }, 0, 0, 0x1FF8, 1, false, [(0, 9)], [], by decide +kernel, by decide +kernel⟩

theorem witness_QueuePackets_24 : ∃ (s : State) (c : Nat) (k : SlotCmd) (r : List SlotCmd) (v : State) (q : Nat), (s.qfeCore c).slots = k :: r ∧ s.slotAdvance c 0 ≠ s ∧ v = s.modQfe c (fun f => { f with slots := r }) ∧ k = .waitEnd q :=
  ⟨{ qs (pkt 2 0 0x1FF8 0) qu with qfe := [(0, { slots := [.waitEnd 0] })] }, 0, .waitEnd 0, [], _, 0, by decide +kernel, by decide +kernel, rfl, rfl⟩

theorem witness_QueuePackets_25 : ∃ (s : State) (c : Nat) (k : SlotCmd) (r : List SlotCmd) (v : State) (q : Nat) (n : Node), (s.qfeCore c).slots = k :: r ∧ s.slotAdvance c 0 ≠ s ∧ v = s.modQfe c (fun f => { f with slots := r }) ∧ k = .node q n :=
  ⟨{ qs (pkt 2 0 0x1FF8 0) qu with qfe := [(0, { slots := [.node 0 aNode] })] }, 0, .node 0 aNode, [], _, 0, aNode, by decide +kernel, by decide +kernel, rfl, rfl⟩

theorem witness_QueuePackets_27 : ∃ (s : State) (q : Nat) (n : Node) (u : State), s.nodes.length < 4096 ∧ n.weight = 0 ∧ u = s.enterNode q n :=
  ⟨ms, 0, { aNode with weight := 0 }, _, by decide +kernel, rfl, rfl⟩

theorem witness_QueuePackets_28 : ∃ (s : State) (q : Nat) (k : Queue), s.queue q = k :=
  ⟨ms, 0, _, rfl⟩

theorem witness_QueuePackets_29 : ∃ (s : State) (q : Nat) (k : Queue) (base : Nat) (d : Nat) (p : Nat) (ten : Nat) (qsb : Nat), s.queue q = k ∧ q < 256 ∧ k.st = 0 ∧ k.nout = 0 ∧ base % 4096 = 0 ∧ 4 ≤ d ∧ d ≤ 16 ∧ p ≤ 3 ∧ ten ≤ 15 ∧ qsb % 256 = 0 :=
  ⟨ms, 255, {}, 0x1000, 16, 3, 15, 0x1F00, by decide +kernel, by decide, rfl, rfl, by decide, by decide, by decide, by decide, by decide, by decide⟩

/-! ### The pool, placement and preemption -/

def nodeIn (st : NodeSt) : Node := { aNode with st := st, root := 7, weight := 2 }
def pool (n : Node) : State := { ms with nodes := [n], roots := [aRoot] }
def planBad : EngIO (List Grid × Option (Nat × Nat)) → Option (List Grid × Nat × Nat × State) | .ok (g, some (a, b)) t => some (g, a, b, t) | _ => none
theorem plan_bad {x : EngIO (List Grid × Option (Nat × Nat))} {d : List Grid × Nat × Nat × State} (h : (planBad x).isSome = true) :
    x = .ok (((planBad x).getD d).1, some (((planBad x).getD d).2.1, ((planBad x).getD d).2.2.1)) ((planBad x).getD d).2.2.2 := by
  rcases x with ⟨⟨g, _ | ⟨a, b⟩⟩, t⟩ | _ | _ <;> simp_all [planBad]
/-- A node whose view table would end beyond the address space. -/
def badLaunch : Node := { nodeIn .ready with vtab := 2 ^ 56 - 8, subs := [{ bytes := leBytes 8 1 ++ leBytes 8 0x1000 ++ List.replicate 48 0 }] }
def putVis : State × Option (Map Nat) → Option (State × Map Nat) | (t, some v) => some (t, v) | _ => none
theorem put_vis {x : State × Option (Map Nat)} {d : State × Map Nat} (h : (putVis x).isSome = true) : x = (((putVis x).getD d).1, some ((putVis x).getD d).2) := by
  rcases x with ⟨t, _ | v⟩ <;> simp_all [putVis]
def sigSome : Option State × State → Option (State × State) | (some t, u) => some (t, u) | _ => none
theorem sig_some {x : Option State × State} {d : State × State} (h : (sigSome x).isSome = true) : x = (some ((sigSome x).getD d).1, ((sigSome x).getD d).2) := by
  rcases x with ⟨_ | t, u⟩ <;> simp_all [sigSome]
theorem head_mem {α : Type} {l : List α} {d : α} {n : Nat} (h : n = 0) (k : l.length = 1) : l.headD d ∈ l.drop n := by
  subst h; match l, k with | [a], _ => simp
/-- A grid with a workgroup to place in region 0. -/
def pg : Grid := { bootGrid with next := 0, headSince := some 0 }
def placeState : State := { ms with stewards := [(0, { ten := 0 })], tens := [(0, { st := 2 })], grids := [pg] }

theorem witness_PoolAndPlacement_0 : ∃ (s : State) (num : Nat) (n : Node), s.node? num = some n ∧ n.st = .pending ∧ n.preds ≠ [] :=
  ⟨pool ({ nodeIn .pending with preds := [3] }), 0, { nodeIn .pending with preds := [3] }, by decide +kernel, rfl, by decide⟩

theorem witness_PoolAndPlacement_1 : ∃ (s : State) (num : Nat) (n : Node), s.node? num = some n ∧ n.st = .pending ∧ n.preds = [] ∧ n.tiles = [] :=
  ⟨pool (nodeIn .pending), 0, nodeIn .pending, by decide +kernel, rfl, rfl, rfl⟩

theorem witness_PoolAndPlacement_2 : ∃ (s : State) (num : Nat) (n : Node), s.node? num = some n ∧ n.st = .pending ∧ n.preds = [] ∧ n.tiles ≠ [] :=
  ⟨pool ({ nodeIn .pending with tiles := [{ bytes := [], since := 0 }] }), 0, { nodeIn .pending with tiles := [{ bytes := [], since := 0 }] }, by decide +kernel, rfl, rfl, by decide⟩

theorem witness_PoolAndPlacement_3 : ∃ (n : Node) (num : Nat) (status : Nat), n.st = .pending ∧ n.preds.contains num = true ∧ status = 0 :=
  ⟨{ nodeIn .pending with preds := [3] }, 3, 0, rfl, by decide, rfl⟩

theorem witness_PoolAndPlacement_4 : ∃ (n : Node) (num : Nat) (status : Nat), n.st = .pending ∧ n.preds.contains num = true ∧ status ≠ 0 :=
  ⟨{ nodeIn .pending with preds := [3] }, 3, 2, rfl, by decide, by decide⟩

theorem witness_PoolAndPlacement_5 : ∃ (s : State) (num : Nat) (n : Node), s.node? num = some n ∧ n.st = .held ∧ n.tiles.all (·.met) = true :=
  ⟨pool (nodeIn .held), 0, nodeIn .held, by decide +kernel, rfl, rfl⟩

theorem witness_PoolAndPlacement_6 : ∃ (s : State) (n : Node), (∀ k ∈ s.nodes, k.prio ≤ 3 ∧ k.readyAt < 2 ^ 64) ∧ s.dispatchNode = some n :=
  ⟨pool (nodeIn .ready), nodeIn .ready, fun k hk => (List.mem_singleton.mp hk) ▸ ⟨by decide, by decide⟩, by decide +kernel⟩

theorem witness_PoolAndPlacement_7 : ∃ (s : State) (n : Node) (k : Node), (∀ k ∈ s.nodes, k.prio ≤ 3 ∧ k.readyAt < 2 ^ 64) ∧ s.dispatchNode = some n ∧ k.st = .ready ∧ k ∈ s.nodes :=
  ⟨pool (nodeIn .ready), nodeIn .ready, nodeIn .ready, fun k hk => (List.mem_singleton.mp hk) ▸ ⟨by decide, by decide⟩, by decide +kernel, rfl, by decide +kernel⟩

theorem witness_PoolAndPlacement_8 : ∃ (s : State) (n : Node) (t : State) (status : Nat) (sub : Nat) (gs : List Grid), s.dispatchNode = some n ∧ s.dispatchAt ≤ s.cycle ∧ s.planGrids n 0 n.subs = .ok (gs, some (status, sub)) t :=
  ⟨pool badLaunch, badLaunch, ((planBad ((pool badLaunch).planGrids badLaunch 0 badLaunch.subs)).getD ([], 0, 0, ms)).2.2.2, ((planBad ((pool badLaunch).planGrids badLaunch 0 badLaunch.subs)).getD ([], 0, 0, ms)).2.1, ((planBad ((pool badLaunch).planGrids badLaunch 0 badLaunch.subs)).getD ([], 0, 0, ms)).2.2.1, ((planBad ((pool badLaunch).planGrids badLaunch 0 badLaunch.subs)).getD ([], 0, 0, ms)).1, by decide +kernel, by decide +kernel, plan_bad (by decide +kernel)⟩

theorem witness_PoolAndPlacement_9 : ∃ (s : State) (n : Node) (t : State) (gs : List Grid), s.dispatchNode = some n ∧ s.dispatchAt ≤ s.cycle ∧ s.planGrids n 0 n.subs = .ok (gs, none) t ∧ (∀ g ∈ gs, g.k.stats = 0) :=
  ⟨pool (nodeIn .ready), nodeIn .ready, pool (nodeIn .ready), [], by decide +kernel, by decide +kernel, rfl, fun g hg => absurd hg List.not_mem_nil⟩

theorem witness_PoolAndPlacement_10 : ∃ (s : State) (num : Nat) (n : Node) (t : State) (v : Map Nat), s.node? num = some n ∧ n.st = .running ∧ n.subs.all (·.done) = true ∧ s.allPassed n.vis = true ∧ n.phase = 0 ∧ s.putResult n.pasid n.resaddr (resultBytes n.status n.tag n.statSub n.cause n.detail) = (t, some v) :=
  ⟨pool ({ nodeIn .running with resaddr := 0x1F00, sigaddr := 0x1FF8 }), 0, { nodeIn .running with resaddr := 0x1F00, sigaddr := 0x1FF8 }, ((putVis ((pool ({ nodeIn .running with resaddr := 0x1F00, sigaddr := 0x1FF8 })).putResult ({ nodeIn .running with resaddr := 0x1F00, sigaddr := 0x1FF8 }).pasid ({ nodeIn .running with resaddr := 0x1F00, sigaddr := 0x1FF8 }).resaddr (resultBytes ({ nodeIn .running with resaddr := 0x1F00, sigaddr := 0x1FF8 }).status ({ nodeIn .running with resaddr := 0x1F00, sigaddr := 0x1FF8 }).tag ({ nodeIn .running with resaddr := 0x1F00, sigaddr := 0x1FF8 }).statSub ({ nodeIn .running with resaddr := 0x1F00, sigaddr := 0x1FF8 }).cause ({ nodeIn .running with resaddr := 0x1F00, sigaddr := 0x1FF8 }).detail))).getD (ms, [])).1, ((putVis ((pool ({ nodeIn .running with resaddr := 0x1F00, sigaddr := 0x1FF8 })).putResult ({ nodeIn .running with resaddr := 0x1F00, sigaddr := 0x1FF8 }).pasid ({ nodeIn .running with resaddr := 0x1F00, sigaddr := 0x1FF8 }).resaddr (resultBytes ({ nodeIn .running with resaddr := 0x1F00, sigaddr := 0x1FF8 }).status ({ nodeIn .running with resaddr := 0x1F00, sigaddr := 0x1FF8 }).tag ({ nodeIn .running with resaddr := 0x1F00, sigaddr := 0x1FF8 }).statSub ({ nodeIn .running with resaddr := 0x1F00, sigaddr := 0x1FF8 }).cause ({ nodeIn .running with resaddr := 0x1F00, sigaddr := 0x1FF8 }).detail))).getD (ms, [])).2, by decide +kernel, rfl, rfl, by decide +kernel, rfl, put_vis (d := (ms, [])) (by decide +kernel)⟩

theorem witness_PoolAndPlacement_11 : ∃ (s : State) (num : Nat) (n : Node) (t : State) (u : State), s.node? num = some n ∧ n.st = .running ∧ n.subs.all (·.done) = true ∧ s.allPassed n.vis = true ∧ n.phase = 1 ∧ s.addSignal n.pasid n.sigaddr n.sigval = (some t, u) :=
  ⟨pool ({ nodeIn .running with resaddr := 0x1F00, sigaddr := 0x1FF8 , phase := 1 }), 0, { nodeIn .running with resaddr := 0x1F00, sigaddr := 0x1FF8 , phase := 1 }, ((sigSome ((pool ({ nodeIn .running with resaddr := 0x1F00, sigaddr := 0x1FF8 , phase := 1 })).addSignal ({ nodeIn .running with resaddr := 0x1F00, sigaddr := 0x1FF8 , phase := 1 }).pasid ({ nodeIn .running with resaddr := 0x1F00, sigaddr := 0x1FF8 , phase := 1 }).sigaddr ({ nodeIn .running with resaddr := 0x1F00, sigaddr := 0x1FF8 , phase := 1 }).sigval)).getD (ms, ms)).1, ((sigSome ((pool ({ nodeIn .running with resaddr := 0x1F00, sigaddr := 0x1FF8 , phase := 1 })).addSignal ({ nodeIn .running with resaddr := 0x1F00, sigaddr := 0x1FF8 , phase := 1 }).pasid ({ nodeIn .running with resaddr := 0x1F00, sigaddr := 0x1FF8 , phase := 1 }).sigaddr ({ nodeIn .running with resaddr := 0x1F00, sigaddr := 0x1FF8 , phase := 1 }).sigval)).getD (ms, ms)).2, by decide +kernel, rfl, rfl, by decide +kernel, rfl, sig_some (d := (ms, ms)) (by decide +kernel)⟩

theorem witness_PoolAndPlacement_12 : ∃ (s : State) (num : Nat) (n : Node), s.node? num = some n ∧ n.st = .running ∧ n.subs.all (·.done) = true ∧ s.allPassed n.vis = true ∧ n.phase = 2 ∧ n.lens = [] ∧ s.lastOf n = none :=
  ⟨pool ({ nodeIn .running with resaddr := 0x1F00, sigaddr := 0x1FF8 , phase := 2 }), 0, { nodeIn .running with resaddr := 0x1F00, sigaddr := 0x1FF8 , phase := 2 }, by decide +kernel, rfl, rfl, by decide +kernel, rfl, rfl, by decide +kernel⟩

theorem witness_PoolAndPlacement_14 : ∃ (st : Nat) (tag : Nat) (sub : Nat) (cause : Nat) (d : Nat) (b : List Byte), st < 2 ^ 32 ∧ tag < 2 ^ 32 ∧ sub < 256 ∧ cause < 256 ∧ d < 2 ^ 64 ∧ b = resultBytes st tag sub cause d :=
  ⟨2 ^ 32 - 1, 2 ^ 32 - 1, 255, 255, 2 ^ 64 - 1, _, by decide, by decide, by decide, by decide, by decide, rfl⟩

theorem witness_PoolAndPlacement_15 : ∃ (s : State) (num : Nat) (n : Node) (sub : Nat) (r : SubRun), num < 4096 ∧ s.node? num = some n ∧ n.st = .running ∧ n.subs[sub]? = some r ∧ fieldAt r.bytes 0 1 = 4 ∧ r.started = true ∧ r.done = false :=
  ⟨pool ({ nodeIn .running with subs := [{ bytes := [4], started := true }] }), 0, { nodeIn .running with subs := [{ bytes := [4], started := true }] }, 0, { bytes := [4], started := true }, by decide, by decide +kernel, rfl, rfl, by decide +kernel, rfl, rfl⟩

theorem witness_PoolAndPlacement_16 : ∃ (s : State) (r : Nat), s.stewardUp r = true ∧ (s.ten (s.steward r).ten).st = 2 ∧ s.held.contains (s.steward r).ten = false ∧ (s.steward r).actedAt ≠ some s.cycle ∧ (s.steward r).seen = s.placerSees r :=
  ⟨(placeState.modSteward 0 (fun k => { k with seen := placeState.placerSees 0 })), 0, by decide +kernel⟩

theorem witness_PoolAndPlacement_17 : ∃ (s : State) (r : Nat) (acted : State → State), s.stewardUp r = true ∧ (s.ten (s.steward r).ten).st = 2 ∧ s.held.contains (s.steward r).ten = false ∧ (s.steward r).actedAt ≠ some s.cycle ∧ (s.steward r).seen ≠ s.placerSees r ∧ s.wgs.all (fun w => w.phase != .saved) = true ∧ (∀ u : State, acted u = u.modSteward r (fun k => { k with actedAt := some u.cycle, seen := s.placerSees r })) ∧ s.placeList (s.steward r).ten = [] :=
  ⟨({ placeState with grids := [] } : State), 0, fun (u : State) => u.modSteward 0 (fun k => { k with actedAt := some u.cycle, seen := ({ placeState with grids := [] } : State).placerSees 0 }), and4 (by decide +kernel) ⟨by decide +kernel, by decide +kernel, fun _ => rfl, by decide +kernel⟩⟩

theorem witness_PoolAndPlacement_18 : ∃ (s : State) (r : Nat) (c : List Nat) (acted : State → State) (hd : Grid) (rest : List Grid) (t : State), s.stewardUp r = true ∧ (s.ten (s.steward r).ten).st = 2 ∧ s.held.contains (s.steward r).ten = false ∧ (s.steward r).actedAt ≠ some s.cycle ∧ (s.steward r).seen ≠ s.placerSees r ∧ s.wgs.all (fun w => w.phase != .saved) = true ∧ (∀ u : State, acted u = u.modSteward r (fun k => { k with actedAt := some u.cycle, seen := s.placerSees r })) ∧ s.placeList (s.steward r).ten = hd :: rest ∧ (hd :: rest).all (fun g => !g.swapping) = true ∧ s.placeNext hd r c = some t :=
  ⟨placeState, 0, [], fun (u : State) => u.modSteward 0 (fun k => { k with actedAt := some u.cycle, seen := placeState.placerSees 0 }), pg, [], ((placeState.placeNext pg 0 []).getD ms), and4 (by decide +kernel) ⟨by decide +kernel, by decide +kernel, fun _ => rfl, by decide +kernel, by decide +kernel, some_get (by decide +kernel)⟩⟩

theorem witness_PoolAndPlacement_19 : ∃ (s : State) (gr : Grid) (r : Nat) (c : List Nat) (t : State), s.placeNext gr r c = some t :=
  ⟨placeState, pg, 0, [], ((placeState.placeNext pg 0 []).getD ms), some_get (by decide +kernel)⟩

theorem witness_PoolAndPlacement_20 : ∃ (s : State) (gr : Grid) (r : Nat) (c : List Nat) (t : State) (w : Workgroup), s.placeNext gr r c = some t ∧ w ∈ t.wgs.drop s.wgs.length :=
  ⟨placeState, pg, 0, [], ((placeState.placeNext pg 0 []).getD ms), (((placeState.placeNext pg 0 []).getD ms).wgs.headD bootWg), some_get (by decide +kernel), head_mem (by decide +kernel) (by decide +kernel)⟩

theorem witness_PoolAndPlacement_21 : ∃ (s : State) (key : Nat) (i : Nat) (w : Workgroup) (g : Group) (gr : Grid), s.wg? key = some w ∧ w.groups[i]? = some g ∧ s.grid? w.grid = some gr ∧ g.started = false ∧ w.since + 256 ≤ s.cycle ∧ (w.phase = .starting ∨ w.phase = .resident) :=
  ⟨{ shown ms (wgOf ({ gPtr 0 with started := false })) bootGrid with cycle := 256 }, 0, 0, wgOf ({ gPtr 0 with started := false }), { gPtr 0 with started := false }, bootGrid, by decide +kernel, by decide +kernel, by decide +kernel, rfl, by decide +kernel, .inr rfl⟩

theorem witness_PoolAndPlacement_22 : ∃ (g : Group) (gr : Grid) (p : Nat) (h : Group), g.regs = [] ∧ g.sregs = [] ∧ g.rpoison = [] ∧ h = g.loadArgs gr p :=
  ⟨gp sp0, bootGrid, 0x1000, _, rfl, rfl, rfl, rfl⟩

theorem witness_PoolAndPlacement_23 : ∃ (g : Group) (gr : Grid) (p : Nat) (h : Group), g.regs = [] ∧ g.sregs = [] ∧ g.rpoison = [] ∧ h = g.loadArgs gr p :=
  ⟨gp sp0, bootGrid, 0x1000, _, rfl, rfl, rfl, rfl⟩

theorem witness_PoolAndPlacement_24 : ∃ (g : Group) (gr : Grid) (p : Nat) (h : Group) (l : Nat) (i : Nat), g.regs = [] ∧ g.sregs = [] ∧ g.rpoison = [] ∧ h = g.loadArgs gr p ∧ l < 32 ∧ i < 256 :=
  ⟨gp sp0, bootGrid, 0x1000, _, 31, 255, rfl, rfl, rfl, rfl, by decide, by decide⟩

theorem witness_PoolAndPlacement_25 : ∃ (s : State) (ten : Nat) (t : Nat) (r : Nat), (s.head ten).bind (·.headSince) = some t ∧ t + 2 ^ 20 ≤ s.cycle ∧ (∀ k < 24, (s.steward k).ten = ten → (s.steward k).reserved = false) ∧ r < 24 ∧ (s.steward r).ten = ten ∧ (∀ k < 24, (s.steward k).ten = ten → s.idleCores k ≤ s.idleCores r ∧ (k < r → s.idleCores k < s.idleCores r)) :=
  ⟨{ placeState with cycle := 2 ^ 20 }, 0, 0, 0, by decide +kernel, by decide +kernel, by decide +kernel, by decide, by decide +kernel, by decide +kernel⟩

theorem looks {s : State} {f : Focus} {w : Workgroup} {g : Group} {sp : Split} {gr : Grid} (h1 : s.wg? f.wg = some w) (h2 : w.groups[f.grp]? = some g)
    (h3 : g.table[f.pos]? = some (some sp)) (h4 : s.grid? w.grid = some gr) : f.lookup s = some { foc := f, wg := w, g := g, sp := sp, gr := gr } := by
  simp [Focus.lookup, h1, h2, h3, h4]
/-- A workgroup of one group with no split left, and one wholly parked on a channel. -/
def emptyG : Group := { gp sp0 with table := [none, none, none, none, none, none, none, none] }
def parkedG : Group := { gp { sp0 with phase := .parked, why := .popEmpty, blk := .chan 3, parkAt := 5 } with grpid := 0 }
def parkGrid : Grid := { bootGrid with stallSince := some 0 }
def wgIn (p : WgPhase) (g : Group) : Workgroup := { wgOf g with phase := p }
def with_ (w : Workgroup) (gr : Grid) (s : State := ms) : State := { s with wgs := [w], grids := [gr], stewards := [(0, { ten := 0 })] }

theorem witness_RetireAndPreempt_0 : ∃ (s : State) (key : Nat) (i : Nat) (w : Workgroup) (g : Group) (gr : Grid), s.wg? key = some w ∧ w.groups[i]? = some g ∧ s.grid? w.grid = some gr ∧ w.phase = .resident ∧ g.started = true ∧ g.retired = false ∧ (g.live ≠ 0 ∨ g.gonePend ≠ [] ∨ s.passed (dieOfCore g.core) g.goneVis = false) :=
  ⟨with_ (wgOf (gp sp0)) bootGrid, 0, 0, wgOf (gp sp0), gp sp0, bootGrid, by decide +kernel, by decide +kernel, by decide +kernel, rfl, rfl, rfl, .inl (by decide +kernel)⟩

theorem witness_RetireAndPreempt_1 : ∃ (s : State) (key : Nat) (i : Nat) (w : Workgroup) (g : Group) (gr : Grid) (j : Nat) (h : Group), s.wg? key = some w ∧ w.groups[i]? = some g ∧ s.grid? w.grid = some gr ∧ w.phase = .resident ∧ g.started = true ∧ g.retired = false ∧ g.live = 0 ∧ g.gonePend = [] ∧ s.passed (dieOfCore g.core) g.goneVis = true ∧ j ≠ i ∧ w.groups[j]? = some h ∧ h.retired = false :=
  ⟨with_ ({ wgOf emptyG with groups := [emptyG, gp sp0] }) bootGrid, 0, 0, { wgOf emptyG with groups := [emptyG, gp sp0] }, emptyG, bootGrid, 1, gp sp0, by decide +kernel, by decide +kernel, by decide +kernel, rfl, rfl, rfl, by decide +kernel, rfl, by decide +kernel, by decide, by decide +kernel, rfl⟩

theorem witness_RetireAndPreempt_2 : ∃ (s : State) (key : Nat) (i : Nat) (w : Workgroup) (g : Group) (gr : Grid) (u : State) (v : State), s.wg? key = some w ∧ w.groups[i]? = some g ∧ s.grid? w.grid = some gr ∧ w.phase = .resident ∧ g.started = true ∧ g.retired = false ∧ g.live = 0 ∧ g.gonePend = [] ∧ s.passed (dieOfCore g.core) g.goneVis = true ∧ (∀ j h, j ≠ i → w.groups[j]? = some h → h.retired = true) ∧ s.matrixBusy w = false ∧ gr.k.stats = 0 ∧ u = ((s.modWg w.key (fun w => { w with stats := [] })).freeWg w).modGrid gr.id (fun g => { g.keepFlags w with retired := g.retired + 1, detections := 0, stallSince := none }) ∧ v = (if u.wgs.any (fun o => o.grid == gr.id && o.cluster == w.cluster) then u else u.dropEdges (fun h => h == (gr.id, w.cluster))) :=
  ⟨with_ (wgOf (emptyG)) bootGrid, 0, 0, wgOf (emptyG), emptyG, bootGrid, _, _, by decide +kernel, by decide +kernel, by decide +kernel, rfl, rfl, rfl, by decide +kernel, rfl, by decide +kernel, fun j h hj hh => by rcases j with _ | j; exact absurd rfl hj; exact absurd (show ([] : List Group)[j]? = some h from hh) (by simp), by decide +kernel, rfl, rfl, rfl⟩

theorem witness_RetireAndPreempt_3 : ∃ (w : Workgroup), w.phase ≠ .saved :=
  ⟨wgOf emptyG, by decide⟩

theorem witness_RetireAndPreempt_4 : ∃ (s : State) (id : Nat) (gr : Grid), s.grid? id = some gr ∧ gr.k.stats = 0 :=
  ⟨with_ (wgOf emptyG) bootGrid, 0, bootGrid, by decide +kernel, rfl⟩

theorem witness_RetireAndPreempt_5 : ∃ (s : State) (key : Nat) (cause : Nat) (w : Workgroup) (gr : Grid) (g1 : Grid) (u : State), s.wg? key = some w ∧ s.grid? w.grid = some gr ∧ gr.closing = false ∧ gr.k.stats = 0 ∧ g1 = ({ gr with ended := some (gr.ended.getD (7, cause, w.ctx)), headSince := none } : Grid) ∧ u = ({ s with wgs := s.wgs.map (fun w => if w.grid = gr.id ∧ w.phase ≠ .saved then { w with phase := .halted } else w) } : State).modGrid gr.id (fun _ => g1) :=
  ⟨with_ (wgOf emptyG) bootGrid, 0, 6, wgOf emptyG, bootGrid, _, _, by decide +kernel, by decide +kernel, rfl, rfl, rfl, rfl⟩

theorem witness_RetireAndPreempt_6 : ∃ (s : State) (id : Nat) (gr : Grid) (t : Nat), s.grid? id = some gr ∧ gr.ended = none ∧ gr.swapping = false ∧ gr.stallSince = some t ∧ s.wgs.all (fun w => w.grid != id || (w.phase != .halting && w.phase != .halted && w.phase != .starting)) = true ∧ s.cycle ≤ t + 2 ^ gr.k.park :=
  ⟨with_ (wgOf parkedG) parkGrid { ms with cycle := 2 ^ 22 }, 0, parkGrid, 0, by decide +kernel, rfl, rfl, rfl, by decide +kernel, by decide +kernel⟩

theorem witness_RetireAndPreempt_7 : ∃ (s : State) (id : Nat) (gr : Grid) (t : Nat) (w : Workgroup) (n : Nat) (u : State), s.grid? id = some gr ∧ gr.ended = none ∧ gr.swapping = false ∧ gr.stallSince = some t ∧ s.wgs.all (fun w => w.grid != id || (w.phase != .halting && w.phase != .halted && w.phase != .starting)) = true ∧ t + 2 ^ gr.k.park < s.cycle ∧ s.parkedLongest id = some w ∧ s.stewardUp w.region = true ∧ n = min (gr.detections + 1) 8 ∧ u = s.modGrid id (fun g => { g with detections := n, stallSince := some s.cycle, swapping := gr.k.swap && decide (n < 8) }) :=
  ⟨with_ (wgOf parkedG) parkGrid { ms with cycle := 2 ^ 22 + 1 }, 0, parkGrid, 0, wgOf parkedG, _, _, by decide +kernel, rfl, rfl, rfl, by decide +kernel, by decide +kernel, by decide +kernel, by decide +kernel, rfl, rfl⟩

theorem witness_RetireAndPreempt_8 : ∃ (s : State) (id : Nat) (w : Workgroup), s.parkedLongest id = some w ∧ w.clsize = 1 ∧ (s.wgs.filter (fun o => o.grid == id && o.cluster == w.cluster)) = [w] ∧ w.phase = .resident :=
  ⟨with_ (wgOf parkedG) parkGrid, 0, wgOf parkedG, by decide +kernel, rfl, by decide +kernel, rfl⟩

theorem witness_RetireAndPreempt_9 : ∃ (s : State) (gr : Grid) (w : Workgroup) (f : Focus) (x : Ctx), s.parkedLongest gr.id = some w ∧ w.splitLongest = some f ∧ f.lookup s = some x :=
  ⟨with_ (wgOf parkedG) parkGrid, parkGrid, wgOf parkedG, { wg := 0, grp := 0, pos := 0 }, ctxOf (wgOf parkedG) parkedG ({ sp0 with phase := .parked, why := .popEmpty, blk := .chan 3, parkAt := 5 }) parkGrid, by decide +kernel, by decide +kernel, looks (by decide +kernel) rfl rfl (by decide +kernel)⟩

theorem witness_RetireAndPreempt_10 : ∃ (s : State) (id : Nat) (w : Workgroup) (t : Nat) (o : Workgroup) (t1 : Nat), s.parkedLongest id = some w ∧ w.parkedSince = some t ∧ (∀ o ∈ s.wgs, o.ctx < 2 ^ 20) ∧ o.grid = id ∧ o.parkedSince = some t1 ∧ o ∈ s.wgs :=
  ⟨with_ (wgOf parkedG) parkGrid, 0, wgOf parkedG, 5, wgOf parkedG, 5, by decide +kernel⟩

theorem witness_RetireAndPreempt_11 : ∃ (s : State) (key : Nat) (w : Workgroup), s.wg? key = some w ∧ w.phase = .resident ∧ s.stewardUp w.region = true :=
  ⟨with_ (wgOf parkedG) parkGrid, 0, wgOf parkedG, by decide +kernel, rfl, by decide +kernel⟩

theorem witness_RetireAndPreempt_12 : ∃ (s : State) (key : Nat) (w : Workgroup), s.wg? key = some w ∧ w.phase = .halting ∧ s.issuedOpen key = false ∧ s.matrixBusy w = false ∧ s.chunkOpen (Copy.of key) = true :=
  ⟨{ with_ (wgIn .halting parkedG) parkGrid with copies := [{ copyOf State.reset 16 0 with moved := 0 }], fabric := [{ aFlit false with wg := 2 ^ 40, copy := some (copyOf State.reset 16 0).id, op := .count 8 }] }, 0, wgIn .halting parkedG, by decide +kernel, rfl, by decide +kernel, by decide +kernel, by decide +kernel⟩

theorem witness_RetireAndPreempt_13 : ∃ (s : State) (key : Nat) (w : Workgroup), s.wg? key = some w ∧ w.phase = .halting ∧ s.issuedOpen key = false ∧ s.matrixBusy w = false ∧ s.chunkOpen (Copy.of key) = false ∧ s.copies.any (fun c => c.of key && !c.replay) = false :=
  ⟨with_ (wgIn .halting parkedG) parkGrid, 0, wgIn .halting parkedG, by decide +kernel, rfl, by decide +kernel, by decide +kernel, by decide +kernel, by decide +kernel⟩

theorem witness_RetireAndPreempt_14 : ∃ (s : State) (key : Nat) (w : Workgroup), s.wg? key = some w ∧ w.phase = .halting ∧ s.issuedOpen key = false ∧ s.matrixBusy w = false ∧ s.chunkOpen (Copy.of key) = false ∧ s.copies.any (fun c => c.of key && !c.replay) = true ∧ s.cycle < w.since + 14000 :=
  ⟨{ with_ (wgIn .halting parkedG) parkGrid with copies := [{ copyOf State.reset 16 0 with moved := 0 }], cycle := 13999 }, 0, wgIn .halting parkedG, by decide +kernel, rfl, by decide +kernel⟩

theorem witness_RetireAndPreempt_15 : ∃ (s : State) (key : Nat) (w : Workgroup) (c : Copy), s.wg? key = some w ∧ w.phase = .halting ∧ s.issuedOpen key = false ∧ s.matrixBusy w = false ∧ s.chunkOpen (Copy.of key) = false ∧ s.copies = [c] ∧ c.of key = true ∧ c.failed = none ∧ c.replay = false ∧ w.since + 14000 ≤ s.cycle :=
  ⟨{ with_ (wgIn .halting parkedG) parkGrid with copies := [{ copyOf State.reset 16 0 with moved := 0 }], cycle := 14000 }, 0, wgIn .halting parkedG, { copyOf State.reset 16 0 with moved := 0 }, by decide +kernel, rfl, by decide +kernel, by decide +kernel, by decide +kernel, rfl, by decide +kernel, rfl, rfl, by decide +kernel⟩

theorem witness_RetireAndPreempt_16 : ∃ (s : State) (key : Nat) (i : Nat) (pos : Nat) (x : Ctx) (here : Nat → Nat → Nat → W32 → Bool), (({ wg := key, grp := i, pos := pos } : Focus).lookup s) = some x ∧ x.wg.phase = .halting ∧ x.wg.since + 12000 ≤ s.cycle ∧ here = (fun w g l wi => w == key && g == i && x.sp.mask.getLsbD l && wi == x.sp.wi) :=
  ⟨{ with_ (wgIn .halting parkedG) parkGrid with cycle := 12000 }, 0, 0, 0, ctxOf (wgIn .halting parkedG) parkedG ({ sp0 with phase := .parked, why := .popEmpty, blk := .chan 3, parkAt := 5 }) parkGrid, _, looks (by decide +kernel) rfl rfl (by decide +kernel), rfl, by decide +kernel, rfl⟩

/-- A small workgroup whose image and private memory lie on mapped pages. -/
def smallGrid : Grid := { parkGrid with k := { bootKernel with vregs := 16, sregs := 16 }, save := 0x10000, pb := 0x20000 }
def mapped : State := [16, 17, 18, 19, 24, 25, 32].foldl (fun s i => s.rawWrite (0x5000 + 8 * i) (leBytes 8 (2 ^ 63 + 2 ^ 61 + 2 ^ 60 + 0x200000 + 4096 * i + 0x700))) ms
def haltedWg : Workgroup := wgIn .halted parkedG
def savedSmall : Workgroup := wgIn .saved parkedG
def small (w : Workgroup) : State := with_ w smallGrid mapped
def partsOf : List (Nat × List Byte) := (imageAddr smallGrid haltedWg, ((small haltedWg).image smallGrid haltedWg).1) :: privateParts smallGrid haltedWg
def rangesOf : List (Nat × Nat) := (imageAddr smallGrid savedSmall, 256) :: (imageAddr smallGrid savedSmall, (small savedSmall).imageSize smallGrid savedSmall) :: savedSmall.groups.map (fun g => (privBlock smallGrid savedSmall g.grpid, 2048))
def spotsOf : List (Workgroup × List Spot) := ((small savedSmall).fitSaved smallGrid true [savedSmall] [] ((small savedSmall).regionUse 0)).getD []

theorem witness_RetireAndPreempt_17 : ∃ (s : State) (key : Nat) (w : Workgroup) (gr : Grid) (b : List Byte) (bad : List Nat) (parts : List (Nat × List Byte)), s.wg? key = some w ∧ s.grid? w.grid = some gr ∧ w.phase = .halted ∧ gr.ended = none ∧ s.stewardUp w.region = true ∧ s.recordsPassed w = true ∧ gr.k.stats = 0 ∧ s.image gr w = (b, bad) ∧ parts = (imageAddr gr w, b) :: privateParts gr w ∧ (s.awaitAll (srcSteward w.region) gr.pasid .wr (parts.map (fun p => (p.1, p.2.length)))).2 = false ∧ s.firstBad (srcSteward w.region) gr.pasid .wr (parts.map (fun p => (p.1, p.2.length))) = none :=
  ⟨small haltedWg, 0, haltedWg, smallGrid, ((small haltedWg).image smallGrid haltedWg).1, ((small haltedWg).image smallGrid haltedWg).2, partsOf, by decide +kernel, by decide +kernel, rfl, rfl, by decide +kernel, by decide +kernel, rfl, rfl, rfl, by decide +kernel, by decide +kernel⟩

theorem witness_RetireAndPreempt_18 : ∃ (s : State) (region : Nat) (key : Nat) (w : Workgroup) (gr : Grid) (spots : List Spot) (all : List (Nat × Nat)), s.wg? key = some w ∧ s.grid? w.grid = some gr ∧ s.restoreSet w = some [w] ∧ s.restorable region w = true ∧ (s.fitSaved gr false [w] [] (s.regionUse region)).isSome = true ∧ all = (imageAddr gr w, 256) :: (imageAddr gr w, s.imageSize gr w) :: w.groups.map (fun g => (privBlock gr w g.grpid, 2048)) ∧ (s.awaitAll (srcSteward region) gr.pasid .rd [(imageAddr gr w, 256)]) = (s, false) ∧ (s.awaitAll (srcSteward region) gr.pasid .rd all.tail).2 = false ∧ s.firstBad (srcSteward region) gr.pasid .rd all = none ∧ s.imageControlBad gr w = false ∧ s.fitSaved gr true [w] [] (s.regionUse region) = some [(w, spots)] :=
  ⟨small savedSmall, 0, 0, savedSmall, smallGrid, ((spotsOf.headD (savedSmall, [])).2), rangesOf, and4 (by decide +kernel) ⟨by decide +kernel, rfl, by decide +kernel⟩⟩

/-! ### Services, Prisms and the Lens -/

/-- A journal record of a service with its arguments, and a state with it. -/
def jr (svc st : Nat) (args : List Nat) : JRec := { ten := 0, callid := 0, req := 5, st := st, root := 0, svc := svc, pasid := 0, args := args, ctx := 0, blocks := [(0, 0x1000)] }
def js (r : JRec) (s : State := ms) : State := { s with journal := [r] }
def svcQ : SvcReq := { id := 5, ten := 0, pasid := 0, ptr := 0x1000, root := 0, ctx := 0, grid := 0, wg := 0, grp := 0, queued := true }
/-- The descriptor of a view of four rows of 32 elements of two bytes on mapped pages. -/
def viewDesc : List Byte :=
  leBytes 8 0x10000 ++ leBytes 8 4096 ++ leBytes 4 4 ++ leBytes 4 32 ++ leBytes 4 0 ++ leBytes 4 4 ++ leBytes 4 0 ++ leBytes 4 0 ++ leBytes 8 0x20000 ++ leBytes 8 64 ++ leBytes 8 0 ++
  leBytes 8 0x18000 ++ leBytes 8 0x19000 ++ leBytes 4 (5 + 16 * 5 + 4096 * 3) ++ List.replicate 44 0
def regState : State := js (jr 1 1 [0x1000, 0x1100]) (mapped.rawWrite 0x201000 viewDesc)
def regRead : List Byte × State := (okIO (regState.qfeRead 0 0x1000 128)).getD ([], ms)
def regView : View := View.ofBytes regRead.2.nextId 0x1100 0 0 regRead.1
def regU : State := { regRead.2 with nextId := regRead.2.nextId + 1 }
def badReg : State := js (jr 1 1 [0x1000, 0x1180])
def badRead : List Byte × State := (okIO (badReg.qfeRead 0 0x1000 128)).getD ([], ms)
theorem writable {s : State} {p a n : Nat} (h : (decide (a + n ≤ 2 ^ 56) && !(s.await srcQfe p .wr a n).2 && (s.firstBad srcQfe p .wr [(a, n)]).isNone) = true) : Writable s p a n := by
  simp only [Bool.and_eq_true, decide_eq_true_eq, Bool.not_eq_true', Option.isNone_iff_eq_none] at h
  exact ⟨h.1.1, h.1.2, h.2⟩
theorem reg_tags : Writable regU regView.pasid regView.tags (8 * regView.count) := writable (by decide +kernel)
theorem reg_stats : Writable regU regView.pasid regView.stats 16 := writable (by decide +kernel)
theorem reg_ptr : Writable regU (jr 1 1 [0x1000, 0x1100]).pasid regView.ptr 128 := writable (by decide +kernel)
theorem reg_read : regState.qfeRead (jr 1 1 [0x1000, 0x1100]).pasid ((jr 1 1 [0x1000, 0x1100]).arg 0) 128 = .ok regRead.1 regRead.2 := io_ok (x := regState.qfeRead 0 0x1000 128) (d := ([], ms)) (by decide +kernel)
theorem reg_master : regU.masterPas regView = some [0x210000, 0x211000, 0x212000, 0x213000] := by decide +kernel
theorem reg_found : (regU.await srcQfe regView.pasid .rd (4096 * regView.block0) (4096 * regView.count)).2 = false := by decide +kernel
theorem reg_kind : regView.kindOk (regRead.2.wgs.any (fun w => w.ten == (jr 1 1 [0x1000, 0x1100]).ten && w.ctx == regView.owner && w.phase != .starting)) = true := by decide +kernel
theorem reg_fields : regView.fieldsOk regRead.1 = true := by decide +kernel
/-- A slot record of the Lens: ST, FLAGS, REFS and the pointers at 0x18 and 0x28. -/
def lensState (st fl refs p28 : Nat) : State :=
  { ms.rawWrite 0x201000 (leBytes 4 (st + 256 * fl) ++ leBytes 4 refs ++ List.replicate 32 0 ++ leBytes 8 p28 ++ List.replicate 16 0) with tens := [(0, { lens := 0x1000, nlens := 2 })] }
def slotOk (s : State) (ten slot : Nat) : Bool :=
  match s.demand srcQfe (s.ten ten).lensPasid (s.slotAt ten slot % 2 ^ 56) .rdwr with
  | .ok a b _ => !s.homeMoves (s.forwarded a) && (leNat (s.cohLatest (b + 1) 1) % 4 ||| 1) == leNat (s.cohLatest (b + 1) 1) % 4
  | _ => false
theorem slot_ready {s : State} {ten slot : Nat} (h : slotOk s ten slot = true) : s.slotPage ten slot = .ready s := by
  unfold slotOk at h
  unfold State.slotPage
  split at h
  next a b _ e =>
    simp only [Bool.and_eq_true, Bool.not_eq_true', beq_iff_eq] at h
    simp only [e, h.1, Bool.false_eq_true, if_false, State.markPte, h.2, if_true]
  next => cases h
def lensNode (st : NodeSt) (lens : List Nat) : Node := { aNode with st := st, tiles := [{ bytes := [3], since := 0 }], lens := lens, phase := 2 }
def lensRun (failed drain hostDone : Bool) : LensRun := { ten := 0, slot := 0, bytes := [3], failed := failed, draining := drain, hostDone := hostDone }
def testMaster (wt : Nat) (deps : List (Nat × Nat)) : Master := { die := 0, pa := 0x210000, wt := wt, deps := deps }
def testRefresh (snap : Option (Nat × List Byte × Bool)) (left : List (Nat × Nat)) (run : Nat) : Refresh := { id := 1, die := 0, eng := 0, pa := 0x210000, since := 0, snap := snap, left := left, run := run }
def prismState (k : Master) (r : Refresh) : State := { mapped with masters := [k], refreshes := [r], views := [{ regView with id := 1, space := 0, pasid := 0 }] }

theorem witness_ServicesAndEngines_0 : ∃ (s : State) (req : Nat) (q : SvcReq) (t : State) (b : List Byte) (mine : Nat → Bool) (r : JRec), s.call? req = none ∧ s.services.find? (fun q => q.id == req && q.queued) = some q ∧ s.qfeRead q.pasid (q.ptr % 2 ^ 56) 64 = .ok b t ∧ mine (fieldAt b 8 2) = true ∧ s.journal.find? (fun r => r.ten == q.ten && r.callid == fieldAt b 0 8) = some r :=
  ⟨{ ms with services := [svcQ], journal := [{ jr 8 1 [] with req := 6 }] }, 5, svcQ, ((okIO (State.qfeRead { ms with services := [svcQ], journal := [{ jr 8 1 [] with req := 6 }] } svcQ.pasid (svcQ.ptr % 2 ^ 56) 64)).getD ([], ms)).2, ((okIO (State.qfeRead { ms with services := [svcQ], journal := [{ jr 8 1 [] with req := 6 }] } svcQ.pasid (svcQ.ptr % 2 ^ 56) 64)).getD ([], ms)).1, (fun _ => true), { jr 8 1 [] with req := 6 }, by decide +kernel, by decide +kernel, io_ok (d := ([], ms)) (by decide +kernel), rfl, by decide +kernel⟩

theorem witness_ServicesAndEngines_1 : ∃ (s : State) (req : Nat) (q : SvcReq) (t : State) (b : List Byte) (mine : Nat → Bool) (r : JRec), s.call? req = none ∧ s.services.find? (fun q => q.id == req && q.queued) = some q ∧ s.qfeRead q.pasid (q.ptr % 2 ^ 56) 64 = .ok b t ∧ mine (fieldAt b 8 2) = true ∧ s.journal.find? (fun r => r.ten == q.ten && r.callid == fieldAt b 0 8) = none ∧ (s.journal.filter (fun r => r.ten == q.ten)).length < 65536 ∧ r = ({ ten := q.ten, callid := fieldAt b 0 8, req := req, root := q.root, svc := fieldAt b 8 2, pasid := q.pasid, args := (List.range 4).map (fun i => fieldAt b (0x20 + 8 * i) 8), ctx := q.ctx, blocks := [(q.pasid, q.ptr % 2 ^ 56)] } : JRec) :=
  ⟨{ ms with services := [svcQ], journal := [] }, 5, svcQ, ((okIO (State.qfeRead { ms with services := [svcQ], journal := [] } svcQ.pasid (svcQ.ptr % 2 ^ 56) 64)).getD ([], ms)).2, ((okIO (State.qfeRead { ms with services := [svcQ], journal := [] } svcQ.pasid (svcQ.ptr % 2 ^ 56) 64)).getD ([], ms)).1, (fun _ => true), _, by decide +kernel, by decide +kernel, io_ok (d := ([], ms)) (by decide +kernel), rfl, by decide +kernel, by decide +kernel, rfl⟩

theorem witness_ServicesAndEngines_2 : ∃ (s : State) (req : Nat) (r : JRec) (t : State) (b : List Byte) (v : View) (u : State), s.call? req = some r ∧ r.st = 1 ∧ r.svc = 1 ∧ r.arg 0 + 128 ≤ 2 ^ 56 ∧ s.qfeRead r.pasid (r.arg 0) 128 = .ok b t ∧ v = View.ofBytes t.nextId (r.arg 1) r.pasid r.ten b ∧ v.edge = false ∧ u = ({ t with nextId := t.nextId + 1 } : State) ∧ (r.arg 1 % 128 ≠ 0 ∨ 2 ^ 56 ≤ r.arg 1 ∨ v.fieldsOk b = false ∨ v.kindOk (t.wgs.any (fun w => w.ten == r.ten && w.ctx == v.owner && w.phase != .starting)) = false) :=
  ⟨badReg, 5, jr 1 1 [0x1000, 0x1180], badRead.2, badRead.1, _, _, by decide +kernel, rfl, rfl, by decide +kernel, io_ok (x := badReg.qfeRead 0 0x1000 128) (d := ([], ms)) (by decide +kernel), rfl, by decide +kernel, rfl, .inr (.inr (.inl (by decide +kernel)))⟩

theorem witness_ServicesAndEngines_3 : ∃ (s : State) (req : Nat) (r : JRec) (t : State) (b : List Byte) (v : View) (u : State) (pas : List Nat), s.call? req = some r ∧ r.st = 1 ∧ r.svc = 1 ∧ r.arg 0 + 128 ≤ 2 ^ 56 ∧ s.qfeRead r.pasid (r.arg 0) 128 = .ok b t ∧ v = View.ofBytes t.nextId (r.arg 1) r.pasid r.ten b ∧ v.edge = false ∧ u = ({ t with nextId := t.nextId + 1 } : State) ∧ r.arg 1 % 128 = 0 ∧ r.arg 1 < 2 ^ 56 ∧ v.fieldsOk b = true ∧ v.kindOk (t.wgs.any (fun w => w.ten == r.ten && w.ctx == v.owner && w.phase != .starting)) = true ∧ v.mdev = t.devnum ∧ v.overlaps t.views = false ∧ t.views.any (fun k => k.ptr == v.ptr && k.space == v.space) = false ∧ (t.views.filter (fun k => k.pasid == v.pasid && k.mbase == v.mbase)).length < 8 ∧ (u.await srcQfe v.pasid .rd (4096 * v.block0) (4096 * v.count)).2 = false ∧ u.masterPas v = some pas ∧ u.tableFull pas = false ∧ Writable u v.pasid v.tags (8 * v.count) ∧ Writable u v.pasid v.stats 16 ∧ Writable u r.pasid v.ptr 128 :=
  ⟨regState, 5, jr 1 1 [0x1000, 0x1100], regRead.2, regRead.1, regView, regU, [0x210000, 0x211000, 0x212000, 0x213000], by decide +kernel, rfl, rfl, by decide +kernel, reg_read, rfl, by decide +kernel, rfl, by decide +kernel, by decide +kernel, reg_fields, reg_kind, by decide +kernel, by decide +kernel, by decide +kernel, by decide +kernel, reg_found, reg_master, by decide +kernel, reg_tags, reg_stats, reg_ptr⟩

theorem witness_ServicesAndEngines_4 : ∃ (s : State) (req : Nat) (r : JRec), s.call? req = some r ∧ r.st = 1 ∧ r.svc = 2 :=
  ⟨js (jr 2 1 []), 5, jr 2 1 [], by decide +kernel, rfl, rfl⟩

theorem witness_ServicesAndEngines_5 : ∃ (s : State) (req : Nat) (r : JRec) (e : Nat), s.call? req = some r ∧ r.st = 1 ∧ r.svc = 3 ∧ e = iatEntry (r.arg 1) (if r.arg 0 = 2 then 0 else r.pasid) (r.arg 2) r.ten (r.arg 0) ∧ (3 ≤ r.arg 0 ∨ 2 ^ 56 ≤ r.arg 1 ∨ 2 ^ 32 ≤ r.arg 2 ∨ iatBad e = true) :=
  ⟨js (jr 3 1 [3, 0, 0]), 5, jr 3 1 [3, 0, 0], _, by decide +kernel, rfl, rfl, rfl, .inl (by decide)⟩

theorem witness_ServicesAndEngines_6 : ∃ (s : State) (req : Nat) (r : JRec) (n : Nat) (e : Nat), s.call? req = some r ∧ r.st = 1 ∧ r.svc = 3 ∧ e = iatEntry (r.arg 1) (if r.arg 0 = 2 then 0 else r.pasid) (r.arg 2) r.ten (r.arg 0) ∧ r.arg 0 < 3 ∧ r.arg 1 < 2 ^ 56 ∧ r.arg 2 < 2 ^ 32 ∧ iatBad e = false ∧ n < 4096 ∧ bitOf (mget 0 s.iat n).toNat 0 = false :=
  ⟨js (jr 3 1 [1, 0x1FF8, 7]), 5, jr 3 1 [1, 0x1FF8, 7], 4095, _, by decide +kernel, rfl, rfl, rfl, by decide, by decide, by decide, by decide +kernel, by decide, by decide +kernel⟩

theorem witness_ServicesAndEngines_7 : ∃ (s : State) (req : Nat) (r : JRec), s.call? req = some r ∧ r.st = 1 ∧ r.svc = 4 :=
  ⟨js (jr 4 1 []), 5, jr 4 1 [], by decide +kernel, rfl, rfl⟩

theorem witness_ServicesAndEngines_8 : ∃ (s : State) (req : Nat) (r : JRec), s.call? req = some r ∧ r.st = 1 ∧ r.svc = 5 ∧ r.arg 0 < (s.ten r.ten).nlens ∧ s.slotPage r.ten (r.arg 0) = .ready s ∧ s.slotSt r.ten (r.arg 0) = 2 ∧ s.slotRefs r.ten (r.arg 0) ≠ 0 :=
  ⟨{ lensState 2 0 1 0 with journal := [jr 5 1 [0]] }, 5, jr 5 1 [0], by decide +kernel, rfl, rfl, by decide +kernel, slot_ready (by decide +kernel), by decide +kernel, by decide +kernel⟩

theorem witness_ServicesAndEngines_9 : ∃ (s : State) (req : Nat) (r : JRec), s.call? req = some r ∧ r.st = 1 ∧ r.svc = 5 ∧ r.arg 0 < (s.ten r.ten).nlens ∧ s.slotPage r.ten (r.arg 0) = .ready s ∧ s.slotSt r.ten (r.arg 0) ≠ 2 :=
  ⟨{ lensState 0 0 0 0 with journal := [jr 5 1 [0]] }, 5, jr 5 1 [0], by decide +kernel, rfl, rfl, by decide +kernel, slot_ready (by decide +kernel), by decide +kernel⟩

theorem witness_ServicesAndEngines_10 : ∃ (s : State) (req : Nat) (r : JRec), s.call? req = some r ∧ r.st = 1 ∧ r.svc = 5 ∧ r.arg 0 < (s.ten r.ten).nlens ∧ s.slotPage r.ten (r.arg 0) = .ready s ∧ s.slotSt r.ten (r.arg 0) = 2 ∧ s.slotRefs r.ten (r.arg 0) = 0 ∧ bitOf (s.slotField r.ten (r.arg 0) 1 1) 1 = false :=
  ⟨{ lensState 2 0 0 0 with journal := [jr 5 1 [0]] }, 5, jr 5 1 [0], by decide +kernel, rfl, rfl, by decide +kernel, slot_ready (by decide +kernel), by decide +kernel, by decide +kernel, by decide +kernel⟩

theorem witness_ServicesAndEngines_11 : ∃ (s : State) (req : Nat) (r : JRec) (u : State), s.call? req = some r ∧ r.st = 1 ∧ r.svc = 5 ∧ r.arg 0 < (s.ten r.ten).nlens ∧ s.slotPage r.ten (r.arg 0) = .ready s ∧ s.slotSt r.ten (r.arg 0) = 2 ∧ s.slotRefs r.ten (r.arg 0) = 0 ∧ bitOf (s.slotField r.ten (r.arg 0) 1 1) 1 = true ∧ s.startRun r.ten (r.arg 0) (s.slotField r.ten (r.arg 0) 0x20 8) true false = .ok () u :=
  ⟨{ lensState 2 2 0 0 with journal := [jr 5 1 [0]] }, 5, jr 5 1 [0], ((okIO (State.startRun { lensState 2 2 0 0 with journal := [jr 5 1 [0]] } 0 0 (State.slotField { lensState 2 2 0 0 with journal := [jr 5 1 [0]] } 0 0 0x20 8) true false)).getD ((), ms)).2, by decide +kernel, rfl, rfl, by decide +kernel, slot_ready (by decide +kernel), by decide +kernel, by decide +kernel, by decide +kernel, io_unit (d := ((), ms)) (by decide +kernel)⟩

theorem witness_ServicesAndEngines_12 : ∃ (s : State) (req : Nat) (r : JRec), s.call? req = some r ∧ r.st = 1 ∧ r.svc = 6 ∧ Writable s r.pasid (r.arg 1) 16 :=
  ⟨js (jr 6 1 [0, 0x1000]), 5, jr 6 1 [0, 0x1000], by decide +kernel, rfl, rfl, writable (by decide +kernel)⟩

theorem witness_ServicesAndEngines_13 : ∃ (s : State) (req : Nat) (r : JRec) (b : List Byte) (t : State), s.call? req = some r ∧ r.st = 1 ∧ r.svc = 7 ∧ r.arg 0 + 32 ≤ 2 ^ 56 ∧ s.qfeRead r.pasid (r.arg 0) 32 = .ok b t ∧ Writable t r.pasid (r.arg 1) 512 :=
  ⟨js (jr 7 1 [0x1000, 0x1200]), 5, jr 7 1 [0x1000, 0x1200], ((okIO ((js (jr 7 1 [0x1000, 0x1200])).qfeRead 0 0x1000 32)).getD ([], ms)).1, ((okIO ((js (jr 7 1 [0x1000, 0x1200])).qfeRead 0 0x1000 32)).getD ([], ms)).2, by decide +kernel, rfl, rfl, by decide +kernel, io_ok (x := (js (jr 7 1 [0x1000, 0x1200])).qfeRead 0 0x1000 32) (d := ([], ms)) (by decide +kernel), writable (by decide +kernel)⟩

theorem witness_ServicesAndEngines_14 : ∃ (s : State) (req : Nat) (r : JRec), s.call? req = some r ∧ r.st = 1 ∧ 8 ≤ r.svc ∧ r.svc < 0x100 :=
  ⟨js (jr 255 1 []), 5, jr 255 1 [], by decide +kernel, rfl, by decide, by decide⟩

theorem witness_ServicesAndEngines_15 : ∃ (s : State) (req : Nat) (r : JRec), s.call? req = some r ∧ r.st = 2 :=
  ⟨js (jr 8 2 []), 5, jr 8 2 [], by decide +kernel, rfl⟩

theorem witness_ServicesAndEngines_16 : ∃ (s : State) (req : Nat) (r : JRec) (blk : Nat × Nat) (l : List (Nat × Nat)), s.call? req = some r ∧ r.st = 2 ∧ r.blocks = blk :: l ∧ s.replyHeld req = false ∧ (s.qfeCore 0).stopped = false :=
  ⟨js (jr 8 2 []), 5, jr 8 2 [], (0, 0x1000), [], by decide +kernel, rfl, rfl, by decide +kernel, by decide +kernel⟩

theorem witness_ServicesAndEngines_17 : ∃ (s : State) (svc : Nat) (u : State) (l : List JRec), u = s.logRec { unit := 4, code := 0x56, src := 12, aux := svc } ∧ l = s.journal.filter (fun r => r.svc == svc) :=
  ⟨js (jr 8 2 []), 8, _, _, rfl, rfl⟩

theorem witness_ServicesAndEngines_18 : ∃ (s : State) (d : Nat) (e : Nat) (pa : Nat) (rest : List Nat), s.refreshes.all (fun r => r.die != d || r.eng != e) = true ∧ mget [] s.prismQ (4 * d + e) = pa :: rest ∧ s.refreshes.any (fun r => r.pa / 4096 == pa / 4096) = true :=
  ⟨{ ms with prismQ := [(0, [0x210000])], refreshes := [{ testRefresh none [] 0 with eng := 1 }] }, 0, 0, 0x210000, [], by decide +kernel, by decide +kernel, by decide +kernel⟩

theorem witness_ServicesAndEngines_19 : ∃ (s : State) (d : Nat) (e : Nat) (pa : Nat) (rest : List Nat), s.refreshes.all (fun r => r.die != d || r.eng != e) = true ∧ mget [] s.prismQ (4 * d + e) = pa :: rest ∧ s.refreshes.any (fun r => r.pa / 4096 == pa / 4096) = false :=
  ⟨{ ms with prismQ := [(0, [0x210000])] }, 0, 0, 0x210000, [], by decide +kernel, by decide +kernel, by decide +kernel⟩

theorem witness_ServicesAndEngines_20 : ∃ (s : State) (d : Nat) (e : Nat) (r : Refresh) (k : Master), s.refreshes.find? (fun r => r.die == d && r.eng == e) = some r ∧ s.masters.find? (fun k => k.pa == r.pa) = some k ∧ r.snap = none ∧ s.clock d < k.wt :=
  ⟨prismState (testMaster 1 []) (testRefresh none [] 0), 0, 0, testRefresh none [] 0, testMaster 1 [], by decide +kernel, by decide +kernel, rfl, by decide +kernel⟩

def blockWait : State × Option (List Byte) := (prismState (testMaster 0 []) (testRefresh none [] 0)).readBlock (testRefresh none [] 0) (testMaster 0 [])
/-- The same with every line of the block in the L2 of die 0. -/
def prismLines : State :=
  { (prismState (testMaster 0 []) (testRefresh none [] 0)).modRegion 1 (fun r => { r with compute := true }) with
    lines := (List.range 32).map (fun i => { agent := 0, addr := 0x4200 + i, st := .e, data := List.replicate 128 0, ten := 0xFF }) }
def blockRead : State × Option (List Byte) := prismLines.readBlock (testRefresh none [] 0) (testMaster 0 [])
theorem read_one {α β : Type} {x : α × Option β} {d : β} (h : x.2.isSome = true) : x = (x.1, some (x.2.getD d)) := by
  obtain ⟨a, b⟩ := x
  cases b <;> simp_all
theorem read_none {α β : Type} {x : α × Option β} (h : x.2.isNone = true) : x = (x.1, none) := by
  obtain ⟨a, b⟩ := x
  cases b <;> simp_all

theorem witness_ServicesAndEngines_21 : ∃ (s : State) (d : Nat) (e : Nat) (r : Refresh) (k : Master) (t : State), s.refreshes.find? (fun r => r.die == d && r.eng == e) = some r ∧ s.masters.find? (fun k => k.pa == r.pa) = some k ∧ r.snap = none ∧ k.wt ≤ s.clock d ∧ k.deps = [] ∧ s.readBlock r k = (t, none) :=
  ⟨prismState (testMaster 0 []) (testRefresh none [] 0), 0, 0, testRefresh none [] 0, testMaster 0 [], blockWait.1, by decide +kernel, by decide +kernel, rfl, by decide +kernel, rfl, read_none (by decide +kernel)⟩

theorem witness_ServicesAndEngines_22 : ∃ (s : State) (d : Nat) (e : Nat) (r : Refresh) (k : Master) (t : State) (b : List Byte), s.refreshes.find? (fun r => r.die == d && r.eng == e) = some r ∧ s.masters.find? (fun k => k.pa == r.pa) = some k ∧ r.snap = none ∧ k.wt ≤ s.clock d ∧ k.deps = [] ∧ s.readBlock r k = (t, some b) :=
  ⟨prismLines, 0, 0, testRefresh none [] 0, testMaster 0 [], blockRead.1, blockRead.2.getD [], by decide +kernel, by decide +kernel, rfl, by decide +kernel, rfl, read_one (by decide +kernel)⟩

theorem witness_ServicesAndEngines_23 : ∃ (s : State) (d : Nat) (e : Nat) (r : Refresh) (k : Master) (t : Nat) (b : List Byte) (bad : Bool) (v : View) (m : Nat) (l : List (Nat × Nat)), s.refreshes.find? (fun r => r.die == d && r.eng == e) = some r ∧ s.masters.find? (fun k => k.pa == r.pa) = some k ∧ r.snap = some (t, b, bad) ∧ r.left = (v.id, m) :: l ∧ s.views.find? (fun k => k.id == v.id) = some v ∧ r.run = 0 ∧ bad = true :=
  ⟨prismState (testMaster 0 [(1, 0)]) (testRefresh (some (3, [], true)) [(1, 0)] 0), 0, 0, testRefresh (some (3, [], true)) [(1, 0)] 0, testMaster 0 [(1, 0)], 3, [], true, { regView with id := 1, space := 0, pasid := 0 }, 0, [], by decide +kernel, by decide +kernel, rfl, by decide +kernel, by decide +kernel, rfl, rfl⟩

def pv : View := { regView with id := 1, space := 0, pasid := 0 }
def pr : Refresh := testRefresh (some (3, [], false)) [(1, 0)] 1
def pw : Map Nat × State := (okIO ((prismState (testMaster 0 [(1, 0)]) pr).prismWord pr pv (pv.tags + 8 * 0) 8 (.setIn (2 ^ 64 - 1) (2 ^ 63 + 3 % 2 ^ 48)))).getD ([], ms)

theorem witness_ServicesAndEngines_24 : ∃ (s : State) (d : Nat) (e : Nat) (r : Refresh) (k : Master) (t : Nat) (b : List Byte) (bad : Bool) (v : View) (m : Nat) (l : List (Nat × Nat)) (c : MarkCount) (u : State) (vis : Map Nat), s.refreshes.find? (fun r => r.die == d && r.eng == e) = some r ∧ s.masters.find? (fun k => k.pa == r.pa) = some k ∧ r.snap = some (t, b, bad) ∧ r.left = (v.id, m) :: l ∧ s.views.find? (fun k => k.id == v.id) = some v ∧ v.edge = false ∧ (r.run ≠ 0 ∨ (bad = false ∧ s.masterMapped r v m = .ok true s)) ∧ ((v.writes b m).1)[r.run]? = none ∧ (v.writes b m).2 = c ∧ s.allPassed r.vis = true ∧ (s.prismPages r v m (c.sat + c.flush + c.nan != 0)).2 = false ∧ s.prismWord r v (v.tags + 8 * m) 8 (.setIn (2 ^ 64 - 1) (2 ^ 63 + t % 2 ^ 48)) = .ok vis u :=
  ⟨prismState (testMaster 0 [(1, 0)]) pr, 0, 0, pr, testMaster 0 [(1, 0)], 3, [], false, pv, 0, [], _, pw.2, pw.1, by decide +kernel, by decide +kernel, rfl, by decide +kernel, by decide +kernel, by decide +kernel, .inl (by decide), by decide +kernel, rfl, by decide +kernel, by decide +kernel, io_ok (d := ([], ms)) (by decide +kernel)⟩

theorem witness_ServicesAndEngines_25 : ∃ (s : State) (ten : Nat) (slot : Nat) (num : Nat) (n : Node) (u : State), s.node? num = some n ∧ n.st = .held ∧ n.ten = ten ∧ n.owes slot ≠ 0 ∧ s.slotPage ten slot = .ready s ∧ s.slotSt ten slot = 0 ∧ s.startRun ten slot (s.slotField ten slot 0x18 8) false false = .ok () u :=
  ⟨{ lensState 0 0 0 0 with nodes := [lensNode .held []] }, 0, 0, 0, lensNode .held [], ((okIO (State.startRun { lensState 0 0 0 0 with nodes := [lensNode .held []] } 0 0 (State.slotField { lensState 0 0 0 0 with nodes := [lensNode .held []] } 0 0 0x18 8) false false)).getD ((), ms)).2, by decide +kernel, rfl, rfl, by decide +kernel, slot_ready (by decide +kernel), by decide +kernel, io_unit (d := ((), ms)) (by decide +kernel)⟩

theorem witness_ServicesAndEngines_26 : ∃ (s : State) (ten : Nat) (slot : Nat) (num : Nat) (n : Node), s.node? num = some n ∧ n.st = .held ∧ n.ten = ten ∧ n.owes slot ≠ 0 ∧ s.slotPage ten slot = .ready s ∧ (s.slotSt ten slot = 1 ∨ s.slotSt ten slot = 2) :=
  ⟨{ lensState 2 0 0 0 with nodes := [lensNode .held []] }, 0, 0, 0, lensNode .held [], by decide +kernel, rfl, rfl, by decide +kernel, slot_ready (by decide +kernel), .inr (by decide +kernel)⟩

theorem witness_ServicesAndEngines_27 : ∃ (s : State) (ten : Nat) (slot : Nat) (num : Nat) (n : Node), s.node? num = some n ∧ n.st = .held ∧ n.ten = ten ∧ n.owes slot ≠ 0 ∧ s.slotPage ten slot = .ready s ∧ s.slotSt ten slot = 3 :=
  ⟨{ lensState 3 0 0 0 with nodes := [lensNode .held []] }, 0, 0, 0, lensNode .held [], by decide +kernel, rfl, rfl, by decide +kernel, slot_ready (by decide +kernel), by decide +kernel⟩

theorem witness_ServicesAndEngines_28 : ∃ (s : State) (ten : Nat) (slot : Nat) (num : Nat) (n : Node) (u : State), s.node? num = some n ∧ n.st = .running ∧ 2 ≤ n.phase ∧ n.ten = ten ∧ n.lens.contains slot = true ∧ s.slotPage ten slot = .ready s ∧ u = (s.slotPut ten slot 4 4 (s.slotRefs ten slot - 1)).modNode num (fun n => { n with lens := n.lens.erase slot }) ∧ (u.slotSt ten slot ≠ 2 ∨ u.slotRefs ten slot ≠ 0 ∨ bitOf (u.slotField ten slot 1 1) 0 = true) :=
  ⟨{ lensState 2 0 2 0 with nodes := [lensNode .running [0]] }, 0, 0, 0, lensNode .running [0], _, by decide +kernel, rfl, by decide, rfl, by decide +kernel, slot_ready (by decide +kernel), rfl, .inr (.inl (by decide +kernel))⟩

def lensOne : State := { lensState 2 0 1 0 with nodes := [lensNode .running [0]] }
def lensPaid : State := (lensOne.slotPut 0 0 4 4 (lensOne.slotRefs 0 0 - 1)).modNode 0 (fun n => { n with lens := n.lens.erase 0 })

theorem witness_ServicesAndEngines_29 : ∃ (s : State) (ten : Nat) (slot : Nat) (num : Nat) (n : Node) (u : State), s.node? num = some n ∧ n.st = .running ∧ 2 ≤ n.phase ∧ n.ten = ten ∧ n.lens.contains slot = true ∧ s.slotPage ten slot = .ready s ∧ u = (s.slotPut ten slot 4 4 (s.slotRefs ten slot - 1)).modNode num (fun n => { n with lens := n.lens.erase slot }) ∧ u.slotSt ten slot = 2 ∧ u.slotRefs ten slot = 0 ∧ bitOf (u.slotField ten slot 1 1) 0 = false :=
  ⟨lensOne, 0, 0, 0, lensNode .running [0], lensPaid, by decide +kernel, rfl, by decide, rfl, by decide +kernel, slot_ready (by decide +kernel), rfl, by decide +kernel, by decide +kernel, by decide +kernel⟩

theorem witness_ServicesAndEngines_30 : ∃ (s : State) (ten : Nat) (slot : Nat), s.evictions.find? (fun e => e.1 == ten && e.2.1 == slot && decide (e.2.2 < s.cycle)) = none :=
  ⟨lensState 2 0 1 0, 0, 0, by decide +kernel⟩

theorem witness_ServicesAndEngines_31 : ∃ (s : State) (ten : Nat) (slot : Nat) (e : Nat × Nat × Nat), s.evictions.find? (fun e => e.1 == ten && e.2.1 == slot && decide (e.2.2 < s.cycle)) = some e ∧ s.slotPage ten slot = .ready s ∧ (s.slotSt ten slot ≠ 2 ∨ s.slotRefs ten slot ≠ 0) :=
  ⟨{ lensState 2 0 1 0 with evictions := [(0, 0, 4)], cycle := 5 }, 0, 0, (0, 0, 4), by decide +kernel, slot_ready (by decide +kernel), .inr (by decide +kernel)⟩

theorem witness_ServicesAndEngines_32 : ∃ (s : State) (ten : Nat) (slot : Nat) (e : Nat × Nat × Nat) (u : State), s.evictions.find? (fun e => e.1 == ten && e.2.1 == slot && decide (e.2.2 < s.cycle)) = some e ∧ s.slotPage ten slot = .ready s ∧ s.slotSt ten slot = 2 ∧ s.slotRefs ten slot = 0 ∧ bitOf (s.slotField ten slot 1 1) 1 = false ∧ u = s.slotPut ten slot 0 1 0 :=
  ⟨{ lensState 2 0 0 0 with evictions := [(0, 0, 4)], cycle := 5 }, 0, 0, (0, 0, 4), _, by decide +kernel, slot_ready (by decide +kernel), by decide +kernel, by decide +kernel, by decide +kernel, rfl⟩

theorem witness_ServicesAndEngines_33 : ∃ (s : State) (ten : Nat) (slot : Nat) (r : LensRun) (t : State) (fl : Nat), s.lensRun? ten slot = some r ∧ s.slotPage ten slot = .ready s ∧ r.draining = false ∧ s.runOver r = true ∧ t = s.slotPut ten slot 0x30 8 ((s.slotField ten slot 0x30 8 + 1) % 2 ^ 64) ∧ fl = t.slotField ten slot 1 1 :=
  ⟨{ lensState 2 0 0 0 with lensRuns := [lensRun false false true] }, 0, 0, lensRun false false true, _, _, by decide +kernel, slot_ready (by decide +kernel), rfl, by decide +kernel, rfl, rfl⟩

theorem witness_ServicesAndEngines_34 : ∃ (s : State) (ten : Nat) (slot : Nat) (r : LensRun), s.lensRun? ten slot = some r ∧ s.slotPage ten slot = .ready s ∧ r.draining = false ∧ r.failed = true ∧ s.lensCopying r = false ∧ (s.slotField ten slot 0x28 8 = 0 ∨ r.repl = true) :=
  ⟨{ lensState 2 0 0 0 with lensRuns := [lensRun true false false] }, 0, 0, lensRun true false false, by decide +kernel, slot_ready (by decide +kernel), rfl, rfl, by decide +kernel, .inl (by decide +kernel)⟩

theorem witness_ServicesAndEngines_35 : ∃ (s : State) (ten : Nat) (slot : Nat) (r : LensRun), s.lensRun? ten slot = some r ∧ s.slotPage ten slot = .ready s ∧ r.draining = true ∧ s.runOver r = true :=
  ⟨{ lensState 2 0 0 0 with lensRuns := [lensRun false true true] }, 0, 0, lensRun false true true, by decide +kernel, slot_ready (by decide +kernel), rfl, by decide +kernel⟩

/-! ### Ports and upkeep -/

def aFn : Fn := { rid := 1, ten := none, port := 0, link := 0, defPasid := some 0, ats := true, alloc := 1, grants := [(0x201000, 4096)] }
def fnState (f : Fn) (s : State := ms) : State := { s with functions := [f] }
def dma (tr : Bool) (a : Nat) : DmaReq := { rid := 1, port := 0, pasid := none, translated := tr, addr := a, bytes := [1, 2], poisoned := false, selIde := false }
def okDma : DmaAt → Option (Nat × State) | .ok a t => some (a, t) | _ => none
theorem dma_ok {x : DmaAt} {d : Nat × State} (h : (okDma x).isSome = true) : x = .ok ((okDma x).getD d).1 ((okDma x).getD d).2 := by cases x <;> simp_all [okDma]
theorem pair_some {α β : Type} {x : α × Option β} {d : β} (h : x.2.isSome = true) : x = (x.1, some (x.2.getD d)) := by
  rcases x with ⟨a, _ | b⟩ <;> simp_all
theorem pair_eta {α β : Type} (x : α × β) : x = (x.1, x.2) := rfl
theorem pair_none {α β : Type} {x : α × Option β} (h : x.2.isNone = true) : x = (x.1, none) := by rcases x with ⟨a, _ | b⟩ <;> simp_all
/-- The page and the state of a write and of a read of the function at 0x1000. -/
def dmaW : Nat × State := (okDma ((fnState aFn).dmaPage aFn (dma false 0x1FFE) .wr 0x1FFE 2)).getD (0, ms)
def dmaR : Nat × State := (okDma ((fnState aFn).dmaPage aFn (dma true 0x201000) .rd 0x201000 2)).getD (0, ms)
def poisonedMs : State := ms.poisonSectors 0x201000 4
def dmaP : Nat × State := (okDma ((fnState aFn poisonedMs).dmaPage aFn (dma true 0x201000) .rd 0x201000 2)).getD (0, ms)
def epState (win : Nat) : State := { ms with pcfg := [(7, 0x10)], epwin := win }
def shot : Shoot := { pasid := 0, all := true, busy := true }

theorem witness_PortsAndUpkeep_1 : ∃ (s : State) (r : DmaReq) (u : State), s.fn? r.rid = none ∧ u = ({ s with answers := .unsupported r.rid :: s.answers } : State).logRec { unit := 4, code := 0x52, src := 10, aux := r.rid % 2 ^ 16 + 2 ^ 16 * (2 ^ 20 % 2 ^ 32) } :=
  ⟨ms, dma false 0, _, by decide +kernel, rfl⟩

theorem witness_PortsAndUpkeep_2 : ∃ (s : State) (r : DmaReq) (f : Fn) (pa : Nat) (t : State) (u : State) (v : Map Nat), s.fn? r.rid = some f ∧ s.fnCut r.rid = false ∧ (r.translated = true ∨ inArrivalWindow r.addr = false) ∧ s.waiting = [] ∧ s.portOpen r.port = false ∧ r.bytes ≠ [] ∧ r.addr % 4096 + r.bytes.length ≤ 4096 ∧ r.poisoned = false ∧ r.bytes.length ≤ 512 ∧ s.dmaPage f r .wr r.addr r.bytes.length = .ok pa t ∧ s.homeBlocked pa true = false ∧ t.hubPut pa r.bytes = (u, v) :=
  ⟨fnState aFn, dma false 0x1FFE, aFn, dmaW.1, dmaW.2, (dmaW.2.hubPut dmaW.1 (dma false 0x1FFE).bytes).1, (dmaW.2.hubPut dmaW.1 (dma false 0x1FFE).bytes).2, by decide +kernel, by decide +kernel, .inr (by decide +kernel), by decide +kernel, by decide +kernel, by decide +kernel, by decide +kernel, rfl, by decide +kernel, dma_ok (x := (fnState aFn).dmaPage aFn (dma false 0x1FFE) .wr 0x1FFE 2) (d := (0, ms)) (by decide +kernel), by decide +kernel, pair_eta _⟩

theorem witness_PortsAndUpkeep_3 : ∃ (s : State) (r : DmaReq) (f : Fn) (pa : Nat) (t : State) (u : State) (b : List Byte), s.fn? r.rid = some f ∧ s.fnCut r.rid = false ∧ (r.translated = true ∨ inArrivalWindow r.addr = false) ∧ s.waiting = [] ∧ s.portOpen r.port = false ∧ r.bytes ≠ [] ∧ r.addr % 4096 + r.bytes.length ≤ 4096 ∧ r.poisoned = false ∧ s.dmaPage f r .rd r.addr r.bytes.length = .ok pa t ∧ s.homeBlocked pa false = false ∧ t.hubGet pa r.bytes.length = (u, some b) :=
  ⟨fnState aFn, dma true 0x201000, aFn, dmaR.1, dmaR.2, (dmaR.2.hubGet dmaR.1 2).1, (dmaR.2.hubGet dmaR.1 2).2.getD [], by decide +kernel, by decide +kernel, .inl rfl, by decide +kernel, by decide +kernel, by decide +kernel, by decide +kernel, rfl, dma_ok (x := (fnState aFn).dmaPage aFn (dma true 0x201000) .rd 0x201000 2) (d := (0, ms)) (by decide +kernel), by decide +kernel, pair_some (x := dmaR.2.hubGet dmaR.1 2) (d := []) (by decide +kernel)⟩

theorem witness_PortsAndUpkeep_4 : ∃ (s : State) (r : DmaReq) (f : Fn) (pa : Nat) (t : State) (u : State), s.fn? r.rid = some f ∧ s.fnCut r.rid = false ∧ (r.translated = true ∨ inArrivalWindow r.addr = false) ∧ s.waiting = [] ∧ s.portOpen r.port = false ∧ r.bytes ≠ [] ∧ r.addr % 4096 + r.bytes.length ≤ 4096 ∧ r.poisoned = false ∧ s.dmaPage f r .rd r.addr r.bytes.length = .ok pa t ∧ s.homeBlocked pa false = false ∧ t.hubGet pa r.bytes.length = (u, none) :=
  ⟨fnState aFn poisonedMs, dma true 0x201000, aFn, dmaP.1, dmaP.2, (dmaP.2.hubGet dmaP.1 2).1, by decide +kernel, by decide +kernel, .inl rfl, by decide +kernel, by decide +kernel, by decide +kernel, by decide +kernel, rfl, dma_ok (x := (fnState aFn poisonedMs).dmaPage aFn (dma true 0x201000) .rd 0x201000 2) (d := (0, ms)) (by decide +kernel), by decide +kernel, pair_none (x := dmaP.2.hubGet dmaP.1 2) (by decide +kernel)⟩

theorem witness_PortsAndUpkeep_5 : ∃ (pa : Nat), (∃ d, paKind pa = .hbm d) :=
  ⟨0x201000, ⟨0, by decide +kernel⟩⟩

theorem witness_PortsAndUpkeep_6 : ∃ (s : State) (pa : Nat) (n : Nat), (∃ d, paKind pa = .hbm d) ∧ s.poisoned pa n = false :=
  ⟨ms, 0x201000, 4, ⟨0, by decide +kernel⟩, by decide +kernel⟩

theorem witness_PortsAndUpkeep_7 : ∃ (s : State) (pa : Nat) (n : Nat), (∃ d, paKind pa = .hbm d) ∧ s.poisoned pa n = true :=
  ⟨poisonedMs, 0x201000, 4, ⟨0, by decide +kernel⟩, by decide +kernel⟩

theorem witness_PortsAndUpkeep_8 : ∃ (s : State) (f : Fn) (r : DmaReq) (pa : Nat) (n : Nat), r.translated = true ∧ s.translatedOk f pa n = true ∧ (∃ d, paKind (s.forwarded pa) = .hbm d) ∧ s.tdispOk f r (s.forwarded pa) n = true :=
  ⟨fnState aFn, aFn, dma true 0x201000, 0x201000, 2, rfl, by decide +kernel, ⟨0, by decide +kernel⟩, by decide +kernel⟩

theorem witness_PortsAndUpkeep_9 : ∃ (s : State) (rid : Nat) (p : Option Nat) (va : Nat) (f : Fn) (q : Nat) (e : Nat) (at_ : Nat) (pa : Nat) (lv : Nat) (n : Nat), s.fn? rid = some f ∧ s.fnCut rid = false ∧ f.ats = true ∧ s.reqPasid f p = some q ∧ inArrivalWindow va = false ∧ s.walk q va = .leaf e at_ pa lv ∧ n = s.pageSize q va e :=
  ⟨fnState aFn, 1, none, 0x1000, aFn, 0, 2 ^ 63 + 2 ^ 61 + 2 ^ 60 + 0x201700, 0x5008, 0x201000, 0, _, by decide +kernel, by decide +kernel, rfl, rfl, by decide +kernel, by decide +kernel, rfl⟩

theorem witness_PortsAndUpkeep_10 : ∃ (s : State) (rid : Nat) (p : Option Nat) (va : Nat) (f : Fn) (q : Nat), s.fn? rid = some f ∧ s.fnCut rid = false ∧ f.ats = true ∧ s.reqPasid f p = some q ∧ inArrivalWindow va = false ∧ s.walk q va = .missing :=
  ⟨fnState aFn, 1, none, 0x9000, aFn, 0, by decide +kernel, by decide +kernel, rfl, rfl, by decide +kernel, by decide +kernel⟩

theorem witness_PortsAndUpkeep_11 : ∃ (s : State) (rid : Nat) (p : Nat) (f : Fn), s.fn? rid = some f ∧ s.fnCut rid = false ∧ (s.reqPasid f (some p)).isSome = true ∧ (s.epReqs.filter (fun q => q.src == rid)).length < f.alloc ∧ s.epReqs.length < 4096 :=
  ⟨fnState { aFn with ten := some 0 } { ms with pasidTen := [(0, 1)] }, 1, 0, { aFn with ten := some 0 }, by decide +kernel⟩

theorem witness_PortsAndUpkeep_12 : ∃ (s : State) (rid : Nat) (p : Nat) (f : Fn), s.fn? rid = some f ∧ s.fnCut rid = false ∧ (s.reqPasid f (some p)).isSome = true ∧ f.alloc ≤ (s.epReqs.filter (fun q => q.src == rid)).length :=
  ⟨fnState { aFn with ten := some 0 } { ms with pasidTen := [(0, 1)], epReqs := [{ src := 1, pasid := 0, page := 3, kind := 0 }] }, 1, 0, { aFn with ten := some 0 }, by decide +kernel, by decide +kernel, by decide +kernel, by decide +kernel⟩

theorem witness_PortsAndUpkeep_13 : ∃ (s : State) (off : Nat) (b : List Byte), s.endpointMode = true ∧ off + b.length ≤ 2 ^ 30 ∧ bitOf s.epwin 0 = false :=
  ⟨epState 0, 2 ^ 30 - 1, [7], by decide +kernel, by decide, by decide +kernel⟩

theorem witness_PortsAndUpkeep_14 : ∃ (s : State) (off : Nat) (w : Bool) (b : List Byte) (pa : Nat), s.endpointMode = true ∧ off + b.length ≤ 2 ^ 30 ∧ bitOf s.epwin 0 = true ∧ w = true ∧ pa = s.epwin / 2 ^ 30 * 2 ^ 30 + off ∧ s.homeBlocked pa true = false ∧ s.homeBlocked (pa + b.length - 1) true = false :=
  ⟨epState (2 ^ 30 + 1), 2 ^ 30 - 1, true, [7], _, by decide +kernel, by decide, by decide +kernel, rfl, rfl, by decide +kernel, by decide +kernel⟩

theorem witness_PortsAndUpkeep_16 : ∃ (p : Nat), p < 8 :=
  ⟨7, by decide⟩

theorem witness_PortsAndUpkeep_17 : ∃ (o : W32), o.getLsbD 3 = true :=
  ⟨8, by decide⟩

theorem witness_PortsAndUpkeep_18 : ∃ (o : W32), o.getLsbD 3 = false :=
  ⟨7, by decide⟩

theorem witness_PortsAndUpkeep_19 : ∃ (s : State) (p : Nat) (k : Nat) (l : Link), p < 7 ∧ s.links.filter (fun l => l.port == p) = [l] ∧ l.up = true ∧ l.link = k ∧ l.contained = false ∧ k < linksOf (mget 0 s.bifurc p) :=
  ⟨{ ms with links := [{ port := 6, link := 0, up := true, cxl := false }] }, 6, 0, { port := 6, link := 0, up := true, cxl := false }, by decide, by decide +kernel, rfl, rfl, rfl, by decide +kernel⟩

theorem witness_PortsAndUpkeep_21 : ∃ (l : Link) (b : Nat) (z : Nat) (w : Nat) (p : Nat) (ok : Bool), (l.trained (.mem b z w p) ok).up = true :=
  ⟨{ port := 6, link := 0, up := true, cxl := false }, 2 ^ 41, 2 ^ 38, 8, 7, true, by decide⟩

theorem witness_PortsAndUpkeep_15 : ∃ (s : State) (off : Nat) (b : List Byte), s.endpointMode = true ∧ off + b.length ≤ 65536 :=
  ⟨epState 0, 65528, List.replicate 8 0, by decide +kernel, by decide⟩

theorem witness_PortsAndUpkeep_40 : ∃ (n : Nat), n ≤ 8 :=
  ⟨8, by decide⟩

theorem witness_PortsAndUpkeep_41 : ∃ (n : Nat), n < 24 :=
  ⟨23, by decide⟩

theorem witness_PortsAndUpkeep_42 : ∃ (u : Nat), u ≤ 4 :=
  ⟨4, by decide⟩

theorem witness_PortsAndUpkeep_22 : ∃ (core : Nat) (p : Nat) (va : Nat) (k : Nat) (i : Instr), core < 192 ∧ k ≤ 3 ∧ i ∈ [Instr.corePageRequest core p va k, .pageRequestResend core p va k] :=
  ⟨191, 0, 0, 3, .pageRequestResend 191 0 0 3, by decide, by decide, by decide⟩

theorem witness_PortsAndUpkeep_23 : ∃ (s : State) (n : Nat) (q : PageReq), s.coreReqs[n]? = some q ∧ q.ans = none :=
  ⟨{ ms with coreReqs := [{ src := 1, pasid := 0, page := 3, kind := 0 }] }, 0, { src := 1, pasid := 0, page := 3, kind := 0 }, by decide +kernel, rfl⟩

theorem witness_PortsAndUpkeep_24 : ∃ (s : State) (n : Nat) (ok : Bool) (q : PageReq), s.epReqs[n]? = some q ∧ ok = true :=
  ⟨{ ms with epReqs := [{ src := 1, pasid := 0, page := 3, kind := 0 }] }, 0, true, { src := 1, pasid := 0, page := 3, kind := 0 }, by decide +kernel, rfl⟩

theorem witness_PortsAndUpkeep_25 : ∃ (s : State), s.shoot.busy = false :=
  ⟨ms, by decide +kernel⟩

theorem witness_PortsAndUpkeep_27 : ∃ (s : State) (rid : Nat) (f : Fn), s.fn? rid = some f ∧ s.shoot.busy = true ∧ f.atsWait = true ∧ s.shoot.since + 2 ^ 24 ≤ s.cycle :=
  ⟨fnState { aFn with atsWait := true } { ms with shoot := shot, cycle := 2 ^ 24 }, 1, { aFn with atsWait := true }, by decide +kernel, rfl, rfl, by decide +kernel⟩

theorem witness_PortsAndUpkeep_28 : ∃ (s : State) (id : Nat) (c : Copy) (k : Nat) (w : Workgroup) (fspc : Nat) (d : Copy), s.copy? id = some c ∧ c.owner = .wg k 0 ∧ s.wg? k = some w ∧ s.shoot.busy = true ∧ s.shoot.mig = false ∧ s.shoot.since + 4096 ≤ s.cycle ∧ s.chunkOpen (fun k => k.id == id) = false ∧ s.shotPin c = some fspc ∧ d = ({ c with replay := true, abandons := c.abandons + 1, inRow := if c.rep = c.repAt then c.inRow + 1 else 1, repAt := c.rep } : Copy) ∧ d.inRow < 16 :=
  ⟨{ oneCopy (cd 8 0 0x1000 0x1800 16 1 1 0 0 0 0 0).2 with shoot := shot, cycle := 4096 }, 1, (cd 8 0 0x1000 0x1800 16 1 1 0 0 0 0 0).2, 0, wgOf (gPtr 0), 4, _, by decide +kernel, rfl, by decide +kernel, rfl, rfl, by decide +kernel, by decide +kernel, by decide +kernel, rfl, by decide⟩

theorem witness_PortsAndUpkeep_29 : ∃ (s : State), s.shoot.busy = true ∧ s.functions.all (fun f => !f.atsWait) = true ∧ s.storeQ = [] ∧ s.posted = [] ∧ s.devLoads = [] ∧ s.copies = [] :=
  ⟨{ ms with shoot := shot }, rfl, by decide +kernel, rfl, rfl, rfl, rfl⟩

theorem witness_PortsAndUpkeep_30 : ∃ (s : State) (v : W32) (size : Nat) (src : Nat) (dst : Nat) (bad : Nat), s.mig.busy = false ∧ v.getLsbD 31 = true ∧ size = migSize (v.toNat % 4) ∧ src = s.mig.src / size * size ∧ dst = s.mig.dst / size * size ∧ bad = s.migrationBad src dst size (v.toNat % 4) :=
  ⟨ms, 0x80000000, _, _, _, _, by decide +kernel, by decide, rfl, rfl, rfl, rfl⟩

theorem witness_PortsAndUpkeep_31 : ∃ (s : State) (m : Migr) (size : Nat) (u : State), s.mig = m ∧ size = migSize m.msz ∧ m.busy = true ∧ s.rangeQuiet m.src size = true ∧ s.rangeQuiet m.dst size = true ∧ s.poison = [] ∧ s.storeQ = [] ∧ u = (((s.recallRange m.src size).recallRange m.dst size).moveData m.src m.dst size).moveNames m.src m.dst size ∧ u.storeQ = [] :=
  ⟨{ ms with mig := { src := 0x200000, dst := 0x210000, msz := 0, busy := true } }, _, _, _, rfl, rfl, by decide +kernel, by decide +kernel, by decide +kernel, rfl, rfl, rfl, by decide +kernel⟩

theorem witness_PortsAndUpkeep_32 : ∃ (s : State) (i : Nat) (f : Forward), s.forwards[i]? = some f :=
  ⟨{ ms with forwards := [{ src := 0, dst := 4096, size := 4096 }] }, 0, { src := 0, dst := 4096, size := 4096 }, rfl⟩

theorem witness_PortsAndUpkeep_35 : ∃ (s : State) (key : Nat) (w : Workgroup) (i : Nat) (g : Group), s.wg? key = some w ∧ w.groups[i]? = some g :=
  ⟨shown ms (wgOf (gPtr 0)) bootGrid, 0, wgOf (gPtr 0), 0, gPtr 0, by decide +kernel, by decide +kernel⟩

theorem witness_PortsAndUpkeep_36 : ∃ (s : State) (key : Nat) (g : Nat) (pos : Nat) (n : Nat) (x : Ctx) (word : W96), (({ wg := key, grp := g, pos := pos } : Focus).lookup s) = some x ∧ x.sp.phase = .ready ∧ 3 ≤ n ∧ word = BitVec.ofNat 96 (leNat ((s.vread x.gr.pasid (codeAddr x.gr.k.codeBase x.sp.wi) 12).getD [])) :=
  ⟨shown ms (wgOf (gPtr 0)) bootGrid, 0, 0, 0, 3, ctxOf (wgOf (gPtr 0)) (gPtr 0) { sp0 with mask := 1 } bootGrid, _, looks rfl rfl rfl rfl, rfl, by decide, rfl⟩

theorem witness_PortsAndUpkeep_37 : ∃ (u : Nat), u ≤ 4 :=
  ⟨4, by decide⟩

theorem witness_PortsAndUpkeep_38 : ∃ (n : Nat), n < 24 :=
  ⟨23, by decide⟩

theorem witness_PortsAndUpkeep_39 : ∃ (s : State), s.mig.busy = false :=
  ⟨ms, by decide +kernel⟩

/-! ### Trust and the system -/

/-- The firmware's mailbox is ready; tenancy 0 runs in region 0. -/
def trustState : State := { ms with mbox := { status := 1 }, tens := [(0, { st := 2, regions := 1 })], stewards := [(0, { ten := 0 })] }
def cfgState : State := { trustState with tens := [(0, { st := 1 })] }
def hubLine (st : LineSt) : Line := { agent := 4, addr := 0x4020, st := st, data := List.replicate 128 0 }
def dogState (w : Nat) (c : Nat) : State := { ms with watchdogs := [(w, { kicked := 0 })], cycle := c }
def core1 : Subst := { kind := .core, unit := 0, idx := 5 }

theorem witness_TrustAndSystem_0 : ∃ (s : State), s.mbox.status = 0 :=
  ⟨{ ms with mbox := { status := 0 } }, rfl⟩

theorem witness_TrustAndSystem_1 : ∃ (s : State) (f : State → Option State), s.mbox.status ≠ 0 ∧ f s = none :=
  ⟨trustState, (fun _ => none), by decide, rfl⟩

theorem witness_TrustAndSystem_2 : ∃ (s : State) (f : State → Option State) (t : State), s.mbox.status ≠ 0 ∧ f s = some t :=
  ⟨trustState, (fun s => some s), _, by decide, rfl⟩

theorem witness_TrustAndSystem_3 : ∃ (s : State) (n : Nat) (i : Nat) (t : Nat), s.mbox.status ≠ 0 ∧ i < 16 ∧ t = (n + i) % 16 ∧ (s.ten t).st = 0 ∧ (∀ j < i, (s.ten ((n + j) % 16)).st ≠ 0) :=
  ⟨trustState, 0, 1, 1, by decide, by decide, by decide, by decide +kernel, by decide +kernel⟩

theorem witness_TrustAndSystem_4 : ∃ (s : State), s.mbox.status ≠ 0 ∧ (∀ t < 16, (s.ten t).st ≠ 0) :=
  ⟨{ trustState with tens := (List.range 16).map (fun t => (t, { st := 1 })) }, by decide, by decide +kernel⟩

theorem witness_TrustAndSystem_5 : ∃ (s : State) (t : Nat) (b : List Byte), s.mbox.status ≠ 0 ∧ t < 16 ∧ b = s.cohRead s.mbox.arg 256 ∧ ((s.ten t).st = 1 ∨ (s.ten t).st = 2) ∧ entryOk b = true ∧ s.poisoned s.mbox.arg 256 = false :=
  ⟨{ (cfgState.rawWrite 0x201000 (List.replicate 256 0)) with mbox := { status := 1, arg := 0x201000 } }, 0, _, by decide, by decide, rfl, .inl (by decide +kernel), by decide +kernel, by decide +kernel⟩

theorem witness_TrustAndSystem_6 : ∃ (s : State) (t : Nat) (b : List Byte), s.mbox.status ≠ 0 ∧ t < 16 ∧ b = s.cohRead s.mbox.arg 256 ∧ ((s.ten t).st ≠ 1 ∧ (s.ten t).st ≠ 2 ∨ entryOk b = false) :=
  ⟨{ (cfgState.rawWrite 0x201000 [0, 1]) with mbox := { status := 1, arg := 0x201000 } }, 0, _, by decide, by decide, rfl, .inr (by decide +kernel)⟩

theorem witness_TrustAndSystem_7 : ∃ (s : State), (s.mbox.status ≠ 0 ∨ s.mbox.cmd = 3) ∧ s.mapOk = false :=
  ⟨{ trustState with tens := [(0, { st := 2, regions := 1 }), (1, { st := 2, regions := 1 })] }, .inl (by decide), by decide +kernel⟩

/-- Region 1 is staged for tenancy 0; its steward is idle, or is reconfiguring. -/
def movedState (st : Nat) : State := { trustState with staged := [(0, { st := 2, regions := 3 })], stewards := [(0, { ten := 0 }), (1, { sstat := st })] }

theorem witness_TrustAndSystem_8 : ∃ (s : State), (s.mbox.status ≠ 0 ∨ s.mbox.cmd = 3) ∧ s.mapOk = true ∧ (∀ w ∈ s.wgs, w.phase = .saved ∨ w.region ∉ s.movedRegions) ∧ s.newMode = s.l2mode ∧ (∀ n ∈ s.movedRegions, (s.steward n).sstat ≠ 0) :=
  ⟨movedState 1, .inl (by decide), by decide +kernel, by decide +kernel, by decide +kernel, by decide +kernel⟩

theorem witness_TrustAndSystem_9 : ∃ (s : State) (n : Nat), (s.mbox.status ≠ 0 ∨ s.mbox.cmd = 3) ∧ s.mapOk = true ∧ (∀ w ∈ s.wgs, w.phase = .saved ∨ w.region ∉ s.movedRegions) ∧ s.newMode = s.l2mode ∧ s.movedRegions = [n] ∧ (s.steward n).sstat = 0 :=
  ⟨movedState 0, 1, .inl (by decide), by decide +kernel⟩

theorem witness_TrustAndSystem_10 : ∃ (s : State) (w : Workgroup), s.mbox.status ≠ 0 ∧ s.mapOk = true ∧ s.wgs = [w] ∧ w.phase = .resident ∧ w.region ∈ s.movedRegions :=
  ⟨{ trustState with stewards := [], wgs := [wgOf emptyG] }, wgOf emptyG, by decide, by decide +kernel, rfl, rfl, by decide +kernel⟩

theorem witness_TrustAndSystem_11 : ∃ (s : State) (n : Nat), s.mbox.status ≠ 0 ∧ n < 16 ∧ (s.ten n).st ≠ 0 ∧ (s.ten n).st ≠ 3 :=
  ⟨trustState, 0, by decide, by decide, by decide +kernel, by decide +kernel⟩

theorem witness_TrustAndSystem_13 : ∃ (s : State) (n : Nat) (w : Workgroup), w ∈ (s.terminate n).wgs :=
  ⟨{ trustState with wgs := [{ wgOf emptyG with ten := 1 }] }, 0, { wgOf emptyG with ten := 1 }, by decide +kernel⟩

theorem witness_TrustAndSystem_14 : ∃ (s : State) (n : Nat) (g : Grid), g ∈ (s.terminate n).grids :=
  ⟨{ trustState with grids := [{ bootGrid with ten := 1 }] }, 0, { bootGrid with ten := 1 }, by decide +kernel⟩

theorem witness_TrustAndSystem_15 : ∃ (s : State) (n : Nat) (t : State), s.mbox.status ≠ 0 ∧ n < 16 ∧ (s.ten n).st ≠ 0 ∧ t = (({ s with free := s.free + 4 } : State).hubPut s.mbox.arg (s.report n ((List.range 4).flatMap (fun i => leBytes 8 (Config.freeValue (s.free + i)).toNat)))).1 :=
  ⟨trustState, 0, _, by decide, by decide, by decide +kernel, rfl⟩

theorem witness_TrustAndSystem_16 : ∃ (s : State) (k : Nat) (svn : Nat) (ok : Bool) (f : FwSlot), s.mbox.status ≠ 0 ∧ k < 8 ∧ f = mget {} s.fw k ∧ ok = true ∧ f.minSvn ≤ svn :=
  ⟨trustState, 7, 0, true, {}, by decide, by decide, by decide +kernel, rfl, by decide⟩

theorem witness_TrustAndSystem_17 : ∃ (s : State) (k : Nat) (svn : Nat) (ok : Bool) (f : FwSlot), s.mbox.status ≠ 0 ∧ k < 8 ∧ f = mget {} s.fw k ∧ (ok = false ∨ svn < f.minSvn) :=
  ⟨{ trustState with fw := [(7, { minSvn := 3 })] }, 7, 2, true, { minSvn := 3 }, by decide, by decide, by decide +kernel, .inr (by decide)⟩

theorem witness_TrustAndSystem_18 : ∃ (s : State) (rid : Nat) (p : Nat) (t : Nat) (run : Bool) (f : Fn) (b : Mbox) (fs : List Fn), s.mbox.status ≠ 0 ∧ f ∈ s.functions ∧ f.rid = rid ∧ f.port = p ∧ f.ten = some t ∧ b = { s.mbox with cmd := 7, status := 1 } ∧ fs = s.functions.map (fun f => if f.rid = rid then { f with tdisp := if run then 2 else 1 } else f) ∧ s.ide.contains (p, some rid) = true :=
  ⟨{ trustState with functions := [{ rid := 1, ten := some 0, port := 0, link := 0 }], ide := [(0, some 1)] }, 1, 0, 0, true, { rid := 1, ten := some 0, port := 0, link := 0 }, _, _, by decide, by decide +kernel, rfl, rfl, rfl, rfl, rfl, by decide +kernel⟩

theorem witness_TrustAndSystem_19 : ∃ (s : State) (rid : Nat) (p : Nat) (t : Nat) (run : Bool) (f : Fn) (b : Mbox) (fs : List Fn), s.mbox.status ≠ 0 ∧ f ∈ s.functions ∧ f.rid = rid ∧ f.port = p ∧ f.ten = some t ∧ b = { s.mbox with cmd := 7, status := 1 } ∧ fs = s.functions.map (fun f => if f.rid = rid then { f with tdisp := if run then 2 else 1 } else f) ∧ s.ide.contains (p, some rid) = false ∧ (s.ide.filter (fun e => e.1 == p && e.2.isSome)).length < 8 :=
  ⟨{ trustState with functions := [{ rid := 1, ten := some 0, port := 0, link := 0 }], ide := [(0, some 2), (1, some 1)] }, 1, 0, 0, true, { rid := 1, ten := some 0, port := 0, link := 0 }, _, _, by decide, by decide +kernel, rfl, rfl, rfl, rfl, rfl, by decide +kernel, by decide +kernel⟩

theorem witness_TrustAndSystem_20 : ∃ (s : State) (rid : Nat) (p : Nat) (t : Nat) (run : Bool) (f : Fn) (b : Mbox) (fs : List Fn), s.mbox.status ≠ 0 ∧ f ∈ s.functions ∧ f.rid = rid ∧ f.port = p ∧ f.ten = some t ∧ b = { s.mbox with cmd := 7, status := 1 } ∧ fs = s.functions.map (fun f => if f.rid = rid then { f with tdisp := if run then 2 else 1 } else f) ∧ s.ide.contains (p, some rid) = false ∧ 8 ≤ (s.ide.filter (fun e => e.1 == p && e.2.isSome)).length :=
  ⟨{ trustState with functions := [{ rid := 1, ten := some 0, port := 0, link := 0 }], ide := (List.range 8).map (fun i => (0, some (i + 2))) }, 1, 0, 0, true, { rid := 1, ten := some 0, port := 0, link := 0 }, _, _, by decide, by decide +kernel, rfl, rfl, rfl, rfl, rfl, by decide +kernel, by decide +kernel⟩

theorem witness_TrustAndSystem_21 : ∃ (s : State) (p : Nat), s.mbox.status ≠ 0 ∧ p < 8 :=
  ⟨trustState, 7, by decide, by decide⟩

theorem witness_TrustAndSystem_24 : ∃ (s : State) (k : Nat) (img : List Byte) (v : Nat) (svn : Nat) (ok : Bool) (f : FwSlot) (u : State), k < 8 ∧ f = mget {} s.fw k ∧ ok = true ∧ f.minSvn ≤ svn ∧ u = { s with recMbox := [5, 1, img.length], recImage := img, fw := mset {} s.fw k { f with ver := v, svn := svn, image := img, sigOk := true } } ∧ s.bootFail = none :=
  ⟨trustState, 7, [1], 5, 0, true, {}, _, by decide, by decide +kernel, rfl, by decide, rfl, rfl⟩

theorem witness_TrustAndSystem_25 : ∃ (s : State) (k : Nat) (img : List Byte) (v : Nat) (svn : Nat) (ok : Bool) (f : FwSlot) (u : State), k < 8 ∧ f = mget {} s.fw k ∧ ok = true ∧ f.minSvn ≤ svn ∧ u = { s with recMbox := [5, 1, img.length], recImage := img, fw := mset {} s.fw k { f with ver := v, svn := svn, image := img, sigOk := true } } ∧ s.bootFail = some 2 ∧ k = 2 :=
  ⟨{ trustState with bootFail := some 2 }, 2, [1], 5, 0, true, {}, _, by decide, by decide +kernel, rfl, by decide, rfl, rfl, rfl⟩

theorem witness_TrustAndSystem_26 : ∃ (s : State) (k : Nat) (svn : Nat) (ok : Bool) (f : FwSlot), k < 8 ∧ f = mget {} s.fw k ∧ (ok = false ∨ svn < f.minSvn) :=
  ⟨trustState, 7, 0, false, {}, by decide, by decide +kernel, .inl rfl⟩

theorem witness_TrustAndSystem_27 : ∃ (s : State) (n : Nat), n ≤ 1151 ∧ s.effUp = [] :=
  ⟨ms, 1151, by decide, rfl⟩

theorem witness_TrustAndSystem_28 : ∃ (v : W64), v.toNat < 2 ^ 40 :=
  ⟨0xFFFFFFFFFF, by decide⟩

theorem witness_TrustAndSystem_29 : ∃ (s : State) (p : Nat), 0x10 ≤ p ∧ p ≤ 0x21 ∧ s.devnumSet = true :=
  ⟨{ ms with devnumSet := true }, 0x21, by decide, by decide, rfl⟩

theorem witness_TrustAndSystem_31 : ∃ (s : State) (w : Nat) (d : Watchdog) (s1 : State), (w < 4 ∨ (8 ≤ w ∧ w < 32)) ∧ d = s.watchdog w ∧ s1 = s.modWatchdog w (fun d => { d with kicked := s.cycle, wmax := d.nextMax, wmin := d.nextMin }) ∧ d.wmin < d.wmax ∧ d.kicked + 1024 * d.wmin ≤ s.cycle :=
  ⟨dogState 31 16384, 31, _, _, .inr (by decide), rfl, rfl, by decide +kernel, by decide +kernel⟩

theorem witness_TrustAndSystem_32 : ∃ (s : State) (w : Nat) (d : Watchdog) (s1 : State), (w < 4 ∨ (8 ≤ w ∧ w < 32)) ∧ d = s.watchdog w ∧ s1 = s.modWatchdog w (fun d => { d with kicked := s.cycle, wmax := d.nextMax, wmin := d.nextMin }) ∧ d.wmin < d.wmax ∧ s.cycle < d.kicked + 1024 * d.wmin :=
  ⟨dogState 31 16383, 31, _, _, .inr (by decide), rfl, rfl, by decide +kernel, by decide +kernel⟩

theorem witness_TrustAndSystem_33 : ∃ (s : State) (w : Nat) (e : Bool), w < 4 ∧ (s.qfeCore w).stopped = false ∧ (s.qfeCore w).restart = none ∧ e = true :=
  ⟨ms, 3, true, by decide, by decide +kernel, by decide +kernel, rfl⟩

theorem witness_TrustAndSystem_34 : ∃ (s : State) (w : Nat) (e : Bool), w < 4 ∧ (s.qfeCore w).stopped = false ∧ (s.qfeCore w).restart = none ∧ e = false :=
  ⟨ms, 3, false, by decide, by decide +kernel, by decide +kernel, rfl⟩

theorem witness_TrustAndSystem_35 : ∃ (s : State) (w : Nat) (t : Nat), w < 4 ∧ (s.qfeCore w).stopped = false ∧ (s.qfeCore w).restart = some t ∧ t ≤ s.cycle ∧ (s.qfeCore w).slots = [] ∧ (∀ i < 64, (s.queue (64 * w + i)).st ≠ 1) :=
  ⟨{ ms with qfe := [(3, { restart := some 0 })] }, 3, 0, by decide, by decide +kernel⟩

theorem witness_TrustAndSystem_36 : ∃ (s : State) (n : Nat), n < 24 ∧ (s.steward n).sstat ≠ 3 ∧ (s.steward n).downUntil = none :=
  ⟨ms, 23, by decide, by decide +kernel, by decide +kernel⟩

theorem witness_TrustAndSystem_37 : ∃ (s : State) (n : Nat) (t : Nat), n < 24 ∧ (s.steward n).sstat ≠ 3 ∧ (s.steward n).downUntil = some t ∧ t ≤ s.cycle :=
  ⟨{ ms with stewards := [(23, { downUntil := some 0 })] }, 23, 0, by decide, by decide +kernel, by decide +kernel, by decide +kernel⟩

theorem witness_TrustAndSystem_38 : ∃ (s : State) (w : Nat) (times : List Nat), w < 4 ∧ times = s.lately (s.qfeCore w).times ∧ times.length < 8 :=
  ⟨ms, 3, _, by decide, rfl, by decide +kernel⟩

theorem witness_TrustAndSystem_39 : ∃ (s : State) (w : Nat) (times : List Nat), w < 4 ∧ times = s.lately (s.qfeCore w).times ∧ 8 ≤ times.length ∧ (∀ i < 64, (s.queue (64 * w + i)).st ≠ 1) :=
  ⟨{ ms with qfe := [(3, { times := List.replicate 7 0 })] }, 3, _, by decide, rfl, by decide +kernel, by decide +kernel⟩

theorem witness_TrustAndSystem_40 : ∃ (s : State) (n : Nat) (times : List Nat), n < 24 ∧ times = s.lately (s.steward n).restarts ∧ times.length < 3 :=
  ⟨{ ms with stewards := [(23, { restarts := [0] })] }, 23, _, by decide, rfl, by decide +kernel⟩

theorem witness_TrustAndSystem_42 : ∃ (s : State) (p : Nat) (d : DevLoad), d ∈ s.devLoads ∧ d.port = p ∧ d.ans = none ∧ d.since + 2 ^ 26 ≤ s.cycle :=
  ⟨{ ms with devLoads := [{ id := 1, wg := 0, grp := 0, lane := 0, wi := 0, port := 2, pa := 0, n := 4 }], cycle := 2 ^ 26 }, 2, { id := 1, wg := 0, grp := 0, lane := 0, wi := 0, port := 2, pa := 0, n := 4 }, by decide +kernel, rfl, rfl, by decide⟩

theorem witness_TrustAndSystem_44 : ∃ (s : State) (pa : Nat) (l : Line), s.line? 4 (pa / 128) = some l ∧ s.restarting = false ∧ l.st = .s :=
  ⟨{ ms with lines := [hubLine .s] }, 0x201000, hubLine .s, by decide +kernel, rfl, rfl⟩

theorem witness_TrustAndSystem_45 : ∃ (s : State) (pa : Nat) (l : Line) (h : Home) (u : State) (t : Nat), s.line? 4 (pa / 128) = some l ∧ s.restarting = false ∧ (l.st = .m ∨ l.st = .o) ∧ h = s.home (pa / 128) ∧ u = (s.removeOwner 4 (pa / 128)).setHome { h with owner := none, st := if h.sharers = [] then .i else .s } ∧ s.carveOwner pa = some t :=
  ⟨{ trustState with lines := [hubLine .m], tens := [(0, { st := 2, carve := [(0x200000, 0x200000)] })] }, 0x201000, hubLine .m, _, _, 0, by decide +kernel, rfl, .inl rfl, rfl, rfl, by decide +kernel⟩

theorem witness_TrustAndSystem_46 : ∃ (s : State) (pa : Nat) (l : Line) (h : Home) (u : State) (r : State) (f : State), s.line? 4 (pa / 128) = some l ∧ s.restarting = false ∧ (l.st = .m ∨ l.st = .o) ∧ h = s.home (pa / 128) ∧ u = (s.removeOwner 4 (pa / 128)).setHome { h with owner := none, st := if h.sharers = [] then .i else .s } ∧ s.carveOwner pa = none ∧ r = u.logRec { unit := 4, code := 0x57, sev := 2, src := 12, pa := pa, aux := 1 } ∧ f = { r with restarting := true, tens := r.tens.map (fun e => if e.2.st = 2 then (e.1, { e.2 with st := 3 }) else e) } ∧ (∀ w ∈ f.wgs, w.phase = .saved) :=
  ⟨{ trustState with lines := [hubLine .o] }, 0x201000, hubLine .o, _, _, _, _, by decide +kernel, rfl, .inr rfl, rfl, rfl, by decide +kernel, rfl, rfl, by decide +kernel⟩

theorem witness_TrustAndSystem_47 : ∃ (s : State) (pa : Nat) (l : Line) (h : Home) (u : State) (r : State) (f : State) (w : Workgroup), s.line? 4 (pa / 128) = some l ∧ s.restarting = false ∧ (l.st = .m ∨ l.st = .o) ∧ h = s.home (pa / 128) ∧ u = (s.removeOwner 4 (pa / 128)).setHome { h with owner := none, st := if h.sharers = [] then .i else .s } ∧ s.carveOwner pa = none ∧ r = u.logRec { unit := 4, code := 0x57, sev := 2, src := 12, pa := pa, aux := 1 } ∧ f = { r with restarting := true, tens := r.tens.map (fun e => if e.2.st = 2 then (e.1, { e.2 with st := 3 }) else e) } ∧ f.wgs = [w] ∧ w.phase = .resident ∧ (f.ten w.ten).st = 3 :=
  ⟨{ trustState with lines := [hubLine .o], wgs := [wgOf emptyG] }, 0x201000, hubLine .o, _, _, _, _, wgOf emptyG, by decide +kernel, rfl, .inr rfl, rfl, rfl, by decide +kernel, rfl, rfl, by decide +kernel, rfl, by decide +kernel⟩

theorem witness_TrustAndSystem_48 : ∃ (p : Nat), 0x10 ≤ p ∧ p ≤ 0x21 :=
  ⟨0x21, by decide, by decide⟩

theorem witness_TrustAndSystem_49 : ∃ (s : State) (p : Nat) (u : State), u = ({ s with effUp := s.effUp.filter (· != p) } : State) ∧ (∀ r ∈ s.routes, p ∉ r.2) :=
  ⟨ms, 0x10, _, rfl, by decide +kernel⟩

theorem witness_TrustAndSystem_50 : ∃ (s : State) (p : Nat) (u : State) (d : Nat) (ports : List Nat), u = ({ s with effUp := s.effUp.filter (· != p) } : State) ∧ s.routes = [(d, ports)] ∧ p ∈ ports :=
  ⟨{ ms with routes := [(7, [0x10])] }, 0x10, _, 7, [0x10], rfl, rfl, by decide⟩

theorem witness_TrustAndSystem_52 : ∃ (s : State) (d : Nat) (m : Nat), d < 4 ∧ m ≤ 2 ∧ (∀ w ∈ s.wgs, w.phase = .saved ∨ ∀ c ∈ w.cores, dieOfCore c ≠ d) :=
  ⟨ms, 3, 2, by decide, by decide, by decide +kernel⟩

theorem witness_TrustAndSystem_53 : ∃ (s : State) (d : Nat) (a : Arbiter) (s1 : State), a = s.arbiter d ∧ s1 = s.modArbiter d (fun a => { a with seq := a.seq + 1 }) ∧ a.mode = 0 :=
  ⟨ms, 0, _, _, rfl, rfl, by decide +kernel⟩

theorem witness_TrustAndSystem_54 : ∃ (s : State) (d : Nat) (kind : Nat) (src : Nat) (tgt : Nat) (a : Arbiter) (s1 : State) (u : State), a = s.arbiter d ∧ s1 = s.modArbiter d (fun a => { a with seq := a.seq + 1 }) ∧ a.mode = 1 ∧ 16 * (a.seq + 1) ≤ a.size ∧ u = s.hubWrite (a.base + 16 * a.seq) (leBytes 1 kind ++ leBytes 3 0 ++ leBytes 4 src ++ leBytes 8 tgt) :=
  ⟨{ ms with arbiters := [(0, { mode := 1, base := 0x201000, size := 32, seq := 1 })] }, 0, 1, 2, 3, _, _, _, rfl, rfl, by decide +kernel, by decide +kernel, rfl⟩

theorem witness_TrustAndSystem_55 : ∃ (s : State) (d : Nat) (a : Arbiter) (s1 : State), a = s.arbiter d ∧ s1 = s.modArbiter d (fun a => { a with seq := a.seq + 1 }) ∧ a.mode = 1 ∧ a.size < 16 * (a.seq + 1) :=
  ⟨{ ms with arbiters := [(0, { mode := 1, base := 0x201000, size := 32, seq := 2 })] }, 0, _, _, rfl, rfl, by decide +kernel, by decide +kernel⟩

theorem witness_TrustAndSystem_57 : ∃ (s : State) (d : Nat) (a : Arbiter) (t : Nat), a = s.arbiter d ∧ a.mode = 2 ∧ a.held ≠ [] ∧ a.waitSince = some t ∧ t + 2 ^ 24 ≤ s.cycle :=
  ⟨{  ms with arbiters := [(0, { mode := 2, held := [(0, 0, 0, .planeLoadComplete 0 0)], waitSince := some 0 })] , cycle := 2 ^ 24 }, 0, { mode := 2, held := [(0, 0, 0, .planeLoadComplete 0 0)], waitSince := some 0 }, 0, by decide +kernel, rfl, by decide, rfl, by decide⟩

theorem witness_TrustAndSystem_58 : ∃ (s : State) (d : Nat) (a : Arbiter) (t : Nat), a = s.arbiter d ∧ a.mode = 2 ∧ a.held ≠ [] ∧ a.waitSince = some t ∧ s.cycle < t + 2 ^ 24 :=
  ⟨{  ms with arbiters := [(0, { mode := 2, held := [(0, 0, 0, .planeLoadComplete 0 0)], waitSince := some 0 })] , cycle := 2 ^ 24 - 1 }, 0, { mode := 2, held := [(0, 0, 0, .planeLoadComplete 0 0)], waitSince := some 0 }, 0, by decide +kernel, rfl, by decide, rfl, by decide⟩

theorem witness_TrustAndSystem_59 : ∃ (s : State) (k : SpareKind) (u : Nat) (i : Nat) (x : Subst), x = ({ kind := k, unit := u, idx := i } : Subst) ∧ x ∉ s.worn ∧ x.real = false :=
  ⟨ms, .core, 0, 200, { kind := .core, unit := 0, idx := 200 }, rfl, by decide +kernel, by decide +kernel⟩

theorem witness_TrustAndSystem_60 : ∃ (s : State) (k : SpareKind) (u : Nat) (i : Nat) (x : Subst), x = ({ kind := k, unit := u, idx := i } : Subst) ∧ x ∉ s.worn ∧ x.real = true ∧ s.spareLeft x = true :=
  ⟨ms, .core, 0, 5, core1, rfl, by decide +kernel, by decide +kernel, by decide +kernel⟩

theorem witness_TrustAndSystem_61 : ∃ (s : State) (k : SpareKind) (u : Nat) (i : Nat) (x : Subst), x = ({ kind := k, unit := u, idx := i } : Subst) ∧ x ∉ s.worn ∧ x.real = true ∧ s.spareLeft x = false ∧ x ∉ s.wornOut :=
  ⟨{ ms with worn := (List.range 4).map (fun i => { kind := .core, unit := 0, idx := i }) }, .core, 0, 5, core1, rfl, by decide +kernel, by decide +kernel, by decide +kernel, by decide +kernel⟩

theorem witness_TrustAndSystem_62 : ∃ (s : State) (k : SpareKind) (u : Nat) (i : Nat) (x : Subst) (t : State), x = ({ kind := k, unit := u, idx := i } : Subst) ∧ x ∈ s.worn ∧ x.real = true ∧ t = (({ s with worn := s.worn.erase x, substs := s.substs ++ [x] } : State).logRec { unit := 4, code := 0x5A, sev := 1, src := 12, aux := kindNo k + 256 * (i % 2 ^ 16) }) ∧ k ∈ [SpareKind.row, .channel] :=
  ⟨{ ms with worn := [{ kind := .row, unit := 0, idx := 5 }] }, .row, 0, 5, { kind := .row, unit := 0, idx := 5 }, _, rfl, by decide +kernel, by decide +kernel, rfl, by decide⟩

theorem witness_TrustAndSystem_63 : ∃ (s : State) (k : SpareKind) (u : Nat) (i : Nat) (x : Subst) (t : State), x = ({ kind := k, unit := u, idx := i } : Subst) ∧ x ∈ s.worn ∧ x.real = true ∧ t = (({ s with worn := s.worn.erase x, substs := s.substs ++ [x] } : State).logRec { unit := 4, code := 0x5A, sev := 1, src := 12, aux := kindNo k + 256 * (i % 2 ^ 16) }) ∧ k = .hart :=
  ⟨{ ms with worn := [{ kind := .hart, unit := 0, idx := 5 }] }, .hart, 0, 5, { kind := .hart, unit := 0, idx := 5 }, _, rfl, by decide +kernel, by decide +kernel, rfl, rfl⟩

theorem witness_TrustAndSystem_64 : ∃ (s : State) (k : SpareKind) (u : Nat) (i : Nat) (x : Subst) (t : State), x = ({ kind := k, unit := u, idx := i } : Subst) ∧ x ∈ s.worn ∧ x.real = true ∧ t = (({ s with worn := s.worn.erase x, substs := s.substs ++ [x] } : State).logRec { unit := 4, code := 0x5A, sev := 1, src := 12, aux := kindNo k + 256 * (i % 2 ^ 16) }) ∧ k = .core ∧ (∀ w ∈ s.wgs, w.phase = .saved ∨ i ∉ w.cores) :=
  ⟨{ ms with worn := [{ kind := .core, unit := 0, idx := 5 }] }, .core, 0, 5, { kind := .core, unit := 0, idx := 5 }, _, rfl, by decide +kernel, by decide +kernel, rfl, rfl, by decide +kernel⟩

theorem witness_TrustAndSystem_65 : ∃ (s : State) (k : SpareKind) (u : Nat) (i : Nat) (x : Subst) (t : State), x = ({ kind := k, unit := u, idx := i } : Subst) ∧ x ∈ s.worn ∧ x.real = true ∧ t = (({ s with worn := s.worn.erase x, substs := s.substs ++ [x] } : State).logRec { unit := 4, code := 0x5A, sev := 1, src := 12, aux := kindNo k + 256 * (i % 2 ^ 16) }) ∧ k = .l2way ∧ (∀ l ∈ s.lines, ¬ (l.agent = u ∧ s.sliceOf u l.ten (128 * l.addr) = i)) :=
  ⟨{ ms with worn := [{ kind := .l2way, unit := 0, idx := 5 }] }, .l2way, 0, 5, { kind := .l2way, unit := 0, idx := 5 }, _, rfl, by decide +kernel, by decide +kernel, rfl, rfl, by decide +kernel⟩

theorem witness_TrustAndSystem_66 : ∃ (s : State) (u : Nat) (i : Nat) (x : Subst), x = ({ kind := .lane, unit := u, idx := i } : Subst) ∧ x ∈ s.worn :=
  ⟨{ ms with worn := [{ kind := .lane, unit := 0, idx := 5 }] }, 0, 5, { kind := .lane, unit := 0, idx := 5 }, rfl, by decide +kernel⟩

/-! ### Decoding and the step -/

def okInstr : Except DecodeError Instr → Option Instr | .ok i => some i | .error _ => none
theorem instr_ok {x : Except DecodeError Instr} {d : Instr} (h : (okInstr x).isSome = true) : x = .ok ((okInstr x).getD d) := by cases x <;> simp_all [okInstr]
def anExit : Instr := .exit (fl (cm 0 false 0) (v 0) (v 0) (v 0) (v 0) 0)
def decodedExit : Instr := (okInstr (decode 0x308)).getD anExit
theorem decoded_exit : decode 0x308 = .ok decodedExit := instr_ok (by decide +kernel)
/-- The state whose next step fetches a word. -/
def at_ (w : Nat) : State := State.reset.withFetchWord 96 w
/-- The same with every pipe of the sub-core in use, and with another instruction issued by it in this cycle. -/
def busyAt (w : Nat) : State := { at_ w with pipes := [.s, .x, .y, .m, .l].map (fun p => (0, p, 9)) }
def secondAt (w : Nat) : State := { at_ w with picked := [{ sub := 0, foc := { wg := 9, grp := 0, pos := 0 } }] }
def issueAt (s : State) : State := s.beginIssue { wg := 0, grp := 0, pos := 0 }
def bootSplit : Split := { wi := 0, mask := BitVec.allOnes 32, mAt := some 0 }
def bootGroup : Group := { grpid := 0, core := 0, sub := 0, slot := 0, created := BitVec.allOnes 32, helper := 0, started := true, table := [some bootSplit, none, none, none, none, none, none, none] }
def atCtx : Ctx := { foc := { wg := 0, grp := 0, pos := 0 }, wg := bootWg, g := bootGroup, sp := bootSplit, gr := bootGrid }
def atBlock (s : State) : State × Option (List Byte) := ((issueAt s).markPte 0x5000 false).codeBlock 0 0 bootSplit 0x200000
def atBytes (s : State) : List Byte := (atBlock s).2.getD []
def atWord (s : State) : List Byte := ((atBytes s).drop 0).take 12
def atPick (s : State) : Pairing := (atBlock s).1.pairing (atCtx.pickOf (wordCommon (BitVec.ofNat 96 (leNat (atWord s)))) decodedExit)
def goes : Pairing → Option (List Pick) | .issues p => some p | _ => none
theorem goes_some {x : Pairing} {d : List Pick} (h : (goes x).isSome = true) : x = .issues ((goes x).getD d) := by cases x <;> simp_all [goes]
theorem is_busy {x : Pairing} (h : (match x with | .busy => true | _ => false) = true) : x = .busy := by cases x <;> simp_all
theorem is_alone {x : Pairing} (h : (match x with | .alone => true | _ => false) = true) : x = .alone := by cases x <;> simp_all
theorem run_word {b : List Byte} {i : Instr} (h : (match decodeBytes b with | .ok (j, []) => decide (j = i) | _ => false) = true) : decodeBytes b = .ok (i, []) := by
  split at h <;> simp_all
theorem bad_word {b : List Byte} (h : (match decodeBytes b with | .error .reserved => true | _ => false) = true) : decodeBytes b = .error .reserved := by
  split at h <;> simp_all

theorem witness_DecodeWords_1 : ∃ (c : Common) (v : BitVec 8 → Opnd), c = ({ mod := 0, j := false, u := false, pneg := false, prd := 0 } : Common) ∧ v = (fun n => (Opnd.reg .v 0 n : Opnd)) :=
  ⟨_, _, rfl, rfl⟩

theorem witness_DecodeWords_2 : ∃ (i : Instr), decode 0x308 = .ok i :=
  ⟨decodedExit, decoded_exit⟩

theorem witness_RoundTrip_0 : ∃ (i : Instr), i.raw ≠ none ∧ i.illegal Alloc.max = none :=
  ⟨anExit, by decide +kernel, by decide +kernel⟩

theorem witness_RoundTrip_1 : ∃ (w : W96), opMap (w.toNat % 1024) = none :=
  ⟨0x3FF, by decide +kernel⟩

theorem witness_RoundTrip_2 : ∃ (w : W96) (i : Instr), decode w = .ok i :=
  ⟨0x308, decodedExit, decoded_exit⟩

theorem witness_RoundTrip_3 : ∃ (i : Instr), i.raw = none ∧ (∀ w, i ≠ .unassignedOpcode w) :=
  ⟨.planeLoadComplete 0 0, by decide +kernel, fun w h => nomatch h⟩

theorem witness_StepRunsDecoded_0 : ∃ (s : State) (i : Instr) (rest : List Instr), s.agenda = i :: rest :=
  ⟨{ State.reset with agenda := [(.planeLoadComplete 0 0)] }, (.planeLoadComplete 0 0), [], rfl⟩

theorem witness_StepRunsDecoded_1 : ∃ (s : State) (i : Instr), s.agenda = [] ∧ s.due = some i :=
  ⟨coh (hm .i none []) (mg .gets 0) [ln 0 .isD], ((coh (hm .i none []) (mg .gets 0) [ln 0 .isD]).due).getD (.planeLoadComplete 0 0), rfl, some_get (by decide +kernel)⟩

theorem witness_StepRunsDecoded_2 : ∃ (s : State) (i : Instr), s.agenda = [] ∧ s.due = none ∧ s.pick = none ∧ s.dueLate = some i :=
  ⟨placeState, ((placeState.dueLate).getD (.planeLoadComplete 0 0)), by decide +kernel, by decide +kernel, by decide +kernel, some_get (by decide +kernel)⟩

theorem witness_StepRunsDecoded_3 : ∃ (s : State), s.agenda = [] ∧ s.due = none ∧ s.pick = none ∧ s.dueLate = none :=
  ⟨State.reset, by decide +kernel, by decide +kernel, by decide +kernel, by decide +kernel⟩

theorem witness_StepRunsDecoded_4 : ∃ (s : State) (f : Focus) (x : Ctx) (t : State) (va : Nat) (pa : Nat) (at_ : Nat) (k : Nat) (u : State) (bytes : List Byte) (word : List Byte) (bits : W96) (i : Instr) (ps : List Pick), s.agenda = [] ∧ s.due = none ∧ s.pick = some f ∧ f.lookup s = some x ∧ t = s.beginIssue f ∧ va = codeAddr x.gr.k.codeBase x.sp.wi ∧ t.demand x.g.core x.gr.pasid va .exec = .ok pa at_ k ∧ (t.place pa k = .line ∨ t.place pa k = .own) ∧ (t.markPte at_ false).poisoned (pa / 128 * 128) 128 = false ∧ (t.markPte at_ false).codeBlock x.g.core x.wg.ten x.sp pa = (u, some bytes) ∧ word = (bytes.drop (12 * (x.sp.wi.toNat % 10))).take 12 ∧ bits = BitVec.ofNat 96 (leNat word) ∧ bytes.drop 120 = List.replicate 8 0 ∧ word.length = 12 ∧ decodeBytes word = .ok (i, []) ∧ u.pairing (x.pickOf (wordCommon bits) i) = .issues ps :=
  ⟨at_ 0x308, { wg := 0, grp := 0, pos := 0 }, atCtx, issueAt (at_ 0x308), _, 0x200000, 0x5000, 0, (atBlock (at_ 0x308)).1, atBytes (at_ 0x308), atWord (at_ 0x308), BitVec.ofNat 96 (leNat (atWord (at_ 0x308))), decodedExit, (goes (atPick (at_ 0x308))).getD [], by decide +kernel, by decide +kernel, by decide +kernel, looks rfl rfl rfl rfl, rfl, rfl, dem_ok (by decide +kernel), by decide +kernel, by decide +kernel, read_one (x := atBlock (at_ 0x308)) (d := []) (by decide +kernel), by decide +kernel, rfl, by decide +kernel, by decide +kernel, run_word (by decide +kernel), goes_some (x := atPick (at_ 0x308)) (d := []) (by decide +kernel)⟩

theorem witness_StepRunsDecoded_5 : ∃ (s : State) (f : Focus) (x : Ctx) (t : State) (va : Nat) (pa : Nat) (at_ : Nat) (k : Nat) (u : State) (bytes : List Byte) (word : List Byte) (bits : W96) (i : Instr), s.agenda = [] ∧ s.due = none ∧ s.pick = some f ∧ f.lookup s = some x ∧ t = s.beginIssue f ∧ va = codeAddr x.gr.k.codeBase x.sp.wi ∧ t.demand x.g.core x.gr.pasid va .exec = .ok pa at_ k ∧ (t.place pa k = .line ∨ t.place pa k = .own) ∧ (t.markPte at_ false).poisoned (pa / 128 * 128) 128 = false ∧ (t.markPte at_ false).codeBlock x.g.core x.wg.ten x.sp pa = (u, some bytes) ∧ word = (bytes.drop (12 * (x.sp.wi.toNat % 10))).take 12 ∧ bits = BitVec.ofNat 96 (leNat word) ∧ bytes.drop 120 = List.replicate 8 0 ∧ word.length = 12 ∧ decodeBytes word = .ok (i, []) ∧ u.pairing (x.pickOf (wordCommon bits) i) = .busy :=
  ⟨busyAt 0x308, { wg := 0, grp := 0, pos := 0 }, atCtx, issueAt (busyAt 0x308), _, 0x200000, 0x5000, 0, (atBlock (busyAt 0x308)).1, atBytes (busyAt 0x308), atWord (busyAt 0x308), BitVec.ofNat 96 (leNat (atWord (busyAt 0x308))), decodedExit, by decide +kernel, by decide +kernel, by decide +kernel, looks rfl rfl rfl rfl, rfl, rfl, dem_ok (by decide +kernel), by decide +kernel, by decide +kernel, read_one (x := atBlock (busyAt 0x308)) (d := []) (by decide +kernel), by decide +kernel, rfl, by decide +kernel, by decide +kernel, run_word (by decide +kernel), is_busy (x := atPick (busyAt 0x308)) (by decide +kernel)⟩

theorem witness_StepRunsDecoded_6 : ∃ (s : State) (f : Focus) (x : Ctx) (t : State) (va : Nat) (pa : Nat) (at_ : Nat) (k : Nat) (u : State) (bytes : List Byte) (word : List Byte) (bits : W96) (i : Instr), s.agenda = [] ∧ s.due = none ∧ s.pick = some f ∧ f.lookup s = some x ∧ t = s.beginIssue f ∧ va = codeAddr x.gr.k.codeBase x.sp.wi ∧ t.demand x.g.core x.gr.pasid va .exec = .ok pa at_ k ∧ (t.place pa k = .line ∨ t.place pa k = .own) ∧ (t.markPte at_ false).poisoned (pa / 128 * 128) 128 = false ∧ (t.markPte at_ false).codeBlock x.g.core x.wg.ten x.sp pa = (u, some bytes) ∧ word = (bytes.drop (12 * (x.sp.wi.toNat % 10))).take 12 ∧ bits = BitVec.ofNat 96 (leNat word) ∧ bytes.drop 120 = List.replicate 8 0 ∧ word.length = 12 ∧ decodeBytes word = .ok (i, []) ∧ u.pairing (x.pickOf (wordCommon bits) i) = .alone :=
  ⟨secondAt 0x308, { wg := 0, grp := 0, pos := 0 }, atCtx, issueAt (secondAt 0x308), _, 0x200000, 0x5000, 0, (atBlock (secondAt 0x308)).1, atBytes (secondAt 0x308), atWord (secondAt 0x308), BitVec.ofNat 96 (leNat (atWord (secondAt 0x308))), decodedExit, by decide +kernel, by decide +kernel, by decide +kernel, looks rfl rfl rfl rfl, rfl, rfl, dem_ok (by decide +kernel), by decide +kernel, by decide +kernel, read_one (x := atBlock (secondAt 0x308)) (d := []) (by decide +kernel), by decide +kernel, rfl, by decide +kernel, by decide +kernel, run_word (by decide +kernel), is_alone (x := atPick (secondAt 0x308)) (by decide +kernel)⟩

theorem witness_StepRunsDecoded_7 : ∃ (s : State) (f : Focus) (x : Ctx) (t : State) (va : Nat) (pa : Nat) (at_ : Nat) (k : Nat) (u : State) (bytes : List Byte) (word : List Byte) (bits : W96), s.agenda = [] ∧ s.due = none ∧ s.pick = some f ∧ f.lookup s = some x ∧ t = s.beginIssue f ∧ va = codeAddr x.gr.k.codeBase x.sp.wi ∧ t.demand x.g.core x.gr.pasid va .exec = .ok pa at_ k ∧ (t.place pa k = .line ∨ t.place pa k = .own) ∧ (t.markPte at_ false).poisoned (pa / 128 * 128) 128 = false ∧ (t.markPte at_ false).codeBlock x.g.core x.wg.ten x.sp pa = (u, some bytes) ∧ word = (bytes.drop (12 * (x.sp.wi.toNat % 10))).take 12 ∧ bits = BitVec.ofNat 96 (leNat word) ∧ bytes.drop 120 = List.replicate 8 0 ∧ word.length = 12 ∧ decodeBytes word = .error .reserved :=
  ⟨at_ (0x308 + 0x3FFF * 2 ^ 22), { wg := 0, grp := 0, pos := 0 }, atCtx, issueAt (at_ (0x308 + 0x3FFF * 2 ^ 22)), _, 0x200000, 0x5000, 0, (atBlock (at_ (0x308 + 0x3FFF * 2 ^ 22))).1, atBytes (at_ (0x308 + 0x3FFF * 2 ^ 22)), atWord (at_ (0x308 + 0x3FFF * 2 ^ 22)), BitVec.ofNat 96 (leNat (atWord (at_ (0x308 + 0x3FFF * 2 ^ 22)))), by decide +kernel, by decide +kernel, by decide +kernel, looks rfl rfl rfl rfl, rfl, rfl, dem_ok (by decide +kernel), by decide +kernel, by decide +kernel, read_one (x := atBlock (at_ (0x308 + 0x3FFF * 2 ^ 22))) (d := []) (by decide +kernel), by decide +kernel, rfl, by decide +kernel, by decide +kernel, bad_word (by decide +kernel)⟩

theorem witness_StepRunsDecoded_8 : ∃ (s : State) (p : Pick), s.picked.filter (fun q => q.sub == p.sub) = [] ∧ p.either = false :=
  ⟨State.reset, { sub := 0, foc := { wg := 0, grp := 0, pos := 0 } }, rfl, rfl⟩

theorem witness_StepRunsDecoded_9 : ∃ (base : Nat) (wi : W32), base + wi.toNat / 10 * 128 + 128 ≤ 2 ^ 56 :=
  ⟨2 ^ 56 - 128, 9, by decide⟩

theorem witness_StepRunsDecoded_11 : ∃ (s : State) (u : State) (core : Nat) (ten : Nat) (sp : Split) (pa : Nat) (bytes : List Byte), s.codeBlock core ten sp pa = (u, some bytes) :=
  ⟨issueAt (at_ 0x308), ((issueAt (at_ 0x308)).codeBlock 0 0 bootSplit 0x200000).1, 0, 0, bootSplit, 0x200000, (((issueAt (at_ 0x308)).codeBlock 0 0 bootSplit 0x200000).2.getD []), read_one (by decide +kernel)⟩

theorem witness_StepKeepsInvariant_0 : ∃ (s : State), s.Inv :=
  ⟨State.reset, reset_inv⟩


/-! ### Decoding: words written out from the encodings of the spec -/

/-- The four zero bits J, U, PNEG and the MOD and PRD of a plain word. -/
def c0 : Common := { mod := 0, j := false, u := false, pneg := false, prd := 0 }

/-- The decoder answers an instruction, for a word and for bytes. -/
def reads (w : W96) (i : Instr) : Bool := match decode w with | .ok j => j == i | .error _ => false
def readsBytes (bs : List Byte) (i : Instr) : Bool := match decodeBytes bs with | .ok (j, rest) => j == i && rest == [] | .error _ => false

/-- The first worked encoding of the spec: ffma.f32 v10, v4, -v5, o2 under p3, as fields and as bytes. -/
theorem test_decode_ffma : reads (0x0000C#20 ++ 0x0802#14 ++ 0x0105#14 ++ 0x0004#14 ++ 0x000A#14 ++ 0x0#4 ++ 0b000#3 ++ 0b011#3 ++ 0x083#10) (.ffma { com := { c0 with prd := 3 }, d := v 10, a := v 4, b := .reg .v 1 5, c := o 2, fn := 0, ty2 := 0, ty := tyF32 }) = true ∧
  readsBytes [0x83, 0x0C, 0xA0, 0x00, 0x10, 0x00, 0x05, 0x81, 0x00, 0xC2, 0x00, 0x00] (.ffma { com := { c0 with prd := 3 }, d := v 10, a := v 4, b := .reg .v 1 5, c := o 2, fn := 0, ty2 := 0, ty := tyF32 }) = true := by decide +kernel

/-- The second: ld.b32 v9, [v4 + s2 + 64]; its parcels, the first lowest. -/
theorem test_decode_ld : reads (0x0004_0000#32 ++ 0x9802_0010#32 ++ 0x0090_0180#32)
    (.ld { com := c0, d := v 9, a := v 4, b := sr 2, nt := false, io := false, scope := 0, ord := 0, sph := 0, sgn := false, sz := 2, off := 64 }) = true := by decide +kernel

/-- The third: brp 3 words on under p1. -/
theorem test_decode_brp : reads (0#32 ++ 0xC000_0000#32 ++ 0x0000_0701#32)
    (.brp { com := { c0 with prd := 1 }, d := v 0, a := v 0, b := v 0, kind := 0, off := 3 }) = true := by decide +kernel

/-- The word of all zeros is mov with the type i8, which the part refuses with SUB 4. -/
theorem test_decode_zero_word : (match decode 0 with | .error (.illegal 4) => true | _ => false) = true ∧ (Instr.mov (fl c0 (v 0) (v 0) (v 0) (v 0) tyI8)).illegal Alloc.max = some 4 := by decide +kernel

/-- Class 2: cvt from f32 in v6 to i32 in v5, RTZ in MOD. -/
theorem test_decode_cvt : reads (0x000C2#20 ++ 0#14 ++ 0#14 ++ 0x0006#14 ++ 0x0005#14 ++ 0x1#4 ++ 0b000#3 ++ 0b000#3 ++ 0x100#10) (.cvt (fl (cm 1 false 0) (v 5) (v 6) (v 0) (v 0) tyI32 tyF32)) = true := by decide +kernel

/-- Class 4: binit of barrier 5 from v7; red.add.b32 [v10] with NOIX from v3. -/
theorem test_decode_class4 : reads (0b000000000000101#15 ++ 0b00#2 ++ 0b000#3 ++ 0#14 ++ 0x0007#14 ++ 0#14 ++ 0#14 ++ 0x0#4 ++ 0b000#3 ++ 0b000#3 ++ 0x208#10) (.binit (fe c0 (v 0) (v 0) (v 7) (v 0) 5)) = true ∧
  reads (0x00000#20 ++ 0b00000000000010#14 ++ 0x0003#14 ++ 0x000A#14 ++ 0#14 ++ 0x8#4 ++ 0b000#3 ++ 0b000#3 ++ 0x201#10) (.red (fm (cm 8 false 0) (v 0) (v 10) (v 3) 2)) = true := by decide +kernel

/-- Class 5: mma with its accumulator row in s2 and EIMM 1; vsync of the view in v6 and v7 with EIMM 3. -/
theorem test_decode_class5 : reads (0b000000000000001#15 ++ 0b00#2 ++ 0b000#3 ++ 0#14 ++ 0x0007#14 ++ 0x0006#14 ++ 0x1802#14 ++ 0x2#4 ++ 0b000#3 ++ 0b000#3 ++ 0x282#10) (.mma (fe (cm 2 false 0) (sr 2) (v 6) (v 7) (v 0) 1)) = true ∧
  reads (0b000000000000011#15 ++ 0b00#2 ++ 0b000#3 ++ 0#14 ++ 0x0007#14 ++ 0x0006#14 ++ 0#14 ++ 0x0#4 ++ 0b000#3 ++ 0b000#3 ++ 0x290#10) (.vsync (fe c0 (v 0) (v 6) (v 7) (v 0) 3)) = true := by decide +kernel

/-- Class 7: syscall of the record at s4; cpy of the descriptor at v8, releasing at scope 5; trap 0xABC. -/
theorem test_decode_class7 : reads (0#20 ++ 0#14 ++ 0#14 ++ 0x1804#14 ++ 0#14 ++ 0x0#4 ++ 0b000#3 ++ 0b000#3 ++ 0x382#10) (.syscall (fl c0 (v 0) (sr 4) (v 0) (v 0) 0)) = true ∧
  reads (0#15 ++ 0b10#2 ++ 0b101#3 ++ 0#14 ++ 0#14 ++ 0x0008#14 ++ 0#14 ++ 0x0#4 ++ 0b000#3 ++ 0b000#3 ++ 0x388#10) (.cpy (fe c0 (v 0) (v 8) (v 0) (v 0) 0 true false 5)) = true ∧
  reads (0xABC00#20 ++ 0#14 ++ 0#14 ++ 0#14 ++ 0#14 ++ 0x0#4 ++ 0b000#3 ++ 0b000#3 ++ 0x380#10) (.trap (fl c0 (v 0) (v 0) (v 0) (v 0) 0 0 0xABC)) = true := by decide +kernel

/-! ### An ill-formed term for each check, with the SUB code that refuses it -/

/-- Each word's lowest SUB at the largest allocation. -/
def refused (l : List (Instr × Nat)) : Bool := l.all (fun e => e.1.illegal Alloc.max == some e.2 && !e.1.wellFormed)

/-- A plain form-L word of one, two or three sources. -/
def l1 (ty : BitVec 4) (m : Nat := 0) (d : Opnd := v 4) (a : Opnd := v 6) : FormL := fl (cm m false 0) d a (v 0) (v 0) ty
def l2 (ty : BitVec 4) (m : Nat := 0) (d : Opnd := v 4) (a : Opnd := v 6) (b : Opnd := v 8) : FormL := fl (cm m false 0) d a b (v 0) ty
def l3 (ty : BitVec 4) (m : Nat := 0) (x : Opnd := v 10) : FormL := fl (cm m false 0) (v 4) (v 6) (v 8) x ty

theorem test_ill_formed_common : refused [
    (.unassignedOpcode 0x3FF, 1),
    (.iadd { l2 tyI32 with com := { c0 with pneg := true } }, 5), (.bqry (fe { c0 with u := true } (sr 4) (v 0) (v 0) (v 0) 1), 5), (.imul (l2 tyI32 8), 5), (.fmin (l2 tyF32 1), 5),
    (.iadd (l2 tyB32), 4), (.and (l2 tyI32), 4), (.fadd (l2 tyI32), 4), (.cvt (fl c0 (v 4) (v 6) (v 0) (v 0) tyI32 tyB32), 4), (.exit (fl c0 (v 0) (v 0) (v 0) (v 0) tyI32), 4),
    (.iadd (l3 tyI32), 2), (.iadd { l2 tyI32 with fn := 1 }, 2), (.mov (l2 tyB32), 2)] = true := by decide +kernel

theorem test_ill_formed_operands : refused [
    (.iadd (l2 tyI32 0 (.reg .v 1 4)), 2), (.iadd (l2 tyI32 0 (.chan true 3)), 2), (.iadd (l2 tyI32 0 (sr 4)), 3), (.iadd { l2 tyI32 0 (sr 4) with com := { c0 with u := true } }, 3),
    (.iadd (l2 tyI32 0 (v 4) (o 8)), 3), (.iadd (l2 tyI64 0 (v 5)), 3), (.iadd (l2 tyI64 0 (v 4) (v 7)), 3), (.iadd (l2 tyI32 0 (v 4) (.reg .h 0 2)), 3), (.iadd (l2 tyI64 0 (v 4) (.chan false 3)), 3),
    (.icmp (l2 tyI32 0 (v 8)), 3), (.sel { l2 tyB32 with c := v 8 }, 3), (.scan (l1 tyI32 0 (sr 4)), 3),
    (.iadd (l2 tyI32 0 (v 4) (.reg .v 4 6)), 5), (.iadd (l2 tyN16 0 (v 4) (.reg .v 1 6)), 5), (.and (l2 tyB32 0 (v 4) (.reg .v 1 6)), 5)] = true ∧
  (Instr.iadd (l2 tyI32 0 (v 200))).illegal { v := 64, s := 64 } = some 3 ∧ (Instr.iadd (l2 tyI32 0 (v 63))).illegal { v := 64, s := 64 } = none := by decide +kernel

theorem test_ill_formed_entries : refused [
    (.iaddImm (fi c0 (v 4) (v 6) tyI32 0x100000000), 5), (.faddImm (fi c0 (v 4) (v 6) tyF16 0x10000), 5),
    (.movs (fl c0 (v 4) (v 0x15) (v 0) (v 0) 0), 5), (.movs (fl { c0 with u := true } (sr 4) (v 0) (v 0) (v 0) 0), 5), (.sset (fl c0 (v 2) (v 6) (v 0) (v 0) 0), 5),
    (.icmp (l2 tyI32 6 (v 1)), 5), (.vote (fl (cm 3 false 0) (v 1) (v 2) (v 0) (v 0) 0), 5), (.scan (l1 tyB32 0), 4), (.scan (l1 tyI32 6), 5), (.gred (l1 tyI32 3), 4),
    (.fcmp { l2 tyF32 0 (v 1) with fn := 8 }, 5), (.fence (fl c0 (v 0) (v 0) (v 0) (v 0) 0), 5), (.fence (fl c0 (v 0) (v 0) (v 0) (v 0) 0 0 0xE), 5),
    (.bra (fk (cm 0 false 1) (v 0) (v 0) (v 0) 0 1), 5), (.ssync (fl (cm 0 false 1) (v 0) (v 0) (v 0) (v 0) 0), 5), (.brc (fk c0 (v 0) (v 0) (v 0) 0 1), 5), (.jmp (fk c0 (v 0) (v 6) (v 0) 1 0), 5),
    (.loop (fk c0 (v 0) (v 6) (v 0) 0 1), 5)] = true := by decide +kernel

theorem test_ill_formed_memory : refused [
    (.ld (fm c0 (v 4) (v 6) (v 8) 5), 5), (.ld (fm c0 (v 4) (v 6) (v 8) 2 0 2), 5), (.ld { fm c0 (v 4) (v 6) (v 8) 2 with io := true }, 5), (.ld { fm c0 (v 4) (v 6) (v 8) 2 with sgn := true }, 5),
    (.ld (fm c0 (v 4) (v 6) (v 8) 2 0 1 6), 5), (.ld (fm c0 (v 4) (v 6) (v 8) 2 0 0 1), 5), (.st (fm c0 (v 4) (v 6) (v 8) 2 0 1), 5), (.st { fm c0 (v 4) (v 6) (v 8) 2 with sgn := true }, 5),
    (.ld (fm c0 (.reg .h 0 0) (v 6) (v 8) 1), 3), (.ld (fm c0 (v 6) (v 8) (v 10) 4), 3), (.ld (fm c0 (v 4) (v 7) (v 8) 2), 3), (.cfls (fm c0 (v 0) (v 6) (v 8) 2), 5),
    (.atom (fm c0 (v 4) (v 6) (v 8) 2), 5), (.atom (fm (cm 8 false 0) (v 4) (v 6) (v 8) 1), 5), (.red (fm (cm 11 false 0) (v 0) (v 6) (v 8) 2), 5), (.reds (fm (cm 9 false 0) (v 4) (v 6) (v 8) 2), 5),
    (.red (fm (cm 8 false 0) (v 0) (v 6) (v 8) 2 0 1), 5), (.atom (fm (cm 13 false 0) (v 4) (v 6) (v 8) 2), 5)] = true := by decide +kernel

theorem test_ill_formed_form_e : refused [
    (.binit (fe c0 (v 0) (v 0) (v 7) (v 0) 5 true), 5), (.bwait (fe c0 (v 0) (v 0) (v 7) (v 0) 5 true), 5), (.barr (fe c0 (v 4) (v 0) (v 0) (v 0) 5 false true), 5), (.barw (fe c0 (v 4) (v 0) (v 0) (v 0) 5 true true 6), 5),
    (.bwait (fe c0 (v 0) (v 0) (v 7) (v 0) 5 false false 1), 5), (.binit (fe c0 (v 0) (v 0) (v 7) (v 0) 0x40), 2), (.binit (fe (cm 8 false 0) (v 0) (v 6) (v 7) (v 0) 1), 2), (.binit (fe c0 (v 0) (v 6) (v 7) (v 0) 1), 2),
    (.chbind (fe c0 (v 0) (v 6) (v 0) (v 0) 0x10), 5), (.chbind (fe (cm 5 false 0) (v 0) (v 0) (v 0) (v 0) 0), 5), (.mlds (fe c0 (v 0) (v 6) (v 7) (v 0) 0x12), 5), (.mlds (fe c0 (v 0) (v 6) (v 7) (v 0) 0 false true 3), 5),
    (.mma (fe c0 (v 2) (v 6) (v 7) (v 0) 0), 3), (.vsync (fe c0 (v 0) (v 6) (v 7) (v 0) 0x10), 2), (.cpy (fe c0 (v 0) (v 7) (v 0) (v 0) 0), 3)] = true := by decide +kernel

/-! ### Single instructions: the results are the spec's own examples or reckoned by hand from its rules -/

/-- The first group after an instruction whose split has every lane, with the given register words. -/
def run (i : Instr) (rs : Map W32) (ss : Map W32 := []) : Option Group :=
  match exec i (shown State.reset (wgOf { gp sp0 with regs := rs, sregs := ss }) bootGrid) with
  | .next t => (t.wgs[0]?).bind (fun w => w.groups[0]?)
  | _ => none
/-- What a word leaves in v4:v5 of lane 0. -/
def out (i : Instr) (rs : Map W32) : Option W64 := (run i rs).map (fun g => g.pair 0 .v 4)
/-- Words (instruction, words of lane 0, result in v4:v5). -/
def gives (l : List (Instr × Map W32 × W64)) : Bool := l.all (fun e => out e.1 e.2.1 == some e.2.2)
/-- v6:v7, v8:v9 and v10:v11 of lane 0. -/
def abc (a b c : Nat) : Map W32 := ([(6, a % 2 ^ 32), (7, a / 2 ^ 32), (8, b % 2 ^ 32), (9, b / 2 ^ 32), (10, c % 2 ^ 32), (11, c / 2 ^ 32)].filter (fun e => e.2 != 0)).map (fun e => (e.1, BitVec.ofNat 32 e.2))

/-- R140, R143: wrap, clamp under SAT, the widths of 8 and 16 bits, the high half of a product. -/
theorem test_add_multiply : gives [
    (.iadd (l2 tyI32), abc 0x7FFFFFFF 1 0, 0x80000000), (.iadd (l2 tyI32 8), abc 0x7FFFFFFF 1 0, 0x7FFFFFFF), (.isub (l2 tyN32 8), abc 3 5 0, 0), (.iadd (l2 tyI8), abc 0x7F 1 0, 0xFFFFFF80),
    (.iadd (l2 tyN8), abc 0xFF 2 0, 1), (.imul (l2 tyI64), abc 0x100000001 3 0, 0x300000003), (.imulh (l2 tyI32), abc 0xFFFFFFFF 2 0, 0xFFFFFFFF), (.imulh (l2 tyN32), abc 0xFFFFFFFF 2 0, 1),
    (.imad (l3 tyI32), abc 5 7 0xFFFFFFFF, 34), (.iabs (l1 tyI32), abc 0x80000000 0 0, 0x80000000), (.iabs (l1 tyI32 8), abc 0x80000000 0 0, 0x7FFFFFFF), (.imin (l2 tyI32), abc 0xFFFFFFFF 1 0, 0xFFFFFFFF),
    (.imin (l2 tyN32), abc 0xFFFFFFFF 1 0, 1), (.movi (fi c0 (v 4) (v 0) tyI64 0x3FFFFFFFF), [], 0xFFFFFFFFFFFFFFFF), (.movi (fi c0 (v 4) (v 0) tyF32 0x3F000000), [], 0x3F000000)] = true := by decide +kernel

/-- R144: division by zero, the most negative over -1, truncation towards zero. -/
theorem test_divide : gives [
    (.idiv (l2 tyI32), abc 7 0 0, 0xFFFFFFFF), (.irem (l2 tyI32), abc 7 0 0, 7), (.idiv (l2 tyI32), abc 0x80000000 0xFFFFFFFF 0, 0x80000000), (.irem (l2 tyI32), abc 0x80000000 0xFFFFFFFF 0, 0),
    (.idiv (l2 tyI32), abc 0xFFFFFFF9 2 0, 0xFFFFFFFD), (.irem (l2 tyI32), abc 0xFFFFFFF9 2 0, 0xFFFFFFFF), (.idiv (l2 tyN32), abc 0xFFFFFFF9 2 0, 0x7FFFFFFC)] = true := by decide +kernel

/-- R145 to R148: shifts by the width and more, counts of zero, the spec's example of bfx. -/
theorem test_bits : gives [
    (.andn (l2 tyB32), abc 0xFF 0x0F 0, 0xF0), (.shl (l2 tyB32), abc 1 32 0, 0), (.sar (l2 tyB32), abc 0x80000000 40 0, 0xFFFFFFFF), (.sar (l2 tyB32), abc 0x80000000 31 0, 0xFFFFFFFF), (.rotl (l2 tyB32), abc 0x80000001 33 0, 3),
    (.shr (l2 tyB64), abc 0x8000000000000000 63 0, 1), (.popc (l1 tyB64), abc 0xF0F0000000000001 0 0, 9), (.clz (l1 tyB32), abc 0 0 0, 32), (.ctz (l1 tyB64), abc 0x100000000 0 0, 32), (.brev (l1 tyB32), abc 1 0 0, 0x80000000),
    (.bfx (l2 tyI32), abc 0xF3A0 0xC04 0, 0xFFFFFF3A), (.bfx (l2 tyN32), abc 0xF3A0 0xC04 0, 0xF3A), (.bfi (l3 tyB32), abc 0xFFFFFFFF 0 0x808, 0xFFFF00FF)] = true := by decide +kernel

/-- R168 to R172: one rounding, signed zeros, NaNs, division by zero and its flag. -/
theorem test_floats : gives [
    (.fadd (l2 tyF32), abc 0x3F800000 0x40000000 0, 0x40400000), (.fadd (l2 tyF32), abc 0x3F800000 0x33800000 0, 0x3F800000), (.fsub (l2 tyF32), abc 0x7F800000 0x7F800000 0, 0x7FC00000), (.fmul (l2 tyF64), abc 0x3FF8000000000000 0xC000000000000000 0, 0xC008000000000000),
    (.ffma (l3 tyF32), abc 0x40400000 0x40400000 0xC1100000, 0), (.fmin (l2 tyF32), abc 0 0x80000000 0, 0x80000000), (.fmax (l2 tyF32), abc 0x7FC00000 0x3F800000 0, 0x3F800000), (.fdiv (l2 tyF32), abc 0xBF800000 0 0, 0xFF800000),
    (.fsqrt (l1 tyF32), abc 0x40800000 0 0, 0x40000000), (.fsqrt (l1 tyF32), abc 0x80000000 0 0, 0x80000000), (.fclass (l1 tyF32), abc 0x3F800000 0 0, 0x40), (.fadd (l2 tyF16), abc 0x3C00 0x3C00 0, 0x4000)] = true ∧
  (run (.fdiv (l2 tyF32)) (abc 0x3F800000 0 0)).map (fun g => mget 0 g.fstat 0 != 0) = some true := by decide +kernel

/-- R150, R151, R154, R155: a signed comparison, the spec's example of plog, two lane exchanges. -/
theorem test_lanes :
    ((run (.icmp (l2 tyI32 2 (v 1))) (abc 0xFFFFFFFF 1 0)).map (fun g => (mget 0 g.preds 1).getLsbD 0)) = some true ∧
    ((run (.icmp (l2 tyN32 2 (v 1))) (abc 0xFFFFFFFF 1 0)).map (fun g => (mget 0 g.preds 1).getLsbD 0)) = some false ∧
    ((run (.qxch (l1 tyB32 0)) [(512 + 6, 77)]).map (fun g => (g.reg 0 .v 4, g.reg 1 .v 4))) = some (77, 0) ∧
    ((run (.shfl (l2 tyB32 1)) [(6, 55), (520, 1)]).map (fun g => (g.reg 0 .v 4, g.reg 1 .v 4))) = some (55, 55) := by decide +kernel

/-- A branch three words on and a nop, as the first instruction after reset: the split's word index. -/
theorem test_step_branch : (match step (State.reset.withFetchWord 96 0xC000000000000300) with | .next t => ((t.wgs[0]?).bind (fun w => w.groups[0]?)).map (fun g => g.table.map (fun e => e.map (fun p => p.wi))) | _ => none) =
    some [some 3, none, none, none, none, none, none, none] := by decide +kernel

theorem test_step_nop : (match step (State.reset.withFetchWord 96 0x309) with | .next t => ((t.wgs[0]?).bind (fun w => w.groups[0]?)).map (fun g => g.table.map (fun e => e.map (fun p => p.wi))) | _ => none) =
    some [some 1, none, none, none, none, none, none, none] := by decide +kernel


/-- FIPS 180-4's example: the SHA-256 digest of the three characters abc. -/
theorem test_digest_abc : sha256 [0x61, 0x62, 0x63] = [0xBA, 0x78, 0x16, 0xBF, 0x8F, 0x01, 0xCF, 0xEA, 0x41, 0x41, 0x40, 0xDE, 0x5D, 0xAE, 0x22, 0x23, 0xB0, 0x03, 0x61, 0xA3, 0x96, 0x17, 0x7A, 0x9C, 0xB4, 0x10, 0xFF, 0x61, 0xF2, 0x00, 0x15, 0xAD] := by decide +kernel
end Sys2Proof.Tests
end

section
/-! What reset leaves. The reset state lists nothing in any of its sparse maps, so every unit reads there as its default record; the
defaults are the reset values that the spec gives. -/
namespace Sys2Proof.Machine

/-- A map that lists nothing reads everywhere as its default. -/
@[simp] theorem mget_nil {α : Type} (d : α) (i : Nat) : mget d [] i = d := rfl

@[simp] theorem mem_reset : State.reset.mem = [] := rfl
@[simp] theorem core_reset (c : Nat) : State.reset.core c = {} := rfl
@[simp] theorem region_reset (r : Nat) : State.reset.region r = {} := rfl
@[simp] theorem queue_reset (q : Nat) : State.reset.queue q = {} := rfl
@[simp] theorem ten_reset (t : Nat) : State.reset.ten t = {} := rfl
@[simp] theorem steward_reset (n : Nat) : State.reset.steward n = {} := rfl
@[simp] theorem watchdog_reset (w : Nat) : State.reset.watchdog w = {} := rfl
@[simp] theorem log_reset (u : Nat) : State.reset.log u = {} := rfl
@[simp] theorem arbiter_reset (d : Nat) : State.reset.arbiter d = {} := rfl

/-- Both arrays of an untouched core, and the answer for a number that names none, are the empty array (R237, R238). -/
@[simp] theorem array_default (n : Nat) : ({} : Core).array n = {} := by
  match n with
  | 0 => rfl
  | 1 => rfl
  | _ + 2 => rfl

/-- A core out of reset has zero storage, no poison, and both arrays unowned with an empty, invalid live plane (R66, R77). -/
theorem core_reset_cleared (c k : Nat) :
    mget 0 (State.reset.core c).scr k = 0 ∧ mget 0 (State.reset.core c).acc k = 0 ∧
    (State.reset.core c).scrPoison = [] ∧ (State.reset.core c).accPoison = [] ∧
    ∀ n, ((State.reset.core c).array n).live.valid = false ∧ ((State.reset.core c).array n).live.cols = [] ∧
      ((State.reset.core c).array n).owner = none := by
  simp

/-- Memory out of reset reads as zero at every address and length (log entry 4). -/
theorem rawRead_reset (pa n : Nat) : State.reset.rawRead pa n = List.replicate n 0 := by
  apply List.ext_getElem (by simp)
  intro i h _
  rw [rawRead_getElem h, List.getElem_replicate, mem_reset, mget_nil]

/-- Settles O56: the map reads go by the lemmas above, the invariant by `reset_inv`, and the other fields are their defaults. -/
theorem resetState : Obligations.ResetState := by
  unfold Obligations.ResetState
  refine ⟨rfl, rfl, core_reset_cleared, ?regions, rfl, rfl, rfl, rfl, rfl, rfl, rfl, rfl, rfl, ?queues, ?tenancies, ?stewards,
    ?watchdogs, log_reset, rfl, rfl, rfl, rfl, rfl, ?arbiters, mget_nil 0, mget_nil 0, rfl, rfl, rawRead_reset, reset_inv⟩
  case regions => simp
  case queues => simp
  case tenancies => simp
  case stewards => simp
  case watchdogs => simp
  case arbiters => simp

end Sys2Proof.Machine
end

section
/-! Pointers: the fields of a checked pointer as quotients of its number, and the checks in their order (R53, R54, R122, R190). -/
namespace Sys2Proof.Machine

/-- The space of a 64-bit pointer is its highest digit. -/
theorem ptrSpace_eq {p : Nat} (hp : p < 2 ^ 64) : ptrSpace p = p / 2 ^ 60 :=
  Nat.mod_eq_of_lt (by omega)

/-- Bits lo to lo + len - 1 are zero when what is left of the bits below hi lies below lo. -/
theorem bitsOf_eq_zero_iff {p lo len : Nat} : bitsOf p lo len = 0 ↔ p % 2 ^ (lo + len) < 2 ^ lo := by
  rw [bitsOf, Nat.pow_add, ← Nat.mod_mul_right_div_self, Nat.div_eq_zero_iff]
  simp

/-- The bits that each space marks zero, as bounds of what lies below its fields (R53). -/
theorem ptrFormed_iff {p : Nat} (hp : p < 2 ^ 64) :
    ptrFormed p = true ↔ (match p / 2 ^ 60 with
      | 0 => p < 2 ^ 56 | 1 => p % 2 ^ 60 < 2 ^ 32 | 2 => p % 2 ^ 60 < 2 ^ 21 | 3 => p % 2 ^ 56 < 2 ^ 21 | 6 => True | _ => False) := by
  have low : p / 2 ^ 60 = 0 → (p % 2 ^ (56 + 4) < 2 ^ 56 ↔ p < 2 ^ 56) := fun h => by omega
  rw [ptrFormed, ptrSpace_eq hp]
  generalize p / 2 ^ 60 = space at low
  split
  case h_1 => rw [beq_iff_eq, bitsOf_eq_zero_iff]; exact low rfl
  case h_2 => exact beq_iff_eq.trans bitsOf_eq_zero_iff
  case h_3 => exact beq_iff_eq.trans bitsOf_eq_zero_iff
  case h_4 => exact beq_iff_eq.trans bitsOf_eq_zero_iff
  case h_5 => simp
  case h_6 => simp

/-- R122: which spaces a hint agrees with. -/
theorem hintOk_iff {hint space : Nat} :
    hintOk hint space = true ↔ hint = 0 ∨ (hint = 1 ∧ space = 0) ∨ (hint = 2 ∧ (space = 2 ∨ space = 3)) ∨ (3 ≤ hint ∧ space = 1) := by
  match hint with
  | 0 => simp [hintOk]
  | 1 => simp [hintOk]
  | 2 => simp [hintOk]
  | n + 3 => simp [hintOk]

/-- Settles O29: in each clause the checks before the named one pass, so `checkPtr` computes to the clause's answer. -/
theorem pointerChecks : Obligations.PointerChecks := by
  intro y u p hp _ space formed rank hinted window
  have hspace : ptrSpace p = space := ptrSpace_eq hp
  have hformed : ptrFormed p = true ↔ formed := ptrFormed_iff hp
  have hhint : hintOk u.hint space = true ↔ hinted := hintOk_iff
  have hrank : bitsOf p 56 4 = rank := rfl
  have hlow : formed → space = 0 → p < 2 ^ 56 := fun hf h0 => by simpa [formed, h0] using hf
  clear_value formed hinted
  refine ⟨fun hf => ?formed, fun hf h3 hr => ?rank, fun hf hr => ⟨fun hs => ?space, fun hs hh => ?hint, fun hs hh => ⟨fun hg h1 => ?group, fun hg => ?aligned⟩⟩⟩
  case formed => simp [Ctx.checkPtr, hformed, hf]
  case rank => simp [Ctx.checkPtr, hspace, hformed.mpr hf, hrank, h3, hr]
  all_goals
    have hmember : ¬ (space = 3 ∧ y.wg.clsize ≤ rank) := fun h => Nat.not_le.mpr (hr h.1) h.2
  case space =>
    have hout : space ∉ u.spaces := by simpa using hs
    simp [Ctx.checkPtr, hspace, hformed.mpr hf, hrank, hmember, hout]
  all_goals
    have hin : space ∈ u.spaces := by simpa using hs
  case hint =>
    have hrefused : hintOk u.hint space = false := Bool.eq_false_iff.mpr (mt hhint.mp hh)
    simp [Ctx.checkPtr, hspace, hformed.mpr hf, hrank, hmember, hin, hrefused]
  all_goals
    have hpass : hintOk u.hint space = true := hhint.mpr hh
  case group => simp [Ctx.checkPtr, hspace, hformed.mpr hf, hrank, hmember, hin, hpass, hg, ← h1]
  case aligned =>
    have hgroup : ¬ (u.gw = true ∧ space = 1) := fun h => hg h.1 h.2
    refine ⟨fun ha => ?_, fun ha => ?_⟩
    · simp [Ctx.checkPtr, hspace, hformed.mpr hf, hrank, hmember, hin, hpass, hgroup, ha]
    · simp only [Ctx.checkPtr, hspace, hformed.mpr hf, hrank, hs, hpass, ha, Bool.and_eq_true, decide_eq_true_eq, hmember, hgroup]
      refine ⟨fun h0 => ?_, fun h1 => ?_, fun h23 => ?_, fun h6 => ?_⟩
      · simp only [h0, Nat.mod_eq_of_lt (hlow hf h0)]; simp
      · simp [h1]
      · rcases h23 with h2 | h3
        · simp [h2, window, and_assoc]
        · simp [h3, window, and_assoc]
      · simp [h6, bitsOf]
end Sys2Proof.Machine
end

section
/-! Ownership of regions, clocks and arrivals (R14, R51, R77, R78, R193, R218, R324, R332, R388 to R395, R446, R480). -/
namespace Sys2Proof.Machine

/-! ### Regions and clocks -/

/-- Writing lines back changes memory alone. -/
theorem foldl_rawWrite_only {α : Type} (l : List α) (pa : α → Nat) (bs : α → List Byte) (s : State) :
    l.foldl (fun (s : State) a => s.rawWrite (pa a) (bs a)) s = { s with mem := (l.foldl (fun (s : State) a => s.rawWrite (pa a) (bs a)) s).mem } := by
  induction l generalizing s with
  | nil => rfl
  | cons a l ih => rw [List.foldl_cons, ih]; rfl

/-- An access from the other side begins a transfer, or waits for the end of the hold (R78, R324). -/
theorem ownershipTransfer_still {s : State} {r : Nat} (h : (s.region r).moving = false) :
    execOwnershipTransfer r s = .next (s.modRegion r (fun k => if k.holdUntil ≠ 0 then { k with wanted := true } else { k with moving := true, began := s.cycle, wanted := false })) := by
  by_cases hh : (s.region r).holdUntil = 0 <;> simp [execOwnershipTransfer, State.modRegion, h, hh]

/-- A completed transfer with no waiting write: memory has the owners' lines, the region has no copy and its home has moved (R324). -/
theorem transferComplete_moves {s : State} {r : Nat} (hm : (s.region r).moving = true) (hr : s.recalled r = true)
    (hq : s.storeQ.all (fun q => hbmRegion (s.forwarded q.pa) != r) = true) {v : State}
    (hv : v = (s.lines.filter (fun l => lineIn r l.addr && l.st.owns)).foldl (fun (s : State) l => s.rawWrite (128 * l.addr) l.latest) s) :
    execTransferComplete r s = .next (({ v with lines := s.lines.filter (fun l => !lineIn r l.addr), homes := s.homes.filter (fun h => !lineIn r h.addr), l1 := s.l1.filter (fun c => !lineIn r c.addr) } : State).modRegion r (fun k => { compute := !k.compute, holdUntil := s.cycle + 4096 })) := by
  have hown : (s.lines.filter (fun l => lineIn r l.addr)).filter (fun l => l.st.owns) = s.lines.filter (fun l => lineIn r l.addr && l.st.owns) := by
    rw [List.filter_filter]; exact List.filter_congr fun l _ => Bool.and_comm _ _
  have hnone : s.storeQ.filter (fun q => hbmRegion (s.forwarded q.pa) == r) = [] :=
    List.filter_eq_nil_iff.mpr fun q hq' => by simpa using List.all_eq_true.mp hq q hq'
  have hmem : v = { s with mem := v.mem } := hv ▸ foldl_rawWrite_only _ _ _ s
  unfold execTransferComplete
  rw [if_neg (by simp [hm, hr])]
  simp only [hown, ← hv]
  rw [hmem]
  simp only [State.modRegion]
  rw [hnone]
  rfl

/-- What `recalled` says of a line of the region (R321). -/
theorem recalled_line {s : State} {r : Nat} {l : Line} (hr : s.recalled r = true) (hl : l ∈ s.lines) (hin : lineIn r l.addr = true) :
    s.linePassed l = true ∧ (s.home l.addr).busy = none := by
  simp only [State.recalled, Bool.and_eq_true, List.all_eq_true] at hr
  obtain ⟨⟨hhomes, -⟩, hlines⟩ := hr
  constructor
  · have := hlines l hl
    simp_all
  · unfold State.home
    split
    case h_1 h hf =>
      have haddr : h.addr = l.addr := by simpa using List.find?_some hf
      have := hhomes h (List.mem_of_find?_eq_some hf)
      simp_all
    case h_2 => rfl

/-- A pass over what is done, where nothing is, takes nothing out and does nothing. -/
theorem foldl_done_none {α : Type} {f : State → α → State} {done : α → Bool} {l : List α} (h : ∀ a ∈ l, done a = false) (u : List α → State) :
    (l.filter done).foldl f (u (l.filter (fun a => !done a))) = u l := by
  rw [List.filter_eq_nil_iff.mpr fun a ha => ne_true_of_eq_false (h a ha), List.filter_eq_self.mpr fun a ha => congrArg (!·) (h a ha)]
  rfl

/-- A die whose stores have no visibility time yet keeps them all (R311). -/
theorem passStores_none {s : State} {d : Nat} (h : ∀ q ∈ s.storeQ, q.die = d → q.vis = none) : s.passStores d = s := by
  simp only [State.passStores]
  refine foldl_done_none (fun q hq => ?_) (fun k => { s with storeQ := k })
  by_cases hd : q.die = d
  · rw [h q hq hd, Bool.and_false]
  · rw [beq_false_of_ne hd, Bool.false_and]

/-- With nothing posted the root ports accept nothing (R327). -/
theorem acceptPosted_nil {s : State} (h : s.posted = []) : s.acceptPosted = s := by
  unfold State.acceptPosted
  rw [h]
  show { s with posted := [] } = s
  rw [← h]

/-- With no write of this device's window on its way none is acknowledged (R332). -/
theorem ackOwn_none {s : State} (hf : ∀ f ∈ s.fabric, f.vis = none) (hi : s.inbound = []) : s.ackOwn = s := by
  simp only [State.ackOwn, hi]
  refine (foldl_done_none (fun f hm => ?_) (fun k => { s with fabric := k, inbound := [] })).trans ?_
  · rw [hf f hm]
  · show { s with inbound := [] } = s
    rw [← hi]

/-- A die's tick passes its stores and acknowledges the writes of the window (R14, R311, R332). -/
theorem leaseClockTick_die {s : State} {d : Nat} (hd : d < 4) :
    execLeaseClockTick d s = .next ((({ s with clocks := s.clocks.modify d (fun t => (t + 1) % 2 ^ 48) } : State).passStores d).ackOwn) := by
  simp only [execLeaseClockTick]
  rw [if_neg (Nat.ne_of_lt hd)]

/-- The hub's tick, with nothing posted, tries the waiting events again (log entries 29 and 31). -/
theorem leaseClockTick_hub {s : State} (h : s.posted = []) :
    execLeaseClockTick 4 s = .next { s with clocks := s.clocks.modify 4 (fun t => (t + 1) % 2 ^ 48), agenda := s.agenda ++ s.waiting, waiting := [] } := by
  simp only [execLeaseClockTick]
  rw [if_pos trivial, acceptPosted_nil (by exact h)]
  rfl

/-! ### Arrivals -/

section
variable {s v : State} {id c : Nat} {r : IcReq} (hf : s.icreqs.find? (fun r => r.id == id) = some r) (hc : r.left.contains c = true)
  (hv : v = { s with icache := s.icache.map (fun b => if b.core = c ∧ b.addr = r.addr then { b with stale := some s.cycle, known := none } else b) })
include hf hc hv

/-- R193: while other caches have yet to answer, the acknowledgement is counted. -/
theorem icinvAck_counts (h : r.left.filter (· != c) ≠ []) :
    execIcinvAck id c s = .next { v with icreqs := s.icreqs.map (fun q => if q.id = id then { q with left := r.left.filter (· != c) } else q) } := by
  simp only [execIcinvAck, hf, hc, hv]
  exact if_pos h

/-- R193: the last acknowledgement gives the visibility time, one more than the die's clock. -/
theorem icinvAck_last (h : r.left.filter (· != c) = []) :
    execIcinvAck id c s = .next (s.wgs.foldl (fun (s : State) w => (List.range w.groups.length).foldl (fun (s : State) gi => s.settle w.key gi id ((v.clock r.die) + 1)) s)
      { v with icreqs := s.icreqs.filter (fun q => q.id != id), icache := v.icache.map (fun b => if b.addr = r.addr ∧ b.stale.isSome then { b with known := some s.cycle } else b) }) := by
  simp only [execIcinvAck, hf, hc, hv]
  exact if_neg (Classical.not_not.mpr h)

end

theorem filter_range_beq (n c : Nat) : (List.range n).filter (· == c) = if c < n then [c] else [] := by
  induction n with
  | zero => rfl
  | succ n ih =>
    rw [List.range_succ, List.filter_append, ih]
    by_cases h : c = n
    · rw [if_neg (by omega), if_pos (by omega), h, List.nil_append]
      exact List.filter_cons_of_pos (p := (· == n)) (beq_self_eq_true n)
    · have hne : ¬ (n == c) = true := fun e => h (beq_iff_eq.mp e).symm
      rw [List.filter_cons_of_neg (p := (· == c)) hne, List.filter_nil, List.append_nil]
      simp only [show c < n + 1 ↔ c < n by omega]

/-- A test that one number below n passes leaves that number alone. -/
theorem filter_range_eq_singleton {p : Nat → Bool} {n c : Nat} (hc : c < n) (hp : p c = true) (ho : ∀ d < n, d ≠ c → p d = false) :
    (List.range n).filter p = [c] := by
  have honly : ∀ d ∈ List.range n, p d = (d == c) := fun d hd => by
    by_cases h : d = c
    · rw [h, hp, beq_self_eq_true]
    · rw [ho d (List.mem_range.mp hd) h, beq_false_of_ne h]
  rw [List.filter_congr honly, filter_range_beq, if_pos hc]

/-- A fold over steps that each leave the state is the state. -/
theorem foldl_unchanged {α β : Type} {f : α → β → α} {l : List β} (h : ∀ a, ∀ b ∈ l, f a b = a) (a : α) : l.foldl f a = a := by
  induction l with
  | nil => rfl
  | cons b l ih => rw [List.foldl_cons, h a b List.mem_cons_self, ih fun a c hc => h a c (List.mem_cons_of_mem _ hc)]

/-- No window of a workgroup without bound channels is ready (R388). -/
theorem windowReady_unbound {s : State} {w : Workgroup} {c : Nat} (h : (w.chan c).v = false) : s.windowReady w c = false := by
  unfold State.windowReady
  split <;> simp [h]

/-- The retest after an arrival wakes nothing at a workgroup without bound channels (R388). -/
theorem retest_unbound {w : Workgroup} (h : ∀ c < 16, (w.chan c).v = false) (s : State) :
    (List.range 16).foldl (fun (s : State) c => if s.windowReady w c then s.wakeChan w.key c else s) s = s :=
  foldl_unchanged (fun _ c hc => if_neg (ne_true_of_eq_false (windowReady_unbound (h c (List.mem_range.mp hc))))) s

/-! ### The interrupt arrival table -/

/-- R392: a write with a reason against it is dropped and logged. -/
theorem onMsi_dropped {s : State} {m : Msi} {kind : Nat} {again : Instr} {k : Nat → Nat → State} (hcut : s.fnCut m.rid = false) (hwhy : s.msiReason m ≠ 0) :
    s.onMsi m kind again k = s.logRec { unit := 4, code := 0x5C, src := 10, aux := m.rid % 2 ^ 16 + 2 ^ 16 * s.msiReason m + 2 ^ 20 * (m.data.toNat % 4096) } := by
  simp only [State.onMsi]
  rw [if_neg (ne_true_of_eq_false hcut), if_pos hwhy]

/-- R395: an accepted write meets the check of its entry, then the entry's kind. -/
theorem onMsi_accepted {s : State} {m : Msi} {kind e : Nat} {again : Instr} {k : Nat → Nat → State} (he : e = (mget 0 s.iat (m.data.toNat % 4096)).toNat)
    (hcut : s.fnCut m.rid = false) (hwhy : s.msiReason m = 0) (hwait : s.waiting = []) (hport : s.allPassed (mget [] s.portVis m.port) = true) :
    s.onMsi m kind again k = if iatBad e then s.iatDrop (m.data.toNat % 4096) e else if iatKind e ≠ kind then s else k (m.data.toNat % 4096) e := by
  simp only [State.onMsi, ← he]
  rw [if_neg (ne_true_of_eq_false hcut), if_neg (Classical.not_not.mpr hwhy), if_neg (by simp [hwait, hport])]

/-- The word of an entry whose address translates to sound memory at a resting home (R447). -/
theorem iatPlace_ok {s : State} {n e pa at_ mt : Nat} {nd : Need} {again : Instr} {k : State → Nat → State} (hd : s.demand srcIat (iatPasid e) (iatVa e) nd = .ok pa at_ mt)
    (hreg : paKind pa ≠ .reg) (hmove : s.homeMoves pa = false) (hp : s.poisoned pa 8 = false) :
    s.iatPlace n e nd again k = k (s.markPte at_ (nd == .wr)) pa := by
  simp [State.iatPlace, hd, hmove, hp]

/-- R390: a doorbell that is ready leaves for its place. -/
theorem doorbellWriteOut_leaves {s : State} {n : Nat} {p : Proxy} (hp : s.proxy[n]? = some p) (hvis : s.passed p.die p.vis = true) (hpend : p.pend = [])
    (hfirst : ∀ q ∈ s.proxy.take n, q.addr ≠ p.addr) (hlost : s.bellLost p.addr = false) :
    execDoorbellWriteOut n s = .next { s with proxy := s.proxy.eraseIdx n, doorbells := (p.addr, p.value) :: s.doorbells } := by
  have hready : s.bellReady n = true := by
    simp only [State.bellReady, hp, hvis, hpend]
    simpa using hfirst
  simp [execDoorbellWriteOut, hp, hready, hlost]

section
variable {s : State} {id : Nat} {ans : PeerAns} {f : Flit} (hf : s.fabric.find? (fun f => f.id == id && f.vis.isNone) = some f)
include hf

/-- R201: a rejected contribution is held at its core. -/
theorem space6Ack_rejectedContrib (hp : f.posted = true) (ha : ans = .retry) : execSpace6Ack id ans s = .next (s.holdContrib f) := by
  simp only [execSpace6Ack, hf]
  rw [if_pos ⟨hp, ha⟩]

/-- R332: the answer reaches the access that awaits it; a rejection is marked as one. -/
theorem space6Ack_awaited (hp : f.posted = false) :
    execSpace6Ack id ans s = .next (({ s with fabric := s.fabric.map (fun g => if g.id = id ∧ g.ans.isNone then (if ans = .retry then { g with ans := some (.ok [] 0), rejected := true } else { g with ans := some ans }) else g) } : State).wakeCounter (fun r => r == .peer f.ptr)) := by
  simp [execSpace6Ack, hf, hp]

/-- R332: an acknowledged store settles its record and adds its flags. -/
theorem space6Ack_posted {b : List Byte} {fl : Flags} (hp : f.posted = true) (hc : f.chan = none) (ha : ans = .ok b fl) :
    execSpace6Ack id ans s = .next ((({ s with fabric := s.fabric.filter (fun g => g.id != id) } : State).settle f.wg f.grp id 0).orRemote f.wg fl) := by
  simp [execSpace6Ack, hf, hp, hc, ha]

end

/-- R446: a peer's access to an offset without a window is answered so. -/
theorem accessArrival_noWindow {s : State} {src off : Nat} {op : PeerOp} (h : s.window? src off = none) :
    execSpace6AccessArrival src (fabricLane off) off op s = .next (s.answerPeer src .noWindow) := by
  simp [execSpace6AccessArrival, h]

section
variable {s : State} {src off : Nat} {op : PeerOp} {w : Window} (hw : s.window? src off = some w)
include hw

/-- R446: a window that does not permit the access answers so. -/
theorem accessArrival_noPerm (hperm : w.permits (peerNeed op) = false) :
    execSpace6AccessArrival src (fabricLane off) off op s = .next (s.answerPeer src .noPerm) := by
  simp [execSpace6AccessArrival, hw, hperm]

/-- R446: a permitted access whose address translates is served there. -/
theorem accessArrival_served {pa at_ mt : Nat} (hperm : w.permits (peerNeed op) = true)
    (hd : s.demand srcWindow w.pasid (w.va + (off - w.base)) (peerNeed op) = .ok pa at_ mt) (hreg : paKind pa ≠ .reg) :
    execSpace6AccessArrival src (fabricLane off) off op s =
      .next ((s.markPte at_ (peerNeed op != .rd)).servePeer src op (w.va + (off - w.base)) pa (.space6AccessArrival src (fabricLane off) off op)) := by
  simp [execSpace6AccessArrival, hw, hperm, hd]

end

/-- R218: with one channel bound, a mailbox into the ring with room, the word enters the ring and that channel's splits go on. -/
theorem mailboxWordArrival_enters (src : Nat) {s : State} {key loff c : Nat} {word : W32} {w : Workgroup} {gr : Grid} (hw : s.wg? key = some w) (hg : s.grid? w.grid = some gr)
    (hc : c < 16) (hv : (w.chan c).v = true) (hk : (w.chan c).kind = 3) (hring : s.chanRing gr (w.chan c) = loff) (hroom : ringHeld s w loff < ringCap s w loff)
    (honly : ∀ d < 16, d ≠ c → (w.chan d).v = false) :
    execMailboxWordArrival src key loff word s = .next ((s.ringPush w loff [word]).wakeChan key c) := by
  have hchs : (List.range 16).filter (fun c => (w.chan c).v && ((w.chan c).kind == 3 || (w.chan c).kind == 0) && s.chanRing gr (w.chan c) == loff) = [c] :=
    filter_range_eq_singleton hc (by simp [hv, hk, hring]) (fun d hd hne => by simp [honly d hd hne])
  simp only [execMailboxWordArrival, hw, hg, hchs]
  rw [if_neg (by rw [Bool.or_eq_true, decide_eq_true_eq]; simp [hk]; omega)]
  rfl

section
variable {s v : State} {m : Msi} {e pa at_ mt : Nat} {nd : Need} (he : e = (mget 0 s.iat (m.data.toNat % 4096)).toNat)
  (hcut : s.fnCut m.rid = false) (hwhy : s.msiReason m = 0) (hwait : s.waiting = []) (hport : s.allPassed (mget [] s.portVis m.port) = true)
  (hbad : iatBad e = false) (hd : s.demand srcIat (iatPasid e) (iatVa e) nd = .ok pa at_ mt) (hreg : paKind pa ≠ .reg)
  (hmove : s.homeMoves pa = false) (hp : s.poisoned pa 8 = false) (hv : v = s.markPte at_ (nd == .wr))
include he hcut hwhy hwait hport hbad hd hreg hmove hp hv

/-- What the kinds that name a word share: an accepted write whose word is reached acts there. -/
theorem onMsi_placed {kind : Nat} {again : Instr} {k : Nat → Nat → State → Nat → State} (hkind : iatKind e = kind) :
    s.onMsi m kind again (fun n e => s.iatPlace n e nd again (k n e)) = k (m.data.toNat % 4096) e v pa := by
  rw [onMsi_accepted he hcut hwhy hwait hport, if_neg (ne_true_of_eq_false hbad), if_neg (Classical.not_not.mpr hkind), iatPlace_ok hd hreg hmove hp, hv]

/-- R395: an accepted add is made at its counter, once numbered. -/
theorem counterAdd_adds (hnd : nd = .wr) (hkind : iatKind e = 1) :
    execIatCounterAdd m s = .next (v.inOrder (v.arrivalDie pa) 1 (m.data.toNat % 4096) (iatVa e) (.iatCounterAdd m) (fun s => (s.update none pa 8 (.add (iatVal e))).1)) := by
  subst hnd
  unfold execIatCounterAdd
  rw [onMsi_placed he hcut hwhy hwait hport hbad hd hreg hmove hp hv hkind]

variable {t : Nat} (hnd : nd = .rd) (hkind : iatKind e = 0) (ht : t = leNat (v.cohRead pa 8))
include hnd hkind ht

/-- R395: an accepted arrival whose token is unsound or names no workgroup is dropped and logged. -/
theorem barrierArrival_dropped (hno : bitOf t 63 = false ∨ bitsOf t 26 37 ≠ 0 ∨ v.wgs.find? (fun w => w.ten == iatTen e && w.ctx == bitsOf t 0 20) = none) :
    execIatBarrierArrival m s = .next (v.iatDrop (m.data.toNat % 4096) e) := by
  subst hnd
  unfold execIatBarrierArrival
  rw [onMsi_placed he hcut hwhy hwait hport hbad hd hreg hmove hp hv hkind]
  simp only [← ht]
  cases hf : v.wgs.find? (fun w => w.ten == iatTen e && w.ctx == bitsOf t 0 20) with
  | none => rfl
  | some w => simp only; rw [if_pos]; simpa [hf] using hno

/-- R394: an accepted arrival whose token is sound arrives at the named barrier, once numbered; with no bound channel there is no window to retest. -/
theorem barrierArrival_arrives {w : Workgroup} (hset : bitOf t 63 = true) (hzero : bitsOf t 26 37 = 0)
    (hw : v.wgs.find? (fun w => w.ten == iatTen e && w.ctx == bitsOf t 0 20) = some w) (hchan : ∀ c < 16, (w.chan c).v = false) :
    execIatBarrierArrival m s = .next (v.inOrder (dieOfCore (w.cores.getD 0 0)) 1 (m.data.toNat % 4096) (iatVa e) (.iatBarrierArrival m)
      (fun s => s.barUpdate { wg := w.key, win := 0, id := bitsOf t 20 6 } (BarObj.arrive (iatVal e) 2))) := by
  subst hnd
  unfold execIatBarrierArrival
  rw [onMsi_placed he hcut hwhy hwait hport hbad hd hreg hmove hp hv hkind]
  simp only [← ht, hw]
  rw [if_neg (by simp [hset, hzero])]
  simp only [retest_unbound hchan]

end

/-- Settles O49: each event's clause is its lemma above, or unfolds the event at the state that the clause describes. That waiting events
come again at the hub's tick is the choice of log entries 29 and 31, the arbiter's numbering of arrivals that of entry 57. -/
theorem regionsAndArrivals : Obligations.RegionsAndArrivals := by
  unfold Obligations.RegionsAndArrivals
  refine ⟨fun s r => ownershipTransfer_still, fun s r hm hr v hv hq => transferComplete_moves hm hr hq hv, fun s r l => recalled_line, ?hold,
    fun s d => leaseClockTick_die, fun s d => passStores_none, fun s => leaseClockTick_hub, fun s => ackOwn_none,
    fun s id c r hf hc v hv => ⟨icinvAck_counts hf hc hv, icinvAck_last hf hc hv⟩, ?completion, ?submission,
    fun s n p => doorbellWriteOut_leaves, ?replay, ?answer, ?lost, ?peer,
    fun s src key loff word w gr c hw hg hc hv hk hring hroom honly => mailboxWordArrival_enters src hw hg hc hv hk hring hroom honly, ?interrupt, ?image⟩
  case hold =>
    intro s r
    change execOwnershipHoldExpires r s = _
    simp only [execOwnershipHoldExpires]
    split <;> rfl
  case completion =>
    intro s key ch w hw
    change execCompletionWindowRetest key ch s = _
    simp only [execCompletionWindowRetest, hw]
    rfl
  case submission =>
    intro s key ch w hw
    change execSubmissionFullRetest key ch s = _
    simp only [execSubmissionFullRetest, hw]
    rfl
  case replay =>
    intro s id
    change execFlitRejectReplay id s = _
    simp only [execFlitRejectReplay]
    split <;> rfl
  case answer =>
    refine fun s id ans f hf => ⟨space6Ack_rejectedContrib hf, fun hp ha => ?_, fun hp ha => ?_, fun hp hc b ha v hv => hv ▸ space6Ack_posted hf hp hc ha⟩
    · exact (space6Ack_awaited hf hp).trans (by simp only [if_pos ha])
    · exact (space6Ack_awaited hf hp).trans (by simp only [if_neg ha])
  case lost =>
    intro s id f hf
    change execSpace6StoreLost id s = _
    simp only [execSpace6StoreLost, hf]
    split <;> rfl
  case peer =>
    refine fun s src off op => ⟨accessArrival_noWindow, fun w => accessArrival_noPerm, fun w pa at_ mt hw hperm hd hreg v hv => ?_⟩
    change (∀ n, _ → _ → _ → execSpace6AccessArrival src (fabricLane off) off op s = _) ∧ (∀ b u vis, _ → _ → execSpace6AccessArrival src (fabricLane off) off op s = _)
    rw [accessArrival_served hw hperm hd hreg, ← hv]
    refine ⟨fun n hop hmove hp => ?_, fun b u vis hop hwr => ?_⟩
    · simp [hop, State.servePeer, hmove, hp]
    · simp only [hop, State.servePeer, State.answerLater, hwr]
  case interrupt =>
    intro s m e he hcut i hi
    have hkinds : i = .iatBarrierArrival m ∨ i = .iatCounterAdd m ∨ i = .iatKernelInterrupt m := by simpa using hi
    refine ⟨fun hwhy => ?_, fun hwhy hwait hport => ⟨fun hbad => ?_, fun hbad hkind => ?_, fun nd pa at_ mt hd hreg hmove hp hbad v hv => ⟨fun hnd hkind => ?_, fun hnd hkind t ht => ⟨?_, fun w => ?_⟩⟩⟩⟩
    · rcases hkinds with rfl | rfl | rfl <;> exact congrArg Host.Outcome.next (onMsi_dropped hcut hwhy)
    · rcases hkinds with rfl | rfl | rfl <;> exact congrArg Host.Outcome.next ((onMsi_accepted he hcut hwhy hwait hport).trans (if_pos hbad))
    · exact congrArg Host.Outcome.next ((onMsi_accepted he hcut hwhy hwait hport).trans ((if_neg (ne_true_of_eq_false hbad)).trans (if_neg (Classical.not_not.mpr hkind))))
    · exact counterAdd_adds he hcut hwhy hwait hport hbad hd hreg hmove hp hv hnd hkind
    · exact barrierArrival_dropped he hcut hwhy hwait hport hbad hd hreg hmove hp hv hnd hkind ht
    · exact barrierArrival_arrives he hcut hwhy hwait hport hbad hd hreg hmove hp hv hnd hkind ht
  case image =>
    intro s key w hw hsaved
    have harm : ∀ upd, exec (.imageUpdate key upd) s = execImageUpdate key upd s := fun _ => rfl
    simp only [harm, execImageUpdate, hw, hsaved]
    exact ⟨fun _ _ => rfl, fun _ _ _ _ => rfl, fun _ _ _ => rfl, fun _ _ _ => rfl⟩
end Sys2Proof.Machine
end

section
/-! The ready pool and the placers: nodes, dispatch, completion, the placement of clusters and the creation of their groups (R62, R352 to R361, R368, R405). -/
namespace Sys2Proof.Machine

/-! ### The least of a list -/

theorem leastBy_eq_none {α : Type} {f : α → Nat} {l : List α} (h : leastBy f l = none) : l = [] := by
  cases l with
  | nil => rfl
  | cons x xs =>
    simp only [leastBy] at h
    split at h
    case h_1 => cases h
    case h_2 => split at h <;> cases h

/-- `leastBy` gives an element of the list that no other is below. -/
theorem leastBy_spec {α : Type} {f : α → Nat} {l : List α} {y : α} (h : leastBy f l = some y) : y ∈ l ∧ ∀ x ∈ l, f y ≤ f x := by
  induction l generalizing y with
  | nil => cases h
  | cons x xs ih =>
    simp only [leastBy] at h
    split at h
    case h_1 hnone =>
      cases h
      simp [leastBy_eq_none hnone]
    case h_2 z hz =>
      obtain ⟨hmem, hmin⟩ := ih hz
      split at h <;> cases h
      case isTrue hle => exact ⟨List.mem_cons_self, by simpa using fun x hx => Nat.le_trans hle (hmin x hx)⟩
      case isFalse hle => exact ⟨List.mem_cons_of_mem _ hmem, by simpa using ⟨by omega, hmin⟩⟩

/-- Of a rising list `leastBy` gives the first of the least. -/
theorem leastBy_first {f : Nat → Nat} {l : List Nat} {r : Nat} (hl : l.Pairwise (· < ·)) (hr : r ∈ l)
    (hmin : ∀ k ∈ l, f r ≤ f k ∧ (k < r → f r < f k)) : leastBy f l = some r := by
  induction l with
  | nil => cases hr
  | cons x xs ih =>
    obtain ⟨hx, hxs⟩ := List.pairwise_cons.mp hl
    rcases List.mem_cons.mp hr with rfl | hr
    · simp only [leastBy]
      split
      case h_1 => rfl
      case h_2 y hy => exact if_pos (hmin y (List.mem_cons_of_mem _ (leastBy_spec hy).1)).1
    · have hlt := (hmin x List.mem_cons_self).2 (hx r hr)
      simp only [leastBy, ih hxs hr (fun k hk => hmin k (List.mem_cons_of_mem _ hk))]
      exact if_neg (by omega)

/-! ### Readiness (R351, R352) -/

/-- Operands that are met are not tested again (R351). -/
theorem testTiles_met {n : Node} (h : n.tiles.all (·.met) = true) (s : State) : n.tiles.zipIdx.foldl (fun (s : State) t => s.testTile n t.2 t.1) s = s := by
  refine foldl_unchanged (fun u t ht => ?_) s
  have hmet := List.all_eq_true.mp h t.1 (List.fst_mem_of_mem_zipIdx ht)
  unfold State.testTile
  exact if_pos hmet

/-! ### Dispatch (R353) -/

/-- The dispatched node is READY, and no READY node is before it in priority and age. -/
theorem dispatchNode_spec {s : State} {n : Node} (hb : ∀ k ∈ s.nodes, k.prio ≤ 3 ∧ k.readyAt < 2 ^ 64) (h : s.dispatchNode = some n) :
    n ∈ s.nodes ∧ n.st = .ready ∧ ∀ k ∈ s.nodes, k.st = .ready → k.prio < n.prio ∨ (k.prio = n.prio ∧ n.readyAt ≤ k.readyAt) := by
  obtain ⟨hmem, hmin⟩ := leastBy_spec h
  obtain ⟨hn, hst⟩ := List.mem_filter.mp hmem
  refine ⟨hn, by simpa using hst, fun k hk hready => ?_⟩
  have hle := hmin k (List.mem_filter.mpr ⟨hk, by simpa using hready⟩)
  have hbn := hb n hn
  have hbk := hb k hk
  omega

/-- Grids without a statistics record join the list, nothing else (R356). -/
theorem foldl_joinGrid {gs : List Grid} (h : ∀ g ∈ gs, g.k.stats = 0) (s : State) :
    gs.foldl State.joinGrid s = { s with grids := s.grids ++ gs.map (fun g => { g with vis := [] }) } := by
  induction gs generalizing s with
  | nil => simp
  | cons g gs ih =>
    have hg : s.joinGrid g = { s with grids := s.grids ++ [{ g with vis := [] }] } := by
      simp [State.joinGrid, h g List.mem_cons_self]
    rw [List.foldl_cons, hg, ih (fun g hg => h g (List.mem_cons_of_mem _ hg))]
    simp

/-! ### Result records (R354) -/

@[simp] theorem leBytes_length (n x : Nat) : (leBytes n x).length = n := by
  induction n generalizing x with
  | zero => rfl
  | succ n ih => simp [leBytes, ih]

/-- The low bytes of a number read back as the number modulo their range (R1). -/
theorem leNat_leBytes (n x : Nat) : leNat (leBytes n x) = x % 256 ^ n := by
  induction n generalizing x with
  | zero => simp [leBytes, leNat, Nat.mod_one]
  | succ n ih =>
    rw [leBytes, leNat, ih, BitVec.toNat_ofNat, Nat.pow_succ' (n := n)]
    exact Nat.mod_mul.symm

/-- A field of a record whose bytes are those of a number in range. -/
theorem fieldAt_leBytes {b : List Byte} {off n x : Nat} (hb : (b.drop off).take n = leBytes n x) (hx : x < 256 ^ n) : fieldAt b off n = x := by
  rw [fieldAt, hb, leNat_leBytes, Nat.mod_eq_of_lt hx]

/-- The fields of a result record (R354). -/
theorem resultBytes_fields {st tag sub cause d : Nat} (hst : st < 2 ^ 32) (htag : tag < 2 ^ 32) (hsub : sub < 256) (hcause : cause < 256) (hd : d < 2 ^ 64) {b : List Byte}
    (hb : b = resultBytes st tag sub cause d) :
    b.length = 32 ∧ fieldAt b 0 4 = st ∧ fieldAt b 4 4 = tag ∧ fieldAt b 8 1 = sub ∧ fieldAt b 9 1 = cause ∧ fieldAt b 0x10 8 = d ∧ zeroBytes b 0xA 6 = true ∧ zeroBytes b 0x18 8 = true := by
  subst hb
  refine ⟨rfl, fieldAt_leBytes rfl hst, fieldAt_leBytes rfl htag, fieldAt_leBytes rfl hsub, fieldAt_leBytes rfl hcause, fieldAt_leBytes rfl hd, rfl, rfl⟩

/-! ### Placing a cluster (R30, R358, R361) -/

theorem nextFree_lt (held : List Nat) (fuel n : Nat) : nextFree held fuel n < 2 ^ 20 := by
  induction fuel generalizing n with
  | zero => exact Nat.mod_lt _ (by decide)
  | succ f ih =>
    unfold nextFree
    split
    · exact ih _
    · exact Nat.mod_lt _ (by decide)

/-- R30: a context number has 20 bits, and taking one leaves the workgroups. -/
theorem takeCtx_spec (s : State) (ten : Nat) (want : Option Nat) : (s.takeCtx ten want).1 < 2 ^ 20 ∧ (s.takeCtx ten want).2.wgs = s.wgs := by
  cases want with
  | none => exact ⟨nextFree_lt _ _ _, rfl⟩
  | some n => exact ⟨nextFree_lt _ _ _, rfl⟩

/-- Waking splits changes the groups of workgroups alone. -/
theorem wakeWhere_wgs (s : State) (p : Nat → Nat → Split → Bool) :
    ∃ f : Workgroup → Workgroup, (s.wakeWhere p).wgs = s.wgs.map f ∧ ∀ w, ∃ gs, f w = { w with groups := gs } := by
  refine ⟨_, rfl, fun w => ?_⟩
  by_cases h : w.phase = .saved
  · exact ⟨w.groups, if_pos h⟩
  · exact ⟨_, if_neg h⟩

/-- A workgroup as placed for a cluster of a grid. -/
def PlacedFor (gr : Grid) (c : Nat) (w : Workgroup) : Prop := w.ten = gr.ten ∧ w.grid = gr.id ∧ w.cluster = c ∧ w.phase = .starting ∧ w.ctx < 2 ^ 20

theorem PlacedFor.groups {gr : Grid} {c : Nat} {w : Workgroup} {gs : List Group} (h : PlacedFor gr c w) : PlacedFor gr c { w with groups := gs } := h

/-- Claiming and clearing cores leaves the workgroups. -/
theorem foldl_claim_wgs (gr : Grid) (size : Spot × Nat → Nat) (spots : List (Spot × Nat)) (s : State) :
    (spots.foldl (fun (s : State) e => (s.claimCore e.1.core gr.ten).zeroScr e.1.core e.1.spBase (size e)) s).wgs = s.wgs := by
  induction spots generalizing s with
  | nil => rfl
  | cons e es ih => rw [List.foldl_cons, ih]; rfl

/-- A scratchpad write to a core changes no workgroup but the groups of those that it wakes. -/
theorem scrWrite_wgs {w : Workgroup} (hw : w.phase = .starting) (s : State) (win off : Nat) (bs : List Byte) :
    ∃ f : Workgroup → Workgroup, (s.scrWrite w win off bs).wgs = s.wgs.map f ∧ ∀ w, ∃ gs, f w = { w with groups := gs } := by
  unfold State.scrWrite
  split
  case h_1 hsaved _ => rw [hw] at hsaved; cases hsaved
  case h_2 =>
    simp only [State.modCore_wgs, State.wakeCounter]
    exact wakeWhere_wgs s _

/-- A placed workgroup joins the others, and its scratchpad is written. -/
theorem joined_scrWrite_wgs {s t : State} {gr : Grid} {c : Nat} {w : Workgroup} (ht : t.wgs = s.wgs) (hw : PlacedFor gr c w) (win off : Nat) (bs : List Byte) :
    ∃ (f : Workgroup → Workgroup) (v : Workgroup), (({ t with wgs := t.wgs ++ [w] } : State).scrWrite w win off bs).wgs = (s.wgs ++ [v]).map f ∧ (∀ u, ∃ gs, f u = { u with groups := gs }) ∧ PlacedFor gr c v := by
  obtain ⟨-, -, -, hphase, -⟩ := id hw
  obtain ⟨f, hf, hgroups⟩ := scrWrite_wgs hphase ({ t with wgs := t.wgs ++ [w] } : State) win off bs
  exact ⟨f, w, by rw [hf, ht], hgroups, hw⟩

/-- A member is placed after the others, of which only groups change. -/
theorem placeMember_wgs (s : State) (gr : Grid) (c rank : Nat) (m : Nat × Nat × Nat) (spots : List Spot) (want : Option Nat) :
    ∃ (f : Workgroup → Workgroup) (v : Workgroup), (s.placeMember gr c rank m spots want).wgs = (s.wgs ++ [v]).map f ∧ (∀ u, ∃ gs, f u = { u with groups := gs }) ∧ PlacedFor gr c v := by
  obtain ⟨hctx, hwgs⟩ := takeCtx_spec s gr.ten want
  simp only [State.placeMember]
  refine joined_scrWrite_wgs ?_ ⟨rfl, rfl, rfl, rfl, hctx⟩ _ _ _
  rw [foldl_claim_wgs]
  exact hwgs

section
variable {gr : Grid} {c : Nat} {α : Type} (rank : α → Nat) (m : α → Nat × Nat × Nat) (spots : α → List Spot) (want : α → Option Nat)

/-- Members placed one after another stand behind the workgroups that were there. -/
theorem foldl_placeMember_wgs (es : List α) (n : Nat) (s : State) (hn : n ≤ s.wgs.length) (hs : ∀ w ∈ s.wgs.drop n, PlacedFor gr c w) :
    let t := es.foldl (fun (s : State) e => s.placeMember gr c (rank e) (m e) (spots e) (want e)) s
    t.wgs.length = s.wgs.length + es.length ∧ ∀ w ∈ t.wgs.drop n, PlacedFor gr c w := by
  induction es generalizing s with
  | nil => exact ⟨rfl, hs⟩
  | cons e es ih =>
    obtain ⟨f, w, hwgs, hf, hw⟩ := placeMember_wgs s gr c (rank e) (m e) (spots e) (want e)
    have hlen : (s.placeMember gr c (rank e) (m e) (spots e) (want e)).wgs.length = s.wgs.length + 1 := by simp [hwgs]
    have hmem : ∀ u ∈ (s.placeMember gr c (rank e) (m e) (spots e) (want e)).wgs.drop n, PlacedFor gr c u := by
      rw [hwgs, ← List.map_drop, List.drop_append_of_le_length hn]
      intro u hu
      obtain ⟨v, hv, rfl⟩ := List.mem_map.mp hu
      obtain ⟨gs, hgs⟩ := hf v
      rw [hgs]
      rcases List.mem_append.mp hv with hv | hv
      · exact (hs v hv).groups
      · exact (List.mem_singleton.mp hv ▸ hw).groups
    obtain ⟨hl, hp⟩ := ih _ (by omega) hmem
    exact ⟨by simp only [List.foldl_cons, List.length_cons]; omega, hp⟩

end

theorem fitCluster_length {k : Kernel} {gs : List Nat} {us : List (Nat × CoreUse)} {plan : List (List Spot)} (h : fitCluster k gs us = some plan) :
    plan.length = gs.length := by
  induction gs generalizing us plan with
  | nil => cases h; rfl
  | cons g gs ih =>
    simp only [fitCluster] at h
    split at h
    case h_1 => cases h
    case h_2 r _ =>
      obtain ⟨rest, hrest, rfl⟩ := Option.map_eq_some_iff.mp h
      simp [ih hrest]

/-- R358: a placement adds the members of the next cluster of a grid that has one and has not ended. -/
theorem placeNext_places {s : State} {gr : Grid} {r : Nat} {ctxs : List Nat} {t : State} (h : s.placeNext gr r ctxs = some t) :
    t.wgs.length = s.wgs.length + gr.csize ∧ (∀ w ∈ t.wgs.drop s.wgs.length, PlacedFor gr gr.next w) ∧ gr.next < gr.clusters ∧ gr.ended = none := by
  unfold State.placeNext at h
  split at h
  case isTrue => cases h
  case isFalse hopen =>
    simp only [not_or, Nat.not_le] at hopen
    obtain ⟨hnext, hended, -⟩ := hopen
    simp only at h
    split at h
    case h_1 => cases h
    case h_2 plan hplan =>
      cases h
      have hsize : plan.length = gr.csize := by simpa [Grid.members] using fitCluster_length hplan
      obtain ⟨hl, hp⟩ := foldl_placeMember_wgs (gr := gr) (c := gr.next) (fun e : ((Nat × Nat × Nat) × List Spot) × Nat => e.2) (fun e => e.1.1) (fun e => e.1.2) (fun e => ctxs[e.2]?)
        ((gr.members gr.next).zip plan).zipIdx s.wgs.length s (Nat.le_refl _) (by simp)
      refine ⟨hl.trans ?_, hp, hnext, by simpa using hended⟩
      simp [Grid.members, hsize]

/-! ### The registers of a group at its creation (R62, R368) -/

/-- What a change of register files keeps. -/
structure FilesOnly (g h : Group) : Prop where
  rest : h = { g with regs := h.regs, sregs := h.sregs, rpoison := h.rpoison }
  clean : g.rpoison = [] → h.rpoison = []

theorem FilesOnly.trans {a b c : Group} (x : FilesOnly a b) (y : FilesOnly b c) : FilesOnly a c := by
  refine ⟨?_, fun h => y.clean (x.clean h)⟩
  rw [y.rest, x.rest]

theorem FilesOnly.setReg (g : Group) (l : Nat) (t : Tier) (k : Nat) (v : W32) : FilesOnly g (g.setReg l t k v) := by
  cases t <;> exact ⟨rfl, fun h => by simp [Group.setReg, h]⟩

theorem FilesOnly.foldl {α : Type} {f : Group → α → Group} (hf : ∀ g a, FilesOnly g (f g a)) (l : List α) (g : Group) : FilesOnly g (l.foldl f g) := by
  induction l generalizing g with
  | nil => exact ⟨rfl, id⟩
  | cons a l ih => exact (hf g a).trans (ih _)

/-- A write to the s file leaves the lanes' registers. -/
theorem reg_setReg_s (g : Group) (l k i : Nat) (v : W32) : (g.setReg 0 .s k v).reg l .v i = g.reg l .v i := rfl
/-- A write to a lane's register leaves the s file. -/
theorem reg_s_setReg_v (g : Group) (l k i : Nat) (v : W32) : (g.setReg l .v k v).reg 0 .s i = g.reg 0 .s i := rfl

/-- The first n s registers set to the values of a list. -/
theorem foldl_setS (args : List W32) (n : Nat) (g : Group) :
    (∀ i, ((List.range n).foldl (fun g i => g.setReg 0 .s i (args.getD i 0)) g).reg 0 .s i = if i < n then args.getD i 0 else g.reg 0 .s i) ∧
    (∀ l i, ((List.range n).foldl (fun g i => g.setReg 0 .s i (args.getD i 0)) g).reg l .v i = g.reg l .v i) := by
  induction n with
  | zero => exact ⟨fun i => rfl, fun l i => rfl⟩
  | succ n ih =>
    obtain ⟨hs, hv⟩ := ih
    rw [List.range_succ, List.foldl_append]
    refine ⟨fun i => ?_, fun l i => (reg_setReg_s _ l n i _).trans (hv l i)⟩
    rw [List.foldl_cons, List.foldl_nil, setS_reg, hs]
    by_cases h : i = n
    · simp [h]
    · simp only [h, if_false, show i < n + 1 ↔ i < n by omega]

/-- R62: v252, v254 and v255 as a lane starts with them. -/
def startLane (ext : W32) (g : Group) (l : Nat) : Group := ((g.setReg l .v 254 ext).setReg l .v 255 0x10000000#32).setReg l .v 252 ext

theorem startLane_files (ext : W32) (g : Group) (l : Nat) : FilesOnly g (startLane ext g l) :=
  ((FilesOnly.setReg g l .v 254 ext).trans (.setReg _ l .v 255 _)).trans (.setReg _ l .v 252 ext)

/-- R62: what a register that read as v reads as once its lane has started. -/
def startValue (ext : W32) (i : Nat) (v : W32) : W32 := if i = 252 ∨ i = 254 then ext else if i = 255 then 0x10000000#32 else v

theorem startValue_twice (ext : W32) (i : Nat) (v : W32) : startValue ext i (startValue ext i v) = startValue ext i v := by
  unfold startValue
  split
  · rfl
  · split <;> rfl

theorem startLane_reg (ext : W32) (g : Group) (l : Nat) {l' i : Nat} (hi : i < 256) :
    (startLane ext g l).reg l' .v i = if l' = l then startValue ext i (g.reg l' .v i) else g.reg l' .v i := by
  have hset (g : Group) (k : Nat) (hk : k < 256) (v : W32) : (g.setReg l .v k v).reg l' .v i = if l' = l ∧ i = k then v else g.reg l' .v i := by
    rw [Group.reg_setReg (show Claims.InFile .v k from hk) (show Claims.InFile .v i from hi)]
    simp
  rw [startLane, hset _ _ (by decide), hset _ _ (by decide), hset _ _ (by decide), startValue]
  by_cases hl : l' = l
  · by_cases h2 : i = 252
    · simp [hl, h2]
    · by_cases h4 : i = 254
      · simp [hl, h4]
      · simp [hl, h2, h4]
  · simp [hl]

/-- The lanes of a list start, the others stay. -/
theorem foldl_startLane (ext : W32) (ls : List Nat) (g : Group) :
    (∀ i, (ls.foldl (startLane ext) g).reg 0 .s i = g.reg 0 .s i) ∧
    (∀ l, ∀ i < 256, (ls.foldl (startLane ext) g).reg l .v i = if l ∈ ls then startValue ext i (g.reg l .v i) else g.reg l .v i) := by
  induction ls generalizing g with
  | nil => exact ⟨fun i => rfl, fun l i _ => by simp⟩
  | cons a ls ih =>
    obtain ⟨hs, hv⟩ := ih (startLane ext g a)
    refine ⟨hs, fun l i hi => ?_⟩
    rw [List.foldl_cons, hv l i hi, startLane_reg ext g a hi]
    by_cases hl : l = a <;> by_cases hm : l ∈ ls <;> simp [hl, hm, startValue_twice]

/-- The s registers that a launch loads: eight arguments and the argument pointer (R368). -/
def Group.loadS (g : Group) (gr : Grid) (p : Nat) : Group :=
  (((List.range 8).foldl (fun g i => g.setReg 0 .s i (gr.args.getD i 0)) g).setReg 0 .s 8 (BitVec.ofNat 32 p)).setReg 0 .s 9 (BitVec.ofNat 32 (p / 2 ^ 32))

theorem loadArgs_eq (g : Group) (gr : Grid) (p : Nat) :
    g.loadArgs gr p = (if gr.k.vregs = 256 then lanesOf g.created else []).foldl (startLane (BitVec.ofNat 32 gr.k.extent)) (g.loadS gr p) := by
  unfold Group.loadArgs
  by_cases h : gr.k.vregs = 256
  · rw [if_pos h]
    exact if_neg (Classical.not_not.mpr h)
  · rw [if_neg h]
    exact if_pos h

theorem loadS_files (g : Group) (gr : Grid) (p : Nat) : FilesOnly g (g.loadS gr p) :=
  ((FilesOnly.foldl (fun g i => .setReg g 0 .s i _) (List.range 8) g).trans (.setReg _ 0 .s 8 _)).trans (.setReg _ 0 .s 9 _)

theorem loadS_reg (g : Group) (gr : Grid) (p : Nat) :
    (∀ i, (g.loadS gr p).reg 0 .s i = if i < 8 then gr.args.getD i 0 else if i = 8 then BitVec.ofNat 32 p else if i = 9 then BitVec.ofNat 32 (p / 2 ^ 32) else g.reg 0 .s i) ∧
    (∀ l i, (g.loadS gr p).reg l .v i = g.reg l .v i) := by
  obtain ⟨hs, hv⟩ := foldl_setS gr.args 8 g
  refine ⟨fun i => ?_, fun l i => by rw [Group.loadS, reg_setReg_s, reg_setReg_s, hv]⟩
  rw [Group.loadS, setS_reg, setS_reg, hs]
  by_cases h9 : i = 9
  · simp [h9]
  · by_cases h8 : i = 8
    · simp [h8]
    · simp [h8, h9]

/-- R62, R368: what a launch loads into untouched register files. -/
theorem loadArgs_spec {g h : Group} {gr : Grid} {p : Nat} (hregs : g.regs = []) (hsregs : g.sregs = []) (hclean : g.rpoison = []) (hh : h = g.loadArgs gr p) :
    h = { g with regs := h.regs, sregs := h.sregs } ∧
    (∀ i, h.reg 0 .s i = if i < 8 then gr.args.getD i 0 else if i = 8 then BitVec.ofNat 32 p else if i = 9 then BitVec.ofNat 32 (p / 2 ^ 32) else 0) ∧
    (∀ l < 32, ∀ i < 256, h.reg l .v i = if gr.k.vregs = 256 ∧ g.created.getLsbD l = true then (if i = 252 ∨ i = 254 then BitVec.ofNat 32 gr.k.extent else if i = 255 then 0x10000000#32 else 0) else 0) := by
  rw [loadArgs_eq] at hh
  obtain ⟨hs, hv⟩ := foldl_startLane (BitVec.ofNat 32 gr.k.extent) (if gr.k.vregs = 256 then lanesOf g.created else []) (g.loadS gr p)
  obtain ⟨hls, hlv⟩ := loadS_reg g gr p
  have hfiles : FilesOnly g h := hh ▸ (loadS_files g gr p).trans (.foldl (startLane_files _) _ _)
  have hszero (i : Nat) : g.reg 0 .s i = 0 := by simp [Group.reg, hsregs]
  have hvzero (l i : Nat) : g.reg l .v i = 0 := by simp [Group.reg, hregs]
  rw [← hh] at hs hv
  refine ⟨?_, fun i => by rw [hs, hls, hszero], fun l _ i hi => ?_⟩
  · have hrest := hfiles.rest
    rw [hfiles.clean hclean, ← hclean] at hrest
    exact hrest
  · rw [hv l i hi, hlv, hvzero]
    by_cases h256 : gr.k.vregs = 256 <;> simp [h256, mem_lanesOf, startValue]

/-! ### The events of the pool and of the placers -/

theorem dispatch_refuses {s t : State} {n : Node} {gs : List Grid} {status sub : Nat} (hn : s.dispatchNode = some n) (hat : s.dispatchAt ≤ s.cycle)
    (hp : s.planGrids n 0 n.subs = .ok (gs, some (status, sub)) t) :
    execDispatch s = .next (({ t with dispatchAt := t.cycle + 16 } : State).modNode n.num (fun n => n.refuse status sub)) := by
  simp only [execDispatch, hn, hp]
  exact if_neg (Nat.not_lt.mpr hat)

/-- R353: without statistics records to place, an accepted node starts at once. -/
theorem dispatch_starts {s t : State} {n : Node} {gs : List Grid} (hn : s.dispatchNode = some n) (hat : s.dispatchAt ≤ s.cycle)
    (hp : s.planGrids n 0 n.subs = .ok (gs, none) t) (hstats : ∀ g ∈ gs, g.k.stats = 0) :
    execDispatch s = .next (n.subs.zipIdx.foldl (fun (s : State) r => s.startSub n r.2 r.1) { ({ t with dispatchAt := t.cycle + 16, nextId := t.nextId + 4, seq := t.seq + 4 } : State).modNode n.num (fun k => { k with st := .running, subs := k.subs.map (fun r => { r with started := true }) }) with grids := t.grids ++ gs.map (fun g => { g with vis := [] }) }) := by
  have hranges : gs.flatMap recordRange = [] := List.flatMap_eq_nil_iff.mpr fun g hg => if_pos (hstats g hg)
  simp only [execDispatch, hn, hp, hranges, foldl_joinGrid hstats]
  exact if_neg (Nat.not_lt.mpr hat)

section
variable {s : State} {num : Nat} {n : Node} (hn : s.node? num = some n) (hst : n.st = .running) (hdone : n.subs.all (·.done) = true) (hvis : s.allPassed n.vis = true)
include hn hst hdone

/-- R354: once its sub-launches have completed a node goes through the steps of its completion. -/
theorem nodeComplete_completes : execNodeComplete num s = .next (s.completeNode n) := by
  simp [execNodeComplete, hn, hst, hdone]

include hvis

theorem nodeComplete_record {t : State} {v : Map Nat} (hph : n.phase = 0)
    (hput : s.putResult n.pasid n.resaddr (resultBytes n.status n.tag n.statSub n.cause n.detail) = (t, some v)) :
    execNodeComplete num s = .next (t.modNode n.num (fun k => { k with phase := 1, vis := visJoin v t.qfeVis })) := by
  rw [nodeComplete_completes hn hst hdone]
  simp [State.completeNode, hvis, hph, hput]

theorem nodeComplete_signal {t u : State} (hph : n.phase = 1) (hadd : s.addSignal n.pasid n.sigaddr n.sigval = (some t, u)) :
    execNodeComplete num s = .next (t.modNode n.num (fun k => { k with phase := 2, vis := [] })) := by
  rw [nodeComplete_completes hn hst hdone]
  simp [State.completeNode, hvis, hph, hadd]

theorem nodeComplete_retires (hph : n.phase = 2) (hlens : n.lens = []) (hlast : s.lastOf n = none) : execNodeComplete num s = .next (s.retireNode n) := by
  rw [nodeComplete_completes hn hst hdone]
  simp [State.completeNode, hvis, hph, hlens, hlast]

end

theorem hostFunctionReport_ends {s : State} {num sub : Nat} {n : Node} {r : SubRun} (ok : Bool) (hnum : num < 4096) (hn : s.node? num = some n) (hst : n.st = .running)
    (hr : n.subs[sub]? = some r) (hop : fieldAt r.bytes 0 1 = 4) (hstart : r.started = true) (hdone : r.done = false) :
    execHostFunctionReport num sub ok s = .next (s.subDone num sub (if ok then 0 else 9) 0 0) := by
  simp only [execHostFunctionReport, hn, hr]
  rw [if_neg (Nat.not_le.mpr hnum), if_pos ⟨hst, hop, hstart, ne_true_of_eq_false hdone⟩]

section
variable {s : State} {r : Nat} {c : List Nat}

/-- R359: a placer does not act again on what it has seen. -/
theorem placerActs_seen (h : (s.steward r).seen = s.placerSees r) : execPlacerActs r c s = .next s := by
  unfold execPlacerActs
  exact if_pos (.inr (.inr (.inr (.inr h))))

/-- With no saved workgroup there is nothing to restore (R52). -/
theorem not_restorable (hsaved : s.wgs.all (fun w => w.phase != .saved) = true) : ∀ w ∈ s.wgs, s.restorable r w = false := fun w hw => by
  have hphase : (w.phase == .saved) = false := by simpa using List.all_eq_true.mp hsaved w hw
  simp [State.restorable, hphase]

/-- R359: with nothing to restore, a placer's act is one placement. -/
theorem placerActs_places (hup : s.stewardUp r = true) (hten : (s.ten (s.steward r).ten).st = 2) (hheld : s.held.contains (s.steward r).ten = false)
    (hact : (s.steward r).actedAt ≠ some s.cycle) (hseen : (s.steward r).seen ≠ s.placerSees r) (hsaved : s.wgs.all (fun w => w.phase != .saved) = true) :
    execPlacerActs r c s = .next ((s.placeStep r (s.steward r).ten c).placerActed r (s.placerSees r)) := by
  have hnone : s.wgs.filter (fun w => s.restorable r w) = [] := List.filter_eq_nil_iff.mpr fun w hw => ne_true_of_eq_false (not_restorable hsaved w hw)
  have horder : s.restoreOrder r = [] := by simp [State.restoreOrder, hnone]
  have halone : s.wgs.any (fun w => w.alone && s.restorable r w) = false := List.any_eq_false.mpr fun w hw => by simp [not_restorable hsaved w hw]
  simp only [execPlacerActs, horder, List.map_nil, State.restoreAll]
  rw [if_neg (by simp [hup, hten, hact, hseen]; simpa using hheld), if_neg Bool.false_ne_true, if_neg (ne_true_of_eq_false halone)]

theorem placeStep_empty {ten : Nat} (h : s.placeList ten = []) : s.placeStep r ten c = s := by
  simp [State.placeStep, h]

/-- R359 step 2: the head's next cluster, where no stall is being resolved and no workgroup of its grid is saved. -/
theorem placeStep_head {ten : Nat} {hd : Grid} {rest : List Grid} {t : State} (h : s.placeList ten = hd :: rest) (hswap : (hd :: rest).all (fun g => !g.swapping) = true)
    (hsaved : s.wgs.all (fun w => w.phase != .saved) = true) (hp : s.placeNext hd r c = some t) : s.placeStep r ten c = t.headCheck s ten := by
  have hnone : (hd :: rest).filter (·.swapping) = [] := List.filter_eq_nil_iff.mpr fun g hg => by simpa using List.all_eq_true.mp hswap g hg
  have hmay : s.mayPlace hd = true := by
    have hany : s.wgs.any (fun w => w.grid == hd.id && w.phase == .saved && !w.alone) = false := List.any_eq_false.mpr fun w hw => by
      have hphase : (w.phase == .saved) = false := by simpa using List.all_eq_true.mp hsaved w hw
      simp [hphase]
    simp [State.mayPlace, hany]
  simp only [State.placeStep, h, hnone, List.findSome?_nil, hmay, hp]
  rfl

end

theorem groupCreate_creates {s : State} {key i : Nat} {w : Workgroup} {g : Group} {gr : Grid} (hw : s.wg? key = some w) (hg : w.groups[i]? = some g) (hgr : s.grid? w.grid = some gr)
    (hstart : g.started = false) (hsince : w.since + 256 ≤ s.cycle) (hph : w.phase = .starting ∨ w.phase = .resident) :
    execGroupCreate key i s = .next ((({ s with seq := s.seq + 1 } : State).modWg key (fun w => { w with phase := .resident, groups := w.groups.set i { g.loadArgs gr gr.argsPtr with started := true, table := [some { wi := gr.k.entry, mask := g.created, qAt := s.seq, acqAt := gr.joined }, none, none, none, none, none, none, none] } })).wakeBlk (.member key)) := by
  simp only [execGroupCreate, hw, hg, hgr]
  refine if_neg ?_
  rintro (h | h | ⟨h1, h2⟩)
  · rw [hstart] at h; cases h
  · exact Nat.not_le.mpr h hsince
  · exact hph.elim h1 h2

theorem idleCores_le (s : State) (r : Nat) : s.idleCores r ≤ 8 := Nat.le_trans (List.length_filter_le _ _) (Nat.le_of_eq List.length_range)

/-- R360: the region of the tenancy with the most idle cores, the first among equals, is reserved for a head of age 2^20. -/
theorem headAgeReserve_reserves {s : State} {ten t r : Nat} (ht : (s.head ten).bind (·.headSince) = some t) (hage : t + 2 ^ 20 ≤ s.cycle)
    (hfree : ∀ k < 24, (s.steward k).ten = ten → (s.steward k).reserved = false) (hr : r < 24) (hten : (s.steward r).ten = ten)
    (hmost : ∀ k < 24, (s.steward k).ten = ten → s.idleCores k ≤ s.idleCores r ∧ (k < r → s.idleCores k < s.idleCores r)) :
    execHeadAgeReserve ten s = .next (s.modSteward r (fun k => { k with reserved := true })) := by
  have hregion (k : Nat) : k ∈ (List.range 24).filter (fun r => (s.steward r).ten == ten) ↔ k < 24 ∧ (s.steward k).ten = ten := by simp
  have hleast : leastBy (fun r => 8 - s.idleCores r) ((List.range 24).filter (fun r => (s.steward r).ten == ten)) = some r :=
    leastBy_first (List.Pairwise.filter _ List.pairwise_lt_range) ((hregion r).mpr ⟨hr, hten⟩) fun k hk => by
      obtain ⟨hle, hlt⟩ := hmost k ((hregion k).mp hk).1 ((hregion k).mp hk).2
      have hk8 := idleCores_le s k
      have hr8 := idleCores_le s r
      exact ⟨by omega, fun h => by have := hlt h; omega⟩
  have hnone : ((List.range 24).filter (fun r => (s.steward r).ten == ten)).any (fun r => (s.steward r).reserved) = false :=
    List.any_eq_false.mpr fun k hk => ne_true_of_eq_false (hfree k ((hregion k).mp hk).1 ((hregion k).mp hk).2)
  simp only [execHeadAgeReserve, ht, hleast, hnone]
  exact if_neg (by simp; omega)

/-- Settles O51: each event's clause is its lemma above. That a placer acts at most once in a cycle is the choice of log entry 62. -/
theorem poolAndPlacement : Obligations.PoolAndPlacement := by
  unfold Obligations.PoolAndPlacement
  refine ⟨?pending, ?successor, ?held, fun s n => dispatchNode_spec,
    fun s n t hn hat => ⟨fun status sub gs => dispatch_refuses hn hat, fun gs => dispatch_starts hn hat⟩,
    fun s num n hn hst hdone hvis => ⟨fun t v => nodeComplete_record hn hst hdone hvis, fun t u => nodeComplete_signal hn hst hdone hvis, nodeComplete_retires hn hst hdone hvis⟩,
    fun s p b v => ⟨rfl, rfl⟩, fun st tag sub cause d hst htag hsub hcause hd b => resultBytes_fields hst htag hsub hcause hd,
    fun s num n sub ok r => hostFunctionReport_ends ok, ?placer, fun s gr r c t => placeNext_places,
    fun s key i w g gr => groupCreate_creates, fun g gr p h => loadArgs_spec, fun s ten t r => headAgeReserve_reserves⟩
  case pending =>
    intro s num n hn hst
    change (_ → execPredecessorsRetired num s = _) ∧ (_ → _ → execPredecessorsRetired num s = _) ∧ (_ → _ → execPredecessorsRetired num s = _)
    simp only [execPredecessorsRetired, hn]
    refine ⟨fun h => if_pos (.inr h), fun h ht => ?_, fun h ht => ?_⟩
    · rw [if_neg (by simp [hst, h]), if_pos ht]
      rfl
    · rw [if_neg (by simp [hst, h]), if_neg ht]
  case successor =>
    intro n num status hst hpred
    unfold Node.afterPred
    rw [if_neg (by simpa [hst] using hpred)]
    exact ⟨fun h => if_pos h, fun h => if_neg h⟩
  case held =>
    intro s num n hn hst hmet
    change execTileOperandsMet num s = _
    simp only [execTileOperandsMet, hn, testTiles_met hmet]
    rw [if_neg (Classical.not_not.mpr hst), if_pos ⟨hst, hmet⟩]
    rfl
  case placer =>
    intro s r c hup hten hheld hact
    refine ⟨placerActs_seen, fun hseen hsaved acted hacted => ⟨fun hnil => ?_, fun hd rest t hlist hswap hp => ?_⟩⟩
    · rw [hacted]
      exact (placerActs_places hup hten hheld hact hseen hsaved).trans (by rw [placeStep_empty hnil]; rfl)
    · rw [hacted]
      exact (placerActs_places hup hten hheld hact hseen hsaved).trans (by rw [placeStep_head hlist hswap hsaved hp]; rfl)

end Sys2Proof.Machine
end

section
/-! The encoder against the decoder (R106, R109, R114, R118 to R125). Each layer of the encoder puts fields together and the same layer of
the decoder cuts them apart; one equivalence for each layer says that the one is the other read backwards. -/
namespace Sys2Proof
open Machine

/-! ### Fields of a word -/

/-- Two fields put together are the bits of x from s on exactly when each field is its own piece of x. -/
theorem append_eq_extractLsb' {n s a b : Nat} {hi : BitVec a} {lo : BitVec b} {x : BitVec n} :
    hi ++ lo = x.extractLsb' s (a + b) ↔ hi = x.extractLsb' (s + b) a ∧ lo = x.extractLsb' s b := by
  rw [← BitVec.extractLsb'_append_extractLsb'_eq_extractLsb' rfl]
  refine ⟨fun h => ⟨?_, ?_⟩, fun ⟨hhi, hlo⟩ => by rw [hhi, hlo]⟩
  · have hcut := congrArg (BitVec.extractLsb' b a) h
    rwa [BitVec.extractLsb'_append_eq_left, BitVec.extractLsb'_append_eq_left] at hcut
  · have hcut := congrArg (BitVec.extractLsb' 0 b) h
    rwa [BitVec.extractLsb'_append_eq_right, BitVec.extractLsb'_append_eq_right] at hcut

theorem append_eq_iff {a b : Nat} {hi : BitVec a} {lo : BitVec b} {x : BitVec (a + b)} :
    hi ++ lo = x ↔ hi = x.extractLsb' b a ∧ lo = x.extractLsb' 0 b := by
  simpa using append_eq_extractLsb' (hi := hi) (lo := lo) (x := x) (s := 0)

theorem eq_append_iff {a b : Nat} {hi : BitVec a} {lo : BitVec b} {x : BitVec (a + b)} :
    x = hi ++ lo ↔ x.extractLsb' b a = hi ∧ x.extractLsb' 0 b = lo := by
  rw [eq_comm, append_eq_iff, eq_comm, @eq_comm _ lo]

/-- A flag is one bit of the word. -/
theorem boolBit_eq_extractLsb' {n i : Nat} {b : Bool} {x : BitVec n} : boolBit b = x.extractLsb' i 1 ↔ b = x.getLsbD i := by
  rw [BitVec.getLsbD_eq_extractLsb']
  generalize x.extractLsb' i 1 = y
  revert b y
  decide

/-- R109: the word is put together from the fields that the decoder cuts it into. -/
theorem packRaw_eq_iff {r : Raw} {w : W96} : packRaw r = w ↔ r = unpackRaw w := by
  obtain ⟨x, c, b, a, d, ⟨mod, j, u, pneg, prd⟩, op⟩ := r
  rw [packRaw, append_eq_iff]
  iterate 9 rw [append_eq_extractLsb']
  simp only [unpackRaw, fieldOf, Raw.mk.injEq, Common.mk.injEq, boolBit_eq_extractLsb', and_assoc]

/-! ### Operands (R114) -/

/-- The tier that a TIER field selects. -/
def unpackTier (x : BitVec 2) : Tier := match x.toNat with | 0 => .v | 1 => .o | 2 => .h | _ => .s

theorem packTier_eq_iff {t : Tier} {x : BitVec 2} : packTier t = x ↔ t = unpackTier x := by
  revert x
  cases t <;> decide

theorem unpackOpnd_eq (x : BitVec 14) : unpackOpnd x =
    if x.getLsbD 13 then if x.extractLsb' 4 8 = 0#8 then some (.chan (x.getLsbD 12) (x.extractLsb' 0 4)) else none
    else some (.reg (unpackTier (x.extractLsb' 11 2)) (x.extractLsb' 8 3) (x.extractLsb' 0 8)) := rfl

theorem packOpnd_reg_eq_iff {t : Tier} {m : BitVec 3} {i : BitVec 8} {x : BitVec 14} : packOpnd (.reg t m i) = x ↔
    false = x.getLsbD 13 ∧ t = unpackTier (x.extractLsb' 11 2) ∧ m = x.extractLsb' 8 3 ∧ i = x.extractLsb' 0 8 := by
  rw [packOpnd, show 0#1 = boolBit false from rfl, append_eq_iff, append_eq_extractLsb', append_eq_extractLsb']
  simp only [boolBit_eq_extractLsb', packTier_eq_iff, and_assoc]

theorem packOpnd_chan_eq_iff {p : Bool} {c : BitVec 4} {x : BitVec 14} : packOpnd (.chan p c) = x ↔
    true = x.getLsbD 13 ∧ p = x.getLsbD 12 ∧ 0#8 = x.extractLsb' 4 8 ∧ c = x.extractLsb' 0 4 := by
  rw [packOpnd, show 1#1 = boolBit true from rfl, append_eq_iff, append_eq_extractLsb', append_eq_extractLsb']
  simp only [boolBit_eq_extractLsb', and_assoc]

theorem packOpnd_eq_iff {o : Opnd} {x : BitVec 14} : packOpnd o = x ↔ unpackOpnd x = some o := by
  rw [unpackOpnd_eq]
  cases o with
  | reg t m i =>
    rw [packOpnd_reg_eq_iff]
    cases x.getLsbD 13 <;> simp [eq_comm]
  | chan p c =>
    rw [packOpnd_chan_eq_iff]
    cases x.getLsbD 13 <;> simp [eq_comm, and_left_comm]

/-! ### Forms (R118, R120 to R124)

In each form the layout of X, of C or of B is unfolded into its fields; what remains compares the two records field by field, or shows
that both sides fail where an operand field has a bit that R114 marks zero. -/

theorem FormL.raw_eq_iff {w : FormL} {op : BitVec 10} {r : Raw} : w.raw op = r ↔ op = r.op ∧ r.formL = some w := by
  obtain ⟨com, d, a, b, c, fn, ty2, ty⟩ := w
  obtain ⟨rx, rc, rb, ra, rd, rcom, rop⟩ := r
  simp only [FormL.raw, Raw.mk.injEq, packOpnd_eq_iff, Raw.formL]
  rw [append_eq_iff, append_eq_extractLsb']
  split <;> grind

theorem FormI.raw_eq_iff {w : FormI} {op : BitVec 10} {r : Raw} : w.raw op = r ↔ op = r.op ∧ r.formI = some w := by
  obtain ⟨com, d, a, ty, imm⟩ := w
  obtain ⟨rx, rc, rb, ra, rd, rcom, rop⟩ := r
  have himm : imm = rx ++ rc ↔ imm.extractLsb' 14 20 = rx ∧ imm.extractLsb' 0 14 = rc := eq_append_iff (a := 20) (b := 14)
  simp only [FormI.raw, Raw.mk.injEq, packOpnd_eq_iff, Raw.formI]
  rw [append_eq_iff]
  split <;> grind

theorem FormM.raw_eq_iff {w : FormM} {op : BitVec 10} {r : Raw} : w.raw op = r ↔ op = r.op ∧ r.formM = some w := by
  obtain ⟨com, d, a, b, nt, io, scope, ord, sph, sgn, sz, off⟩ := w
  obtain ⟨rx, rc, rb, ra, rd, rcom, rop⟩ := r
  simp only [FormM.raw, Raw.mk.injEq, packOpnd_eq_iff, Raw.formM, show 0#1 = boolBit false from rfl]
  rw [append_eq_iff]
  iterate 6 rw [append_eq_extractLsb']
  simp only [boolBit_eq_extractLsb']
  split <;> grind

theorem FormK.raw_eq_iff {w : FormK} {op : BitVec 10} {r : Raw} : w.raw op = r ↔ op = r.op ∧ r.formK = some w := by
  obtain ⟨com, d, a, b, kind, off⟩ := w
  obtain ⟨rx, rc, rb, ra, rd, rcom, rop⟩ := r
  have hxc : (kind ++ off).extractLsb' 14 20 = rx ∧ (kind ++ off).extractLsb' 0 14 = rc ↔
      kind = (rx ++ rc).extractLsb' 32 2 ∧ off = (rx ++ rc).extractLsb' 0 32 := eq_append_iff.symm.trans append_eq_iff
  simp only [FormK.raw, Raw.mk.injEq, packOpnd_eq_iff, Raw.formK]
  split <;> grind

theorem FormE.raw_eq_iff {w : FormE} {op : BitVec 10} {r : Raw} : w.raw op = r ↔ op = r.op ∧ r.formE = some w := by
  obtain ⟨com, d, a, b, c, eimm, rel, acq, scope⟩ := w
  obtain ⟨rx, rc, rb, ra, rd, rcom, rop⟩ := r
  simp only [FormE.raw, Raw.mk.injEq, packOpnd_eq_iff, Raw.formE]
  rw [append_eq_iff, append_eq_extractLsb', append_eq_extractLsb']
  simp only [boolBit_eq_extractLsb']
  split <;> grind

/-! ### The opcode map (R125) -/

/-- An instruction whose constructor carries the form of an opcode, with its word cut as R109. -/
def OpKind.Cuts (k : OpKind) (i : Instr) (r : Raw) : Prop :=
  match k with
  | .l mk => ∃ w, w.raw r.op = r ∧ mk w = i
  | .i mk => ∃ w, w.raw r.op = r ∧ mk w = i
  | .m mk => ∃ w, w.raw r.op = r ∧ mk w = i
  | .k mk => ∃ w, w.raw r.op = r ∧ mk w = i
  | .e mk => ∃ w, w.raw r.op = r ∧ mk w = i

/-- A constructor's word has the opcode at which the map names the constructor. -/
theorem opMap_of_raw {i : Instr} {r : Raw} (h : i.raw = some r) : ∃ k, opMap r.op.toNat = some k ∧ k.Cuts i r := by
  unfold Instr.raw at h
  split at h
  all_goals cases h
  all_goals exact ⟨_, rfl, _, rfl, rfl⟩

/-- The instructions of an opcode's constructor have that opcode in their words. -/
def OpKind.HasOp (k : OpKind) (op : BitVec 10) : Prop :=
  match k with
  | .l mk => ∀ w, (mk w).raw = some (w.raw op)
  | .i mk => ∀ w, (mk w).raw = some (w.raw op)
  | .m mk => ∀ w, (mk w).raw = some (w.raw op)
  | .k mk => ∀ w, (mk w).raw = some (w.raw op)
  | .e mk => ∀ w, (mk w).raw = some (w.raw op)

theorem hasOp_of_opMap {n : Nat} {k : OpKind} (h : opMap n = some k) : k.HasOp (BitVec.ofNat 10 n) := by
  unfold opMap at h
  split at h
  all_goals cases h
  all_goals exact fun _ => rfl

theorem raw_of_opMap {i : Instr} {r : Raw} {k : OpKind} (h : opMap r.op.toNat = some k) (hi : k.Cuts i r) : i.raw = some r := by
  have hop := hasOp_of_opMap h
  rw [BitVec.ofNat_toNat, BitVec.setWidth_eq] at hop
  cases k
  all_goals
    obtain ⟨w, hr, rfl⟩ := hi
    exact (hop w).trans (congrArg some hr)

/-- What the decoder reads where the map has an entry: the constructor applied to the form, where the bits lie in the form. -/
def OpKind.read (k : OpKind) (r : Raw) : Option Instr :=
  match k with
  | .l mk => r.formL.map mk
  | .i mk => r.formI.map mk
  | .m mk => r.formM.map mk
  | .k mk => r.formK.map mk
  | .e mk => r.formE.map mk

theorem OpKind.read_eq_some_iff {k : OpKind} {r : Raw} {i : Instr} : k.read r = some i ↔ k.Cuts i r := by
  cases k with
  | l mk => simp [read, Cuts, FormL.raw_eq_iff]
  | i mk => simp [read, Cuts, FormI.raw_eq_iff]
  | m mk => simp [read, Cuts, FormM.raw_eq_iff]
  | k mk => simp [read, Cuts, FormK.raw_eq_iff]
  | e mk => simp [read, Cuts, FormE.raw_eq_iff]

theorem parse_eq (w : W96) : parse w = (opMap (unpackRaw w).op.toNat).elim (.ok (.unassignedOpcode w))
    fun k => (k.read (unpackRaw w)).elim (.error .reserved) .ok := by
  simp only [parse]
  cases opMap (unpackRaw w).op.toNat with
  | none => rfl
  | some k =>
    cases k with
    | l mk => cases h : (unpackRaw w).formL <;> simp [OpKind.read, h]
    | i mk => cases h : (unpackRaw w).formI <;> simp [OpKind.read, h]
    | m mk => cases h : (unpackRaw w).formM <;> simp [OpKind.read, h]
    | k mk => cases h : (unpackRaw w).formK <;> simp [OpKind.read, h]
    | e mk => cases h : (unpackRaw w).formE <;> simp [OpKind.read, h]

/-- A word is cut into an instruction that encodes to its bits, or it is an unassigned opcode's. -/
theorem parse_eq_ok_iff {w : W96} {i : Instr} :
    parse w = .ok i ↔ (opMap (unpackRaw w).op.toNat = none ∧ i = .unassignedOpcode w) ∨ i.raw = some (unpackRaw w) := by
  rw [parse_eq]
  constructor
  · intro h
    cases hk : opMap (unpackRaw w).op.toNat with
    | none => simpa [hk, eq_comm] using Or.inl h
    | some k =>
      cases hi : k.read (unpackRaw w) with
      | none => simp [hk, hi] at h
      | some j =>
        have hji : j = i := by simpa [hk, hi] using h
        exact .inr (raw_of_opMap hk (OpKind.read_eq_some_iff.mp (hji ▸ hi)))
  · rintro (⟨hnone, rfl⟩ | hraw)
    · rw [hnone]
      rfl
    · obtain ⟨k, hk, hi⟩ := opMap_of_raw hraw
      rw [hk, Option.elim_some, OpKind.read_eq_some_iff.mpr hi, Option.elim_some]

/-! ### Words -/

theorem encode_unassigned (w : W96) : encode (.unassignedOpcode w) = some w := rfl

theorem encode_eq_raw {i : Instr} (h : ∀ w, i ≠ .unassignedOpcode w) : encode i = i.raw.map packRaw := by
  unfold encode
  split
  · exact (h _ rfl).elim
  · rfl

theorem encode_of_raw {i : Instr} {r : Raw} (h : i.raw = some r) : encode i = some (packRaw r) := by
  rw [encode_eq_raw (by rintro w rfl; cases h), h, Option.map_some]

/-- An instruction's own word is cut into it. -/
theorem parse_packRaw {i : Instr} {r : Raw} (h : i.raw = some r) : parse (packRaw r) = .ok i :=
  parse_eq_ok_iff.mpr (.inr (by rw [h, ← packRaw_eq_iff.mp rfl]))

theorem encode_of_parse {w : W96} {i : Instr} (h : parse w = .ok i) : encode i = some w := by
  obtain ⟨_, rfl⟩ | hraw := parse_eq_ok_iff.mp h
  · rfl
  · rw [encode_of_raw hraw, packRaw_eq_iff.mpr rfl]

/-- A word that is cut into an instruction which breaks no rule decodes to it. -/
theorem decode_of_parse {w : W96} {i : Instr} (h : parse w = .ok i) (hl : i.illegal Alloc.max = none) : decode w = .ok i := by
  unfold decode
  rw [h]
  split
  next hp => cases hp
  next hp =>
    cases hp
    rfl
  next hp =>
    cases hp
    rw [hl]

/-- A word whose bits do not lie in the form of its opcode is rejected for a reserved bit (R125). -/
theorem decode_reserved {w : W96} {k : OpKind} (hk : opMap (unpackRaw w).op.toNat = some k) (hr : k.read (unpackRaw w) = none) :
    decode w = .error .reserved := by
  have hp : parse w = .error .reserved := by rw [parse_eq, hk, Option.elim_some, hr, Option.elim_none]
  rw [decode, hp]

theorem decode_unassigned {w : W96} (h : opMap (w.toNat % 1024) = none) : decode w = .ok (.unassignedOpcode w) := by
  have hop : (unpackRaw w).op.toNat = w.toNat % 1024 := by simp [unpackRaw, fieldOf]
  have hp : parse w = .ok (.unassignedOpcode w) := parse_eq_ok_iff.mpr (.inl ⟨hop ▸ h, rfl⟩)
  rw [decode, hp]

/-- The word of an instruction that breaks no rule decodes to it; the row of an unassigned opcode breaks one. -/
theorem decode_of_encode {i : Instr} {w : W96} (h : encode i = some w) (hl : i.illegal Alloc.max = none) : decode w = .ok i := by
  cases hraw : i.raw with
  | none =>
    have hne : ∀ u, i ≠ .unassignedOpcode u := by
      rintro u rfl
      cases hl
    rw [encode_eq_raw hne, hraw] at h
    cases h
  | some r =>
    rw [encode_of_raw hraw, Option.some_inj] at h
    exact h ▸ decode_of_parse (parse_packRaw hraw) hl

/-- R106: twelve bytes are read as the word that they make, and what follows them is left. -/
theorem decodeBytes_append {bs : List Byte} (h : bs.length = 12) (rest : List Byte) :
    decodeBytes (bs ++ rest) = (decode (BitVec.ofNat 96 (leNat bs))).map (·, rest) := by
  have hlen : ¬ (bs ++ rest).length < 12 := by simp [h]
  rw [decodeBytes, if_neg hlen, List.take_left' h, List.drop_left' h]
  cases decode (BitVec.ofNat 96 (leNat bs)) <;> rfl

theorem decodeBytes_eq_ok_iff {bs : List Byte} {i : Instr} (h : bs.length = 12) :
    decodeBytes bs = .ok (i, []) ↔ decode (BitVec.ofNat 96 (leNat bs)) = .ok i := by
  rw [← bs.append_nil, decodeBytes_append h, bs.append_nil]
  cases decode (BitVec.ofNat 96 (leNat bs)) <;> simp [Except.map]

theorem decodeBytes_eq_error_iff {bs : List Byte} {e : DecodeError} (h : bs.length = 12) :
    decodeBytes bs = .error e ↔ decode (BitVec.ofNat 96 (leNat bs)) = .error e := by
  rw [← bs.append_nil, decodeBytes_append h, bs.append_nil]
  cases decode (BitVec.ofNat 96 (leNat bs)) <;> simp [Except.map]

theorem decodeBytes_leBytes (w : W96) (rest : List Byte) : decodeBytes (leBytes 12 w.toNat ++ rest) = (decode w).map (·, rest) := by
  rw [decodeBytes_append (leBytes_length 12 _), leNat_leBytes, Nat.mod_eq_of_lt (b := 256 ^ 12) w.isLt, BitVec.ofNat_toNat, BitVec.setWidth_eq]

theorem encodeBytes_of_encode {i : Instr} {w : W96} (h : encode i = some w) : encodeBytes i = leBytes 12 w.toNat := by
  rw [encodeBytes, h]

/-- Settles O58: decoding inverts encoding layer by layer, by the equivalences above, and the twelve bytes of a word read back as it. -/
theorem roundTrip : Obligations.RoundTrip := by
  unfold Obligations.RoundTrip
  refine ⟨fun i hraw hl => ?legal, fun w h => ⟨encode_unassigned w, decode_unassigned h⟩, fun w i h => encode_of_parse (parse_of_decode h), ?event⟩
  case legal =>
    obtain ⟨r, hr⟩ := Option.ne_none_iff_exists'.mp hraw
    have hdecode := decode_of_encode (encode_of_raw hr) hl
    exact ⟨packRaw r, encode_of_raw hr, hdecode, fun rest => by rw [encodeBytes_of_encode (encode_of_raw hr), decodeBytes_leBytes, hdecode, Except.map]⟩
  case event =>
    intro i hraw hne
    rw [encode_eq_raw hne, hraw, Option.map_none]

/-- Settles O57: each word is the encoding of its instruction, which breaks no rule; the bits of the word with a
reserved bit in a channel do not lie in form L, and no constructor has the opcode 0x3FF. -/
theorem decodeWords : Obligations.DecodeWords := by
  unfold Obligations.DecodeWords
  refine ⟨?words, decode_unassigned (by decide), ?bytes⟩
  case words =>
    rintro c v rfl rfl
    exact ⟨decode_of_encode (by decide) (by decide), decode_of_encode (by decide) (by decide), decode_reserved (k := .l .iadd) rfl (by decide),
      decode_of_encode (by decide) (by decide), decode_of_encode (by decide) (by decide), decode_of_encode (by decide) (by decide), decode_of_encode (by decide) (by decide),
      decode_of_encode (by decide) (by decide)⟩
  case bytes => exact fun i h => (decodeBytes_eq_ok_iff rfl).mpr h

end Sys2Proof
end

section
/-! One step (R106 to R108, R125, R362, R363, R422): which of the agenda, the due events, the picked split and the placers it takes, and
what a fetch makes of the twelve bytes of its word. -/
namespace Sys2Proof.Machine

/-! ### The order within a step (log entry 1) -/

section
variable {s : State}

theorem step_agenda {i : Instr} {rest : List Instr} (h : s.agenda = i :: rest) : step s = exec i { s with agenda := rest } := by
  simp only [step, h]

variable (ha : s.agenda = [])
include ha

theorem step_due {i : Instr} (hd : s.due = some i) : step s = exec i s := by
  simp only [step, ha, hd]

variable (hd : s.due = none)
include hd

theorem step_late {i : Instr} (hp : s.pick = none) (hl : s.dueLate = some i) : step s = exec i s := by
  simp only [step, ha, hd, hp, hl]

theorem step_idle (hp : s.pick = none) (hl : s.dueLate = none) : step s = .next s.passCycle := by
  simp only [step, ha, hd, hp, hl]

variable {f : Focus} {x : Ctx} (hp : s.pick = some f) (hx : f.lookup s = some x)
include hp hx

theorem step_run {i : Instr} {t : State} (hf : (s.beginIssue f).fetch x = .run i t) : step s = exec i t := by
  simp only [step, ha, hd, hp, State.issue, hx, hf]

theorem step_stop {t : State} (hf : (s.beginIssue f).fetch x = .stop t) : step s = .next t := by
  simp only [step, ha, hd, hp, State.issue, hx, hf]

end

/-! ### Words that are rejected -/

/-- A form's reserved bit is found where the word is cut, before its limits are checked. -/
theorem parse_of_decode_reserved {w : W96} (h : decode w = .error .reserved) : parse w = .error .reserved := by
  unfold decode at h
  split at h
  next hp => rwa [hp]
  next => cases h
  next => split at h <;> cases h

/-- The trap of a reserved bit holds the word's low 64 bits (R421). -/
theorem illegalTrap_ofNat (x : Ctx) (sub n : Nat) : illegalTrap x sub (BitVec.ofNat 96 n) =
    { cause := 0x01, sub := sub, lane := x.trapLane (wordCommon (BitVec.ofNat 96 n)), val := BitVec.ofNat 64 n } := by
  have hlow : (BitVec.ofNat 96 n).extractLsb' 0 64 = BitVec.ofNat 64 n := by
    apply BitVec.eq_of_toNat_eq
    simp
  rw [illegalTrap, hlow]

/-! ### Pipes, addresses and blocks -/

/-- R364: only a pick that may go to X or Y can leave its own pipe. -/
theorem placePick_own {s : State} {p : Pick} (h : p.either = false) (xTaken : Bool) :
    s.placePick xTaken p = if s.pipeFree p.sub p.pipe then some p else none := by
  cases p
  cases h
  rfl

theorem pairing_first {s : State} {p : Pick} (hfirst : s.picked.filter (fun q => q.sub == p.sub) = []) (hpipe : p.either = false) :
    s.pairing p = if s.pipeFree p.sub p.pipe then .issues (p :: s.picked) else .busy := by
  rw [State.pairing, hfirst, placePick_own hpipe]
  cases s.pipeFree p.sub p.pipe <;> rfl

/-- R107: a block that ends within the address space has its words at their places in it. -/
theorem codeAddr_inside {base : Nat} {wi : W32} (h : base + wi.toNat / 10 * 128 + 128 ≤ 2 ^ 56) :
    codeAddr base wi = base + wi.toNat / 10 * 128 + 12 * (wi.toNat % 10) :=
  Nat.mod_eq_of_lt (by omega)

theorem loadBlock_holds {s u : State} {core ten pa : Nat} {bytes : List Byte} (h : s.loadBlock core ten pa = (u, some bytes)) :
    ({ core := core, addr := pa / 128, bytes := bytes } : IBlock) ∈ u.icache := by
  unfold State.loadBlock at h
  split at h
  split at h
  next => cases h
  next =>
    cases h
    exact List.mem_append_right _ (List.mem_singleton.mpr rfl)

/-- R107, R193: a fetched block is the core's own, fresh or still allowed to the split, or it has come from the L2 and is held now. -/
theorem codeBlock_source {s u : State} {core ten : Nat} {sp : Split} {pa : Nat} {bytes : List Byte} (h : s.codeBlock core ten sp pa = (u, some bytes)) :
    (∃ b ∈ s.icache, b.core = core ∧ b.addr = pa / 128 ∧ (b.stale = none ∨ sp.mayRunOld b = true) ∧ bytes = b.bytes) ∨
      ({ core := core, addr := pa / 128, bytes := bytes } : IBlock) ∈ u.icache := by
  unfold State.codeBlock at h
  split at h
  next => exact .inr (loadBlock_holds h)
  next b hb =>
    have hplace : b.core = core ∧ b.addr = pa / 128 := by simpa using List.find?_some hb
    have hmem := List.mem_of_find?_eq_some hb
    split at h
    next hfresh =>
      cases h
      exact .inl ⟨b, hmem, hplace.1, hplace.2, .inl (Option.isNone_iff_eq_none.mp hfresh), rfl⟩
    next =>
      split at h
      next hold =>
        cases h
        exact .inl ⟨b, hmem, hplace.1, hplace.2, .inr (Bool.and_eq_true_iff.mp hold).1, rfl⟩
      next => exact .inr (loadBlock_holds h)

/-- Settles O59: the order of a step is that of its lemmas above, and a fetch cuts the word that the decoder reads. What a step takes first is
the choice of log entry 1. -/
theorem stepRunsDecoded : Obligations.StepRunsDecoded := by
  unfold Obligations.StepRunsDecoded
  refine ⟨fun s i rest => step_agenda, fun s i ha => step_due ha, fun s ha hd hp => ⟨fun i => step_late ha hd hp, step_idle ha hd hp⟩, ?fetched,
    fun s p => pairing_first, fun base wi => codeAddr_inside, fun s f => ⟨rfl, rfl, rfl, rfl⟩, fun s u core ten sp pa bytes => codeBlock_source⟩
  case fetched =>
    intro s f x ha hd hp hx t va pa at_ k u bytes word bits ht hva hdem hplace hclean hblock hword hbits htrail hlen
    subst ht hva hbits
    obtain ⟨hrun, htrap⟩ := fetch_ok hdem hplace hclean hblock htrail (BitVec.ofNat 96 (leNat word)) (by rw [hword])
    have hcut (i : Instr) (hi : decodeBytes word = .ok (i, [])) : parse (BitVec.ofNat 96 (leNat word)) = .ok i :=
      parse_of_decode ((decodeBytes_eq_ok_iff hlen).mp hi)
    refine ⟨fun i ps hi hps => ?issues, fun i hi hbusy => ?busy, fun i hi halone => ?alone, fun he => ?reserved⟩
    case issues =>
      obtain ⟨hissues, -, -⟩ := hrun i (hcut i hi)
      exact step_run ha hd hp hx (hissues ps hps)
    case busy =>
      obtain ⟨-, hheld, -⟩ := hrun i (hcut i hi)
      exact step_stop ha hd hp hx (hheld hbusy)
    case alone =>
      obtain ⟨-, -, hpassed⟩ := hrun i (hcut i hi)
      exact step_stop ha hd hp hx (hpassed halone)
    case reserved =>
      rw [← illegalTrap_ofNat]
      exact step_stop ha hd hp hx (htrap _ (parse_of_decode_reserved ((decodeBytes_eq_error_iff hlen).mp he)))

end Sys2Proof.Machine
end
